-- ==== Sys2Proof/Word.lean ====
section
/-! DEFINITION. The word types, byte order, and the sparse sorted map that every file of registers and memories is held in. -/

namespace Sys2Proof

abbrev Word := BitVec 64
abbrev Word32 := BitVec 32
abbrev Byte := BitVec 8

/-- A sparse file: keys strictly rising; a key that is not listed holds the file's default. -/
abbrev AMap (α : Type) := List (Nat × α)

/-- The value at key `k`, or the file's default `d`. -/
def AMap.get {α : Type} (d : α) : AMap α → Nat → α
  | [], _ => d
  | (j, v) :: r, k => if j = k then v else AMap.get d r k

/-- The listed value at key `k`. -/
def AMap.find {α : Type} : AMap α → Nat → Option α
  | [], _ => none
  | (j, v) :: r, k => if j = k then some v else AMap.find r k

/-- Store `v` at key `k`: in place where the key is listed, else keeping the keys rising. -/
def AMap.set {α : Type} : AMap α → Nat → α → AMap α
  | [], k, v => [(k, v)]
  | (j, w) :: r, k, v =>
    if k = j then (k, v) :: r
    else if k < j ∧ (AMap.find r k).isNone then (k, v) :: (j, w) :: r
    else (j, w) :: AMap.set r k v

/-- Drop key `k`. -/
def AMap.erase {α : Type} (m : AMap α) (k : Nat) : AMap α := m.filter fun e => e.1 != k

/-- Change the value at key `k` (the default where it is not listed). -/
def AMap.upd {α : Type} (d : α) (m : AMap α) (k : Nat) (f : α → α) : AMap α :=
  AMap.set m k (f (AMap.get d m k))


/-- Types of A-class words, in code order (R58): F32, I32, F64, I64, N32, N64. -/
inductive VType
  | f32 | i32 | f64 | i64 | n32 | n64
  deriving DecidableEq, Repr

/-- Conditions of `VCMP`, in code order (R6, R103). -/
inductive VCond
  | eq | lt | le | ne
  deriving DecidableEq, Repr

/-- Sub-operations of `VRED` and `VSCAN`, in code order (R58). -/
inductive RedOp
  | add | min | max
  deriving DecidableEq, Repr

/-- Conditions of `B`, in code order (R89). -/
inductive BCond
  | eq | ne | lt | ge | ltu | geu
  deriving DecidableEq, Repr

/-- Access sizes of the M format, in code order (R6, R39): 1, 2, 4 and 8 bytes. -/
inductive Size
  | b | h | w | d
  deriving DecidableEq, Repr

/-- Scopes of `FENCE` and of the ordering edges, in code order (R6, R269). -/
inductive Scope
  | ctx | core | part | pkg | sys
  deriving DecidableEq, Repr

/-- Conversions of `VCVT`, in code order (R60). -/
inductive Cvt
  | f32i32 | f32n32 | i32f32 | n32f32 | f32f64 | f64f32 | f32bf16 | bf16f32
  | f32f16 | f16f32 | f64i64 | i64f64 | f32l6 | l6f32 | f32l8 | l8f32
  | l8l6 | l6l8 | f32bf16sr | f32f16sr | f64f32sr | i32i8 | i8i32
  deriving DecidableEq, Repr

/-- Where an uncorrectable error stands (the rows of R324's table). -/
inductive ErrSite
  | imem (core addr : Nat)
  | pool (core off : Nat)
  | hbm (pa : Nat)
  | counter (core n : Nat)
  | ownState (core : Nat)
  | saveArea (dom handle : Nat)
  deriving DecidableEq, Repr

end Sys2Proof
end

