-- ==== Sys2Proof/Syntax.lean ====
section
/-! DEFINITION. The instruction set: one constructor for every row of the opcode table. The first 178 are the instruction
words (R55 to R60); the rest are the part's asynchronous steps, each whole and indivisible, which no word encodes: an
operand of one names the thing the step is taken on (a packet in flight, a core, a context, a host command's entry). -/

namespace Sys2Proof

/-- The rows of the opcode table. In a word, `d`, `a`, `b` are the fields of R39, in the register kind their position
takes (R41, R55, R58). A core is named by its physical partition × 64 + its logical index; a host command carries the
eight words of its command entry (R341). -/
inductive Instr
  /-- ADD (R84): Writes the 64-bit sum of sa and sb, wrapping, to sd. -/
  | add (d a b : BitVec 6)
  /-- SUB (R84): Writes sa minus sb, wrapping, to sd. -/
  | sub (d a b : BitVec 6)
  /-- AND (R84): Writes the bitwise AND of sa and sb to sd. -/
  | and (d a b : BitVec 6)
  /-- OR (R84): Writes the bitwise OR of sa and sb to sd. -/
  | or (d a b : BitVec 6)
  /-- XOR (R84): Writes the bitwise XOR of sa and sb to sd. -/
  | xor (d a b : BitVec 6)
  /-- ANDN (R84): Writes sa AND NOT sb to sd. -/
  | andn (d a b : BitVec 6)
  /-- SHL (R84): Shifts sa left by sb[5:0] into sd. -/
  | shl (d a b : BitVec 6)
  /-- SHR (R84): Shifts sa right logically by sb[5:0] into sd. -/
  | shr (d a b : BitVec 6)
  /-- SAR (R84): Shifts sa right arithmetically by sb[5:0] into sd. -/
  | sar (d a b : BitVec 6)
  /-- ROL (R84): Rotates sa left by sb[5:0] into sd. -/
  | rol (d a b : BitVec 6)
  /-- MIN (R84): Writes the signed lesser of sa and sb to sd. -/
  | min (d a b : BitVec 6)
  /-- MAX (R84): Writes the signed greater of sa and sb to sd. -/
  | max (d a b : BitVec 6)
  /-- MINU (R84): Writes the unsigned lesser of sa and sb to sd. -/
  | minu (d a b : BitVec 6)
  /-- MAXU (R84): Writes the unsigned greater of sa and sb to sd. -/
  | maxu (d a b : BitVec 6)
  /-- SLT (R84): Writes 1 if sa is signed-less than sb, else 0. -/
  | slt (d a b : BitVec 6)
  /-- SLTU (R84): Writes 1 if sa is unsigned-less than sb, else 0. -/
  | sltu (d a b : BitVec 6)
  /-- SEQ (R84): Writes 1 if sa equals sb, else 0. -/
  | seq (d a b : BitVec 6)
  /-- CLZ (R84): Writes the count of leading zero bits of sa to sd. -/
  | clz (d a : BitVec 6)
  /-- POPC (R84): Writes the count of set bits of sa to sd. -/
  | popc (d a : BitVec 6)
  /-- MUL (R84): Writes the low 64 bits of sa times sb to sd. -/
  | mul (d a b : BitVec 6)
  /-- MULH (R84): Writes the high 64 bits of the signed product to sd. -/
  | mulh (d a b : BitVec 6)
  /-- MULHU (R84): Writes the high 64 bits of the unsigned product to sd. -/
  | mulhu (d a b : BitVec 6)
  /-- DIV (R85): Writes the truncated signed quotient; a zero divisor gives all ones and sets DZ. -/
  | div (d a b : BitVec 6)
  /-- DIVU (R85): Writes the unsigned quotient; a zero divisor gives all ones and sets DZ. -/
  | divu (d a b : BitVec 6)
  /-- REM (R85): Writes the signed remainder; a zero divisor gives all ones and sets DZ. -/
  | rem (d a b : BitVec 6)
  /-- REMU (R85): Writes the unsigned remainder; a zero divisor gives all ones and sets DZ. -/
  | remu (d a b : BitVec 6)
  /-- ADDI (R86): Writes sa plus the sign-extended immediate to sd. -/
  | addi (d a : BitVec 6) (imm : BitVec 11)
  /-- ANDI (R86): Writes sa AND the sign-extended immediate to sd. -/
  | andi (d a : BitVec 6) (imm : BitVec 11)
  /-- ORI (R86): Writes sa OR the sign-extended immediate to sd. -/
  | ori (d a : BitVec 6) (imm : BitVec 11)
  /-- XORI (R86): Writes sa XOR the sign-extended immediate to sd. -/
  | xori (d a : BitVec 6) (imm : BitVec 11)
  /-- SHLI (R86): Shifts sa left by the immediate count into sd. -/
  | shli (d a : BitVec 6) (sh : BitVec 6)
  /-- SHRI (R86): Shifts sa right logically by the immediate count into sd. -/
  | shri (d a : BitVec 6) (sh : BitVec 6)
  /-- SARI (R86): Shifts sa right arithmetically by the immediate count into sd. -/
  | sari (d a : BitVec 6) (sh : BitVec 6)
  /-- SLTI (R86): Writes 1 if sa is signed-less than the immediate, else 0. -/
  | slti (d a : BitVec 6) (imm : BitVec 11)
  /-- LI (R87): Loads the sign-extended 17-bit immediate into sd. -/
  | li (d : BitVec 6) (imm : BitVec 17)
  /-- LIH (R87): Shifts sd left by 17 and ORs in the unsigned immediate. -/
  | lih (d : BitVec 6) (imm : BitVec 17)
  /-- SEL (R88): Copies sa into sd when sb is non-zero. -/
  | sel (d a b : BitVec 6)
  /-- B (R89): Compares sa and sb by the condition and branches by the word displacement when it holds. -/
  | b (c : BCond) (a b : BitVec 6) (disp : BitVec 8)
  /-- J (R90): Jumps by a 23-bit word displacement. -/
  | j (imm : BitVec 23)
  /-- JAL (R90): Jumps by a 23-bit word displacement and writes the link to ra. -/
  | jal (imm : BitVec 23)
  /-- JALR (R91): Jumps to sa plus a word offset and writes the link to sd. -/
  | jalr (d a : BitVec 6) (off : BitVec 11)
  /-- START (R92): Starts the lowest FREE helper at the entry PC with msg set, or writes 0 when none is free. -/
  | start (d a b : BitVec 6)
  /-- ENDT (R95): Parks until outstanding results return, then ends the task and frees the context. -/
  | endt
  /-- NOP (R96): Does nothing; with S set it serves as a bare switch marker. -/
  | nop
  /-- LD (R282): Loads 1 to 8 bytes, zero-extended, from a local or global address. -/
  | ld (d a : BitVec 6) (sz : Size) (off : BitVec 9)
  /-- ST (R282): Stores the low bytes of sd to a local address or into a store lane. -/
  | st (d a : BitVec 6) (sz : Size) (off : BitVec 9)
  /-- LDV (R284): Loads a named version of a VERSIONED word at the slice, waiting for a future version. -/
  | ldv (d a : BitVec 6) (off : BitVec 9)
  /-- RECL (R286): Sends through the store lane a reclaim of retained versions behind the given version. -/
  | recl (a b : BitVec 6)
  /-- FENCE (R287): Releases and then acquires at the given scope, stalling until the release completes. -/
  | fence (sc : Scope)
  /-- POOL (R289): Re-divides the pool banks when the core is quiescent, clearing banks whose layout changes. -/
  | pool (a : BitVec 6)
  /-- COPY (R290): Sends a GET, PUT or GCOPY request to the slice streamer. -/
  | copy (d a b : BitVec 6)
  /-- COPYC (R290): Sends a pool-to-pool MOVE request to the cluster streamer. -/
  | copyc (d a b : BitVec 6)
  /-- HALO (R290): Sends a HALO request to the cluster streamer of the issuer's partition. -/
  | halo (d a b : BitVec 6)
  /-- WMARK (R293): Arms watermark channel n with base, limit and initial mark. -/
  | wmark (d a b : BitVec 6) (n : BitVec 3)
  /-- SEND (R193): Checks the header, reserves a reply slot where needed, releases and transmits the message. -/
  | send (a b : BitVec 6)
  /-- REPLY (R194): Answers the MSG held in a ring slot with one payload word. -/
  | reply (a b : BitVec 6)
  /-- RECVP (R195): Posts a receive for tagged messages, first matching the overflow queue. -/
  | recvp (a b : BitVec 6)
  /-- RECVP_CANCEL (R195): Frees the oldest posted receive whose buffer is sa. -/
  | recvpCancel (a : BitVec 6)
  /-- ATOM_ADD (R196): Sends an atomic add to the word's owner; the old value returns to sd. -/
  | atomAdd (d a b : BitVec 6)
  /-- ATOM_MAX (R196): Sends an atomic signed maximum to the word's owner. -/
  | atomMax (d a b : BitVec 6)
  /-- ATOM_MIN (R196): Sends an atomic signed minimum to the word's owner. -/
  | atomMin (d a b : BitVec 6)
  /-- ATOM_MAXU (R196): Sends an atomic unsigned maximum to the word's owner. -/
  | atomMaxu (d a b : BitVec 6)
  /-- ATOM_MINU (R196): Sends an atomic unsigned minimum to the word's owner. -/
  | atomMinu (d a b : BitVec 6)
  /-- ATOM_SWAP (R196): Sends an atomic swap to the word's owner. -/
  | atomSwap (d a b : BitVec 6)
  /-- ATOM_CAS (R196): Sends an atomic compare-and-swap with the expected value in sd. -/
  | atomCas (d a b : BitVec 6)
  /-- ATOM_OR (R196): Sends an atomic bitwise OR to the word's owner. -/
  | atomOr (d a b : BitVec 6)
  /-- ATOM_AND (R196): Sends an atomic bitwise AND to the word's owner. -/
  | atomAnd (d a b : BitVec 6)
  /-- ATOM_XOR (R196): Sends an atomic bitwise XOR to the word's owner. -/
  | atomXor (d a b : BitVec 6)
  /-- ATOM_FMAX32 (R196): Sends an atomic FP32 maximum on a 4-byte word to its owner. -/
  | atomFmax32 (d a b : BitVec 6)
  /-- CADD (R198): Releases and adds an amount to a local or remote counter cell. -/
  | cadd (a b : BitVec 6)
  /-- CREAD (R198): Reads a local counter's value into sd. -/
  | cread (d a : BitVec 6)
  /-- CARM (R198): Arms or disarms a local counter with a target and descriptor, firing or overrunning at once if reached. -/
  | carm (d a b : BitVec 6)
  /-- CSET (R198): Sets a local counter's value and clears its fired, pending and fault state. -/
  | cset (a b : BitVec 6)
  /-- CFLT (R198): Reads a counter's word 2 into sd and clears its fault bit and cause. -/
  | cflt (d a : BitVec 6)
  /-- CWAIT (R199): Waits, bounded, until a local counter reaches the threshold, then acquires its adds. -/
  | cwait (a b : BitVec 6) (w : BitVec 5)
  /-- QWAIT (R200): Waits, bounded, for the next message of a polled channel and returns its slot address. -/
  | qwait (d a : BitVec 6) (w : BitVec 5)
  /-- CHBIND (R201): Binds a channel with handler, ring, depth, priority and share. -/
  | chbind (d a b : BitVec 6)
  /-- CHSET (R202): Sets a channel's bound, handler, priority or share field. -/
  | chset (d a b : BitVec 6)
  /-- CHQ (R203): Writes a channel's status, handler or ring address to sd. -/
  | chq (d a b : BitVec 6)
  /-- RDREM (R204): Sends a split-phase read request for a block of another core's scratchpad. -/
  | rdrem (d a b : BitVec 6)
  /-- RDSEND (R206): Contributes a value to an exact integer reduction combined at the die gateways, waiting for acceptance. -/
  | rdsend (d a b : BitVec 6)
  /-- THDR (R154): Loads and checks a local tile header into a t register. -/
  | thdr (t : BitVec 4) (a : BitVec 6)
  /-- TSTH (R155): Stores a handle's header with a recomputed check byte. -/
  | tsth (t : BitVec 4) (a : BitVec 6)
  /-- TMAKE (R156): Builds a dense handle from a word 0 and an address. -/
  | tmake (t : BitVec 4) (a b : BitVec 6)
  /-- TSET (R157): Changes one selected field of a handle and recomputes its check. -/
  | tset (t : BitVec 4) (a b : BitVec 6)
  /-- TGET (R158): Writes a handle's tile address in 64-bit form to sd. -/
  | tget (d : BitVec 6) (t : BitVec 4)
  /-- LEASE (R159): Waits, bounded, until the core becomes current lessee of its Turntable. -/
  | lease
  /-- MREL (R160): Gives up the lease; it ends once the queued commands complete. -/
  | mrel
  /-- MSTAT (R161): Writes the state of the core's Turntable slot to sd. -/
  | mstat (d : BitVec 6)
  /-- MMA (R163): Checks and queues an accumulation of A times B into the accumulators. -/
  | mma (tc ta tb : BitVec 4)
  /-- MMAG (R164): Checks and queues an accumulation with the rows of A gathered by index vector vk. -/
  | mmag (tc ta tb : BitVec 4) (k : BitVec 5)
  /-- MZERO (R162): Checks and queues a command that sets the accumulator shape and clears it. -/
  | mzero (tc : BitVec 4)
  /-- MDRAIN (R165): Checks and queues a drain of the accumulators into a tile with an optional amax merge. -/
  | mdrain (tc : BitVec 4) (a : BitVec 6)
  /-- TCVT (R167): Checks and queues a tile conversion on the core's tile unit. -/
  | tcvt (td ts : BitVec 4)
  /-- AQADD (R168): Checks and queues an exact add of two scaled L blocks rounded once. -/
  | aqadd (td ta tb : BitVec 4)
  /-- JQNEXT (R169): Requests the next block index of a shared reduction queue. -/
  | jqnext (d a : BitVec 6)
  /-- PTCFG (R311): Configures or unbinds the event engine with a leaf count and start clock. -/
  | ptcfg (a b : BitVec 6)
  /-- PSET (R312): Writes a leaf rate, logging the old value while a snapshot exists. -/
  | pset (a b : BitVec 6)
  /-- PGET (R312): Reads a node on a leaf's path at a given level. -/
  | pget (d a b : BitVec 6)
  /-- PSUM (R313): Reads a0, clock, region bound, GVT, H or E by selector. -/
  | psum (d a : BitVec 6)
  /-- NEXTEV (R314): Rolls back as needed, waits for the cancel queue and returns the next event, or HZ. -/
  | nextev (d : BitVec 6) (w : BitVec 5)
  /-- EVSEND (R315): Sends a TIMED message at the region clock and records the send. -/
  | evsend (a b : BitVec 6)
  /-- SNAP (R316): Records a Siding snapshot. -/
  | snap
  /-- ROLLB (R316): Rolls the region back to before the given time, queuing CANCELs. -/
  | rollb (a : BitVec 6)
  /-- SLOG (R316): Stores 8 B to the scratchpad, logging the old bytes while a snapshot exists. -/
  | slog (a b : BitVec 6)
  /-- FOSSIL (R309): Sets GVT and discards Siding items older than the latest snapshot not after it. -/
  | fossil (a : BitVec 6)
  /-- HORIZ (R316): Sets the horizon H and end time E. -/
  | horiz (a b : BitVec 6)
  /-- RKEY (R121): Sets the context's keys and every lane ordinal of the core. -/
  | rkey (a b : BitVec 6)
  /-- RTAB (R122): Switches the scalar stream between generator and tabled mode. -/
  | rtab (a b : BitVec 6)
  /-- RDRAW (R123): Takes the next scalar-stream draw into sd and advances rord. -/
  | rdraw (d : BitVec 6)
  /-- READY (R218): Pushes a codelet descriptor onto its ready ring from software. -/
  | ready (a : BitVec 6)
  /-- NEST (R220): Loads a nest slot from a descriptor and names its nest counter. -/
  | nest (a b : BitVec 6)
  /-- NEXTI (R221): Delivers the next index tuple of a nest slot, claiming a chunk when needed. -/
  | nexti (d a : BitVec 6)
  /-- PHASE (R224): Arrives with its cost at a group's schedule selector and receives the next schedule. -/
  | phase (d a b : BitVec 6)
  /-- CBAR (R235): Releases and arrives at a Catenary barrier on a group. -/
  | cbar (a : BitVec 6)
  /-- CBARX (R235): Arrives at a Catenary barrier without ordering memory. -/
  | cbarx (a : BitVec 6)
  /-- CBCAST (R235): Arrives at a Catenary broadcast from a root member. -/
  | cbcast (d a b : BitVec 6)
  /-- CRED_ADD (R235): Arrives at a Catenary sum reduction modulo 2^64. -/
  | credAdd (d a b : BitVec 6)
  /-- CRED_MIN (R235): Arrives at a Catenary signed-minimum reduction. -/
  | credMin (d a b : BitVec 6)
  /-- CRED_MAX (R235): Arrives at a Catenary signed-maximum reduction. -/
  | credMax (d a b : BitVec 6)
  /-- CRED_OR (R235): Arrives at a Catenary bitwise-OR reduction. -/
  | credOr (d a b : BitVec 6)
  /-- CRED_AND (R235): Arrives at a Catenary bitwise-AND reduction. -/
  | credAnd (d a b : BitVec 6)
  /-- GMEM (R237): Writes a group's membership word to sd without waiting. -/
  | gmem (d a : BitVec 6)
  /-- SBIND (R111): Checks a stream descriptor and binds it to one of v0 to v7. -/
  | sbind (v : BitVec 3) (a : BitVec 6)
  /-- SFREE (R113): Unbinds a stream register. -/
  | sfree (v : BitVec 3)
  /-- SPOS (R113): Writes a stream's position to sd. -/
  | spos (d : BitVec 6) (v : BitVec 3)
  /-- SREP (R114): Repeats the next n bundles once per remaining beat of the bound streams. -/
  | srep (n : BitVec 17)
  /-- VBCAST (R109): Copies sa[31:0] into every lane of vd. -/
  | vbcast (v : BitVec 5) (a : BitVec 6)
  /-- VEXT (R109): Writes one lane of va, zero-extended, to sd. -/
  | vext (d : BitVec 6) (v : BitVec 5) (b : BitVec 6)
  /-- VINS (R109): Writes sa[31:0] into one lane of vd. -/
  | vins (v : BitVec 5) (a b : BitVec 6)
  /-- TRAP (R325): Faults TRAP with the code in sa. -/
  | trap (a : BitVec 6)
  /-- BRK (R325): Faults BRK, or freezes the core when debug is enabled. -/
  | brk
  /-- HALT (R325): Parks until outstanding results return, then halts the context. -/
  | halt
  /-- CSRR (R337): Reads a CSR into sd. -/
  | csrr (d csr : BitVec 6)
  /-- CSRW (R337): Writes sb into a writable CSR, checking its range. -/
  | csrw (csr b : BitVec 6)
  /-- PMRD (R338): Reads a partition's performance-monitor count as a variable-latency result. -/
  | pmrd (d a : BitVec 6)
  /-- VADD (R101): Adds lane by lane under the effective mask. -/
  | vadd (ty : VType) (d a b : BitVec 5)
  /-- VSUB (R101): Subtracts lane by lane under the effective mask. -/
  | vsub (ty : VType) (d a b : BitVec 5)
  /-- VMUL (R101): Multiplies lane by lane under the effective mask. -/
  | vmul (ty : VType) (d a b : BitVec 5)
  /-- VFMA (R101): Computes the fused A times B plus D per lane. -/
  | vfma (ty : VType) (d a b : BitVec 5)
  /-- VFMS (R101): Computes the fused A times B minus D per lane. -/
  | vfms (ty : VType) (d a b : BitVec 5)
  /-- VNFMA (R101): Computes the fused D minus A times B per lane. -/
  | vnfma (ty : VType) (d a b : BitVec 5)
  /-- VMIN (R102): Writes the lesser of each lane pair. -/
  | vmin (ty : VType) (d a b : BitVec 5)
  /-- VMAX (R102): Writes the greater of each lane pair. -/
  | vmax (ty : VType) (d a b : BitVec 5)
  /-- VABS (R101): Writes the absolute value of each lane. -/
  | vabs (ty : VType) (d a : BitVec 5)
  /-- VNEG (R101): Writes the negation of each lane. -/
  | vneg (ty : VType) (d a : BitVec 5)
  /-- VCMP (R103): Compares lanes by condition and writes a p register masked by M. -/
  | vcmp (c : VCond) (ty : VType) (p : BitVec 3) (a b : BitVec 5)
  /-- VSEL (R101): Takes A into D where pb is set. -/
  | vsel (ty : VType) (d a : BitVec 5) (p : BitVec 3)
  /-- VCVT (R105): Converts each lane by the conversion code, stochastically for .sr forms. -/
  | vcvt (c : Cvt) (d a : BitVec 5)
  /-- VMOV (R101): Copies the bits of each lane unchanged. -/
  | vmov (ty : VType) (d a : BitVec 5)
  /-- VIDX (R101): Writes each lane's index to that lane. -/
  | vidx (d : BitVec 5)
  /-- VDIV (R104): Divides lane by lane; an integer zero divisor gives all ones and DZ. -/
  | vdiv (ty : VType) (d a b : BitVec 5)
  /-- VAND (R101): Writes the bitwise AND of each lane pair. -/
  | vand (ty : VType) (d a b : BitVec 5)
  /-- VOR (R101): Writes the bitwise OR of each lane pair. -/
  | vor (ty : VType) (d a b : BitVec 5)
  /-- VXOR (R101): Writes the bitwise XOR of each lane pair. -/
  | vxor (ty : VType) (d a b : BitVec 5)
  /-- VNOT (R101): Writes the bitwise NOT of each lane. -/
  | vnot (ty : VType) (d a : BitVec 5)
  /-- VSHL (R101): Shifts each lane left by the count in B. -/
  | vshl (ty : VType) (d a b : BitVec 5)
  /-- VSHR (R101): Shifts each lane right logically by the count in B. -/
  | vshr (ty : VType) (d a b : BitVec 5)
  /-- VSAR (R101): Shifts each lane right arithmetically by the count in B. -/
  | vsar (ty : VType) (d a b : BitVec 5)
  /-- VMULH (R101): Writes the high half of each lane product. -/
  | vmulh (ty : VType) (d a b : BitVec 5)
  /-- VEXP2 (R78): Writes 2 to the power of each FP32 lane, correctly rounded. -/
  | vexp2 (d a : BitVec 5)
  /-- VLOG2 (R78): Writes the base-2 log of each FP32 lane. -/
  | vlog2 (d a : BitVec 5)
  /-- VRCP (R78): Writes the reciprocal of each FP32 lane. -/
  | vrcp (d a : BitVec 5)
  /-- VRSQ (R78): Writes the reciprocal square root of each FP32 lane. -/
  | vrsq (d a : BitVec 5)
  /-- VSQRT (R78): Writes the square root of each FP32 lane. -/
  | vsqrt (d a : BitVec 5)
  /-- VPERM (R106): Permutes lanes of va by the indices in vb. -/
  | vperm (d a b : BitVec 5)
  /-- VRED (R107): Reduces the lanes by the fixed tree, carrying across SREP beats. -/
  | vred (op : RedOp) (ty : VType) (d a : BitVec 5)
  /-- VSCAN (R107): Forms the inclusive prefix over the lanes, carrying across SREP beats. -/
  | vscan (op : RedOp) (ty : VType) (d a : BitVec 5)
  /-- VRND (R120): Writes a uniform draw of each lane's stream and advances its ordinal. -/
  | vrnd (d : BitVec 5)
  /-- VRNDU (R120): Writes the raw draw of each lane's stream and advances its ordinal. -/
  | vrndu (d : BitVec 5)
  /-- PAND (R108): Writes the AND of two p registers. -/
  | pand (d a b : BitVec 3)
  /-- POR (R108): Writes the OR of two p registers. -/
  | por (d a b : BitVec 3)
  /-- PXOR (R108): Writes the XOR of two p registers. -/
  | pxor (d a b : BitVec 3)
  /-- PNOT (R108): Writes the complement of a p register. -/
  | pnot (d a : BitVec 3)
  /-- PCNT (R108): Writes the set-bit count of pa to every lane in M. -/
  | pcnt (d : BitVec 5) (p : BitVec 3)
  /-- PFIRST (R108): Writes the index of the lowest set bit of pa to every lane in M. -/
  | pfirst (d : BitVec 5) (p : BitVec 3)
  /-- PMASK (R108): Copies pa into the active mask from the next bundle. -/
  | pmask (p : BitVec 3)
  /-- ANOP (R108): Does nothing in the A word of a pair. -/
  | anop
  /-- VARIABLE_LATENCY_RESULT (R36): A variable-latency result returns, is written and lowers Outstanding, unparking the context at zero. -/
  | variableLatencyResult (id : Nat)
  /-- TASK_END (R211): Once Outstanding is zero after ENDT or a synchronous fault, the slot is released and freed and the helper becomes FREE. -/
  | taskEnd (core ctx : Nat)
  /-- DEFERRED_FAULT (R323): A failed variable-latency access stops its context before the next unissued bundle. -/
  | deferredFault (core ctx : Nat)
  /-- WAIT_EXPIRY (R43): A waiting instruction's limit count reaches 2^w and it faults WAIT. -/
  | waitExpiry (core ctx : Nat)
  /-- CATENARY_ARRIVAL (R235): A member's arrival is made once its release has completed, or once its previous use completes. -/
  | catenaryArrival (core ctx : Nat)
  /-- CATENARY_WITHDRAWAL (R232): An arrival's limit ends before the commit boundary and the arrival is withdrawn with a WAIT fault. -/
  | catenaryWithdrawal (core ctx : Nat)
  /-- CATENARY_COMPLETION (R227): A use completes 160 cycles after its commit boundary, writing results and readying every participant. -/
  | catenaryCompletion (dom g : Nat)
  /-- TASK_DISPATCH (R213): The task picker dispatches one dispatchable slot to the lowest FREE helper. -/
  | taskDispatch (core : Nat)
  /-- STARVE (R215): A channel's undispatched count reaches 2^20 and a STARVE record is posted to ch63. -/
  | starve (core ch : Nat)
  /-- STEAL_BACKOFF_EXPIRY (R216): The 256-tick wait after a failed sweep ends and stealing may resume. -/
  | stealBackoffExpiry (core : Nat)
  /-- STEAL_REQUEST (R217): A steal request arrives and is queued at the victim's handler thread. -/
  | stealRequest (id : Nat)
  /-- STEAL_SERVE (R217): The victim takes a shareable descriptor and sends it, or answers NONE. -/
  | stealServe (core : Nat)
  /-- STEAL_ANSWER (R217): A descriptor or NONE lands at the thief, making the descriptor dispatchable or ending the reservation. -/
  | stealAnswer (id : Nat)
  /-- MSG (R181): A MSG arrives at a channel and is accepted into a free slot or refused. -/
  | msgArrival (id : Nat)
  /-- REPLY_ARRIVAL (R181): A REPLY enters its reserved slot. -/
  | replyArrival (id : Nat)
  /-- REFUSED (R170): A REFUSED reply enters the sender's reserved slot. -/
  | refusedReply (id : Nat)
  /-- REFUSED_HALTED (R186): A REFUSED_HALTED reply lands, returning all ones for a refused atomic. -/
  | refusedHalted (id : Nat)
  /-- REFUSED_UNBOUND (R176): A REFUSED_UNBOUND reply enters the sender's reserved slot. -/
  | refusedUnbound (id : Nat)
  /-- REFUSED_NOCORE (R175): A REFUSED_NOCORE reply from the destination leaf enters the reserved slot. -/
  | refusedNocore (id : Nat)
  /-- TAGGED (R182): A TAGGED message is matched to a posted receive, queued in overflow, or refused. -/
  | taggedArrival (id : Nat)
  /-- ATOM_REQUEST (R183): An atomic arrives at the owner and queues at its handler thread, or is refused under FREEZE. -/
  | atomRequest (id : Nat)
  /-- ATOM_PERFORM (R183): The handler thread performs one atomic indivisibly and returns ATOMR. -/
  | atomPerform (core : Nat)
  /-- ATOMR (R196): An atomic's result arrives and is written to the issuing register. -/
  | atomr (id : Nat)
  /-- DRAIN_MERGE (R165): The owner's handler thread merges a drain's amax by 32-bit unsigned maximum. -/
  | drainMerge (core : Nat)
  /-- CADDM (R185): A counter add is applied at a cell, firing, pushing or overrunning it. -/
  | caddm (id : Nat)
  /-- COUNTER_PENDING_PUSH (R185): A pending cell pushes its descriptor once its ring has a free slot. -/
  | counterPendingPush (core n : Nat)
  /-- ENGINE_FAULT_SETTING (R152): An engine's fault setting arrives at a remote counter and sets its fault bit with cause ENGINE. -/
  | engineFaultSetting (id : Nat)
  /-- RDREQ (R204): A block-read request arrives and queues at the destination's handler thread. -/
  | rdreq (id : Nat)
  /-- RDREQ_PERFORM (R204): The handler thread reads the block and answers RDDATA or a POOL fault. -/
  | rdreqPerform (core : Nat)
  /-- RDDATA (R204): Block-read data lands in the reserved slot of its channel. -/
  | rddata (id : Nat)
  /-- CONTRIB (R206): A contribution reaches a die gateway and is accepted or held. -/
  | contrib (id : Nat)
  /-- DIE_PARTIAL (R206): A die partial reaches the root gateway, which combines and writes results once all dies arrive. -/
  | diePartial (id : Nat)
  /-- TIMED_ARRIVAL (R304): A TIMED message lands in ch61 and joins the sorted inbox. -/
  | timedArrival (id : Nat)
  /-- CANCEL_ARRIVAL (R305): A CANCEL lands in ch61 and annihilates, waits unapplied, or is discarded LATE. -/
  | cancelArrival (id : Nat)
  /-- FAULT_RECORD (R178): A fault record is placed in its reply channel, ch63 or the host queue. -/
  | faultRecord (id : Nat)
  /-- RELEASE (R177): A RELEASE arrives and ends a reply reservation. -/
  | releaseArrival (id : Nat)
  /-- HOST_REPORT (R246): The station writes a REPORT entry for a MSG to index 63 on ch60 and returns RELEASE. -/
  | hostReport (id : Nat)
  /-- STATION_MESSAGE (R354): The station sinks any other message addressed to index 63. -/
  | stationMessage (id : Nat)
  /-- GET (R256): A GET request reaches the slice streamer that owns its source. -/
  | get (id : Nat)
  /-- PUT (R256): A PUT request reaches the slice streamer that owns its destination. -/
  | put (id : Nat)
  /-- GCOPY (R256): A global-to-global copy request reaches the source's slice streamer. -/
  | gcopy (id : Nat)
  /-- MOVE (R256): A pool-to-pool MOVE request reaches the cluster streamer. -/
  | move (id : Nat)
  /-- HALO_REQUEST (R261): A HALO request reaches the cluster streamer, which sends borders to mesh neighbours. -/
  | haloRequest (id : Nat)
  /-- PUTX (R351): A Flazar port takes a PUTX request and sends its bytes to the remote package. -/
  | putx (id : Nat)
  /-- OUTBOUND_ENVELOPE (R349): A link junction port takes an envelope from its channel 0 and sends the message to another package. -/
  | outboundEnvelope (id : Nat)
  /-- JQNEXT_SERVE (R169): The block-queue unit serves a JQNEXT request and returns its block index. -/
  | jqnextServe (id : Nat)
  /-- CLAIM_SERVE (R222): The nest counter's owner serves a chunk claim and adds it to the counter. -/
  | claimServe (id : Nat)
  /-- VERSION_HOLD_EXPIRY (R254): A held write's limit expires, stopping the context with VFULL or failing the copy. -/
  | versionHoldExpiry (core id : Nat)
  /-- LDV_HOLD_EXPIRY (R284): The slice's hold of a future-version LDV expires and a WAIT fault is deferred to the context. -/
  | ldvHoldExpiry (id : Nat)
  /-- WATERMARK_STALL_EXPIRY (R260): An access stalled under a watermark reaches its limit and faults WAIT. -/
  | watermarkStallExpiry (core ctx : Nat)
  /-- RDSEND_EXPIRY (R206): An unaccepted contribution's limit expires and RDSEND faults GRPBUSY. -/
  | rdsendExpiry (core ctx : Nat)
  /-- LEASE_EXPIRY (R159): A LEASE wait expires and faults WAIT without the lease. -/
  | leaseExpiry (core ctx : Nat)
  /-- PAGEREQ_HOLD_EXPIRY (R334): A serviced NOENTRY hold passes its limit and the fault is delivered. -/
  | pagereqHoldExpiry (core ctx : Nat)
  /-- GO_COMPLETE (R238): The go completes, making cycle 0 and readying C0 of every core with an entry point. -/
  | goComplete (dom : Nat)
  /-- SWEEP (R240): The driving station starts an end-detection sweep at a frame boundary when all taps report idle. -/
  | sweep (dom : Nat)
  /-- LAUNCH_END (R240): A sweep agrees with the previous one, the launch ends and LAUNCHEND is posted. -/
  | launchEnd (dom : Nat)
  /-- QUANTUM_TAP_ARRIVAL (R243): A core's tap arrives at the quantum close once all its contexts have ended their quantum. -/
  | quantumTapArrival (core : Nat)
  /-- QUANTUM_CLOSE (R243): The close commits stores, completes uses, serves shared queues and delivers sorted messages. -/
  | quantumClose (dom : Nat)
  /-- PREEMPT_STOP (R327): The pre-emption operation completes in the stop cycle, stopping issue and dispatch in the domain. -/
  | preemptStop (dom : Nat)
  /-- TRANSLATION_BROADCAST (R335): The UNMAP or TLBFLUSH broadcast completes and every core drops matching buffer entries. -/
  | translationBroadcast (dom : Nat)
  /-- UNDECODABLE_WORD (R61): A bundle whose word has an unassigned op, fn, cond, type or register kind faults ILL at issue. -/
  | undecodableWord (w : Word32) (check : Nat) (second : Bool)
  /-- INBOUND_PUTX (R351): A PUTX from another package reaches the leaf, which writes the bytes in ascending order and then adds 1 to the named counter. `port` is the key
  of the port; `bytes` are the header, the route word (R175) and the data, as they come. -/
  | inboundPutx (port core off : Nat) (bytes : List Byte) (cnt : Word)
  /-- STEAL_ATTEMPT (R216): An idle core reserves a slot and sends a steal request to the next victim. -/
  | stealAttempt (core : Nat)
  /-- CONTRIB_ACCEPT (R206): A held contribution is accepted when its use's in-flight count reaches zero. -/
  | contribAccept (part g : Nat)
  /-- TIMED_RESEND (R306): 256 ticks after a refusal the engine sends the TIMED or CANCEL again. -/
  | timedResend (core : Nat)
  /-- CANCEL_SEND (R308): The cancel queue sends its next CANCEL once a reply slot can be reserved. -/
  | cancelSend (core : Nat)
  /-- COPY_BEAT (R257): A streamer writes one 64 B beat, advancing the watermark, and adds to cnt after the last. -/
  | copyBeat (job : Nat)
  /-- INBOUND_MESSAGE (R350): A message from another package lands in its ring slot with its route word. -/
  | inboundMessage (part port : Nat) (hdr route : Word) (payload : List Word)
  /-- LINK_DOWN (R349): A Flazar link goes down, and requests through it are answered with ENGINE faults. -/
  | linkDown (part port : Nat)
  /-- TURNTABLE_RUN_END (R148): A Turntable run ends and the scan chooses the next lessee, spilling and restoring on a switch. -/
  | turntableRunEnd (part k : Nat)
  /-- MZERO_RUN (R162): MZERO runs at the Turntable, setting the slot's shape and clearing it. -/
  | mzeroRun (part k : Nat)
  /-- MMA_RUN (R163): An MMA or MMAG runs in the core's turn, accumulating products and replacing exponents. -/
  | mmaRun (part k : Nat)
  /-- MDRAIN_RUN (R165): A drain writes the rounded accumulators and header and sends its amax merge. -/
  | mdrainRun (part k : Nat)
  /-- TILE_UNIT_RUN (R167): The tile unit runs a queued TCVT or AQADD. -/
  | tileUnitRun (core : Nat)
  /-- ENGINE_COMMAND_COMPLETE (R152): A command completes, ORing its flags into C0 and adding to its counter, or sending its fault record. -/
  | engineCommandComplete (id : Nat)
  /-- STORE_LANE_PERFORM (R266): A store lane performs its head at the slice, writing the word and creating a version. -/
  | storeLanePerform (core id : Nat)
  /-- SLICE_LOAD_SERVE (R267): A slice serves a load or LDV, filling a PLAIN line into the buffer. -/
  | sliceLoadServe (id : Nat)
  /-- HELD_WRITE_PERFORM (R254): A write held for version-store room is performed when an entry frees. -/
  | heldWritePerform (core id : Nat)
  /-- LINE_EVICTION (R268): A line leaves the core's global line buffer by eviction. -/
  | lineEviction (core line : Nat)
  /-- TRANSLATION_FILL (R331): A translation entry arrives from the shared unit or a walk, and the stalled bundle issues or faults. -/
  | translationFill (core ctx : Nat)
  /-- WALK_COMPLETE (R333): A walk at the home slice completes and fills the shared unit and every requesting buffer. -/
  | walkComplete (part region : Nat)
  /-- POOL_CLEAR_DONE (R289): POOL's bank clearing ends and held arrivals are accepted under the new layout. -/
  | poolClearDone (core : Nat)
  /-- SOFT_ERROR_CORRECTED (R324): A single-bit error is corrected and counted, possibly raising REPLACE_ADVISED. -/
  | softErrorCorrected (part : Nat)
  /-- UNCORRECTABLE_ERROR (R324): An uncorrectable error faults ECC by where it is met, halting the core for its own logic. -/
  | uncorrectableError (site : ErrSite)
  /-- LAUNCH_DISPATCH (R344): A queued LAUNCH is dispatched when its domain is idle and the setup begins. -/
  | launchDispatch (dom : Nat)
  /-- GO (R238): When every station has reported setup done, the lowest station issues the go on the launch entry. -/
  | go (dom : Nat)
  /-- CONTEXT_SAVE (R262): After drain and quiescence sweeps, each core is saved to its save area. -/
  | contextSave (dom : Nat)
  /-- LOAD (R341): Host command loading an IRX image and returning an image handle. -/
  | loadImage (q : Nat) (cmd : List Word) (image : List Byte)
  /-- LAUNCH (R344): Host command queuing a launch of an image with mode, quantum and argument block. -/
  | launch (q : Nat) (cmd : List Word)
  /-- CANCEL (R344): Host command removing an undispatched LAUNCH of the same queue. -/
  | cancelLaunch (q : Nat) (cmd : List Word)
  /-- PREEMPT (R327): Host command stopping and saving the domain's running launch. -/
  | preempt (q : Nat) (cmd : List Word)
  /-- RESUME (R329): Host command restoring a saved launch and issuing a new go. -/
  | resume (q : Nat) (cmd : List Word)
  /-- MAP (R330): Host command installing translation entries, also ending a serviced hold. -/
  | mapPages (q : Nat) (cmd : List Word)
  /-- UNMAP (R335): Host command removing translation entries with a broadcast. -/
  | unmapPages (q : Nat) (cmd : List Word)
  /-- TLBFLUSH (R335): Host command flushing translation entries of a range or the whole domain. -/
  | tlbflush (q : Nat) (cmd : List Word)
  /-- QUERY_DOMAIN_STATE (R341): Host command returning the domain state. -/
  | queryDomainState (q : Nat) (cmd : List Word)
  /-- QUERY_SLICE_CAPACITIES (R248): Host command returning each slice's usable capacity. -/
  | querySliceCapacities (q : Nat) (cmd : List Word)
  /-- QUERY_HARVEST_STATE (R341): Host command returning the harvest state. -/
  | queryHarvestState (q : Nat) (cmd : List Word)
  /-- QUERY_PACKAGE_FIGURES (R341): Host command returning the package figures. -/
  | queryPackageFigures (q : Nat) (cmd : List Word)
  /-- PMREAD (R338): Host command returning a partition's performance-monitor count. -/
  | pmread (q : Nat) (cmd : List Word)
  /-- PARTCFG (R345): Host command forming a launch domain from aligned idle partitions. -/
  | partcfg (q : Nat) (cmd : List Word)
  /-- RESET (R348): Host command resetting a partition, ending its launch and re-running bring-up. -/
  | reset (q : Nat) (cmd : List Word)
  /-- CQHEAD (R342): Host write of the completion head, freeing ring room for held entries. -/
  | cqhead (q : Nat) (value : Word)
  /-- REGISTER_WRITE (R340): Host write to a doorbell-page or status-page register with no row of its own, ignored for configuration while enabled. -/
  | registerWrite (page off : Nat) (value : Word)
  /-- BAR4_READ (R339): Host read through the BAR4 window performed at the owning slice. -/
  | bar4Read (off n : Nat)
  /-- BAR4_WRITE (R339): Host write through the BAR4 window performed at the owning slice. -/
  | bar4Write (off n : Nat) (value : Word)
  /-- FREEZE (R326): Debugger stops every context and the handler thread of a core. -/
  | freeze (core : Nat)
  /-- THAW (R326): Debugger returns every context to its pre-FREEZE state, past a BRK if one froze it. -/
  | thaw (core : Nat)
  /-- DEBUG_ENABLE (R326): Debugger sets the debug enable bit so that BRK freezes the core. -/
  | debugEnable (core : Nat)
  /-- POWER_GOOD (R353): From power-good the stations self-test, train, remap, clear and set READY. -/
  | powerGood
  /-- OVERTEMP (R352): At 50 °C or on loss of flow every launch ends DOWN and all partitions are held in reset. -/
  | overtemp
  /-- STREAM_BEAT_ARRIVAL (R112): A beat that a read stream fetched ahead of the pop arrives at the core, releasing a pop stalled on it. -/
  | streamBeatArrival (core ctx v : Nat)
  /-- COOLANT_LIMIT_DERATE (R352): When the coolant rises above its limit, the power governor lowers its cap linearly towards 2,400 W at 45 °C. -/
  | coolantLimitDerate (deciC : Nat)
  deriving DecidableEq, Repr

end Sys2Proof
end

