-- ==== Sys2Proof/WellFormed.lean ====
section
/-! DEFINITION. Which terms of `Instr` stand for something: a word's operands that an encoding admits (R21, R22, R55 to
R61, R86, R221), and a step's operands that name a place the module has (R1, R14, R28). -/

namespace Sys2Proof

/-- F types (R58). -/
def VType.isF : VType → Bool
  | .f32 | .f64 => true
  | _ => false
/-- 64-bit types, whose registers are even-odd pairs (R22). -/
def VType.wide : VType → Bool
  | .f64 | .i64 | .n64 => true
  | _ => false
/-- The types of VABS and VNEG (R58). -/
def VType.signed : VType → Bool
  | .f32 | .i32 | .f64 | .i64 => true
  | _ => false
/-- The types of VDIV (R58). -/
def VType.divides : VType → Bool
  | .f32 | .i32 | .f64 | .n32 => true
  | _ => false
/-- Conversions whose destination, or source, is a pair (R105). -/
def Cvt.wideD : Cvt → Bool
  | .f32f64 | .i64f64 | .f64i64 => true
  | _ => false
def Cvt.wideA : Cvt → Bool
  | .f64f32 | .f64i64 | .i64f64 | .f64f32sr => true
  | _ => false

/-- The CSR numbers that are assigned, and those a CSRW may name (R336). -/
def csrKnown (c : BitVec 6) : Bool := c.ule 0x11
def csrWritable (c : BitVec 6) : Bool :=
  c == 0x02 || c == 0x03 || c == 0x04 || c == 0x05 || c == 0x06 || c == 0x07 || c == 0x08 || c == 0x0F || c == 0x11

/-- A v register the type can name (R22). -/
def VType.fits (ty : VType) (v : BitVec 5) : Bool := !ty.wide || v.extractLsb' 0 1 == 0
def fitsIf (pair : Bool) (v : BitVec 5) : Bool := !pair || v.extractLsb' 0 1 == 0

/-- A user core, a partition, a context, a host queue. -/
def coreOk (c : Nat) : Bool := c / 64 < 64 && c % 64 < 51
def partOk (p : Nat) : Bool := p < 64
def ctxOk (c : Nat) : Bool := c < 11
def cmdOk (q : Nat) (cmd : List Word) : Bool := q < 65536 && cmd.length == 8

/-- A term that stands for a word some encoding admits, or for a step on a place the module has. -/
def wellFormed : Instr → Bool
  | .add d _ _ => d != 63
  | .sub d _ _ => d != 63
  | .and d _ _ => d != 63
  | .or d _ _ => d != 63
  | .xor d _ _ => d != 63
  | .andn d _ _ => d != 63
  | .shl d _ _ => d != 63
  | .shr d _ _ => d != 63
  | .sar d _ _ => d != 63
  | .rol d _ _ => d != 63
  | .min d _ _ => d != 63
  | .max d _ _ => d != 63
  | .minu d _ _ => d != 63
  | .maxu d _ _ => d != 63
  | .slt d _ _ => d != 63
  | .sltu d _ _ => d != 63
  | .seq d _ _ => d != 63
  | .clz d _ => d != 63
  | .popc d _ => d != 63
  | .mul d _ _ => d != 63
  | .mulh d _ _ => d != 63
  | .mulhu d _ _ => d != 63
  | .div d _ _ => d != 63
  | .divu d _ _ => d != 63
  | .rem d _ _ => d != 63
  | .remu d _ _ => d != 63
  | .addi d _ _ => d != 63
  | .andi d _ _ => d != 63
  | .ori d _ _ => d != 63
  | .xori d _ _ => d != 63
  | .shli d _ _ => d != 63
  | .shri d _ _ => d != 63
  | .sari d _ _ => d != 63
  | .slti d _ _ => d != 63
  | .li d _ => d != 63
  | .lih d _ => d != 63
  | .sel d _ _ => d != 63
  | .b _ _ _ _ => true
  | .j _ => true
  | .jal _ => true
  | .jalr d _ _ => d != 63
  | .start d _ _ => d != 63
  | .endt => true
  | .nop => true
  | .ld d _ _ _ => d != 63
  | .st _ _ _ _ => true
  | .ldv d _ _ => d != 63
  | .recl _ _ => true
  | .fence _ => true
  | .pool _ => true
  | .copy _ _ _ => true
  | .copyc _ _ _ => true
  | .halo _ _ _ => true
  | .wmark _ _ _ _ => true
  | .send _ _ => true
  | .reply _ _ => true
  | .recvp _ _ => true
  | .recvpCancel _ => true
  | .atomAdd d _ _ => d != 63
  | .atomMax d _ _ => d != 63
  | .atomMin d _ _ => d != 63
  | .atomMaxu d _ _ => d != 63
  | .atomMinu d _ _ => d != 63
  | .atomSwap d _ _ => d != 63
  | .atomCas d _ _ => d != 63
  | .atomOr d _ _ => d != 63
  | .atomAnd d _ _ => d != 63
  | .atomXor d _ _ => d != 63
  | .atomFmax32 d _ _ => d != 63
  | .cadd _ _ => true
  | .cread d _ => d != 63
  | .carm _ _ _ => true
  | .cset _ _ => true
  | .cflt d _ => d != 63
  | .cwait _ _ _ => true
  | .qwait d _ _ => d != 63
  | .chbind _ _ _ => true
  | .chset _ _ _ => true
  | .chq d _ _ => d != 63
  | .rdrem _ _ _ => true
  | .rdsend _ _ _ => true
  | .thdr _ _ => true
  | .tsth _ _ => true
  | .tmake _ _ _ => true
  | .tset _ _ _ => true
  | .tget d _ => d != 63
  | .lease => true
  | .mrel => true
  | .mstat d => d != 63
  | .mma _ _ _ => true
  | .mmag _ _ _ k => k != 0
  | .mzero _ => true
  | .mdrain _ _ => true
  | .tcvt _ _ => true
  | .aqadd _ _ _ => true
  | .jqnext d _ => d != 63
  | .ptcfg _ _ => true
  | .pset _ _ => true
  | .pget d _ _ => d != 63
  | .psum d _ => d != 63
  | .nextev d _ => d != 63
  | .evsend _ _ => true
  | .snap => true
  | .rollb _ => true
  | .slog _ _ => true
  | .fossil _ => true
  | .horiz _ _ => true
  | .rkey _ _ => true
  | .rtab _ _ => true
  | .rdraw d => d != 63
  | .ready _ => true
  | .nest _ _ => true
  | .nexti d _ => d != 63 && d.extractLsb' 2 4 != 14#4
  | .phase d _ _ => d != 63
  | .cbar _ => true
  | .cbarx _ => true
  | .cbcast d _ _ => d != 63
  | .credAdd d _ _ => d != 63
  | .credMin d _ _ => d != 63
  | .credMax d _ _ => d != 63
  | .credOr d _ _ => d != 63
  | .credAnd d _ _ => d != 63
  | .gmem d _ => d != 63
  | .sbind _ _ => true
  | .sfree _ => true
  | .spos d _ => d != 63
  | .srep _ => true
  | .vbcast _ _ => true
  | .vext d _ _ => d != 63
  | .vins _ _ _ => true
  | .trap _ => true
  | .brk => true
  | .halt => true
  | .csrr d csr => csrKnown csr && d != 63
  | .csrw csr _ => csrWritable csr
  | .pmrd d _ => d != 63
  | .vadd ty d a b => ty.fits d && ty.fits a && ty.fits b
  | .vsub ty d a b => ty.fits d && ty.fits a && ty.fits b
  | .vmul ty d a b => ty.fits d && ty.fits a && ty.fits b
  | .vfma ty d a b => ty.isF && ty.fits d && ty.fits a && ty.fits b
  | .vfms ty d a b => ty.isF && ty.fits d && ty.fits a && ty.fits b
  | .vnfma ty d a b => ty.isF && ty.fits d && ty.fits a && ty.fits b
  | .vmin ty d a b => ty.fits d && ty.fits a && ty.fits b
  | .vmax ty d a b => ty.fits d && ty.fits a && ty.fits b
  | .vabs ty d a => ty.signed && ty.fits d && ty.fits a
  | .vneg ty d a => ty.signed && ty.fits d && ty.fits a
  | .vcmp _ ty _ a b => ty.fits a && ty.fits b
  | .vsel ty d a _ => ty.fits d && ty.fits a
  | .vcvt c d a => fitsIf c.wideD d && fitsIf c.wideA a
  | .vmov ty d a => ty.fits d && ty.fits a
  | .vidx _ => true
  | .vdiv ty d a b => ty.divides && ty.fits d && ty.fits a && ty.fits b
  | .vand ty d a b => !ty.isF && ty.fits d && ty.fits a && ty.fits b
  | .vor ty d a b => !ty.isF && ty.fits d && ty.fits a && ty.fits b
  | .vxor ty d a b => !ty.isF && ty.fits d && ty.fits a && ty.fits b
  | .vnot ty d a => !ty.isF && ty.fits d && ty.fits a
  | .vshl ty d a b => !ty.isF && ty.fits d && ty.fits a && ty.fits b
  | .vshr ty d a b => !ty.isF && ty.fits d && ty.fits a && ty.fits b
  | .vsar ty d a b => !ty.isF && ty.fits d && ty.fits a && ty.fits b
  | .vmulh ty d a b => !ty.isF && ty.fits d && ty.fits a && ty.fits b
  | .vexp2 _ _ => true
  | .vlog2 _ _ => true
  | .vrcp _ _ => true
  | .vrsq _ _ => true
  | .vsqrt _ _ => true
  | .vperm _ _ _ => true
  | .vred _ ty d a => ty.fits d && ty.fits a
  | .vscan _ ty d a => ty.fits d && ty.fits a
  | .vrnd _ => true
  | .vrndu _ => true
  | .pand _ _ _ => true
  | .por _ _ _ => true
  | .pxor _ _ _ => true
  | .pnot _ _ => true
  | .pcnt _ _ => true
  | .pfirst _ _ => true
  | .pmask _ => true
  | .anop => true
  | .variableLatencyResult _ => true
  | .taskEnd core ctx => coreOk core && ctxOk ctx
  | .deferredFault core ctx => coreOk core && ctxOk ctx
  | .waitExpiry core ctx => coreOk core && ctxOk ctx
  | .catenaryArrival core ctx => coreOk core && ctxOk ctx
  | .catenaryWithdrawal core ctx => coreOk core && ctxOk ctx
  | .catenaryCompletion dom _ => partOk dom
  | .taskDispatch core => coreOk core
  | .starve core ch => coreOk core && ch < 64
  | .stealAttempt core => coreOk core
  | .stealBackoffExpiry core => coreOk core
  | .stealRequest _ => true
  | .stealServe core => coreOk core
  | .stealAnswer _ => true
  | .msgArrival _ => true
  | .replyArrival _ => true
  | .refusedReply _ => true
  | .refusedHalted _ => true
  | .refusedUnbound _ => true
  | .refusedNocore _ => true
  | .taggedArrival _ => true
  | .atomRequest _ => true
  | .atomPerform core => coreOk core
  | .atomr _ => true
  | .drainMerge core => coreOk core
  | .caddm _ => true
  | .counterPendingPush core n => coreOk core && n < 2048
  | .engineFaultSetting _ => true
  | .rdreq _ => true
  | .rdreqPerform core => coreOk core
  | .rddata _ => true
  | .contrib _ => true
  | .contribAccept part _ => partOk part
  | .diePartial _ => true
  | .timedArrival _ => true
  | .cancelArrival _ => true
  | .timedResend core => coreOk core
  | .cancelSend core => coreOk core
  | .faultRecord _ => true
  | .releaseArrival _ => true
  | .hostReport _ => true
  | .stationMessage _ => true
  | .get _ => true
  | .put _ => true
  | .gcopy _ => true
  | .move _ => true
  | .haloRequest _ => true
  | .copyBeat _ => true
  | .putx _ => true
  | .outboundEnvelope _ => true
  | .inboundMessage part port _ _ _ => partOk part && port < 2
  | .linkDown part port => partOk part && port < 2
  | .turntableRunEnd part k => partOk part && k < 6
  | .mzeroRun part k => partOk part && k < 6
  | .mmaRun part k => partOk part && k < 6
  | .mdrainRun part k => partOk part && k < 6
  | .tileUnitRun core => coreOk core
  | .engineCommandComplete _ => true
  | .jqnextServe _ => true
  | .claimServe _ => true
  | .storeLanePerform core _ => coreOk core
  | .sliceLoadServe _ => true
  | .heldWritePerform core _ => coreOk core
  | .versionHoldExpiry core _ => coreOk core
  | .ldvHoldExpiry _ => true
  | .watermarkStallExpiry core ctx => coreOk core && ctxOk ctx
  | .rdsendExpiry core ctx => coreOk core && ctxOk ctx
  | .leaseExpiry core ctx => coreOk core && ctxOk ctx
  | .lineEviction core _ => coreOk core
  | .translationFill core ctx => coreOk core && ctxOk ctx
  | .walkComplete part _ => partOk part
  | .pagereqHoldExpiry core ctx => coreOk core && ctxOk ctx
  | .poolClearDone core => coreOk core
  | .softErrorCorrected part => partOk part
  | .uncorrectableError _ => true
  | .launchDispatch dom => partOk dom
  | .go dom => partOk dom
  | .goComplete dom => partOk dom
  | .sweep dom => partOk dom
  | .launchEnd dom => partOk dom
  | .quantumTapArrival core => coreOk core
  | .quantumClose dom => partOk dom
  | .preemptStop dom => partOk dom
  | .contextSave dom => partOk dom
  | .translationBroadcast dom => partOk dom
  | .loadImage q cmd _ => cmdOk q cmd
  | .launch q cmd => cmdOk q cmd
  | .cancelLaunch q cmd => cmdOk q cmd
  | .preempt q cmd => cmdOk q cmd
  | .resume q cmd => cmdOk q cmd
  | .mapPages q cmd => cmdOk q cmd
  | .unmapPages q cmd => cmdOk q cmd
  | .tlbflush q cmd => cmdOk q cmd
  | .queryDomainState q cmd => cmdOk q cmd
  | .querySliceCapacities q cmd => cmdOk q cmd
  | .queryHarvestState q cmd => cmdOk q cmd
  | .queryPackageFigures q cmd => cmdOk q cmd
  | .pmread q cmd => cmdOk q cmd
  | .partcfg q cmd => cmdOk q cmd
  | .reset q cmd => cmdOk q cmd
  | .cqhead q _ => q < 65536
  | .registerWrite _ _ _ => true
  | .bar4Read off n => (n == 1 || n == 2 || n == 4 || n == 8) && off % n == 0
  | .bar4Write off n _ => (n == 1 || n == 2 || n == 4 || n == 8) && off % n == 0
  | .freeze core => coreOk core
  | .thaw core => coreOk core
  | .debugEnable core => coreOk core
  | .powerGood => true
  | .overtemp => true
  | .undecodableWord _ check _ => 1 ≤ check && check ≤ 5
  | .streamBeatArrival core ctx v => coreOk core && ctxOk ctx && v < 8
  | .inboundPutx port core _ bytes _ => 4096 ≤ port && port < 4608 && (port % 8 == 2 || port % 8 == 3) && coreOk core && 16 ≤ bytes.length
  | .coolantLimitDerate _ => true

/-- Whether a term stands for an instruction word. -/
def isWord (i : Instr) : Bool :=
  match i with
  | .add _ _ _ => true
  | .sub _ _ _ => true
  | .and _ _ _ => true
  | .or _ _ _ => true
  | .xor _ _ _ => true
  | .andn _ _ _ => true
  | .shl _ _ _ => true
  | .shr _ _ _ => true
  | .sar _ _ _ => true
  | .rol _ _ _ => true
  | .min _ _ _ => true
  | .max _ _ _ => true
  | .minu _ _ _ => true
  | .maxu _ _ _ => true
  | .slt _ _ _ => true
  | .sltu _ _ _ => true
  | .seq _ _ _ => true
  | .clz _ _ => true
  | .popc _ _ => true
  | .mul _ _ _ => true
  | .mulh _ _ _ => true
  | .mulhu _ _ _ => true
  | .div _ _ _ => true
  | .divu _ _ _ => true
  | .rem _ _ _ => true
  | .remu _ _ _ => true
  | .addi _ _ _ => true
  | .andi _ _ _ => true
  | .ori _ _ _ => true
  | .xori _ _ _ => true
  | .shli _ _ _ => true
  | .shri _ _ _ => true
  | .sari _ _ _ => true
  | .slti _ _ _ => true
  | .li _ _ => true
  | .lih _ _ => true
  | .sel _ _ _ => true
  | .b _ _ _ _ => true
  | .j _ => true
  | .jal _ => true
  | .jalr _ _ _ => true
  | .start _ _ _ => true
  | .endt => true
  | .nop => true
  | .ld _ _ _ _ => true
  | .st _ _ _ _ => true
  | .ldv _ _ _ => true
  | .recl _ _ => true
  | .fence _ => true
  | .pool _ => true
  | .copy _ _ _ => true
  | .copyc _ _ _ => true
  | .halo _ _ _ => true
  | .wmark _ _ _ _ => true
  | .send _ _ => true
  | .reply _ _ => true
  | .recvp _ _ => true
  | .recvpCancel _ => true
  | .atomAdd _ _ _ => true
  | .atomMax _ _ _ => true
  | .atomMin _ _ _ => true
  | .atomMaxu _ _ _ => true
  | .atomMinu _ _ _ => true
  | .atomSwap _ _ _ => true
  | .atomCas _ _ _ => true
  | .atomOr _ _ _ => true
  | .atomAnd _ _ _ => true
  | .atomXor _ _ _ => true
  | .atomFmax32 _ _ _ => true
  | .cadd _ _ => true
  | .cread _ _ => true
  | .carm _ _ _ => true
  | .cset _ _ => true
  | .cflt _ _ => true
  | .cwait _ _ _ => true
  | .qwait _ _ _ => true
  | .chbind _ _ _ => true
  | .chset _ _ _ => true
  | .chq _ _ _ => true
  | .rdrem _ _ _ => true
  | .rdsend _ _ _ => true
  | .thdr _ _ => true
  | .tsth _ _ => true
  | .tmake _ _ _ => true
  | .tset _ _ _ => true
  | .tget _ _ => true
  | .lease => true
  | .mrel => true
  | .mstat _ => true
  | .mma _ _ _ => true
  | .mmag _ _ _ _ => true
  | .mzero _ => true
  | .mdrain _ _ => true
  | .tcvt _ _ => true
  | .aqadd _ _ _ => true
  | .jqnext _ _ => true
  | .ptcfg _ _ => true
  | .pset _ _ => true
  | .pget _ _ _ => true
  | .psum _ _ => true
  | .nextev _ _ => true
  | .evsend _ _ => true
  | .snap => true
  | .rollb _ => true
  | .slog _ _ => true
  | .fossil _ => true
  | .horiz _ _ => true
  | .rkey _ _ => true
  | .rtab _ _ => true
  | .rdraw _ => true
  | .ready _ => true
  | .nest _ _ => true
  | .nexti _ _ => true
  | .phase _ _ _ => true
  | .cbar _ => true
  | .cbarx _ => true
  | .cbcast _ _ _ => true
  | .credAdd _ _ _ => true
  | .credMin _ _ _ => true
  | .credMax _ _ _ => true
  | .credOr _ _ _ => true
  | .credAnd _ _ _ => true
  | .gmem _ _ => true
  | .sbind _ _ => true
  | .sfree _ => true
  | .spos _ _ => true
  | .srep _ => true
  | .vbcast _ _ => true
  | .vext _ _ _ => true
  | .vins _ _ _ => true
  | .trap _ => true
  | .brk => true
  | .halt => true
  | .csrr _ _ => true
  | .csrw _ _ => true
  | .pmrd _ _ => true
  | .vadd _ _ _ _ => true
  | .vsub _ _ _ _ => true
  | .vmul _ _ _ _ => true
  | .vfma _ _ _ _ => true
  | .vfms _ _ _ _ => true
  | .vnfma _ _ _ _ => true
  | .vmin _ _ _ _ => true
  | .vmax _ _ _ _ => true
  | .vabs _ _ _ => true
  | .vneg _ _ _ => true
  | .vcmp _ _ _ _ _ => true
  | .vsel _ _ _ _ => true
  | .vcvt _ _ _ => true
  | .vmov _ _ _ => true
  | .vidx _ => true
  | .vdiv _ _ _ _ => true
  | .vand _ _ _ _ => true
  | .vor _ _ _ _ => true
  | .vxor _ _ _ _ => true
  | .vnot _ _ _ => true
  | .vshl _ _ _ _ => true
  | .vshr _ _ _ _ => true
  | .vsar _ _ _ _ => true
  | .vmulh _ _ _ _ => true
  | .vexp2 _ _ => true
  | .vlog2 _ _ => true
  | .vrcp _ _ => true
  | .vrsq _ _ => true
  | .vsqrt _ _ => true
  | .vperm _ _ _ => true
  | .vred _ _ _ _ => true
  | .vscan _ _ _ _ => true
  | .vrnd _ => true
  | .vrndu _ => true
  | .pand _ _ _ => true
  | .por _ _ _ => true
  | .pxor _ _ _ => true
  | .pnot _ _ => true
  | .pcnt _ _ => true
  | .pfirst _ _ => true
  | .pmask _ => true
  | .anop => true
  | .variableLatencyResult _ => false
  | .taskEnd _ _ => false
  | .deferredFault _ _ => false
  | .waitExpiry _ _ => false
  | .catenaryArrival _ _ => false
  | .catenaryWithdrawal _ _ => false
  | .catenaryCompletion _ _ => false
  | .taskDispatch _ => false
  | .starve _ _ => false
  | .stealAttempt _ => false
  | .stealBackoffExpiry _ => false
  | .stealRequest _ => false
  | .stealServe _ => false
  | .stealAnswer _ => false
  | .msgArrival _ => false
  | .replyArrival _ => false
  | .refusedReply _ => false
  | .refusedHalted _ => false
  | .refusedUnbound _ => false
  | .refusedNocore _ => false
  | .taggedArrival _ => false
  | .atomRequest _ => false
  | .atomPerform _ => false
  | .atomr _ => false
  | .drainMerge _ => false
  | .caddm _ => false
  | .counterPendingPush _ _ => false
  | .engineFaultSetting _ => false
  | .rdreq _ => false
  | .rdreqPerform _ => false
  | .rddata _ => false
  | .contrib _ => false
  | .contribAccept _ _ => false
  | .diePartial _ => false
  | .timedArrival _ => false
  | .cancelArrival _ => false
  | .timedResend _ => false
  | .cancelSend _ => false
  | .faultRecord _ => false
  | .releaseArrival _ => false
  | .hostReport _ => false
  | .stationMessage _ => false
  | .get _ => false
  | .put _ => false
  | .gcopy _ => false
  | .move _ => false
  | .haloRequest _ => false
  | .copyBeat _ => false
  | .putx _ => false
  | .outboundEnvelope _ => false
  | .inboundMessage _ _ _ _ _ => false
  | .linkDown _ _ => false
  | .turntableRunEnd _ _ => false
  | .mzeroRun _ _ => false
  | .mmaRun _ _ => false
  | .mdrainRun _ _ => false
  | .tileUnitRun _ => false
  | .engineCommandComplete _ => false
  | .jqnextServe _ => false
  | .claimServe _ => false
  | .storeLanePerform _ _ => false
  | .sliceLoadServe _ => false
  | .heldWritePerform _ _ => false
  | .versionHoldExpiry _ _ => false
  | .ldvHoldExpiry _ => false
  | .watermarkStallExpiry _ _ => false
  | .rdsendExpiry _ _ => false
  | .leaseExpiry _ _ => false
  | .lineEviction _ _ => false
  | .translationFill _ _ => false
  | .walkComplete _ _ => false
  | .pagereqHoldExpiry _ _ => false
  | .poolClearDone _ => false
  | .softErrorCorrected _ => false
  | .uncorrectableError _ => false
  | .launchDispatch _ => false
  | .go _ => false
  | .goComplete _ => false
  | .sweep _ => false
  | .launchEnd _ => false
  | .quantumTapArrival _ => false
  | .quantumClose _ => false
  | .preemptStop _ => false
  | .contextSave _ => false
  | .translationBroadcast _ => false
  | .loadImage _ _ _ => false
  | .launch _ _ => false
  | .cancelLaunch _ _ => false
  | .preempt _ _ => false
  | .resume _ _ => false
  | .mapPages _ _ => false
  | .unmapPages _ _ => false
  | .tlbflush _ _ => false
  | .queryDomainState _ _ => false
  | .querySliceCapacities _ _ => false
  | .queryHarvestState _ _ => false
  | .queryPackageFigures _ _ => false
  | .pmread _ _ => false
  | .partcfg _ _ => false
  | .reset _ _ => false
  | .cqhead _ _ => false
  | .registerWrite _ _ _ => false
  | .bar4Read _ _ => false
  | .bar4Write _ _ _ => false
  | .freeze _ => false
  | .thaw _ => false
  | .debugEnable _ => false
  | .powerGood => false
  | .overtemp => false
  | .undecodableWord _ _ _ => false
  | .streamBeatArrival _ _ _ => false
  | .inboundPutx _ _ _ _ _ => false
  | .coolantLimitDerate _ => false

end Sys2Proof
end

