-- ==== Sys2Proof/Decode.lean ====
section
/-! DEFINITION. Decoding a word (R33, R39 to R41, R55 to R61), rejecting by the number of the failed check, the encoder
written from the same tables, and the host's two table functions. -/

namespace Sys2Proof

/-- The five checks of R61, in their order. -/
inductive IllCheck
  | op | fn | type | reg | field
  deriving DecidableEq, Repr

/-- The number of a failed check (R61). -/
def IllCheck.code : IllCheck → Nat
  | .op => 1 | .fn => 2 | .type => 3 | .reg => 4 | .field => 5

/-- A decoded word, or the check it fails. -/
abbrev Dec := Except IllCheck Instr

/-- The first check that fails decides (R61). -/
def need (c : Bool) (e : IllCheck) (k : Dec) : Dec := if c then k else .error e

/-! Fields of R33 and R39. -/
def wL (w : Word32) : BitVec 1 := w.extractLsb' 31 1
def wS (w : Word32) : BitVec 1 := w.extractLsb' 30 1
def wK (w : Word32) : BitVec 1 := w.extractLsb' 29 1
def wOp (w : Word32) : BitVec 6 := w.extractLsb' 23 6
def wD (w : Word32) : BitVec 6 := w.extractLsb' 17 6
def wA (w : Word32) : BitVec 6 := w.extractLsb' 11 6
def wB (w : Word32) : BitVec 6 := w.extractLsb' 5 6
def wF (w : Word32) : BitVec 5 := w.extractLsb' 0 5
def wI11 (w : Word32) : BitVec 11 := w.extractLsb' 0 11
def wI17 (w : Word32) : BitVec 17 := w.extractLsb' 0 17
def wI23 (w : Word32) : BitVec 23 := w.extractLsb' 0 23
def wSz (w : Word32) : BitVec 2 := w.extractLsb' 9 2
def wOff (w : Word32) : BitVec 9 := w.extractLsb' 0 9
def wC (w : Word32) : BitVec 3 := w.extractLsb' 20 3
def wCA (w : Word32) : BitVec 6 := w.extractLsb' 14 6
def wCB (w : Word32) : BitVec 6 := w.extractLsb' 8 6
def wDisp (w : Word32) : BitVec 8 := w.extractLsb' 0 8

/-! Layouts of R39, most significant field first. -/
def fRRR (l s k : BitVec 1) (op d a b : BitVec 6) (f : BitVec 5) : Word32 := l ++ s ++ k ++ op ++ d ++ a ++ b ++ f
def fRRI (l s : BitVec 1) (op d a : BitVec 6) (i : BitVec 11) : Word32 := l ++ s ++ 0#1 ++ op ++ d ++ a ++ i
def fRI (l s : BitVec 1) (op d : BitVec 6) (i : BitVec 17) : Word32 := l ++ s ++ 0#1 ++ op ++ d ++ i
def fJ (l s : BitVec 1) (op : BitVec 6) (i : BitVec 23) : Word32 := l ++ s ++ 0#1 ++ op ++ i
def fCB (l s : BitVec 1) (op : BitVec 6) (c : BitVec 3) (a b : BitVec 6) (i : BitVec 8) : Word32 :=
  l ++ s ++ 0#1 ++ op ++ c ++ a ++ b ++ i
def fM (l s : BitVec 1) (op d a : BitVec 6) (z : BitVec 2) (i : BitVec 9) : Word32 :=
  l ++ s ++ 0#1 ++ op ++ d ++ a ++ z ++ i

/-! Codes of the suffixes (R6, R58, R60, R89). -/
def VType.code : VType → BitVec 3
  | .f32 => 0 | .i32 => 1 | .f64 => 2 | .i64 => 3 | .n32 => 4 | .n64 => 5
def VType.of (c : BitVec 3) : Option VType :=
  if c = 0 then some .f32 else if c = 1 then some .i32 else if c = 2 then some .f64
  else if c = 3 then some .i64 else if c = 4 then some .n32 else if c = 5 then some .n64 else none
def VCond.code : VCond → BitVec 2
  | .eq => 0 | .lt => 1 | .le => 2 | .ne => 3
def VCond.of (c : BitVec 2) : VCond :=
  if c = 0 then .eq else if c = 1 then .lt else if c = 2 then .le else .ne
def RedOp.code : RedOp → BitVec 2
  | .add => 0 | .min => 1 | .max => 2
def RedOp.of (c : BitVec 2) : Option RedOp :=
  if c = 0 then some .add else if c = 1 then some .min else if c = 2 then some .max else none
def BCond.code : BCond → BitVec 3
  | .eq => 0 | .ne => 1 | .lt => 2 | .ge => 3 | .ltu => 4 | .geu => 5
def BCond.of (c : BitVec 3) : Option BCond :=
  if c = 0 then some .eq else if c = 1 then some .ne else if c = 2 then some .lt
  else if c = 3 then some .ge else if c = 4 then some .ltu else if c = 5 then some .geu else none
def Size.code : Size → BitVec 2
  | .b => 0 | .h => 1 | .w => 2 | .d => 3
def Size.of (c : BitVec 2) : Size :=
  if c = 0 then .b else if c = 1 then .h else if c = 2 then .w else .d
def Scope.code : Scope → BitVec 5
  | .ctx => 0 | .core => 1 | .part => 2 | .pkg => 3 | .sys => 4
def Scope.of (c : BitVec 5) : Option Scope :=
  if c = 0 then some .ctx else if c = 1 then some .core else if c = 2 then some .part
  else if c = 3 then some .pkg else if c = 4 then some .sys else none
def Cvt.code : Cvt → BitVec 5
  | .f32i32 => 0
  | .f32n32 => 1
  | .i32f32 => 2
  | .n32f32 => 3
  | .f32f64 => 4
  | .f64f32 => 5
  | .f32bf16 => 6
  | .bf16f32 => 7
  | .f32f16 => 8
  | .f16f32 => 9
  | .f64i64 => 10
  | .i64f64 => 11
  | .f32l6 => 12
  | .l6f32 => 13
  | .f32l8 => 14
  | .l8f32 => 15
  | .l8l6 => 16
  | .l6l8 => 17
  | .f32bf16sr => 18
  | .f32f16sr => 19
  | .f64f32sr => 20
  | .i32i8 => 21
  | .i8i32 => 22
def Cvt.of (c : BitVec 5) : Option Cvt :=
  if c = 0 then some .f32i32
  else if c = 1 then some .f32n32
  else if c = 2 then some .i32f32
  else if c = 3 then some .n32f32
  else if c = 4 then some .f32f64
  else if c = 5 then some .f64f32
  else if c = 6 then some .f32bf16
  else if c = 7 then some .bf16f32
  else if c = 8 then some .f32f16
  else if c = 9 then some .f16f32
  else if c = 10 then some .f64i64
  else if c = 11 then some .i64f64
  else if c = 12 then some .f32l6
  else if c = 13 then some .l6f32
  else if c = 14 then some .f32l8
  else if c = 15 then some .l8f32
  else if c = 16 then some .l8l6
  else if c = 17 then some .l6l8
  else if c = 18 then some .f32bf16sr
  else if c = 19 then some .f32f16sr
  else if c = 20 then some .f64f32sr
  else if c = 21 then some .i32i8
  else if c = 22 then some .i8i32
  else none
/-- C-class words (R55 to R57). -/
def decodeC (w : Word32) : Dec :=
  if wOp w = 0x00 then
    if wF w = 0 then need (wD w != 63) .reg <| .ok (.add (wD w) (wA w) (wB w))
    else if wF w = 1 then need (wD w != 63) .reg <| .ok (.sub (wD w) (wA w) (wB w))
    else if wF w = 2 then need (wD w != 63) .reg <| .ok (.and (wD w) (wA w) (wB w))
    else if wF w = 3 then need (wD w != 63) .reg <| .ok (.or (wD w) (wA w) (wB w))
    else if wF w = 4 then need (wD w != 63) .reg <| .ok (.xor (wD w) (wA w) (wB w))
    else if wF w = 5 then need (wD w != 63) .reg <| .ok (.andn (wD w) (wA w) (wB w))
    else if wF w = 6 then need (wD w != 63) .reg <| .ok (.shl (wD w) (wA w) (wB w))
    else if wF w = 7 then need (wD w != 63) .reg <| .ok (.shr (wD w) (wA w) (wB w))
    else if wF w = 8 then need (wD w != 63) .reg <| .ok (.sar (wD w) (wA w) (wB w))
    else if wF w = 9 then need (wD w != 63) .reg <| .ok (.rol (wD w) (wA w) (wB w))
    else if wF w = 10 then need (wD w != 63) .reg <| .ok (.min (wD w) (wA w) (wB w))
    else if wF w = 11 then need (wD w != 63) .reg <| .ok (.max (wD w) (wA w) (wB w))
    else if wF w = 12 then need (wD w != 63) .reg <| .ok (.minu (wD w) (wA w) (wB w))
    else if wF w = 13 then need (wD w != 63) .reg <| .ok (.maxu (wD w) (wA w) (wB w))
    else if wF w = 14 then need (wD w != 63) .reg <| .ok (.slt (wD w) (wA w) (wB w))
    else if wF w = 15 then need (wD w != 63) .reg <| .ok (.sltu (wD w) (wA w) (wB w))
    else if wF w = 16 then need (wD w != 63) .reg <| .ok (.seq (wD w) (wA w) (wB w))
    else if wF w = 17 then need (wD w != 63) .reg <| need (wB w == 0) .field <| .ok (.clz (wD w) (wA w))
    else if wF w = 18 then need (wD w != 63) .reg <| need (wB w == 0) .field <| .ok (.popc (wD w) (wA w))
    else if wF w = 19 then need (wD w != 63) .reg <| .ok (.mul (wD w) (wA w) (wB w))
    else if wF w = 20 then need (wD w != 63) .reg <| .ok (.mulh (wD w) (wA w) (wB w))
    else if wF w = 21 then need (wD w != 63) .reg <| .ok (.mulhu (wD w) (wA w) (wB w))
    else if wF w = 22 then need (wD w != 63) .reg <| .ok (.div (wD w) (wA w) (wB w))
    else if wF w = 23 then need (wD w != 63) .reg <| .ok (.divu (wD w) (wA w) (wB w))
    else if wF w = 24 then need (wD w != 63) .reg <| .ok (.rem (wD w) (wA w) (wB w))
    else if wF w = 25 then need (wD w != 63) .reg <| .ok (.remu (wD w) (wA w) (wB w))
    else .error .fn
  else if wOp w = 0x01 then
    need (wD w != 63) .reg <| .ok (.addi (wD w) (wA w) (wI11 w))
  else if wOp w = 0x02 then
    need (wD w != 63) .reg <| .ok (.andi (wD w) (wA w) (wI11 w))
  else if wOp w = 0x03 then
    need (wD w != 63) .reg <| .ok (.ori (wD w) (wA w) (wI11 w))
  else if wOp w = 0x04 then
    need (wD w != 63) .reg <| .ok (.xori (wD w) (wA w) (wI11 w))
  else if wOp w = 0x05 then
    need (wD w != 63) .reg <| need ((wI11 w).extractLsb' 6 5 == 0) .field <| .ok (.shli (wD w) (wA w) ((wI11 w).setWidth 6))
  else if wOp w = 0x06 then
    need (wD w != 63) .reg <| need ((wI11 w).extractLsb' 6 5 == 0) .field <| .ok (.shri (wD w) (wA w) ((wI11 w).setWidth 6))
  else if wOp w = 0x07 then
    need (wD w != 63) .reg <| need ((wI11 w).extractLsb' 6 5 == 0) .field <| .ok (.sari (wD w) (wA w) ((wI11 w).setWidth 6))
  else if wOp w = 0x08 then
    need (wD w != 63) .reg <| .ok (.slti (wD w) (wA w) (wI11 w))
  else if wOp w = 0x09 then
    need (wD w != 63) .reg <| .ok (.li (wD w) (wI17 w))
  else if wOp w = 0x0A then
    need (wD w != 63) .reg <| .ok (.lih (wD w) (wI17 w))
  else if wOp w = 0x0B then
    if wF w = 0 then need (wD w != 63) .reg <| .ok (.sel (wD w) (wA w) (wB w))
    else .error .fn
  else if wOp w = 0x10 then
    match BCond.of (wC w) with
    | none => .error .fn
    | some c => .ok (.b c (wCA w) (wCB w) (wDisp w))
  else if wOp w = 0x11 then
    .ok (.j (wI23 w))
  else if wOp w = 0x12 then
    .ok (.jal (wI23 w))
  else if wOp w = 0x13 then
    need (wD w != 63) .reg <| .ok (.jalr (wD w) (wA w) (wI11 w))
  else if wOp w = 0x14 then
    if wF w = 0 then need (wD w != 63) .reg <| .ok (.start (wD w) (wA w) (wB w))
    else .error .fn
  else if wOp w = 0x15 then
    if wF w = 0 then need (wD w == 0) .field <| need (wA w == 0) .field <| need (wB w == 0) .field <| .ok .endt
    else .error .fn
  else if wOp w = 0x16 then
    if wF w = 0 then need (wD w == 0) .field <| need (wA w == 0) .field <| need (wB w == 0) .field <| .ok .nop
    else .error .fn
  else if wOp w = 0x18 then
    need (wD w != 63) .reg <| .ok (.ld (wD w) (wA w) (Size.of (wSz w)) (wOff w))
  else if wOp w = 0x19 then
    .ok (.st (wD w) (wA w) (Size.of (wSz w)) (wOff w))
  else if wOp w = 0x1A then
    need (wSz w == 3) .fn <| need (wD w != 63) .reg <| .ok (.ldv (wD w) (wA w) (wOff w))
  else if wOp w = 0x1B then
    if wF w = 0 then need (wD w == 0) .field <| .ok (.recl (wA w) (wB w))
    else .error .fn
  else if wOp w = 0x1C then
    match Scope.of (wF w) with
    | none => .error .fn
    | some sc => need (wD w == 0) .field <| need (wA w == 0) .field <| need (wB w == 0) .field <| .ok (.fence sc)
  else if wOp w = 0x1D then
    if wF w = 0 then need (wD w == 0) .field <| need (wB w == 0) .field <| .ok (.pool (wA w))
    else .error .fn
  else if wOp w = 0x1E then
    if wF w = 0 then .ok (.copy (wD w) (wA w) (wB w))
    else if wF w = 1 then .ok (.copyc (wD w) (wA w) (wB w))
    else if wF w = 2 then .ok (.halo (wD w) (wA w) (wB w))
    else .error .fn
  else if wOp w = 0x1F then
    need ((wF w).extractLsb' 3 2 == 0) .fn <| .ok (.wmark (wD w) (wA w) (wB w) ((wF w).setWidth 3))
  else if wOp w = 0x20 then
    if wF w = 0 then need (wD w == 0) .field <| .ok (.send (wA w) (wB w))
    else .error .fn
  else if wOp w = 0x21 then
    if wF w = 0 then need (wD w == 0) .field <| .ok (.reply (wA w) (wB w))
    else .error .fn
  else if wOp w = 0x22 then
    if wF w = 0 then need (wD w == 0) .field <| .ok (.recvp (wA w) (wB w))
    else if wF w = 1 then need (wD w == 0) .field <| need (wB w == 0) .field <| .ok (.recvpCancel (wA w))
    else .error .fn
  else if wOp w = 0x23 then
    if wF w = 0 then need (wD w != 63) .reg <| .ok (.atomAdd (wD w) (wA w) (wB w))
    else if wF w = 1 then need (wD w != 63) .reg <| .ok (.atomMax (wD w) (wA w) (wB w))
    else if wF w = 2 then need (wD w != 63) .reg <| .ok (.atomMin (wD w) (wA w) (wB w))
    else if wF w = 3 then need (wD w != 63) .reg <| .ok (.atomMaxu (wD w) (wA w) (wB w))
    else if wF w = 4 then need (wD w != 63) .reg <| .ok (.atomMinu (wD w) (wA w) (wB w))
    else if wF w = 5 then need (wD w != 63) .reg <| .ok (.atomSwap (wD w) (wA w) (wB w))
    else if wF w = 6 then need (wD w != 63) .reg <| .ok (.atomCas (wD w) (wA w) (wB w))
    else if wF w = 7 then need (wD w != 63) .reg <| .ok (.atomOr (wD w) (wA w) (wB w))
    else if wF w = 8 then need (wD w != 63) .reg <| .ok (.atomAnd (wD w) (wA w) (wB w))
    else if wF w = 9 then need (wD w != 63) .reg <| .ok (.atomXor (wD w) (wA w) (wB w))
    else if wF w = 10 then need (wD w != 63) .reg <| .ok (.atomFmax32 (wD w) (wA w) (wB w))
    else .error .fn
  else if wOp w = 0x24 then
    if wF w = 0 then need (wD w == 0) .field <| .ok (.cadd (wA w) (wB w))
    else if wF w = 1 then need (wD w != 63) .reg <| need (wB w == 0) .field <| .ok (.cread (wD w) (wA w))
    else if wF w = 2 then .ok (.carm (wD w) (wA w) (wB w))
    else if wF w = 3 then need (wD w == 0) .field <| .ok (.cset (wA w) (wB w))
    else if wF w = 4 then need (wD w != 63) .reg <| need (wB w == 0) .field <| .ok (.cflt (wD w) (wA w))
    else .error .fn
  else if wOp w = 0x25 then
    need (wD w == 0) .field <| .ok (.cwait (wA w) (wB w) (wF w))
  else if wOp w = 0x26 then
    need (wD w != 63) .reg <| need ((wI11 w).extractLsb' 5 6 == 0) .field <| .ok (.qwait (wD w) (wA w) ((wI11 w).setWidth 5))
  else if wOp w = 0x27 then
    if wF w = 0 then .ok (.chbind (wD w) (wA w) (wB w))
    else if wF w = 1 then .ok (.chset (wD w) (wA w) (wB w))
    else if wF w = 2 then need (wD w != 63) .reg <| .ok (.chq (wD w) (wA w) (wB w))
    else if wF w = 3 then .ok (.rdrem (wD w) (wA w) (wB w))
    else if wF w = 4 then .ok (.rdsend (wD w) (wA w) (wB w))
    else .error .fn
  else if wOp w = 0x28 then
    if wF w = 0 then need ((wD w).ult 16) .reg <| need (wB w == 0) .field <| .ok (.thdr ((wD w).setWidth 4) (wA w))
    else if wF w = 1 then need ((wD w).ult 16) .reg <| need (wB w == 0) .field <| .ok (.tsth ((wD w).setWidth 4) (wA w))
    else if wF w = 2 then need ((wD w).ult 16) .reg <| .ok (.tmake ((wD w).setWidth 4) (wA w) (wB w))
    else if wF w = 3 then need ((wD w).ult 16) .reg <| .ok (.tset ((wD w).setWidth 4) (wA w) (wB w))
    else if wF w = 4 then need (wD w != 63) .reg <| need ((wA w).ult 16) .reg <| need (wB w == 0) .field <| .ok (.tget (wD w) ((wA w).setWidth 4))
    else .error .fn
  else if wOp w = 0x29 then
    if wF w = 0 then need (wD w == 0) .field <| need (wA w == 0) .field <| need (wB w == 0) .field <| .ok .lease
    else if wF w = 1 then need (wD w == 0) .field <| need (wA w == 0) .field <| need (wB w == 0) .field <| .ok .mrel
    else if wF w = 2 then need (wD w != 63) .reg <| need (wA w == 0) .field <| need (wB w == 0) .field <| .ok (.mstat (wD w))
    else .error .fn
  else if wOp w = 0x2A then
    if wD w = 63 then need ((wA w).ult 16) .reg <| need (wB w == 0) .field <| need (wF w == 0) .field <| .ok (.mzero ((wA w).setWidth 4))
    else need ((wD w).ult 16) .reg <| need ((wA w).ult 16) .reg <| need ((wB w).ult 16) .reg <|
      if wF w = 0 then .ok (.mma ((wD w).setWidth 4) ((wA w).setWidth 4) ((wB w).setWidth 4)) else .ok (.mmag ((wD w).setWidth 4) ((wA w).setWidth 4) ((wB w).setWidth 4) (wF w))
  else if wOp w = 0x2B then
    if wF w = 0 then need ((wD w).ult 16) .reg <| need (wB w == 0) .field <| .ok (.mdrain ((wD w).setWidth 4) (wA w))
    else .error .fn
  else if wOp w = 0x2C then
    if wF w = 0 then need ((wD w).ult 16) .reg <| need ((wA w).ult 16) .reg <| need (wB w == 0) .field <| .ok (.tcvt ((wD w).setWidth 4) ((wA w).setWidth 4))
    else .error .fn
  else if wOp w = 0x2D then
    if wF w = 0 then need ((wD w).ult 16) .reg <| need ((wA w).ult 16) .reg <| need ((wB w).ult 16) .reg <| .ok (.aqadd ((wD w).setWidth 4) ((wA w).setWidth 4) ((wB w).setWidth 4))
    else .error .fn
  else if wOp w = 0x2E then
    if wF w = 0 then need (wD w != 63) .reg <| need (wB w == 0) .field <| .ok (.jqnext (wD w) (wA w))
    else .error .fn
  else if wOp w = 0x30 then
    if wF w = 0 then need (wD w == 0) .field <| .ok (.ptcfg (wA w) (wB w))
    else if wF w = 1 then need (wD w == 0) .field <| .ok (.pset (wA w) (wB w))
    else if wF w = 2 then need (wD w != 63) .reg <| .ok (.pget (wD w) (wA w) (wB w))
    else if wF w = 3 then need (wD w != 63) .reg <| need (wB w == 0) .field <| .ok (.psum (wD w) (wA w))
    else .error .fn
  else if wOp w = 0x31 then
    need (wD w != 63) .reg <| need (wA w == 0) .field <| need (wB w == 0) .field <| .ok (.nextev (wD w) (wF w))
  else if wOp w = 0x32 then
    if wF w = 0 then need (wD w == 0) .field <| .ok (.evsend (wA w) (wB w))
    else .error .fn
  else if wOp w = 0x33 then
    if wF w = 0 then need (wD w == 0) .field <| need (wA w == 0) .field <| need (wB w == 0) .field <| .ok .snap
    else if wF w = 1 then need (wD w == 0) .field <| need (wB w == 0) .field <| .ok (.rollb (wA w))
    else if wF w = 2 then need (wD w == 0) .field <| .ok (.slog (wA w) (wB w))
    else if wF w = 3 then need (wD w == 0) .field <| need (wB w == 0) .field <| .ok (.fossil (wA w))
    else if wF w = 4 then need (wD w == 0) .field <| .ok (.horiz (wA w) (wB w))
    else .error .fn
  else if wOp w = 0x34 then
    if wF w = 0 then need (wD w == 0) .field <| .ok (.rkey (wA w) (wB w))
    else if wF w = 1 then need (wD w == 0) .field <| .ok (.rtab (wA w) (wB w))
    else if wF w = 2 then need (wD w != 63) .reg <| need (wA w == 0) .field <| need (wB w == 0) .field <| .ok (.rdraw (wD w))
    else .error .fn
  else if wOp w = 0x36 then
    if wF w = 0 then need (wD w == 0) .field <| need (wB w == 0) .field <| .ok (.ready (wA w))
    else if wF w = 1 then need (wD w == 0) .field <| .ok (.nest (wA w) (wB w))
    else if wF w = 2 then need (wD w != 63 && (wD w).extractLsb' 2 4 != 14#4) .reg <| need (wB w == 0) .field <| .ok (.nexti (wD w) (wA w))
    else if wF w = 3 then need (wD w != 63) .reg <| .ok (.phase (wD w) (wA w) (wB w))
    else .error .fn
  else if wOp w = 0x37 then
    if wF w = 0 then need (wD w == 0) .field <| need (wB w == 0) .field <| .ok (.cbar (wA w))
    else if wF w = 1 then need (wD w == 0) .field <| need (wB w == 0) .field <| .ok (.cbarx (wA w))
    else if wF w = 2 then need (wD w != 63) .reg <| .ok (.cbcast (wD w) (wA w) (wB w))
    else if wF w = 3 then need (wD w != 63) .reg <| .ok (.credAdd (wD w) (wA w) (wB w))
    else if wF w = 4 then need (wD w != 63) .reg <| .ok (.credMin (wD w) (wA w) (wB w))
    else if wF w = 5 then need (wD w != 63) .reg <| .ok (.credMax (wD w) (wA w) (wB w))
    else if wF w = 6 then need (wD w != 63) .reg <| .ok (.credOr (wD w) (wA w) (wB w))
    else if wF w = 7 then need (wD w != 63) .reg <| .ok (.credAnd (wD w) (wA w) (wB w))
    else if wF w = 8 then need (wD w != 63) .reg <| need (wB w == 0) .field <| .ok (.gmem (wD w) (wA w))
    else .error .fn
  else if wOp w = 0x38 then
    if wF w = 0 then need ((wD w).ult 8) .reg <| need (wB w == 0) .field <| .ok (.sbind ((wD w).setWidth 3) (wA w))
    else if wF w = 1 then need ((wD w).ult 8) .reg <| need (wA w == 0) .field <| need (wB w == 0) .field <| .ok (.sfree ((wD w).setWidth 3))
    else if wF w = 2 then need (wD w != 63) .reg <| need ((wA w).ult 8) .reg <| need (wB w == 0) .field <| .ok (.spos (wD w) ((wA w).setWidth 3))
    else .error .fn
  else if wOp w = 0x39 then
    need (wD w == 0) .field <| .ok (.srep (wI17 w))
  else if wOp w = 0x3A then
    if wF w = 0 then need ((wD w).ult 32) .reg <| need (wB w == 0) .field <| .ok (.vbcast ((wD w).setWidth 5) (wA w))
    else if wF w = 1 then need (wD w != 63) .reg <| need ((wA w).ult 32) .reg <| .ok (.vext (wD w) ((wA w).setWidth 5) (wB w))
    else if wF w = 2 then need ((wD w).ult 32) .reg <| .ok (.vins ((wD w).setWidth 5) (wA w) (wB w))
    else .error .fn
  else if wOp w = 0x3C then
    if wF w = 0 then need (wD w == 0) .field <| need (wB w == 0) .field <| .ok (.trap (wA w))
    else if wF w = 1 then need (wD w == 0) .field <| need (wA w == 0) .field <| need (wB w == 0) .field <| .ok .brk
    else if wF w = 2 then need (wD w == 0) .field <| need (wA w == 0) .field <| need (wB w == 0) .field <| .ok .halt
    else .error .fn
  else if wOp w = 0x3D then
    if wF w = 0 then need (csrKnown (wA w)) .fn <| need (wD w != 63) .reg <| need (wB w == 0) .field <| .ok (.csrr (wD w) (wA w))
    else if wF w = 1 then need (csrWritable (wA w)) .fn <| need (wD w == 0) .field <| .ok (.csrw (wA w) (wB w))
    else if wF w = 2 then need (wD w != 63) .reg <| need (wB w == 0) .field <| .ok (.pmrd (wD w) (wA w))
    else .error .fn
  else .error .op

/-- The type of an A-class word: fn[4:3] is zero where the op has no sub-operation, and the type must be one the op lists. -/
def withType (w : Word32) (ok : VType → Bool) (sub : Bool) (k : VType → Dec) : Dec :=
  need (sub || (wF w).extractLsb' 3 2 == 0) .fn <|
  match VType.of ((wF w).setWidth 3) with
  | none => .error .type
  | some ty => need (ok ty) .type (k ty)

/-- A v register, even where the type needs a pair (R22, R41). -/
def isV (f : BitVec 6) (pair : Bool) : Bool := f.ult 32 && (!pair || f.extractLsb' 0 1 == 0)
/-- A p register of an A-class word (R41). -/
def isP (f : BitVec 6) : Bool := f.extractLsb' 3 3 == 6#3

/-- A-class words (R58 to R60). -/
def decodeA (w : Word32) : Dec :=
  if wOp w = 0x00 then
    withType w (fun _ => true) false fun ty => need (isV (wD w) ty.wide && isV (wA w) ty.wide && isV (wB w) ty.wide) .reg <| .ok (.vadd ty ((wD w).setWidth 5) ((wA w).setWidth 5) ((wB w).setWidth 5))
  else if wOp w = 0x01 then
    withType w (fun _ => true) false fun ty => need (isV (wD w) ty.wide && isV (wA w) ty.wide && isV (wB w) ty.wide) .reg <| .ok (.vsub ty ((wD w).setWidth 5) ((wA w).setWidth 5) ((wB w).setWidth 5))
  else if wOp w = 0x02 then
    withType w (fun _ => true) false fun ty => need (isV (wD w) ty.wide && isV (wA w) ty.wide && isV (wB w) ty.wide) .reg <| .ok (.vmul ty ((wD w).setWidth 5) ((wA w).setWidth 5) ((wB w).setWidth 5))
  else if wOp w = 0x03 then
    withType w VType.isF false fun ty => need (isV (wD w) ty.wide && isV (wA w) ty.wide && isV (wB w) ty.wide) .reg <| .ok (.vfma ty ((wD w).setWidth 5) ((wA w).setWidth 5) ((wB w).setWidth 5))
  else if wOp w = 0x04 then
    withType w VType.isF false fun ty => need (isV (wD w) ty.wide && isV (wA w) ty.wide && isV (wB w) ty.wide) .reg <| .ok (.vfms ty ((wD w).setWidth 5) ((wA w).setWidth 5) ((wB w).setWidth 5))
  else if wOp w = 0x05 then
    withType w VType.isF false fun ty => need (isV (wD w) ty.wide && isV (wA w) ty.wide && isV (wB w) ty.wide) .reg <| .ok (.vnfma ty ((wD w).setWidth 5) ((wA w).setWidth 5) ((wB w).setWidth 5))
  else if wOp w = 0x06 then
    withType w (fun _ => true) false fun ty => need (isV (wD w) ty.wide && isV (wA w) ty.wide && isV (wB w) ty.wide) .reg <| .ok (.vmin ty ((wD w).setWidth 5) ((wA w).setWidth 5) ((wB w).setWidth 5))
  else if wOp w = 0x07 then
    withType w (fun _ => true) false fun ty => need (isV (wD w) ty.wide && isV (wA w) ty.wide && isV (wB w) ty.wide) .reg <| .ok (.vmax ty ((wD w).setWidth 5) ((wA w).setWidth 5) ((wB w).setWidth 5))
  else if wOp w = 0x08 then
    withType w VType.signed false fun ty => need (isV (wD w) ty.wide && isV (wA w) ty.wide) .reg <| need (wB w == 0) .field <| .ok (.vabs ty ((wD w).setWidth 5) ((wA w).setWidth 5))
  else if wOp w = 0x09 then
    withType w VType.signed false fun ty => need (isV (wD w) ty.wide && isV (wA w) ty.wide) .reg <| need (wB w == 0) .field <| .ok (.vneg ty ((wD w).setWidth 5) ((wA w).setWidth 5))
  else if wOp w = 0x0A then
    withType w (fun _ => true) true fun ty => need (isP (wD w) && isV (wA w) ty.wide && isV (wB w) ty.wide) .reg <| .ok (.vcmp (VCond.of ((wF w).extractLsb' 3 2)) ty ((wD w).setWidth 3) ((wA w).setWidth 5) ((wB w).setWidth 5))
  else if wOp w = 0x0B then
    withType w (fun _ => true) false fun ty => need (isV (wD w) ty.wide && isV (wA w) ty.wide && isP (wB w)) .reg <| .ok (.vsel ty ((wD w).setWidth 5) ((wA w).setWidth 5) ((wB w).setWidth 3))
  else if wOp w = 0x0C then
    match Cvt.of (wF w) with
    | none => .error .fn
    | some c => need (isV (wD w) c.wideD && isV (wA w) c.wideA) .reg <| need (wB w == 0) .field <| .ok (.vcvt c ((wD w).setWidth 5) ((wA w).setWidth 5))
  else if wOp w = 0x0D then
    withType w (fun _ => true) false fun ty => need (isV (wD w) ty.wide && isV (wA w) ty.wide) .reg <| need (wB w == 0) .field <| .ok (.vmov ty ((wD w).setWidth 5) ((wA w).setWidth 5))
  else if wOp w = 0x0E then
    withType w (fun ty => ty == .i32) false fun _ => need (isV (wD w) false) .reg <| need (wA w == 0) .field <| need (wB w == 0) .field <| .ok (.vidx ((wD w).setWidth 5))
  else if wOp w = 0x0F then
    withType w VType.divides false fun ty => need (isV (wD w) ty.wide && isV (wA w) ty.wide && isV (wB w) ty.wide) .reg <| .ok (.vdiv ty ((wD w).setWidth 5) ((wA w).setWidth 5) ((wB w).setWidth 5))
  else if wOp w = 0x10 then
    withType w (fun ty => !ty.isF) false fun ty => need (isV (wD w) ty.wide && isV (wA w) ty.wide && isV (wB w) ty.wide) .reg <| .ok (.vand ty ((wD w).setWidth 5) ((wA w).setWidth 5) ((wB w).setWidth 5))
  else if wOp w = 0x11 then
    withType w (fun ty => !ty.isF) false fun ty => need (isV (wD w) ty.wide && isV (wA w) ty.wide && isV (wB w) ty.wide) .reg <| .ok (.vor ty ((wD w).setWidth 5) ((wA w).setWidth 5) ((wB w).setWidth 5))
  else if wOp w = 0x12 then
    withType w (fun ty => !ty.isF) false fun ty => need (isV (wD w) ty.wide && isV (wA w) ty.wide && isV (wB w) ty.wide) .reg <| .ok (.vxor ty ((wD w).setWidth 5) ((wA w).setWidth 5) ((wB w).setWidth 5))
  else if wOp w = 0x13 then
    withType w (fun ty => !ty.isF) false fun ty => need (isV (wD w) ty.wide && isV (wA w) ty.wide) .reg <| need (wB w == 0) .field <| .ok (.vnot ty ((wD w).setWidth 5) ((wA w).setWidth 5))
  else if wOp w = 0x14 then
    withType w (fun ty => !ty.isF) false fun ty => need (isV (wD w) ty.wide && isV (wA w) ty.wide && isV (wB w) ty.wide) .reg <| .ok (.vshl ty ((wD w).setWidth 5) ((wA w).setWidth 5) ((wB w).setWidth 5))
  else if wOp w = 0x15 then
    withType w (fun ty => !ty.isF) false fun ty => need (isV (wD w) ty.wide && isV (wA w) ty.wide && isV (wB w) ty.wide) .reg <| .ok (.vshr ty ((wD w).setWidth 5) ((wA w).setWidth 5) ((wB w).setWidth 5))
  else if wOp w = 0x16 then
    withType w (fun ty => !ty.isF) false fun ty => need (isV (wD w) ty.wide && isV (wA w) ty.wide && isV (wB w) ty.wide) .reg <| .ok (.vsar ty ((wD w).setWidth 5) ((wA w).setWidth 5) ((wB w).setWidth 5))
  else if wOp w = 0x17 then
    withType w (fun ty => !ty.isF) false fun ty => need (isV (wD w) ty.wide && isV (wA w) ty.wide && isV (wB w) ty.wide) .reg <| .ok (.vmulh ty ((wD w).setWidth 5) ((wA w).setWidth 5) ((wB w).setWidth 5))
  else if wOp w = 0x18 then
    withType w (fun ty => ty == .f32) false fun _ => need (isV (wD w) false && isV (wA w) false) .reg <| need (wB w == 0) .field <| .ok (.vexp2 ((wD w).setWidth 5) ((wA w).setWidth 5))
  else if wOp w = 0x19 then
    withType w (fun ty => ty == .f32) false fun _ => need (isV (wD w) false && isV (wA w) false) .reg <| need (wB w == 0) .field <| .ok (.vlog2 ((wD w).setWidth 5) ((wA w).setWidth 5))
  else if wOp w = 0x1A then
    withType w (fun ty => ty == .f32) false fun _ => need (isV (wD w) false && isV (wA w) false) .reg <| need (wB w == 0) .field <| .ok (.vrcp ((wD w).setWidth 5) ((wA w).setWidth 5))
  else if wOp w = 0x1B then
    withType w (fun ty => ty == .f32) false fun _ => need (isV (wD w) false && isV (wA w) false) .reg <| need (wB w == 0) .field <| .ok (.vrsq ((wD w).setWidth 5) ((wA w).setWidth 5))
  else if wOp w = 0x1C then
    withType w (fun ty => ty == .f32) false fun _ => need (isV (wD w) false && isV (wA w) false) .reg <| need (wB w == 0) .field <| .ok (.vsqrt ((wD w).setWidth 5) ((wA w).setWidth 5))
  else if wOp w = 0x1D then
    need (wF w == 0) .fn <| need (isV (wD w) false && isV (wA w) false && isV (wB w) false) .reg <| .ok (.vperm ((wD w).setWidth 5) ((wA w).setWidth 5) ((wB w).setWidth 5))
  else if wOp w = 0x1E then
    match RedOp.of ((wF w).extractLsb' 3 2) with
    | none => .error .fn
    | some op => withType w (fun _ => true) true fun ty => need (isV (wD w) ty.wide && isV (wA w) ty.wide) .reg <| need (wB w == 0) .field <| .ok (.vred op ty ((wD w).setWidth 5) ((wA w).setWidth 5))
  else if wOp w = 0x1F then
    match RedOp.of ((wF w).extractLsb' 3 2) with
    | none => .error .fn
    | some op => withType w (fun _ => true) true fun ty => need (isV (wD w) ty.wide && isV (wA w) ty.wide) .reg <| need (wB w == 0) .field <| .ok (.vscan op ty ((wD w).setWidth 5) ((wA w).setWidth 5))
  else if wOp w = 0x20 then
    need (wF w == 0) .fn <| need (isV (wD w) false) .reg <| need (wA w == 0) .field <| need (wB w == 0) .field <| .ok (.vrnd ((wD w).setWidth 5))
  else if wOp w = 0x21 then
    need (wF w == 0) .fn <| need (isV (wD w) false) .reg <| need (wA w == 0) .field <| need (wB w == 0) .field <| .ok (.vrndu ((wD w).setWidth 5))
  else if wOp w = 0x28 then
    need (wF w == 0) .fn <| need (isP (wD w) && isP (wA w) && isP (wB w)) .reg <| .ok (.pand ((wD w).setWidth 3) ((wA w).setWidth 3) ((wB w).setWidth 3))
  else if wOp w = 0x29 then
    need (wF w == 0) .fn <| need (isP (wD w) && isP (wA w) && isP (wB w)) .reg <| .ok (.por ((wD w).setWidth 3) ((wA w).setWidth 3) ((wB w).setWidth 3))
  else if wOp w = 0x2A then
    need (wF w == 0) .fn <| need (isP (wD w) && isP (wA w) && isP (wB w)) .reg <| .ok (.pxor ((wD w).setWidth 3) ((wA w).setWidth 3) ((wB w).setWidth 3))
  else if wOp w = 0x2B then
    need (wF w == 0) .fn <| need (isP (wD w) && isP (wA w)) .reg <| need (wB w == 0) .field <| .ok (.pnot ((wD w).setWidth 3) ((wA w).setWidth 3))
  else if wOp w = 0x2C then
    need (wF w == 0) .fn <| need (isV (wD w) false && isP (wA w)) .reg <| need (wB w == 0) .field <| .ok (.pcnt ((wD w).setWidth 5) ((wA w).setWidth 3))
  else if wOp w = 0x2D then
    need (wF w == 0) .fn <| need (isV (wD w) false && isP (wA w)) .reg <| need (wB w == 0) .field <| .ok (.pfirst ((wD w).setWidth 5) ((wA w).setWidth 3))
  else if wOp w = 0x2E then
    need (wF w == 0) .fn <| need (isP (wA w)) .reg <| need (wD w == 0) .field <| need (wB w == 0) .field <| .ok (.pmask ((wA w).setWidth 3))
  else if wOp w = 0x2F then
    need (wF w == 0) .fn <| need (wD w == 0) .field <| need (wA w == 0) .field <| need (wB w == 0) .field <| .ok .anop
  else .error .op

/-- CheckWord of R34: the instruction a word holds, whatever its L and S, or the check of R61 that it fails. -/
def decodeWord (w : Word32) : Dec := if wK w = 0 then decodeC w else decodeA w

/-! The encoder. A register field of an A-class p position is 48 + its number (R41). -/
def rv (v : BitVec 5) : BitVec 6 := v.setWidth 6
def rt (t : BitVec 4) : BitVec 6 := t.setWidth 6
def rv7 (v : BitVec 3) : BitVec 6 := v.setWidth 6
def rp (p : BitVec 3) : BitVec 6 := 6#3 ++ p
def tf (sub : BitVec 2) (ty : VType) : BitVec 5 := sub ++ ty.code

/-- The word of an instruction with the given L and S bits; `none` for the asynchronous steps, which no word encodes. -/
def encodeWith (l s : BitVec 1) : Instr → Option Word32
  | .add d a b => some (fRRR l s 0 0x00 d a b 0)
  | .sub d a b => some (fRRR l s 0 0x00 d a b 1)
  | .and d a b => some (fRRR l s 0 0x00 d a b 2)
  | .or d a b => some (fRRR l s 0 0x00 d a b 3)
  | .xor d a b => some (fRRR l s 0 0x00 d a b 4)
  | .andn d a b => some (fRRR l s 0 0x00 d a b 5)
  | .shl d a b => some (fRRR l s 0 0x00 d a b 6)
  | .shr d a b => some (fRRR l s 0 0x00 d a b 7)
  | .sar d a b => some (fRRR l s 0 0x00 d a b 8)
  | .rol d a b => some (fRRR l s 0 0x00 d a b 9)
  | .min d a b => some (fRRR l s 0 0x00 d a b 10)
  | .max d a b => some (fRRR l s 0 0x00 d a b 11)
  | .minu d a b => some (fRRR l s 0 0x00 d a b 12)
  | .maxu d a b => some (fRRR l s 0 0x00 d a b 13)
  | .slt d a b => some (fRRR l s 0 0x00 d a b 14)
  | .sltu d a b => some (fRRR l s 0 0x00 d a b 15)
  | .seq d a b => some (fRRR l s 0 0x00 d a b 16)
  | .clz d a => some (fRRR l s 0 0x00 d a 0 17)
  | .popc d a => some (fRRR l s 0 0x00 d a 0 18)
  | .mul d a b => some (fRRR l s 0 0x00 d a b 19)
  | .mulh d a b => some (fRRR l s 0 0x00 d a b 20)
  | .mulhu d a b => some (fRRR l s 0 0x00 d a b 21)
  | .div d a b => some (fRRR l s 0 0x00 d a b 22)
  | .divu d a b => some (fRRR l s 0 0x00 d a b 23)
  | .rem d a b => some (fRRR l s 0 0x00 d a b 24)
  | .remu d a b => some (fRRR l s 0 0x00 d a b 25)
  | .addi d a i => some (fRRI l s 1 d a i)
  | .andi d a i => some (fRRI l s 2 d a i)
  | .ori d a i => some (fRRI l s 3 d a i)
  | .xori d a i => some (fRRI l s 4 d a i)
  | .shli d a i => some (fRRI l s 5 d a (i.setWidth 11))
  | .shri d a i => some (fRRI l s 6 d a (i.setWidth 11))
  | .sari d a i => some (fRRI l s 7 d a (i.setWidth 11))
  | .slti d a i => some (fRRI l s 8 d a i)
  | .li d i => some (fRI l s 9 d i)
  | .lih d i => some (fRI l s 10 d i)
  | .sel d a b => some (fRRR l s 0 0x0B d a b 0)
  | .b c a b i => some (fCB l s 0x10 c.code a b i)
  | .j i => some (fJ l s 0x11 i)
  | .jal i => some (fJ l s 0x12 i)
  | .jalr d a i => some (fRRI l s 0x13 d a i)
  | .start d a b => some (fRRR l s 0 0x14 d a b 0)
  | .endt => some (fRRR l s 0 0x15 0 0 0 0)
  | .nop => some (fRRR l s 0 0x16 0 0 0 0)
  | .ld d a z i => some (fM l s 0x18 d a z.code i)
  | .st d a z i => some (fM l s 0x19 d a z.code i)
  | .ldv d a i => some (fM l s 0x1A d a 3 i)
  | .recl a b => some (fRRR l s 0 0x1B 0 a b 0)
  | .fence sc => some (fRRR l s 0 0x1C 0 0 0 sc.code)
  | .pool a => some (fRRR l s 0 0x1D 0 a 0 0)
  | .copy d a b => some (fRRR l s 0 0x1E d a b 0)
  | .copyc d a b => some (fRRR l s 0 0x1E d a b 1)
  | .halo d a b => some (fRRR l s 0 0x1E d a b 2)
  | .wmark d a b n => some (fRRR l s 0 0x1F d a b (n.setWidth 5))
  | .send a b => some (fRRR l s 0 0x20 0 a b 0)
  | .reply a b => some (fRRR l s 0 0x21 0 a b 0)
  | .recvp a b => some (fRRR l s 0 0x22 0 a b 0)
  | .recvpCancel a => some (fRRR l s 0 0x22 0 a 0 1)
  | .atomAdd d a b => some (fRRR l s 0 0x23 d a b 0)
  | .atomMax d a b => some (fRRR l s 0 0x23 d a b 1)
  | .atomMin d a b => some (fRRR l s 0 0x23 d a b 2)
  | .atomMaxu d a b => some (fRRR l s 0 0x23 d a b 3)
  | .atomMinu d a b => some (fRRR l s 0 0x23 d a b 4)
  | .atomSwap d a b => some (fRRR l s 0 0x23 d a b 5)
  | .atomCas d a b => some (fRRR l s 0 0x23 d a b 6)
  | .atomOr d a b => some (fRRR l s 0 0x23 d a b 7)
  | .atomAnd d a b => some (fRRR l s 0 0x23 d a b 8)
  | .atomXor d a b => some (fRRR l s 0 0x23 d a b 9)
  | .atomFmax32 d a b => some (fRRR l s 0 0x23 d a b 10)
  | .cadd a b => some (fRRR l s 0 0x24 0 a b 0)
  | .cread d a => some (fRRR l s 0 0x24 d a 0 1)
  | .carm d a b => some (fRRR l s 0 0x24 d a b 2)
  | .cset a b => some (fRRR l s 0 0x24 0 a b 3)
  | .cflt d a => some (fRRR l s 0 0x24 d a 0 4)
  | .cwait a b w => some (fRRR l s 0 0x25 0 a b w)
  | .qwait d a w => some (fRRI l s 0x26 d a (w.setWidth 11))
  | .chbind d a b => some (fRRR l s 0 0x27 d a b 0)
  | .chset d a b => some (fRRR l s 0 0x27 d a b 1)
  | .chq d a b => some (fRRR l s 0 0x27 d a b 2)
  | .rdrem d a b => some (fRRR l s 0 0x27 d a b 3)
  | .rdsend d a b => some (fRRR l s 0 0x27 d a b 4)
  | .thdr t a => some (fRRR l s 0 0x28 (rt t) a 0 0)
  | .tsth t a => some (fRRR l s 0 0x28 (rt t) a 0 1)
  | .tmake t a b => some (fRRR l s 0 0x28 (rt t) a b 2)
  | .tset t a b => some (fRRR l s 0 0x28 (rt t) a b 3)
  | .tget d t => some (fRRR l s 0 0x28 d (rt t) 0 4)
  | .lease => some (fRRR l s 0 0x29 0 0 0 0)
  | .mrel => some (fRRR l s 0 0x29 0 0 0 1)
  | .mstat d => some (fRRR l s 0 0x29 d 0 0 2)
  | .mma c a b => some (fRRR l s 0 0x2A (rt c) (rt a) (rt b) 0)
  | .mmag c a b k => some (fRRR l s 0 0x2A (rt c) (rt a) (rt b) k)
  | .mzero c => some (fRRR l s 0 0x2A 63 (rt c) 0 0)
  | .mdrain c a => some (fRRR l s 0 0x2B (rt c) a 0 0)
  | .tcvt d a => some (fRRR l s 0 0x2C (rt d) (rt a) 0 0)
  | .aqadd d a b => some (fRRR l s 0 0x2D (rt d) (rt a) (rt b) 0)
  | .jqnext d a => some (fRRR l s 0 0x2E d a 0 0)
  | .ptcfg a b => some (fRRR l s 0 0x30 0 a b 0)
  | .pset a b => some (fRRR l s 0 0x30 0 a b 1)
  | .pget d a b => some (fRRR l s 0 0x30 d a b 2)
  | .psum d a => some (fRRR l s 0 0x30 d a 0 3)
  | .nextev d w => some (fRRR l s 0 0x31 d 0 0 w)
  | .evsend a b => some (fRRR l s 0 0x32 0 a b 0)
  | .snap => some (fRRR l s 0 0x33 0 0 0 0)
  | .rollb a => some (fRRR l s 0 0x33 0 a 0 1)
  | .slog a b => some (fRRR l s 0 0x33 0 a b 2)
  | .fossil a => some (fRRR l s 0 0x33 0 a 0 3)
  | .horiz a b => some (fRRR l s 0 0x33 0 a b 4)
  | .rkey a b => some (fRRR l s 0 0x34 0 a b 0)
  | .rtab a b => some (fRRR l s 0 0x34 0 a b 1)
  | .rdraw d => some (fRRR l s 0 0x34 d 0 0 2)
  | .ready a => some (fRRR l s 0 0x36 0 a 0 0)
  | .nest a b => some (fRRR l s 0 0x36 0 a b 1)
  | .nexti d a => some (fRRR l s 0 0x36 d a 0 2)
  | .phase d a b => some (fRRR l s 0 0x36 d a b 3)
  | .cbar a => some (fRRR l s 0 0x37 0 a 0 0)
  | .cbarx a => some (fRRR l s 0 0x37 0 a 0 1)
  | .cbcast d a b => some (fRRR l s 0 0x37 d a b 2)
  | .credAdd d a b => some (fRRR l s 0 0x37 d a b 3)
  | .credMin d a b => some (fRRR l s 0 0x37 d a b 4)
  | .credMax d a b => some (fRRR l s 0 0x37 d a b 5)
  | .credOr d a b => some (fRRR l s 0 0x37 d a b 6)
  | .credAnd d a b => some (fRRR l s 0 0x37 d a b 7)
  | .gmem d a => some (fRRR l s 0 0x37 d a 0 8)
  | .sbind v a => some (fRRR l s 0 0x38 (rv7 v) a 0 0)
  | .sfree v => some (fRRR l s 0 0x38 (rv7 v) 0 0 1)
  | .spos d v => some (fRRR l s 0 0x38 d (rv7 v) 0 2)
  | .srep n => some (fRI l s 0x39 0 n)
  | .vbcast v a => some (fRRR l s 0 0x3A (rv v) a 0 0)
  | .vext d v b => some (fRRR l s 0 0x3A d (rv v) b 1)
  | .vins v a b => some (fRRR l s 0 0x3A (rv v) a b 2)
  | .trap a => some (fRRR l s 0 0x3C 0 a 0 0)
  | .brk => some (fRRR l s 0 0x3C 0 0 0 1)
  | .halt => some (fRRR l s 0 0x3C 0 0 0 2)
  | .csrr d a => some (fRRR l s 0 0x3D d a 0 0)
  | .csrw a b => some (fRRR l s 0 0x3D 0 a b 1)
  | .pmrd d a => some (fRRR l s 0 0x3D d a 0 2)
  | .vadd ty d a b => some (fRRR l s 1 0x00 (rv d) (rv a) (rv b) (tf 0 ty))
  | .vsub ty d a b => some (fRRR l s 1 0x01 (rv d) (rv a) (rv b) (tf 0 ty))
  | .vmul ty d a b => some (fRRR l s 1 0x02 (rv d) (rv a) (rv b) (tf 0 ty))
  | .vfma ty d a b => some (fRRR l s 1 0x03 (rv d) (rv a) (rv b) (tf 0 ty))
  | .vfms ty d a b => some (fRRR l s 1 0x04 (rv d) (rv a) (rv b) (tf 0 ty))
  | .vnfma ty d a b => some (fRRR l s 1 0x05 (rv d) (rv a) (rv b) (tf 0 ty))
  | .vmin ty d a b => some (fRRR l s 1 0x06 (rv d) (rv a) (rv b) (tf 0 ty))
  | .vmax ty d a b => some (fRRR l s 1 0x07 (rv d) (rv a) (rv b) (tf 0 ty))
  | .vabs ty d a => some (fRRR l s 1 0x08 (rv d) (rv a) 0 (tf 0 ty))
  | .vneg ty d a => some (fRRR l s 1 0x09 (rv d) (rv a) 0 (tf 0 ty))
  | .vcmp c ty p a b => some (fRRR l s 1 0x0A (rp p) (rv a) (rv b) (tf c.code ty))
  | .vsel ty d a p => some (fRRR l s 1 0x0B (rv d) (rv a) (rp p) (tf 0 ty))
  | .vcvt c d a => some (fRRR l s 1 0x0C (rv d) (rv a) 0 c.code)
  | .vmov ty d a => some (fRRR l s 1 0x0D (rv d) (rv a) 0 (tf 0 ty))
  | .vidx d => some (fRRR l s 1 0x0E (rv d) 0 0 1)
  | .vdiv ty d a b => some (fRRR l s 1 0x0F (rv d) (rv a) (rv b) (tf 0 ty))
  | .vand ty d a b => some (fRRR l s 1 0x10 (rv d) (rv a) (rv b) (tf 0 ty))
  | .vor ty d a b => some (fRRR l s 1 0x11 (rv d) (rv a) (rv b) (tf 0 ty))
  | .vxor ty d a b => some (fRRR l s 1 0x12 (rv d) (rv a) (rv b) (tf 0 ty))
  | .vnot ty d a => some (fRRR l s 1 0x13 (rv d) (rv a) 0 (tf 0 ty))
  | .vshl ty d a b => some (fRRR l s 1 0x14 (rv d) (rv a) (rv b) (tf 0 ty))
  | .vshr ty d a b => some (fRRR l s 1 0x15 (rv d) (rv a) (rv b) (tf 0 ty))
  | .vsar ty d a b => some (fRRR l s 1 0x16 (rv d) (rv a) (rv b) (tf 0 ty))
  | .vmulh ty d a b => some (fRRR l s 1 0x17 (rv d) (rv a) (rv b) (tf 0 ty))
  | .vexp2 d a => some (fRRR l s 1 0x18 (rv d) (rv a) 0 0)
  | .vlog2 d a => some (fRRR l s 1 0x19 (rv d) (rv a) 0 0)
  | .vrcp d a => some (fRRR l s 1 0x1A (rv d) (rv a) 0 0)
  | .vrsq d a => some (fRRR l s 1 0x1B (rv d) (rv a) 0 0)
  | .vsqrt d a => some (fRRR l s 1 0x1C (rv d) (rv a) 0 0)
  | .vperm d a b => some (fRRR l s 1 0x1D (rv d) (rv a) (rv b) 0)
  | .vred op ty d a => some (fRRR l s 1 0x1E (rv d) (rv a) 0 (tf op.code ty))
  | .vscan op ty d a => some (fRRR l s 1 0x1F (rv d) (rv a) 0 (tf op.code ty))
  | .vrnd d => some (fRRR l s 1 0x20 (rv d) 0 0 0)
  | .vrndu d => some (fRRR l s 1 0x21 (rv d) 0 0 0)
  | .pand d a b => some (fRRR l s 1 0x28 (rp d) (rp a) (rp b) 0)
  | .por d a b => some (fRRR l s 1 0x29 (rp d) (rp a) (rp b) 0)
  | .pxor d a b => some (fRRR l s 1 0x2A (rp d) (rp a) (rp b) 0)
  | .pnot d a => some (fRRR l s 1 0x2B (rp d) (rp a) 0 0)
  | .pcnt d p => some (fRRR l s 1 0x2C (rv d) (rp p) 0 0)
  | .pfirst d p => some (fRRR l s 1 0x2D (rv d) (rp p) 0 0)
  | .pmask p => some (fRRR l s 1 0x2E 0 (rp p) 0 0)
  | .anop => some (fRRR l s 1 0x2F 0 0 0 0)
  | .variableLatencyResult _ => none
  | .taskEnd _ _ => none
  | .deferredFault _ _ => none
  | .waitExpiry _ _ => none
  | .catenaryArrival _ _ => none
  | .catenaryWithdrawal _ _ => none
  | .catenaryCompletion _ _ => none
  | .taskDispatch _ => none
  | .starve _ _ => none
  | .stealAttempt _ => none
  | .stealBackoffExpiry _ => none
  | .stealRequest _ => none
  | .stealServe _ => none
  | .stealAnswer _ => none
  | .msgArrival _ => none
  | .replyArrival _ => none
  | .refusedReply _ => none
  | .refusedHalted _ => none
  | .refusedUnbound _ => none
  | .refusedNocore _ => none
  | .taggedArrival _ => none
  | .atomRequest _ => none
  | .atomPerform _ => none
  | .atomr _ => none
  | .drainMerge _ => none
  | .caddm _ => none
  | .counterPendingPush _ _ => none
  | .engineFaultSetting _ => none
  | .rdreq _ => none
  | .rdreqPerform _ => none
  | .rddata _ => none
  | .contrib _ => none
  | .contribAccept _ _ => none
  | .diePartial _ => none
  | .timedArrival _ => none
  | .cancelArrival _ => none
  | .timedResend _ => none
  | .cancelSend _ => none
  | .faultRecord _ => none
  | .releaseArrival _ => none
  | .hostReport _ => none
  | .stationMessage _ => none
  | .get _ => none
  | .put _ => none
  | .gcopy _ => none
  | .move _ => none
  | .haloRequest _ => none
  | .copyBeat _ => none
  | .putx _ => none
  | .outboundEnvelope _ => none
  | .inboundMessage _ _ _ _ _ => none
  | .linkDown _ _ => none
  | .turntableRunEnd _ _ => none
  | .mzeroRun _ _ => none
  | .mmaRun _ _ => none
  | .mdrainRun _ _ => none
  | .tileUnitRun _ => none
  | .engineCommandComplete _ => none
  | .jqnextServe _ => none
  | .claimServe _ => none
  | .storeLanePerform _ _ => none
  | .sliceLoadServe _ => none
  | .heldWritePerform _ _ => none
  | .versionHoldExpiry _ _ => none
  | .ldvHoldExpiry _ => none
  | .watermarkStallExpiry _ _ => none
  | .rdsendExpiry _ _ => none
  | .leaseExpiry _ _ => none
  | .lineEviction _ _ => none
  | .translationFill _ _ => none
  | .walkComplete _ _ => none
  | .pagereqHoldExpiry _ _ => none
  | .poolClearDone _ => none
  | .softErrorCorrected _ => none
  | .uncorrectableError _ => none
  | .launchDispatch _ => none
  | .go _ => none
  | .goComplete _ => none
  | .sweep _ => none
  | .launchEnd _ => none
  | .quantumTapArrival _ => none
  | .quantumClose _ => none
  | .preemptStop _ => none
  | .contextSave _ => none
  | .translationBroadcast _ => none
  | .loadImage _ _ _ => none
  | .launch _ _ => none
  | .cancelLaunch _ _ => none
  | .preempt _ _ => none
  | .resume _ _ => none
  | .mapPages _ _ => none
  | .unmapPages _ _ => none
  | .tlbflush _ _ => none
  | .queryDomainState _ _ => none
  | .querySliceCapacities _ _ => none
  | .queryHarvestState _ _ => none
  | .queryPackageFigures _ _ => none
  | .pmread _ _ => none
  | .partcfg _ _ => none
  | .reset _ _ => none
  | .cqhead _ _ => none
  | .registerWrite _ _ _ => none
  | .bar4Read _ _ => none
  | .bar4Write _ _ _ => none
  | .freeze _ => none
  | .thaw _ => none
  | .debugEnable _ => none
  | .powerGood => none
  | .overtemp => none
  | .undecodableWord _ _ _ => none
  | .streamBeatArrival _ _ _ => none
  | .inboundPutx _ _ _ _ _ => none
  | .coolantLimitDerate _ => none

/-- The lone word of an instruction, S clear. -/
def encode (i : Instr) : Option Word32 := encodeWith 1 0 i

/-- The instruction the decoder reads from an instruction whose bits are `w`, numbered as the opcode table numbers them. -/
def decodeTableWord (nbits w : Nat) : Option Instr :=
  if nbits ≤ 32 then
    match decodeWord (BitVec.ofNat 32 (w % 2 ^ nbits)) with
    | .ok i => some i
    | .error _ => none
  else none

end Sys2Proof
end

