-- ==== Sys2Proof/Config.lean ====
section
/-! DEFINITION. What an implementation fixes and the spec does not state: free values, of which nothing is known. -/

namespace Sys2Proof

/-- A word the spec leaves undefined or unstated, numbered by the draws of `State.free`. -/
opaque Config.freeWord : Nat → Word

/-- How many superseded values each slice's version store holds beyond six: R253 gives no figure, and R247's program needs six (log 11). -/
opaque Config.versionStoreMore : Nat

/-- Whether the engine thread of a number reads a word at a moment that was there since its fork: R274 leaves each read any moment. -/
opaque Config.readsAt : (thread cycle word : Nat) → Bool

/-- How many of the writes that it has still to make the engine thread of a number makes in a cycle (R264, R274). -/
opaque Config.writesIn : (thread cycle : Nat) → Nat

/-- Where the save areas of a handle begin in the reserved region of a partition's slice: R262 gives no place (log 15). -/
opaque Config.areaAt : (part handle : Nat) → Nat

end Sys2Proof
end

