-- ==== Sys2Proof/Machine/State.lean ====
section
/-! DEFINITION. The state of one BHD-3264 module as plain data: its cores, Turntables, slices, network, launch domains
and host queues, the step's own bookkeeping, the reset state, and the reasons a step can stop. -/

namespace Sys2Proof.Machine
open Sys2Proof

/-- Why the model stops with a fault. Every fault the spec names is TAKEN (a record is delivered and the context meets
its fate, R322), so it is a next state and none of these. -/
inductive Fault
  /-- Raised by nothing in this model; kept so that the outcome type has a name for a machine that cannot go on. Safe. -/
  | stuck
  deriving DecidableEq, Repr

/-- Why the model gives an instruction no meaning. -/
inductive Refusal
  /-- Raised by an arm of `exec` whose instruction has no meaning yet. Safe: no claim about it can be proved. -/
  | notModelled (mnemonic : String)
  deriving DecidableEq, Repr

/-- Context states (R16). -/
inductive CtxSt
  | free | ready | stalled | parked | waiting | halted
  deriving DecidableEq, Repr

/-- Fault codes (R321). -/
inductive FCode
  | ill | pair | hazard | align | xlate | perm | pool | poolbusy | wait | cntovr
  | hdrchk | hdrfld | shape | combo | lease | vgone | vfull | notmem | grpbusy | ovqfull
  | rate | siding | tabend | ctxlanes | engine | ecc | trap | brk | stream | starve
  deriving DecidableEq, Repr

/-- What a fault reports: code, object identity, index values, address and detail words (R54, R319). -/
structure Flt where
  code : FCode
  obj  : Word := 0
  a    : Word := 0
  b    : Word := 0
  addr : Word := 0
  d0   : Word := 0
  d1   : Word := 0
  d2   : Word := 0
  deriving DecidableEq, Repr

/-- A t register: a tile header and its 48-bit address (R132). -/
structure TReg where
  w0   : Word := 0
  w1   : Word := 0
  addr : BitVec 48 := 0
  deriving DecidableEq, Repr

/-- One beat a read stream has fetched: 64 lanes, or the fault its pop would take (R112). -/
structure Beat where
  lanes : List Word32
  flt   : Option Flt
  deriving DecidableEq, Repr

/-- A bound stream (R110 to R112): `fetched` holds the beats read ahead of the pop, `part` the lanes read so far of the beat
after them, and `bound` names the moment of its `SBIND` among the accesses. -/
structure Stream where
  write   : Bool
  et      : BitVec 3
  base    : Word
  counts  : List Nat
  strides : List Int
  pos     : Nat
  fetched : List Beat
  part    : List Word32 := []
  bound   : Nat := 0
  deriving DecidableEq, Repr

/-- The repetition state of `SREP` (R114): body address, bundles in the body, bundles done in this repetition, beat
index and repetition count. -/
structure Srep where
  body : Nat
  n    : Nat
  idx  : Nat
  beta : Nat
  nrep : Nat
  deriving DecidableEq, Repr

/-- A loaded nest slot (R219, R220); `gen` tells one loading of a slot from the next. -/
structure Nest where
  counts : List Nat
  total  : Nat
  least  : Nat
  k      : Nat
  m      : Nat
  name   : Word
  lo     : Nat
  hi     : Nat
  gen    : Nat := 0
  deriving DecidableEq, Repr

/-- What a variable-latency result comes from (R36). -/
inductive OutKind
  | load | ldv (wanted : BitVec 16) (slice : Nat) | atomLocal | atomRemote | claim (slot : Nat) (nest : Nest) | jq | pm (event part : Nat)
  deriving DecidableEq, Repr

/-- An outstanding variable-latency result (R36): the registers it writes (code 64 + n for sn), how many results it
counts for, its values once they have returned, or the fault it returned, and for an atomic its word. -/
structure Outst where
  id    : Nat
  kind  : OutKind
  dests : List Nat
  size  : Nat
  vals  : Option (List Word)
  flt   : Option Flt
  pc    : Nat
  va    : Word := 0
  deriving DecidableEq, Repr

/-- A bounded wait in progress (R42, R43): the waiting instruction, the tick it began, its limit in ticks, and for a
Catenary wait the use it belongs to and whether its arrival has been made. -/
structure Wait where
  instr   : Instr
  start   : Nat
  limit   : Nat
  use     : Nat := 0
  arrived : Bool := false
  ids     : List Nat := []
  deriving DecidableEq, Repr

/-- Why a STALLED context holds its bundle unissued. -/
inductive Stall
  | window | lanes | fence (ids : List Nat) | watermark (ch start : Nat) (a : Word) | seq (id : Nat) | queue | pool
  | xlate (page : Nat) | held (va : Word) (start : Nat) | beat (v : Nat) | quantum | tileUnit
  deriving DecidableEq, Repr

/-- A deferred fault on its way to its context (R284, R320, R323). -/
structure Deferred where
  flt : Flt
  deriving DecidableEq, Repr

/-- A store, a `RECL` or a held engine write in a store lane (R266, R286, R279); `both` marks the first half of a header, which is
written whole (R141). -/
structure LaneEntry where
  id    : Nat
  ctx   : Nat
  slice : Nat
  va    : Word
  pa    : Nat
  n     : Nat
  data  : Word
  versioned : Bool
  recl  : Bool
  pc    : Nat
  held  : Option Nat := none
  both  : Bool := false
  deriving DecidableEq, Repr

/-- One hardware context (R14): its state, program counter, registers, active mask and per-context CSRs (R20 to R23,
R336), what it has outstanding, at how many outstanding results its PARKED bundle may issue (R36, R37), the stores of its last bundle that wait for room in its lanes, the oldest store, which is to make it (R283),
the channel in which its STALLED bundle has reserved a slot (R177), and the translations that its STALLED bundle has been answered (R331). -/
structure Ctx where
  st       : CtxSt := .free
  pc       : Nat := 0
  s        : AMap Word := []
  v        : AMap (List Word32) := []
  p        : AMap Word := []
  t        : AMap TReg := []
  amask    : Word := BitVec.allOnes 64
  flags    : BitVec 6 := 0
  frm      : BitVec 2 := 0
  ccnt     : Word := 0
  wlim     : BitVec 5 := 20
  rkey0    : Word32 := 0
  rkey1    : Word32 := 0
  rord     : BitVec 46 := 0
  leaserun : BitVec 5 := 16
  rsid     : BitVec 17 := 0
  retired  : Word := 0
  pending  : List Nat := []
  outs     : List Outst := []
  upTo     : Nat := 0
  push     : List LaneEntry := []
  oldest   : Option Nat := none
  resv     : Option Nat := none
  streams  : AMap Stream := []
  srep     : Option Srep := none
  nests    : AMap Nest := []
  rtab     : Option (Word × Word) := none
  heldQ    : Option (Nat × Nat) := none
  task     : Option (Nat × Nat) := none
  wait     : Option Wait := none
  stall    : Option Stall := none
  deferred : Option Deferred := none
  ending   : Bool := false
  startOn  : List Nat := []
  retiredQ : Nat := 0
  phases   : AMap Word := []
  xmiss    : Option Nat := none
  xhave    : List (Nat × Bool × Word) := []
  deriving DecidableEq, Repr

/-- A counter cell (R184), with the widest scope of the releases it has counted (R271). -/
structure Cell where
  value    : Word := 0
  target   : Word := 0
  armed    : Bool := false
  fired    : Bool := false
  fault    : Bool := false
  pend     : Bool := false
  cause    : Byte := 0
  lastctx  : BitVec 4 := 0
  lastcore : BitVec 12 := 0
  desc     : BitVec 23 := 0
  acq      : Scope := .ctx
  deriving DecidableEq, Repr

/-- What an occupied ring slot holds. -/
inductive SlotKind
  | msg | reply | refusal | fault | desc (off : Nat) (inline : Bool) | timed | cancel
  deriving DecidableEq, Repr

/-- An occupied ring slot (R171, R194, R208): what it holds, whether a task has taken it, whether its MSG was answered,
the header, the sending core, the port an inbound message came through and the package it came from, the scope of the release it
carries, the cycle it landed in, the counter that pushed it, and the accesses that a `READY`'s release holds it for. -/
structure Slot where
  kind     : SlotKind
  taken    : Bool := false
  answered : Bool := false
  hdr      : Word := 0
  src      : Nat := 0
  port     : Option Nat := none
  pkg      : Nat := 0
  scope    : Scope := .core
  landed   : Nat := 0
  ctr      : Option Nat := none
  waits    : List Nat := []
  deriving DecidableEq, Repr

/-- A channel (R179): `slots` lists the occupied ring slots, `wr` is where the next arrival is placed, `freed` lists the slots
that came free in this cycle and accept from the next on (R211), and `was` keeps the handler and priority that a `CHSET` of
this cycle replaced, with the cycle (R214). -/
structure Channel where
  bound    : Bool := false
  handler  : Word32 := 0
  ring     : Nat := 0
  depth    : Nat := 0
  prio     : Nat := 0
  share    : Bool := false
  head     : Nat := 0
  wr       : Nat := 0
  reserved : Nat := 0
  slots    : AMap Slot := []
  freed    : List Nat := []
  was      : Option (Word32 × Nat × Nat) := none
  waitFrom : Option (Nat × Nat) := none
  waitMax  : Nat := 8
  deriving DecidableEq, Repr

/-- A posted receive (R182, R195). -/
structure Posted where
  buf : Nat
  cnt : Nat
  tw  : Bool
  sw  : Bool
  src : BitVec 12
  tag : BitVec 16
  deriving DecidableEq, Repr

/-- A watermark channel (R260, R293): offsets, the byte ranges written beyond the mark, and those of the last cycle with a beat. -/
structure Wmark where
  base  : Nat := 0
  limit : Nat := 0
  mark  : Nat := 0
  parts : List (Nat × Nat) := []
  beats : List (Nat × Nat) := []
  at_   : Nat := 0
  deriving DecidableEq, Repr

/-- Where an atomic or a merge is performed: the owner's pool or physical memory. -/
inductive Place
  | pool (off : Nat) | phys (pa : Nat) (versioned : Bool)
  deriving DecidableEq, Repr

/-- A member's contribution to a reduction (R206): member core and context, the value, where the result goes, the
completion counter, and the channel of its fault records. -/
structure Contrib where
  core   : Nat
  ctx    : Nat
  value  : Word
  result : Nat
  cnt    : Word
  rchan  : Nat
  deriving DecidableEq, Repr

/-- What a packet in the network carries (R176), in the launch-relative form of its header, with the hardware's own
fields for the kinds whose layout the spec leaves to the hardware. -/
inductive Body
  /-- MSG, TAGGED, TIMED, CANCEL, REPLY, RDDATA and the refusals: header and payload. -/
  | words (hdr : Word) (payload : List Word)
  | atom (op : Nat) (place : Place) (size : Nat) (operand expect : Word) (ctx out : Nat)
  | atomr (ctx out : Nat) (value : Word) (flt : Option Flt)
  | refusedAtom (ctx out : Nat) (hdr : Word)
  | cadd (index : Nat) (amount : Word) (core : BitVec 12) (ctx : BitVec 4) (name : Word)
  | rdreq (hdr : Word) (off bytes : Nat)
  | contrib (g block op rchan : Nat) (use : Nat) (value : Word) (result : Nat) (cnt : Word) (ctx : Nat)
  | diePart (g block op use die : Nat) (value : Word) (got : List Contrib) (bad : Option (Nat × Nat))
  | fault (chan : Nat) (record : List Word) (reserved : Bool)
  | release (chan : Nat) (timed : Option Nat)
  | refusedTimed (kind chan : Nat) (old : Word) (pkt : Nat)
  | request (hdr : Word) (payload : List Word)
  | stealReq (ring : Nat)
  | stealAns (ring : Nat) (desc : Option (List Byte)) (scope : Scope)
  | merge (place : Place) (value : Word) (eng : Nat)
  | faultSet (index : Nat)
  | claim (name : Word) (total least k m : Nat) (ctx out : Nat)
  | jq (queue round total : Nat) (ctx out : Nat)
  /-- A PUTX from another package that waits for the next quantum start (R350). -/
  | putIn (hdr route : Word) (off : Nat) (bytes : List Byte) (cnt : Word)
  | heldIn (hdr route : Word) (payload : List Word)
  deriving DecidableEq, Repr

/-- A packet in the network (R187): sender and receiver keys, the results and lane entries its release waits for
(R270), the scope of that release, whether deterministic mode lets it be delivered yet (R243), for an engine's item the
issuing core and its issue sequence (R243), and for a message that a station holds when it came (R246). -/
structure Packet where
  id       : Nat
  src      : Nat
  srcCtx   : Nat
  dst      : Nat
  body     : Body
  waits    : List Nat
  scope    : Scope
  released : Bool
  engine   : Option (Nat × Nat) := none
  came     : Option Nat := none
  deriving DecidableEq, Repr

/-- A request queued at a handler thread (R183). -/
inductive HReq
  | atom (src : Nat) (op : Nat) (place : Place) (size : Nat) (operand expect : Word) (ctx out : Nat)
  | rdreq (src : Nat) (hdr : Word) (off bytes : Nat)
  | steal (src ring : Nat)
  | merge (place : Place) (value : Word) (eng src : Nat)
  deriving DecidableEq, Repr

/-- A load that a slice has still to serve (R267, R284). -/
structure LoadReq where
  id    : Nat
  core  : Nat
  ctx   : Nat
  va    : Word
  pa    : Nat
  n     : Nat
  attr  : BitVec 2
  want  : Option (BitVec 16)
  start : Nat
  limit : Nat
  pc    : Nat
  deriving DecidableEq, Repr

/-- An event key (R304): time, sender region (none is below every region) and sender sequence. -/
structure EvKey where
  time   : Word := 0
  region : Option Nat := none
  seq    : Nat := 0
  deriving DecidableEq, Repr

/-- An entry of the timed inbox (R303 to R305), at its slot of ch61; `done` is its place in the order of processing, `pkt`
the packet it came in, and `gone` that of the TIMED that a CANCEL cancels. -/
structure InEntry where
  slot   : Nat
  cancel : Bool
  key    : EvKey
  src    : Nat
  landed : Nat
  done   : Option Nat
  pkt    : Nat := 0
  gone   : Option Nat := none
  deriving DecidableEq, Repr

/-- A Siding log entry: a leaf's old value or eight old scratchpad bytes (R307). -/
inductive LogEntry
  | leaf (i : Nat) (old : Word32)
  | bytes (off : Nat) (old : Word)
  deriving DecidableEq, Repr

/-- A send record, and a CANCEL in the cancel queue (R307, R308). -/
structure SendRec where
  hdr  : Word
  time : Word
  seq  : BitVec 32
  pkt  : Nat
  deriving DecidableEq, Repr

/-- A snapshot (R307). -/
structure Snap where
  clock : Word
  rord  : BitVec 46
  seq   : BitVec 32
  last  : EvKey
  logN  : Nat
  sendN : Nat
  doneN : Nat
  deriving DecidableEq, Repr

/-- A TIMED or CANCEL sent whose RELEASE has not returned, and a refused one that waits to be sent again (R296, R306); `gone` is the packet
of the TIMED that a CANCEL cancels. -/
structure InFlight where
  hdr     : Word
  payload : List Word
  time    : Word
  pkt     : Nat
  cancel  : Bool
  again   : Option Nat
  gone    : Option Nat := none
  deriving DecidableEq, Repr

/-- A RELEASE owed for a TIMED or CANCEL taken into the inbox (R296, R305). -/
structure Owed where
  src    : Nat
  chan   : Nat
  pkt    : Nat
  landed : Nat
  deriving DecidableEq, Repr

/-- The event engine of a core (R299 to R309). -/
structure EvEngine where
  owner   : Option Nat := none
  n       : Nat := 0
  leaves  : AMap Word32 := []
  clock   : Word := 0
  gvt     : Word := 0
  h       : Word := 0
  e       : Word := 0
  seq     : BitVec 32 := 0
  last    : EvKey := {}
  snaps   : List Snap := []
  log     : List LogEntry := []
  sends   : List SendRec := []
  cancels : List SendRec := []
  inbox   : List InEntry := []
  doneN   : Nat := 0
  owed    : List Owed := []
  flight  : List InFlight := []
  deriving DecidableEq, Repr

/-- A Turntable or tile-unit command (R140, R150 to R152): its operands as they were at issue, and the accesses that its fork
waits for (R153, R270). -/
structure TCmd where
  id    : Nat
  op    : Instr
  ctx   : Nat
  ta    : TReg
  tb    : TReg
  tc    : TReg
  rows  : List Nat
  amax  : Option Word
  mode  : Nat
  ccnt  : Word
  waits : List Nat := []
  deriving DecidableEq, Repr

/-- A core's lessee slot at its Turntable (R147); modes are 0 none, 1 L6, 2 L8, 3 BF16; the accumulators are integers
in L modes and FP32 patterns in BF16 mode, row by row. `iRows`, `iCols` and `iMode` are the shape and mode that the queued commands will leave. -/
structure TSlot where
  rows    : Nat := 0
  cols    : Nat := 0
  mode    : Nat := 0
  eA      : List Int := []
  eB      : List Int := []
  acc     : List Int := []
  sat     : List Bool := []
  nar     : List Bool := []
  live    : Bool := false
  spilled : Bool := false
  holds   : Bool := false
  mrel    : Bool := false
  waits   : Bool := false
  queue   : List TCmd := []
  iRows   : Nat := 0
  iCols   : Nat := 0
  iMode   : Nat := 0
  deriving DecidableEq, Repr

/-- A Turntable (R148). -/
structure Turntable where
  slots    : AMap TSlot := []
  current  : Option Nat := none
  last     : Nat := 7
  runN     : Nat := 0
  runLimit : Nat := 16
  runStart : Nat := 0
  deriving DecidableEq, Repr

/-- An engine command that has run and has still to complete (R152); `ws` lists what it has still to write, by pool offset (R274), and `page` keeps the value of an amax merge that waits for a
translation, and when its hold began (R334). -/
structure Fin where
  id    : Nat
  core  : Nat
  ctx   : Nat
  flags : BitVec 6
  ccnt  : Word
  flt   : Option Flt
  merge : Bool
  turn  : Option Nat
  amax  : Word := 0
  page  : Option (Nat × Nat) := none
  ws    : List (Nat × List (BitVec 8)) := []
  deriving DecidableEq, Repr

/-- One run of bytes that a copy has still to move, the halo counter that its end adds to (R255 to R261), and whether it is a header,
which is written whole (R141). -/
structure Piece where
  src  : Word
  dst  : Word
  len  : Nat
  halo : Option (Nat × Nat) := none
  whole : Bool := false
  deriving DecidableEq, Repr

/-- A copy at its streamer (R257 to R261): what is still to be moved, run by run, and the bytes written. A tile copy has no
runs until its headers and areas have been read; `snap` holds bytes read ahead; `part` counts the bytes of the beat under way, which its
watermark does not count yet (R260); `held` and `page` hold a write that waits for version-store room and an access that waits for a
translation. -/
structure CopyJob where
  id     : Nat
  kind   : Nat
  core   : Nat
  ctx    : Nat
  hdr    : Word
  cnt    : Word
  src    : Word
  dst    : Word
  tile   : Bool
  wm     : Option Nat
  pieces : List Piece := []
  done   : Nat := 0
  snap   : List Byte := []
  part   : Nat := 0
  held   : Option Nat := none
  page   : Option (Word × Nat) := none
  deriving DecidableEq, Repr

/-- A core (R14, R25, R118, R179 to R186, R249, R260, R265). `imem` holds instruction memory by byte; `pool` the
scratchpad and accumulator windows by their local offset (R26); `undef` lists the pool bytes whose content the spec leaves
undefined, each with the number of its free value; `won` is the cell of the `CWAIT` that last succeeded at issue, with its cycle:
it counts the cycle's later adds too (R275). -/
structure Core where
  ctxs       : AMap Ctx := []
  imem       : List Host.Cell := []
  pool       : List Host.Cell := []
  undef      : AMap Nat := []
  rfu        : Nat := 1
  acc        : Nat := 0
  counters   : AMap Cell := []
  channels   : AMap Channel := []
  posted     : List Posted := []
  overflow   : List Packet := []
  lord       : AMap (BitVec 46) := []
  wmarks     : AMap Wmark := []
  handler    : List HReq := []
  hheld      : Option Nat := none
  lanes      : List LaneEntry := []
  lbuf       : AMap (List Byte) := []
  tlb        : List (Nat × Bool × Word) := []
  event      : EvEngine := {}
  tileQ      : List TCmd := []
  last       : Nat := 10
  served     : AMap Nat := []
  window     : Nat := 32
  awaiting   : Nat := 0
  unmarked   : Nat := 0
  frozen     : Bool := false
  dbg        : Bool := false
  brkAt      : Option (Nat × Nat) := none
  clearing   : Bool := false
  busy       : Nat := 0
  stealOut   : Option (Nat × Nat) := none
  stealNext  : Nat := 0
  stealWait  : Option Nat := none
  starts     : Bool := false
  resident   : Option Word := none
  failed     : Bool := false
  tapped     : Bool := false
  rdsends    : AMap (List Nat) := []
  won        : Option (Nat × Nat) := none
  deriving DecidableEq, Repr

/-- The state a die gateway keeps for one group (R206); `parts` lists die, use, op, block and value of the partials, and `past` the uses
whose mismatch every member has been told of. -/
structure Gate where
  use      : Nat := 1
  inflight : Nat := 0
  op       : Nat := 0
  block    : Nat := 0
  bad      : Option (Nat × Nat) := none
  got      : List Contrib := []
  parts    : List (Nat × Nat × Nat × Nat × Word) := []
  all      : List Contrib := []
  allBad   : Option (Nat × Nat) := none
  past     : List Nat := []
  waiting  : List Packet := []
  deriving DecidableEq, Repr

/-- The state of one partition (R28, R30, R31, R169, R248, R253, R338, R339, R346, R349). Version numbers are keyed by
physical word; `retained` lists word, version and value. -/
structure Part where
  down     : Bool := false
  compute  : Nat := 48
  lost     : List Nat := []
  advised  : Bool := false
  usable   : Nat := 98304
  vers     : AMap (BitVec 16) := []
  retained : List (Nat × BitVec 16 × Word) := []
  jq       : AMap (Nat × Nat) := []
  tts      : AMap Turntable := []
  shared   : List (Nat × Bool × Word) := []
  walks    : List Nat := []
  pm       : AMap Word := []
  softErrs : List Nat := []
  vlogN    : Nat := 0
  vlog     : List (List Word) := []
  portUp   : AMap Bool := []
  mailbox  : AMap Word := []
  gates    : AMap Gate := []
  deriving DecidableEq, Repr

/-- One arrival of a Catenary use (R230, R235). -/
structure Arrival where
  core  : Nat
  ctx   : Nat
  fn    : Nat
  root  : Nat
  x     : Word
  ns    : Nat
  cycle : Nat
  deriving DecidableEq, Repr

/-- A group entry (R228) with its schedule selector (R223). -/
structure Group where
  members  : List Nat := []
  meshW    : Nat := 0
  meshH    : Nat := 0
  uses     : AMap Nat := []
  arrivals : List Arrival := []
  cur      : Nat := 0
  cost     : AMap Word := []
  tried    : AMap Bool := []
  phases   : Nat := 0
  deriving DecidableEq, Repr

/-- A placement or group spec (R47, R51). -/
structure Spec where
  role : Nat
  kind : Nat
  lo   : Nat
  hi   : Nat
  deriving DecidableEq, Repr

/-- A role of an image (R50). -/
structure Role where
  poolw    : Word := 0
  entry    : Word32 := 0xFFFFFFFF
  rkey0    : Word32 := 0
  rkey1    : Word32 := 0
  resident : Word := 0
  code     : List (Nat × List Byte) := []
  data     : List (Nat × List Byte) := []
  channels : List (Nat × Nat × Nat × Word32 × Nat) := []
  arms     : List (Nat × Nat × Word) := []
  deriving DecidableEq, Repr

/-- A loaded image (R49 to R51). -/
structure Image where
  roles  : AMap Role := []
  places : List Spec := []
  groups : List (Nat × Nat × Nat × List Spec) := []
  keep   : Bool := false
  deriving DecidableEq, Repr

/-- Where a launch stands (R238 to R240, R327, R328). `goAt` and `stopAt` are completion cycles; `stopped` holds the stop cycle,
and `quiet` says that two sweeps have agreed since. -/
inductive LPhase
  | setup | going (goAt : Nat) | running | stopping (stopAt : Nat) (q id : Nat) | stopped (stop q id : Nat)
  | quiet (q id : Nat)
  deriving DecidableEq, Repr

/-- A running launch (R226, R238 to R244). `base` is what `cycles` read when the grid (re)started at `start`. -/
structure Launch where
  q       : Nat
  hostq   : Option Nat := none
  id      : Word32
  image   : Nat
  det     : Bool
  quantum : Nat
  args    : Word
  lcount  : Nat
  phase   : LPhase := .setup
  resumed : Bool := false
  start   : Nat := 0
  base    : Nat := 0
  qn      : Nat := 0
  qstart  : Nat := 0
  groups  : AMap Group := []
  sweep   : Option Nat := none
  prev    : Option (Nat × Nat) := none
  now     : Option (Bool × Nat × Nat) := none
  closeAt : Option Nat := none
  deriving DecidableEq, Repr

/-- What a partition's units hold of a saved launch: its Turntables' slots, block queues and gateways. -/
structure SavedUnits where
  tts   : AMap Turntable
  jq    : AMap (Nat × Nat)
  gates : AMap Gate
  deriving DecidableEq, Repr

/-- A core's save area (R262): the words of its header and section table but for the check, its used bytes, the first of the free values that
stand where the spec lays nothing out, and the bytes that the host has written into it (log 15). -/
structure Area where
  head : List Word
  used : Nat
  draw : Nat
  wrote : AMap Byte := []
  deriving DecidableEq, Repr

/-- A saved launch (R262, R263, R328): the cores by launch-relative id, the units by launch-relative partition, what was in
flight, each core's area, and whether no area holds an uncorrectable error. -/
structure Save where
  lpart  : Nat
  launch : Launch
  cores  : AMap Core
  units  : AMap SavedUnits
  jobs   : List CopyJob
  loads  : List LoadReq
  net    : List Packet
  fins   : List Fin
  areas  : AMap Area
  crcOk  : Bool
  deriving DecidableEq, Repr

/-- A broadcast in progress for UNMAP or TLBFLUSH (R335): its command, the 64 KiB pages and the entry size it selects, the
frames of the entries removed, its completion cycle, and whether the buffers have dropped their entries. -/
structure Broadcast where
  q      : Nat
  id     : Word32
  lo     : Nat
  count  : Nat
  all    : Bool
  size   : Option Bool
  frames : List (Nat × Nat)
  doneAt : Nat
  ended  : Bool
  deriving DecidableEq, Repr

/-- A launch domain (R344, R345), keyed by its lowest physical partition. Translation entries are keyed by twice their first
64 KiB page, plus 1 for a 2 MiB page. -/
structure Domain where
  log2     : Nat := 0
  serving  : Bool := false
  holdUs   : Nat := 1000000
  images   : AMap Image := []
  nextImg  : Nat := 1
  entries  : AMap Word := []
  saves    : AMap Save := []
  nextSave : Nat := 1
  queued   : List (Nat × Word32 × Nat × Bool × Nat × Word) := []
  launch   : Option Launch := none
  casts    : List Broadcast := []
  deriving DecidableEq, Repr

/-- A host queue (R340 to R342): its registers, the index after the last command taken, the completion entries the host has not
read and those held back; `turn` is when, among all takings, its last command was taken. -/
structure Queue where
  sqbase   : Word := 0
  cqbase   : Word := 0
  sizes    : Word := 0
  tailaddr : Word := 0
  sqtail   : Word := 0
  sqhead   : Word := 0
  cqhead   : Word := 0
  enabled  : Bool := false
  ignored  : Bool := false
  vector   : Byte := 0
  ring     : List (List Word) := []
  held     : List (List Word) := []
  tail     : Nat := 0
  turn     : Nat := 0
  deriving DecidableEq, Repr

/-- How the bundle now issuing fares (R34, R35). -/
inductive Fate
  | retire | fault (f : Flt) | stall (r : Stall) | park | wait (w : Wait) | gone
  deriving DecidableEq, Repr

/-- The bundle now issuing: its context, addresses and words, the registers a pair's words read (R35), where the next
bundle stands, and how it fares. -/
structure Cur where
  core : Nat := 0
  ctx  : Nat := 0
  pc   : Nat := 0
  wpc  : Nat := 0
  size : Nat := 4
  next : Nat := 4
  snap : Option Ctx := none
  fate : Fate := .retire
  raised : BitVec 6 := 0
  again : Bool := false
  deriving DecidableEq, Repr

/-- What is still to be done in this cycle: a stage of the cycle, an asynchronous step, several of which some take their places by rank
(R266), the issue slot of a core, the wait of a context, a write held for version-store room. -/
inductive Work
  | stage (n : Nat)
  | ev (i : Instr)
  | steps (l : List Instr)
  | issue (core : Nat)
  | poll (core ctx : Nat)
  | room (core id : Nat)
  deriving DecidableEq, Repr

/-- The pools and HBM as they stood when a cycle began, kept while an engine thread that was at work then may read them (R274): `uid` tells the
threads forked by then, and `held` those whose release was not complete. -/
structure Moment where
  at_   : Nat
  uid   : Nat
  held  : List Nat
  pools : AMap (List Host.Cell × AMap Nat)
  mem   : List Host.Cell
  deriving DecidableEq, Repr

/-- The module. `work`, `inputs` and `past` are the model's own: what is left of this cycle, which asynchronous steps of
open timing fall in the cycles to come, and the moments at which engine threads may have read. `free` numbers the free values drawn, `uid`
names what is in flight. `bar4Log` is the binary logarithm of the size that the host has given BAR4 (R339). -/
structure State where
  now     : Nat
  ready   : Bool
  package : BitVec 16
  window  : Word
  bar4Log : Nat
  cap     : Nat
  parts   : AMap Part
  cores   : AMap Core
  domains : AMap Domain
  queues  : AMap Queue
  mem     : List Host.Cell
  bad     : List ErrSite
  net     : List Packet
  loads   : List LoadReq
  jobs    : List CopyJob
  fins    : List Fin
  flazar  : List (Nat × Nat × List Word)
  bar4    : Word
  cur     : Cur
  uid     : Nat
  free    : Nat
  work    : List Work
  inputs  : List (List Instr)
  past    : List Moment
  deriving DecidableEq, Repr

/-- The module right after power-good's bring-up (R353): READY, every partition a domain of its own, every queue
disabled, pools, counters and reserved regions clear, no launch. A partition, core, domain or queue that is not listed
stands at its default. -/
def State.reset : State where
  now := 0
  ready := true
  package := 0
  window := 0
  bar4Log := 39
  cap := 3400
  parts := []
  cores := []
  domains := (List.range 64).map fun p => (p, {})
  queues := []
  mem := []
  bad := []
  net := []
  loads := []
  jobs := []
  fins := []
  flazar := []
  bar4 := 0
  cur := {}
  uid := 0
  free := 0
  work := []
  inputs := []
  past := []

end Sys2Proof.Machine
end

