-- ==== Sys2Proof/Machine/Bits.lean ====
section
/-! DEFINITION. Bit fields, bytes and their order (R33, R53), the check sum of R49, and the reading of memories. -/

namespace Sys2Proof.Machine
open Sys2Proof

/-- Field [lo+n-1:lo] of a word, as a number. -/
def bits (w : Word) (lo n : Nat) : Nat := (w >>> lo).toNat % 2 ^ n
/-- The word that holds `v` at bit `lo`. -/
def at_ (v lo : Nat) : Word := BitVec.ofNat 64 v <<< lo
/-- Bit 63 names the core's own storage (R26). -/
def isLocal (a : Word) : Bool := a.getLsbD 63
/-- The offset of a local address (R26). -/
def offOf (a : Word) : Nat := a.toNat % 2 ^ 63
/-- The local address of an offset. -/
def localAddr (off : Nat) : Word := BitVec.ofNat 64 (2 ^ 63 + off)
/-- A two's-complement integer of `n` bits. -/
def sintN (n v : Nat) : Int := if v % 2 ^ n < 2 ^ (n - 1) then (v % 2 ^ n : Nat) else ((v % 2 ^ n : Nat) : Int) - 2 ^ n
/-- An integer kept to 64 bits (R53). -/
def w64 (i : Int) : Word := BitVec.ofInt 64 i

/-- A little-endian number (R33). -/
def ofBytes : List Byte → Nat
  | [] => 0
  | b :: r => b.toNat + 256 * ofBytes r
/-- The low `n` bytes of a number, lowest first. -/
def toBytes : Nat → Nat → List Byte
  | 0, _ => []
  | n + 1, v => BitVec.ofNat 8 v :: toBytes n (v / 256)
/-- Bytes `lo` to `lo + n - 1` of a record held in words, as a number. -/
def wordField (ws : List Word) (lo n : Nat) : Nat := bits (ws.getD (lo / 8) 0) (8 * (lo % 8)) (8 * n)
/-- Little-endian words of a list of bytes, missing bytes zero. -/
def wordsOf (n : Nat) (bs : List Byte) : List Word :=
  (List.range n).map fun i => BitVec.ofNat 64 (ofBytes ((bs.drop (8 * i)).take 8))
def bytesOf (ws : List Word) : List Byte := ws.flatMap fun w => toBytes 8 w.toNat

/-- One bit of the CRC-32 of R49, reflected. -/
def crcBit (c : Nat) : Nat := if c % 2 = 1 then (c / 2) ^^^ 0xEDB88320 else c / 2
/-- CRC-32 of R49: IEEE 802.3, reflected, initial and final value all ones. -/
def crc32 (bs : List Byte) : Nat :=
  (bs.foldl (fun c b => Nat.repeat crcBit 8 (c ^^^ b.toNat)) 0xFFFFFFFF) ^^^ 0xFFFFFFFF

/-- What a byte of a pool or of HBM reads as when none is listed (R52, R353; log 3). -/
def zeroByte : Nat → Byte := fun _ => 0
/-- What a byte of instruction memory reads as when none is listed: the BRK words beyond an image (R15; log 4). -/
def brkByte (a : Nat) : Byte := BitVec.ofNat 8 (0x9E000001 >>> (8 * (a % 4)))

/-- A memory as sorted cells; `d` is what an unlisted byte reads as. -/
abbrev Memory := List Host.Cell

def Memory.read (d : Nat → Byte) : Memory → Nat → Byte
  | [], a => d a
  | (k, v) :: r, a => if k = a then v else Memory.read d r a

/-- List a byte at its address, keeping the addresses rising. -/
def Memory.list : Memory → Nat → Byte → Memory
  | [], a, v => [(a, v)]
  | (k, w) :: r, a, v =>
    if a < k then (a, v) :: (k, w) :: r
    else if a = k then (a, v) :: r
    else (k, w) :: Memory.list r a v
/-- Store one byte, keeping the canonical form: an entry is dropped where it would equal what an unlisted byte reads as. -/
def Memory.write (d : Nat → Byte) (m : Memory) (a : Nat) (v : Byte) : Memory :=
  if v = d a then m.filter (fun e => e.1 != a) else Memory.list m a v

/-- The canonical form: addresses strictly rising, no entry equal to what an unlisted address reads as. -/
def Memory.wf (d : Nat → Byte) : Memory → Bool
  | [] => true
  | (a, v) :: r => v != d a && (match r with | [] => true | (b, _) :: _ => decide (a < b)) && Memory.wf d r

/-- `n` bytes from `a`, lowest first. -/
def Memory.bytes (d : Nat → Byte) (m : Memory) (a : Nat) : Nat → List Byte
  | 0 => []
  | n + 1 => Memory.read d m a :: Memory.bytes d m (a + 1) n

/-- The little-endian number in the `n` bytes at `a`. -/
def Memory.num (d : Nat → Byte) (m : Memory) (a n : Nat) : Nat := ofBytes (Memory.bytes d m a n)

/-- Store bytes in ascending order from `a`. -/
def Memory.store (d : Nat → Byte) : Memory → Nat → List Byte → Memory
  | m, _, [] => m
  | m, a, b :: r => Memory.store d (Memory.write d m a b) (a + 1) r

/-- The first `k` of a list of candidates that meets `p`. -/
def firstOf (p : Nat → Bool) (l : List Nat) : Option Nat := l.find? p

/-- The numbers from `start`, wrapping at `n`, each of the `n` once. -/
def wrapFrom (start n : Nat) : List Nat := (List.range n).map fun k => (start + k) % n

/-- `x` goes before the first element of a sorted list that it may stand before. -/
def insertBy {α : Type} (le : α → α → Bool) (x : α) : List α → List α
  | [] => [x]
  | y :: r => if le x y then x :: y :: r else y :: insertBy le x r
/-- A list in order; elements that are equal in it keep theirs. -/
def sortBy {α : Type} (le : α → α → Bool) : List α → List α
  | [] => []
  | x :: r => insertBy le x (sortBy le r)

/-- Ceiling of a quotient. -/
def ceilDiv (a b : Nat) : Nat := (a + b - 1) / b

end Sys2Proof.Machine
end

