-- ==== Sys2Proof/Machine/Ops.lean ====
section
/-! DEFINITION. The shared operations: the places of the machine, registers, memories, fault records and what a fault
stops, host completions, the network, counters and channels, translation, and the ordering steps. -/

namespace Sys2Proof.Machine
open Sys2Proof

/-! ## Places -/

abbrev Out := Host.Outcome State Fault Refusal

def State.core (s : State) (c : Nat) : Core := AMap.get {} s.cores c
def State.setCore (s : State) (c : Nat) (k : Core) : State := { s with cores := AMap.set s.cores c k }
def State.updCore (s : State) (c : Nat) (f : Core → Core) : State := s.setCore c (f (s.core c))
def Core.ctx (k : Core) (x : Nat) : Ctx := AMap.get {} k.ctxs x
def Core.setCtx (k : Core) (x : Nat) (v : Ctx) : Core := { k with ctxs := AMap.set k.ctxs x v }
def State.ctx (s : State) (c x : Nat) : Ctx := (s.core c).ctx x
def State.setCtx (s : State) (c x : Nat) (v : Ctx) : State := s.updCore c (fun k => k.setCtx x v)
def State.updCtx (s : State) (c x : Nat) (f : Ctx → Ctx) : State := s.setCtx c x (f (s.ctx c x))
def State.part (s : State) (p : Nat) : Part := AMap.get {} s.parts p
def State.updPart (s : State) (p : Nat) (f : Part → Part) : State :=
  { s with parts := AMap.set s.parts p (f (s.part p)) }
def State.queue (s : State) (q : Nat) : Queue := AMap.get {} s.queues q
def State.updQueue (s : State) (q : Nat) (f : Queue → Queue) : State :=
  { s with queues := AMap.set s.queues q (f (s.queue q)) }
def State.domain (s : State) (b : Nat) : Domain := AMap.get {} s.domains b
def State.updDomain (s : State) (b : Nat) (f : Domain → Domain) : State :=
  { s with domains := AMap.set s.domains b (f (s.domain b)) }
def State.updLaunch (s : State) (b : Nat) (f : Launch → Launch) : State :=
  s.updDomain b (fun d => { d with launch := d.launch.map f })

/-- The issuing context, its core, and the context its operands are read from (R35). -/
def State.me (s : State) : Ctx := s.ctx s.cur.core s.cur.ctx
def State.myCore (s : State) : Core := s.core s.cur.core
def State.src (s : State) : Ctx := match s.cur.snap with | some k => k | none => s.me
def State.updMe (s : State) (f : Ctx → Ctx) : State := s.updCtx s.cur.core s.cur.ctx f
/-- The state seen from a context on which an event is taken. -/
def State.asIf (s : State) (c x : Nat) : State :=
  { s with cur := { core := c, ctx := x, pc := (s.ctx c x).pc, wpc := (s.ctx c x).pc, again := true } }
/-- A choice that the spec leaves to the machine: a free value, with its number used up. -/
def State.coin (s : State) : Bool := (Config.freeWord s.free).getLsbD 0
def State.fare (s : State) (f : Fate) : State := { s with cur := { s.cur with fate := f } }
/-- A name for something in flight. -/
def State.fresh (s : State) : State := { s with uid := s.uid + 1 }
def State.push (s : State) (w : List Work) : State := { s with work := s.work ++ w }
/-- Work done at once, before what is left of the cycle. -/
def State.pushFirst (s : State) (l : List Instr) : State := { s with work := l.map .ev ++ s.work }

/-- The domain a partition lies in, by its lowest partition (R345). -/
def State.baseOf (s : State) (p : Nat) : Nat :=
  match s.domains.find? (fun d => decide (d.1 ≤ p) && decide (p < d.1 + 2 ^ d.2.log2)) with
  | some d => d.1
  | none => p
def State.domOf (s : State) (c : Nat) : Nat := s.baseOf (c / 64)
def State.launchOf (s : State) (c : Nat) : Option Launch := (s.domain (s.domOf c)).launch
def State.det (s : State) (c : Nat) : Bool := match s.launchOf c with | some l => l.det | none => false
def State.inDom (s : State) (b p : Nat) : Bool := decide (b ≤ p) && decide (p < b + 2 ^ (s.domain b).log2)
/-- The debugger stops the handler thread of a core, until pre-emption drains its domain (R186, R326, R328). -/
def State.handlerHeld (s : State) (c : Nat) : Bool :=
  (s.core c).frozen && (match s.launchOf c with
    | some l => (match l.phase with
      | .stopped _ _ _ | .quiet _ _ => false
      | _ => true)
    | none => true)
/-- Launch-relative id of a core, and the core of a launch-relative id in the domain of core `c` (R29). -/
def State.rel (s : State) (c : Nat) : Nat := c - s.domOf c * 64
def State.phys (s : State) (c r : Nat) : Nat := s.domOf c * 64 + r
/-- The partition field of a launch-relative id lies below the domain size (R29). -/
def State.inRange (s : State) (c r : Nat) : Bool := decide (r / 64 < 2 ^ (s.domain (s.domOf c)).log2)
/-- Compute cores and junction cores that the partition has (R28, R348). -/
def State.isCompute (s : State) (c : Nat) : Bool := decide (c % 64 < (s.part (c / 64)).compute)
def State.isUser (s : State) (c : Nat) : Bool :=
  s.isCompute c || c % 64 == 48 || c % 64 == 49 || c % 64 == 50
def partsOf (b log2 : Nat) : List Nat := (List.range (2 ^ log2)).map (b + ·)
def State.domParts (s : State) (b : Nat) : List Nat := partsOf b (s.domain b).log2
/-- The user cores of a domain, by ascending id. -/
def State.domCores (s : State) (b : Nat) : List Nat :=
  (s.domParts b).flatMap fun p => ((List.range 51).map (p * 64 + ·)).filter s.isUser
def State.computeCount (s : State) (b : Nat) : Nat := ((s.domParts b).map fun p => (s.part p).compute).foldl (· + ·) 0

/-- Agents of a partition that are no core: slice streamer, cluster streamer, Flazar ports, leaf (R31). -/
def agent (p k : Nat) : Nat := 4096 + 8 * p + k
def partOfKey (c : Nat) : Nat := if c < 4096 then c / 64 else (c - 4096) / 8
/-- The Flazar port that a key names. -/
def portOf (c : Nat) : Option Nat :=
  if 4096 ≤ c ∧ ((c - 4096) % 8 = 2 ∨ (c - 4096) % 8 = 3) then some ((c - 4096) % 8 - 2) else none
/-- The key of a port that a message came by. -/
def portKey (c : Nat) : Option Nat := (portOf c).map fun _ => c

/-- Scope(x) of R192. -/
def scopeTo (c d : Nat) : Scope := if c = d then .core else if partOfKey c = partOfKey d then .part else .pkg
def scopeRank : Scope → Nat
  | .ctx => 0 | .core => 1 | .part => 2 | .pkg => 3 | .sys => 4
def scopeMax (a b : Scope) : Scope := if scopeRank a < scopeRank b then b else a
def scopeWide (a : Scope) : Bool := decide (2 ≤ scopeRank a)

/-- A performance-monitor event of a partition (R338). -/
def State.count (s : State) (p e n : Nat) : State :=
  if n = 0 then s else s.updPart p fun q => { q with pm := AMap.upd 0 q.pm e (· + BitVec.ofNat 64 n) }

/-- The tick of a core: the cycle, or the quantum in deterministic mode (R42). -/
def State.ticks (s : State) (c : Nat) : Nat :=
  match s.launchOf c with
  | some l => if l.det then l.qn else s.now
  | none => s.now
/-- When the watermark stall of the issuing context began (R260). -/
def State.wmStart (s : State) : Nat :=
  match s.me.stall with
  | some (.watermark _ t _) => t
  | _ => s.ticks s.cur.core

/-! ## Registers -/

/-- s63 (R21). -/
def State.identity (s : State) (c x : Nat) : Word := at_ s.package.toNat 16 ||| at_ (s.rel c) 4 ||| at_ x 0
/-- Reading a scalar register: s0 reads 0 and s63 the identity (R20, R21). -/
def State.rs (s : State) (n : BitVec 6) : Word :=
  if n = 0 then 0 else if n = 63 then s.identity s.cur.core s.cur.ctx else AMap.get 0 s.src.s n.toNat
def Ctx.ws (k : Ctx) (n : Nat) (v : Word) : Ctx := if n = 0 ∨ n = 63 then k else { k with s := AMap.set k.s n v }
/-- Writing a scalar register: a write to s0 is discarded (R20). -/
def State.ws (s : State) (n : BitVec 6) (v : Word) : State := s.updMe (fun k => k.ws n.toNat v)
def zeroLanes : List Word32 := List.replicate 64 0
/-- The 64 lanes of a list, lane by lane. -/
def lanes64 (l : List Word32) : List Word32 := (List.range 64).map fun i => l.getD i 0
def Ctx.vr (k : Ctx) (n : Nat) : List Word32 := lanes64 (AMap.get zeroLanes k.v n)
def Ctx.wv (k : Ctx) (n : Nat) (l : List Word32) : Ctx := { k with v := AMap.set k.v n l }
def Ctx.pr (k : Ctx) (n : Nat) : Word := AMap.get 0 k.p n
def Ctx.tr (k : Ctx) (n : Nat) : TReg := AMap.get {} k.t n
def State.rt (s : State) (n : BitVec 4) : TReg := s.src.tr n.toNat
def State.wt (s : State) (n : BitVec 4) (v : TReg) : State := s.updMe fun k => { k with t := AMap.set k.t n.toNat v }
/-- Sticky flag bits are ORed in (R77); the bundle keeps what it raised (R35, R337). -/
def State.raiseFlags (s : State) (f : BitVec 6) : State :=
  { s.updMe (fun k => { k with flags := k.flags ||| f }) with cur := { s.cur with raised := s.cur.raised ||| f } }

/-! ## The pool -/

def Core.spb (k : Core) : Nat := 192 - 4 * k.rfu - k.acc
def Core.spSize (k : Core) : Nat := k.spb * 2048
def Core.accSize (k : Core) : Nat := k.acc * 2048
def Core.poolw (k : Core) : Word := at_ k.spb 12 ||| at_ k.acc 4 ||| at_ k.rfu 0
def accBase : Nat := 0x80000
def ctrBase : Nat := 0x100000
/-- One byte of the pool; a byte left undefined reads as its free value. -/
def Core.byte (k : Core) (a : Nat) : Byte :=
  match AMap.find k.undef a with
  | some n => (Config.freeWord n).setWidth 8
  | none => Memory.read zeroByte k.pool a
def Core.bytes (k : Core) (a : Nat) : Nat → List Byte
  | 0 => []
  | n + 1 => k.byte a :: k.bytes (a + 1) n
def Core.num (k : Core) (a n : Nat) : Nat := ofBytes (k.bytes a n)
def Core.word (k : Core) (a : Nat) : Word := BitVec.ofNat 64 (k.num a 8)
def Core.putByte (k : Core) (a : Nat) (b : Byte) : Core :=
  { k with pool := Memory.write zeroByte k.pool a b, undef := AMap.erase k.undef a }
def Core.put (k : Core) : Nat → List Byte → Core
  | _, [] => k
  | a, b :: r => (k.putByte a b).put (a + 1) r
def Core.putWord (k : Core) (a : Nat) (w : Word) : Core := k.put a (toBytes 8 w.toNat)
/-- Leave `n` bytes undefined, with free values from number `f` on. -/
def Core.blur (k : Core) (a f : Nat) : Nat → Core
  | 0 => k
  | n + 1 => { k with undef := AMap.set k.undef a f }.blur (a + 1) (f + 1) n
def inScratch (k : Core) (a : Word) (n : Nat) : Bool := isLocal a && decide (offOf a + n ≤ k.spSize)

/-- A full 8-byte write to a pool word rewrites its check bits (R324). -/
def State.clearBad (s : State) (c off n : Nat) : State :=
  { s with bad := s.bad.filter fun e => match e with
      | .pool k o => !(k == c && decide (off ≤ o) && decide (o + 8 ≤ off + n))
      | _ => true }
/-- An uncorrectable error stands at a place (R324). -/
def State.isBad (s : State) (e : ErrSite) : Bool := s.bad.contains e
/-- The first bad word of a core's pool that a range of bytes touches. -/
def State.badIn (s : State) (c off n : Nat) : Option Nat :=
  s.bad.findSome? fun e => match e with
    | .pool k o => if k = c ∧ off < o + 8 ∧ o < off + n then some o else none
    | _ => none
def eccFlt (a : Word) : Flt := { code := .ecc, addr := a }

/-! ## Fault records -/

def FCode.code : FCode → Nat
  | .ill => 0x01 | .pair => 0x02 | .hazard => 0x03 | .align => 0x04 | .xlate => 0x05 | .perm => 0x06 | .pool => 0x07
  | .poolbusy => 0x08 | .wait => 0x09 | .cntovr => 0x0A | .hdrchk => 0x0B | .hdrfld => 0x0C | .shape => 0x0D
  | .combo => 0x0E | .lease => 0x0F | .vgone => 0x10 | .vfull => 0x11 | .notmem => 0x12 | .grpbusy => 0x13
  | .ovqfull => 0x14 | .rate => 0x15 | .siding => 0x16 | .tabend => 0x17 | .ctxlanes => 0x18 | .engine => 0x19
  | .ecc => 0x1A | .trap => 0x1B | .brk => 0x1C | .stream => 0x1D | .starve => 0x1E

def flt (c : FCode) (o a b : Word) : Flt := { code := c, obj := o, a := a, b := b }
/-- PERM with a reason in a and its detail in b (R191). -/
def perm (reason : Nat) (b : Word) : Flt := flt .perm 0 (BitVec.ofNat 64 reason) b
def nat64 (n : Nat) : Word := BitVec.ofNat 64 n

/-- Class codes of R320. -/
def clsInfo : Nat := 0
def clsPrecise : Nat := 1
def clsDeferred : Nat := 2
def clsEngine : Nat := 3

/-- The 64 B record of R319. -/
def State.record (s : State) (c x pc cls : Nat) (f : Flt) : List Word :=
  [at_ pc 48 ||| at_ s.package.toNat 32 ||| at_ (s.rel c % 4096) 20 ||| at_ x 16 ||| at_ cls 8 ||| at_ f.code.code 0,
   f.addr, f.obj, f.a, f.b, f.d0, f.d1, f.d2]

/-! ## Host completions -/

def Queue.cap (q : Queue) : Nat := bits q.sizes 16 16
/-- Write held entries while the ring has room (R342). -/
def Queue.flush : Nat → Queue → Queue
  | 0, q => q
  | n + 1, q =>
    match q.held with
    | [] => q
    | e :: r =>
      if q.ring.length < q.cap then
        Queue.flush n { q with ring := q.ring ++ [e], held := r, tail := (q.tail + 1) % q.cap }
      else q
/-- A completion entry is written, or held while the ring is full; none is dropped (R342). -/
def State.post (s : State) (q : Nat) (es : List (List Word)) : State :=
  s.updQueue q fun k => Queue.flush (k.held.length + es.length) { k with held := k.held ++ es }
/-- The head of a completion entry (R342). -/
def entry (type part id status : Nat) (rest : List Word) : List Word :=
  ([at_ type 0 ||| at_ part 16 ||| at_ id 32, nat64 status] ++ rest ++ List.replicate 8 0).take 8
/-- The launch's host queue, or the lowest enabled queue of the partition (R178). -/
def State.hostQueue (s : State) (p : Nat) : Nat :=
  match (s.domain (s.baseOf p)).launch with
  | some l => l.hostq.getD l.q
  | none =>
    match s.queues.find? (fun q => q.1 / 1024 == p && q.2.enabled) with
    | some q => q.1
    | none => p * 1024
/-- A fault record for the host: two entries (R342). -/
def State.toHost (s : State) (p : Nat) (rec : List Word) : State :=
  s.post (s.hostQueue p) [entry 3 p 0 0 [], rec]

/-! ## Channels and their rings -/

def Core.chan (k : Core) (h : Nat) : Channel := AMap.get {} k.channels h
def Core.setChan (k : Core) (h : Nat) (v : Channel) : Core := { k with channels := AMap.set k.channels h v }
def Core.updChan (k : Core) (h : Nat) (f : Channel → Channel) : Core := k.setChan h (f (k.chan h))
def Channel.occ (h : Channel) : Nat := h.slots.length
def Channel.used (h : Channel) : Nat := h.occ + h.reserved
/-- Room for an arrival or a push: a slot freed in this very cycle takes none (R177, R211). -/
def Channel.room (h : Channel) : Bool := decide (h.used + h.freed.length < h.depth)
def Channel.polled (h : Channel) : Bool := h.handler == 0xFFFFFFFF
def Channel.free (h : Channel) : Option Nat :=
  let l := (wrapFrom h.wr h.depth).filter fun i => (AMap.find h.slots i).isNone
  (firstOf (fun i => !h.freed.contains i) l).or l.head?
def Channel.slotAddr (h : Channel) (i : Nat) : Nat := h.ring + 64 * i

/-- An arrival enters the next free slot in ring order (R181): its words are written, as far as the slot of 64 bytes reaches
(log 21), and the slot's other bytes are left undefined (R171). `f` numbers the free values. -/
def Core.land (k : Core) (h : Nat) (slot : Slot) (ws : List Word) (f : Nat) : Core :=
  let ch := k.chan h
  match ch.free with
  | none => k
  | some i =>
    let a := ch.slotAddr i
    let n := 8 * ws.length
    ((k.put a ((bytesOf ws).take 64)).blur (a + n) f (64 - n)).setChan h
      { ch with slots := AMap.set ch.slots i slot, wr := (i + 1) % ch.depth }
def State.land (s : State) (c h : Nat) (slot : Slot) (ws : List Word) : State :=
  let ch := (s.core c).chan h
  let at_ := ch.slotAddr (ch.free.getD 0)
  { (s.updCore c (fun k => k.land h { slot with landed := s.now } ws s.free)).clearBad c at_ (Nat.min 64 (8 * ws.length)) with
    free := s.free + 64 }

/-- A record for core `c` is placed in the channel it names, in ch63, or goes to the host queue (R178). `reserved`
gives up the reservation whose slot it takes. -/
def State.place (s : State) (c : Nat) (chan : Option Nat) (reserved : Bool) (rec : List Word) : State × Bool :=
  let s := s.count (c / 64) 15 1
  let s := match chan with
    | some h => if reserved then s.updCore c (fun k => k.updChan h fun ch => { ch with reserved := ch.reserved - 1 }) else s
    | none => s
  let k := s.core c
  let slot : Slot := { kind := .fault }
  if k.frozen || (s.part (c / 64)).down then (s.toHost (c / 64) rec, true)
  else
    let fits := fun h => (k.chan h).bound && (k.chan h).room
    match chan with
    | some h =>
      if fits h then (s.land c h slot rec, false)
      else if fits 63 then (s.land c 63 slot rec, false) else (s.toHost (c / 64) rec, true)
    | none => if fits 63 then (s.land c 63 slot rec, false) else (s.toHost (c / 64) rec, true)

/-! ## Taking a fault -/

def Ctx.stop (k : Ctx) (st : CtxSt) : Ctx :=
  { k with st := st, wait := none, stall := none, deferred := none, srep := none, resv := none, xhave := [] }
/-- Every context of the core becomes HALTED (R322, R324). -/
def Core.haltAll (k : Core) : Core :=
  (List.range 11).foldl (fun k x => k.setCtx x { (k.ctx x).stop .halted with ending := false }) k
/-- The slot that a context's unissued bundle has reserved is given up: it issues no more (R177). -/
def State.dropResv (s : State) (c x : Nat) : State :=
  match (s.ctx c x).resv with
  | some h => (s.updCore c fun k => k.updChan h fun ch => { ch with reserved := ch.reserved - 1 }).updCtx c x fun k => { k with resv := none }
  | none => s
def State.tt (s : State) (p k : Nat) : Turntable := AMap.get {} (s.part p).tts k
def State.updTt (s : State) (p k : Nat) (f : Turntable → Turntable) : State :=
  s.updPart p fun q => { q with tts := AMap.upd {} q.tts k f }
/-- Slots are keyed by the core's place among the eight. -/
def Turntable.slot (t : Turntable) (j : Nat) : TSlot := AMap.get {} t.slots j
def Turntable.updSlot (t : Turntable) (j : Nat) (f : TSlot → TSlot) : Turntable :=
  { t with slots := AMap.upd {} t.slots j f }
def State.slot (s : State) (c : Nat) : TSlot := (s.tt (c / 64) (c % 64 / 8)).slot (c % 8)
def State.updSlot (s : State) (c : Nat) (f : TSlot → TSlot) : State :=
  s.updTt (c / 64) (c % 64 / 8) fun t => t.updSlot (c % 8) f
/-- A core whose C0 has halted waits for no lease any more, and one that its `MREL` has given up ends (R148, R160). -/
def State.dropLease (s : State) (c : Nat) : State :=
  let done_ := fun (q : TSlot) => q.mrel && q.queue.isEmpty && !s.fins.any fun f => f.core == c && f.turn.isSome
  if (s.slot c).waits then s.updSlot c fun q => { q with waits := false, holds := q.holds && !done_ q, mrel := q.mrel && !done_ q }
  else s
/-- What a PRECISE or DEFERRED fault does to its context (R322): a helper's task ends, C0 halts, and a record at the host
halts the core. A helper whose task has ended has none to end. -/
def State.fateOf (s : State) (c x : Nat) (host : Bool) : State :=
  let s := if host then (List.range 11).foldl (fun s y => s.dropResv c y) s else s.dropResv c x
  if host then (s.dropLease c).updCore c Core.haltAll
  else if x = 0 then (s.dropLease c).updCtx c 0 (fun k => k.stop .halted)
  else s.updCtx c x (fun k => if k.st = .free ∨ k.st = .halted then k else { k.stop .parked with ending := true })

/-- The one entry of a precise or deferred fault: the record of R319 is delivered (R178) and the context meets its fate
(R322). A Catenary arrival that it has made stays in its use, which the spec leaves open (log 88). -/
def State.takeFault (s : State) (c x pc cls : Nat) (f : Flt) : State :=
  let (t, host) := s.place c none false (s.record c x pc cls f)
  t.fateOf c x host
/-- The issuing bundle faults, precisely (R54). -/
def State.raise (s : State) (f : Flt) : State :=
  (s.takeFault s.cur.core s.cur.ctx s.cur.pc clsPrecise f).fare (.fault f)
/-- The store that is to make room in the lanes of a context: the one it waits for already, or the oldest that they hold (R283). -/
def Core.oldestOf (k : Core) (x : Nat) : Option Nat :=
  match k.lanes.find? fun l => (k.ctx x).oldest == some l.id with
  | some l => some l.id
  | none => (k.lanes.find? fun l => l.ctx == x && !l.recl).map (·.id)
/-- The issuing bundle stays unissued: STALLED with a reason (R16). -/
def State.stallMe (s : State) (r : Stall) : State :=
  (s.updMe fun k => { k with st := .stalled, stall := some r
                             oldest := if r = .lanes then s.myCore.oldestOf s.cur.ctx else k.oldest }).fare (.stall r)
/-- The issuing bundle parks until no more than `upTo` results are outstanding (R36, R37, R38). -/
def State.parkMe (s : State) (upTo : Nat := 0) : State := (s.updMe fun k => { k with st := .parked, upTo := upTo }).fare .park
/-- The issuing context begins a bounded wait (R42, R43). -/
def State.waitMe (s : State) (w : Wait) : State := (s.updMe fun k => { k with st := .waiting, wait := some w }).fare (.wait w)

/-! ## The network -/

/-- A message header (R174). -/
def header (dest dchan rcore rchan kind words tag : Nat) : Word :=
  at_ dest 52 ||| at_ dchan 46 ||| at_ rcore 34 ||| at_ rchan 28 ||| at_ kind 20 ||| at_ words 16 ||| at_ tag 0
def hDest (h : Word) : Nat := bits h 52 12
def hDchan (h : Word) : Nat := bits h 46 6
def hRcore (h : Word) : Nat := bits h 34 12
def hRchan (h : Word) : Nat := bits h 28 6
def hKind (h : Word) : Nat := bits h 20 8
def hWords (h : Word) : Nat := bits h 16 4
def hTag (h : Word) : Nat := bits h 0 16

/-- A load or atomic of the context that has not been performed (R270, R287). -/
def Outst.open_ (o : Outst) : Bool :=
  o.vals.isNone && o.flt.isNone && (match o.kind with | .load | .ldv _ _ | .atomLocal | .atomRemote => true | _ => false)
/-- The accesses of a context that a fence at a scope waits for: its unperformed loads, and its stores that are not yet at
their slice where the scope is partition or wider (R269, R270, R272). -/
def State.ownOpen (s : State) (c x : Nat) (sc : Scope) : List Nat :=
  if s.det c then [] else
  (((s.ctx c x).outs.filter Outst.open_).map (·.id)) ++
    (if scopeWide sc then (((s.core c).lanes.filter (fun l => l.ctx == x && !l.recl)).map (·.id)) else [])
/-- Whether any of the accesses still stands, or a request among them that a port has still to accept (R269). -/
def State.pendingIds (s : State) (c : Nat) (ids : List Nat) : Bool :=
  ids.any fun i => (s.core c).lanes.any (fun l => l.id == i) ||
    (s.core c).ctxs.any (fun k => k.2.outs.any (fun o => o.id == i && o.open_)) || s.net.any fun p => p.id == i
/-- Every access of the core that its hardware's release covers (R153, R217). In deterministic mode a release completes at issue
(R279); a core's own atomics at its pool are performed within the quantum (R242). -/
def State.coveredCore (s : State) (c : Nat) (sc : Scope) : List Nat :=
  let open_ := fun (o : Outst) => o.open_ && (!s.det c || (o.kind == .atomLocal && (s.core c).hheld.isNone))
  ((s.core c).ctxs.flatMap fun k => (k.2.outs.filter open_).map (·.id)) ++
    (if scopeWide sc && !s.det c then ((s.core c).lanes.filter fun l => !l.recl).map (·.id) else [])

/-- What still holds a context's earlier releasing actions, the starts of its engine threads among them (R270). -/
def State.unsent (s : State) (c x : Nat) : List Nat :=
  (s.net.filter fun p => p.src == c && p.srcCtx == x && s.pendingIds c p.waits).flatMap (·.waits) ++
    (((s.slot c).queue ++ (s.core c).tileQ).filter fun m => m.ctx == x && s.pendingIds c m.waits).flatMap (·.waits)
/-- What a releasing action of a context at a scope waits for: the accesses that it covers, and those that hold the context's
earlier actions, since they take effect in issue order (R270). -/
def State.covered (s : State) (c x : Nat) (sc : Scope) : List Nat := s.ownOpen c x sc ++ s.unsent c x

/-- A packet counts as a message (R239); an action that stays within one core does not. The requests of shared queues and the claims of
the iteration fetcher, with their answers, have no kind in R176, though R221 calls a claim at another core a message: that they count in
neither total is the model's choice (log 87). -/
def Body.counts (b : Body) (src dst : Nat) : Nat :=
  match b with
  | .jq _ _ _ _ _ | .claim _ _ _ _ _ _ _ | .heldIn _ _ _ => 0
  | .atom _ _ _ _ _ _ _ | .atomr _ _ _ _ | .cadd _ _ _ _ _ | .fault _ _ _ | .faultSet _ | .merge _ _ _
  | .refusedAtom _ _ _ => if src = dst then 0 else 1
  | _ => 1

/-- A request to an engine: a streamer, or a Flazar port (R257, R351). -/
def Body.asks : Body → Bool
  | .request _ _ => true
  | _ => false
/-- A request to a streamer is an engine command, which completes within its quantum (R243); a `PUTX` leaves at the close, as all
traffic of a port does (R350). -/
def Body.within : Body → Bool
  | .request h _ => decide (hKind h < 0x60)
  | _ => false
/-- Transmit a packet (R176): it waits for its release and, in deterministic mode, for the close of the quantum (R243). -/
def State.transmit (s : State) (c x d : Nat) (b : Body) (waits : List Nat) (sc : Scope) (now : Bool) : State :=
  let p : Packet := { id := s.uid, src := c, srcCtx := x, dst := d, body := b, waits := waits, scope := sc,
                      released := now || b.within || !s.det (partOfKey c * 64) }
  ({ s with net := s.net ++ [p], uid := s.uid + 1 }).count (partOfKey c) 6 (b.counts c d)
/-- Transmit for the issuing context, with its release (R192). -/
def State.sendMe (s : State) (d : Nat) (b : Body) : State :=
  let sc := scopeTo s.cur.core d
  s.transmit s.cur.core s.cur.ctx d b (s.covered s.cur.core s.cur.ctx sc) sc false
/-- What an engine sends sorts under its issuing core and that core's issue sequence (R243). -/
def State.stamped (s : State) (c seq : Nat) (f : State → State) : State :=
  let t := f s
  let mark := fun (p : Packet) => if s.uid ≤ p.id then { p with engine := some (c, seq) } else p
  { t with net := t.net.map mark }
/-- Transmit for an agent of hardware, which releases nothing. -/
def State.sendHw (s : State) (c d : Nat) (b : Body) : State := s.transmit c 15 d b [] (scopeTo c d) false

/-- A packet has been transmitted: its release is complete (R270). -/
def State.sent (s : State) (p : Packet) : Bool := p.released && !s.pendingIds p.src p.waits
/-- A message that a context issued, or that the event engine sent for one (R187, R301). -/
def Packet.issued (p : Packet) : Bool :=
  p.srcCtx != 15 || (match p.body with
    | .words h _ => hKind h == 0x0A || hKind h == 0x0B
    | _ => false)
/-- An outbound envelope: a MSG or TAGGED to channel 0 of a link junction core of the sender's partition (R349). -/
def isEnvelope (p : Packet) (h : Word) : Bool :=
  decide (p.src < 4096) && (p.dst % 64 == 48 || p.dst % 64 == 49) && p.src / 64 == p.dst / 64 && hDchan h == 0 &&
    (hKind h == 0 || hKind h == 3)
/-- Where the network takes a packet: an envelope to the port beside its link junction core, where what another package's cores are sent
directly goes too (R187, R349, R350). -/
def Packet.toward (p : Packet) : Nat :=
  match p.body with
  | .words h _ => if isEnvelope p h then agent (p.dst / 64) (2 + (p.dst % 64 - 48)) else p.dst
  | _ => p.dst
/-- An add that a core makes at a cell of its own crosses no network. -/
def Packet.ownAdd (p : Packet) : Bool :=
  match p.body with
  | .cadd _ _ _ _ _ => p.src == p.dst
  | _ => false
/-- A packet can be delivered (R187, R270): it has been transmitted, the releases of its context up to it are complete, and
no packet that its sender transmitted or that its core issued earlier stands before the same receiver; an add at a core's own cell waits for
such adds of its own context alone. -/
def State.deliverable (s : State) (id : Nat) : Option Packet :=
  match s.net.find? (fun p => p.id == id) with
  | none => none
  | some p =>
    let before := s.net.takeWhile (fun q => q.id != id)
    if s.sent p &&
        before.all (fun q => !(q.src == p.src && q.toward == p.toward && q.ownAdd == p.ownAdd && (!p.ownAdd || q.srcCtx == p.srcCtx) &&
          (s.sent q || (q.issued && p.issued))) &&
          !(q.src == p.src && q.srcCtx == p.srcCtx && q.srcCtx != 15 && s.pendingIds q.src q.waits))
    then some p else none
/-- The packet leaves the network, sunk at its destination (R239). -/
def State.sink (s : State) (p : Packet) : State :=
  ({ s with net := s.net.filter (fun q => q.id != p.id) }).count (partOfKey p.dst) 7 (p.body.counts p.src p.dst)

/-- A request of the core is answered (R189). Whether a router marked it as congested is a free value: how full a router's input
is depends on times that the spec leaves open (log 18). -/
def State.answered (s : State) (c : Nat) : State :=
  let marked := (Config.freeWord s.free).getLsbD 0
  { s.updCore c (fun k =>
      if marked then { k with awaiting := k.awaiting - 1, window := Nat.max 1 (k.window / 2), unmarked := 0 }
      else if k.unmarked + 1 ≥ k.window then
        { k with awaiting := k.awaiting - 1, window := Nat.min 32 (k.window + 1), unmarked := 0 }
      else { k with awaiting := k.awaiting - 1, unmarked := k.unmarked + 1 }) with free := s.free + 1 }

/-- A fault record travels to a core's fault path (R178): at once on the core itself, in a packet to another. -/
def State.postTo (s : State) (from_ c : Nat) (chan : Option Nat) (reserved : Bool) (rec : List Word) : State :=
  if from_ = c && !s.det c then (s.place c chan reserved rec).1
  else s.sendHw from_ c (.fault (chan.getD 63) rec reserved)

/-- A refusal enters the sender's reserved slot (R170, R181). -/
def refusal (s : State) (at_ : Nat) (kind : Nat) (h : Word) : Body :=
  .words (header (hRcore h) (hRchan h) (s.rel at_) (hDchan h) kind 1 (hTag h)) [h]

/-! ## Counters -/

def Core.cell (k : Core) (n : Nat) : Cell := AMap.get {} k.counters n
def Core.setCell (k : Core) (n : Nat) (v : Cell) : Core := { k with counters := AMap.set k.counters n v }
def State.cell (s : State) (c n : Nat) : Cell := (s.core c).cell n
def State.setCell (s : State) (c n : Nat) (v : Cell) : State := s.updCore c fun k => k.setCell n v
/-- Word 2 of a cell (R184). -/
def Cell.word2 (c : Cell) : Word :=
  at_ c.lastcore.toNat 52 ||| at_ c.lastctx.toNat 48 ||| at_ c.cause.toNat 40 ||| at_ c.pend.toNat 35 |||
  at_ c.fault.toNat 34 ||| at_ c.fired.toNat 33 ||| at_ c.armed.toNat 32 ||| at_ c.desc.toNat 0

/-- The ring a descriptor names where a push may be made there (R185). -/
def Core.ringOf (k : Core) (desc : Nat) : Option Nat :=
  let r := (k.byte (desc + 4)).toNat
  if r ≤ 63 && (k.chan r).bound then some r else none
/-- A descriptor enters a free slot of its ring (R208); `ctr` is the counter that pushed it, and `waits` the
accesses that the release of a `READY` holds its task for (R218, R270). The descriptor's offset is the hardware's: of the slot's 64 bytes the
spec says nothing, and the model leaves them undefined (log 10). -/
def State.pushDesc (s : State) (c ring desc : Nat) (sc : Scope) (ctr : Option Nat) (waits : List Nat) : State :=
  s.land c ring { kind := .desc desc false, scope := sc, ctr := ctr, waits := waits } []
/-- The slots that counters pushed in this cycle and no task has taken, in the order in which they were filled. -/
def Channel.pushed (h : Channel) (now : Nat) : List (Nat × Slot) :=
  let rank := fun (i : Nat) => (i + h.depth - h.wr) % h.depth
  sortBy (fun a b => decide (rank a.1 ≤ rank b.1))
    (h.slots.filter fun e => e.2.ctr.isSome && !e.2.taken && decide (e.2.landed = now))
/-- The pushes of one cycle stand in ascending counter index (R208). -/
def Channel.settle (h : Channel) (now : Nat) : Channel :=
  let l := h.pushed now
  let by_ := sortBy (fun (a b : Slot) => decide (a.ctr.getD 0 ≤ b.ctr.getD 0)) (l.map (·.2))
  { h with slots := ((l.map (·.1)).zip by_).foldl (fun m e => AMap.set m e.1 e.2) h.slots }

/-- A fired cell pushes its descriptor, waits for room, or drops a descriptor that names no ring (R185). Pushes of one cycle enter
in ascending index: a cell pushes before those above it that pushed in this cycle, and takes the last place from the highest where
the ring has no room (R208). A ring byte that cannot be read fails the cell as an engine fails (R152, R324). -/
def State.fire (s : State) (c n : Nat) : State :=
  let k := s.core c
  let v := k.cell n
  let d := v.desc.toNat
  match s.badIn c (d + 4) 1 with
  | some o =>
    let s := s.setCell c n { v with fired := true, pend := false, fault := true, cause := 0x19 }
    (s.place c none false (s.record c 15 0xFFFF clsEngine (eccFlt (localAddr o)))).1
  | none =>
    match k.ringOf d with
    | none =>
      let s := s.setCell c n { v with fired := true, pend := false, fault := true, cause := 0x06 }
      (s.place c none false (s.record c 15 0xFFFF clsEngine (flt .perm (nat64 n) 69 (nat64 d)))).1
    | some r =>
      if (k.chan r).room then
        ((s.setCell c n { v with fired := true, pend := false }).pushDesc c r d v.acq (some n) []).updCore c fun k =>
          k.updChan r fun ch => ch.settle s.now
      else
        match ((k.chan r).pushed s.now).getLast? with
        | some (i, t) =>
          let m := t.ctr.getD 0
          if n < m then
            let s := s.setCell c n { v with fired := true, pend := false }
            let s := s.setCell c m { s.cell c m with pend := true }
            s.updCore c fun k => k.updChan r fun ch =>
              { ch with slots := AMap.set ch.slots i { t with kind := .desc d false, scope := v.acq, ctr := some n } }.settle s.now
          else s.setCell c n { v with fired := true, pend := true }
        | none => s.setCell c n { v with fired := true, pend := true }
/-- The cell overruns (R185). -/
def State.overrun (s : State) (c n : Nat) (d0 : Word) : State :=
  let v := s.cell c n
  let s := s.setCell c n { v with fault := true, cause := 0x0A }
  (s.place c none false
    (s.record c 15 0xFFFF clsEngine { code := .cntovr, obj := nat64 n, a := v.value, b := v.target, d0 := d0 })).1
/-- CounterAdd of R185: `who` is the adder's launch-relative id and context. -/
def State.counterAdd (s : State) (c n : Nat) (x : Word) (who : Nat) (ctx : Nat) (sc : Scope) : State :=
  if x = 0 then s else
  let k := s.cell c n
  let v := k.value.toNat + x.toNat
  let ovr := decide (2 ^ 64 ≤ v) || (k.armed && (k.fired || decide (k.target.toNat < v)))
  let k' : Cell := { k with value := nat64 (Nat.min v (2 ^ 64 - 1)), lastcore := BitVec.ofNat 12 who, lastctx := BitVec.ofNat 4 ctx,
                            acq := scopeMax k.acq sc }
  let s := s.setCell c n k'
  if ovr then s.overrun c n (at_ who 52 ||| at_ ctx 48)
  else if k.armed && decide (v = k.target.toNat) then s.fire c n else s

/-- A counter name (R190). -/
inductive CName
  | loc (n : Nat) | far (core n : Nat) | xpkg (package core n : Nat)
  deriving DecidableEq, Repr
/-- Reading a counter name in the domain of core `c`, or the fault of R190. -/
def State.counterName (s : State) (c : Nat) (w : Word) : Except Flt CName :=
  if isLocal w then
    let o := offOf w
    if ctrBase ≤ o && o < ctrBase + 0x4000 then
      if o % 8 = 0 then .ok (.loc ((o - ctrBase) / 8)) else .error (flt .align 0 w 0)
    else if o < 0x60000 || (accBase ≤ o && o < 0xC0000) then .error (perm 66 w)
    else .error (flt .pool 0 w 0)
  else if bits w 62 1 = 1 && bits w 48 13 = 0 && bits w 11 9 = 0 && (bits w 61 1 = 1 || bits w 32 16 = 0) then
    let r := bits w 20 12
    if bits w 61 1 = 1 then .ok (.xpkg (bits w 32 16) r (bits w 0 11))
    else if !s.inRange c r then .error (flt .perm 0 20 w)
    else if s.phys c r = c then .ok (.loc (bits w 0 11))
    else .ok (.far (s.phys c r) (bits w 0 11))
  else .error (perm 66 w)
/-- A name that must be local (R197). -/
def State.localCounter (s : State) (c : Nat) (w : Word) : Except Flt Nat :=
  match s.counterName c w with
  | .error f => .error f
  | .ok (.loc n) => .ok n
  | .ok _ => .error (perm 67 w)

/-- The counter adds of this cycle are still to come: they follow the issue slots, in the order of R185. -/
def State.addsToCome (s : State) : Bool := s.work.contains (.stage 3)
/-- A quantum of a core's launch begins in this cycle. -/
def State.quantumStart (s : State) (c : Nat) : Bool := match s.launchOf c with
  | some l => l.det && l.qstart == s.now
  | none => false
/-- An add that a core's own hardware makes takes its place among the adds of the cycle (R185); in deterministic mode a close makes its
adds in the order of its deliveries (R243). -/
def State.addHere (s : State) (c n : Nat) (x : Word) (who ctx : Nat) (sc : Scope) : State :=
  if s.quantumStart c || !s.addsToCome then s.counterAdd c n x who ctx sc
  else s.transmit c 15 c (.cadd n x (BitVec.ofNat 12 who) (BitVec.ofNat 4 ctx) 0) [] sc true
/-- An add of a completion (R152) or of `CADD` (R198) to a counter name of core `c`: local in this cycle, remote by message. -/
def State.addName (s : State) (from_ c ctx : Nat) (name : CName) (raw x : Word) (waits : List Nat) (sc : Scope) (hw : Bool) : State :=
  let core := BitVec.ofNat 12 (s.rel c)
  match name with
  | .loc n =>
    if waits = [] && !(hw && s.det c) && from_ = c && (s.det c || !s.addsToCome) then s.counterAdd c n x (s.rel c) ctx sc
    else s.transmit from_ ctx c (.cadd n x core (BitVec.ofNat 4 ctx) raw) waits sc (!(hw && s.det c) && from_ = c)
  | .far d n => s.transmit from_ ctx d (.cadd n x core (BitVec.ofNat 4 ctx) raw) waits sc false
  | .xpkg _ _ _ =>
    s.transmit from_ ctx (agent (c / 64) (2 + c % 2)) (.cadd 0 x core (BitVec.ofNat 4 ctx) raw) waits .sys false

/-! ## Ordering -/

/-- Acquire at a scope: at partition scope or wider every line of the core's buffer is dropped (R268, R271). -/
def State.acquire (s : State) (c : Nat) (sc : Scope) : State :=
  if scopeWide sc then s.updCore c fun k => { k with lbuf := [] } else s

/-- The route word of a message to another package (R175, R349). -/
def State.route (s : State) (dest : Nat) : Word := at_ dest 0 ||| at_ s.package.toNat 16
/-- The package that a route word came from. -/
def routeFrom (r : Word) : Nat := bits r 16 16
/-- A reserved slot of a channel for a reply (R177), or the fault of a ring without room. -/
def State.reserve (s : State) (c h : Nat) : Except Flt State :=
  let ch := (s.core c).chan h
  if ch.used < ch.depth then
    .ok (s.updCore c fun k => k.updChan h fun ch => { ch with reserved := ch.reserved + 1 })
  else .error (flt .wait (nat64 h) (nat64 ch.used) (nat64 ch.depth))
/-- A reservation ends without a slot (R177). -/
def State.unreserve (s : State) (c h : Nat) : State :=
  s.updCore c fun k => k.updChan h fun ch => { ch with reserved := ch.reserved - 1 }
/-- RELEASE goes back to the sender of a request (R177): over the network, or through the port it came by (R350). -/
def State.sendRelease (s : State) (from_ : Nat) (h : Word) (port : Option Nat) (pkg : Nat) : State :=
  match port with
  | none => s.sendHw from_ (s.phys from_ (hRcore h)) (.release (hRchan h) none)
  | some p => s.sendHw from_ p
      (.words (header (hRcore h) (hRchan h) (s.rel from_) (hDchan h) 0x10 0 (hTag h)) [s.route pkg])

/-! ## Translation -/

/-- The accesses of R332. -/
structure Need where
  rd : Bool
  wr : Bool
  deriving DecidableEq, Repr

def pageOf (va : Word) : Nat := va.toNat / 65536 % 2 ^ 41
def pageVa (page : Nat) : Word := BitVec.ofNat 64 (page * 65536)
def regionOf (va : Word) : Nat := va.toNat / 2 ^ 21
def Entry.big (e : Word) : Bool := e.getLsbD 62
/-- The entry that holds a page: a 64 KiB entry, else a 2 MiB entry of its region. -/
def findEntry (m : AMap Word) (va : Word) : Option Word :=
  (AMap.find m (2 * pageOf va)).or (AMap.find m (2 * (pageOf va / 32 * 32) + 1))
/-- An entry of a buffer or a shared unit: page number, size, entry. -/
def bufFind (l : List (Nat × Bool × Word)) (va : Word) : Option Word :=
  match l.find? (fun e => if e.2.1 then e.1 == pageOf va / 32 * 32 else e.1 == pageOf va) with
  | some e => some e.2.2
  | none => none
def bufPut (n : Nat) (l : List (Nat × Bool × Word)) (va e : Word) : List (Nat × Bool × Word) :=
  let key := if Entry.big e then pageOf va / 32 * 32 else pageOf va
  ((key, Entry.big e, e) :: l.filter (fun x => !(x.1 == key && x.2.1 == Entry.big e))).take n

def xlateFlt (base : Nat) (code : FCode) (reason : Nat) (va : Word) : Flt :=
  { code := code, obj := nat64 base, a := nat64 reason, b := va, addr := va }
/-- Reasons ATTR, DOMAIN and ACCESS of R332 on a present entry, else the physical address and attribute. -/
def checkEntry (base : Nat) (va e : Word) (n : Need) : Except Flt (Nat × BitVec 2) :=
  if bits e 60 2 = 3 then .error (xlateFlt base .xlate 2 va)
  else if bits e 52 6 ≠ base then .error (xlateFlt base .perm 79 va)
  else if (n.rd && !e.getLsbD 58) || (n.wr && !e.getLsbD 59) then .error (xlateFlt base .perm 78 va)
  else
    let low := if Entry.big e then va.toNat % 2 ^ 21 else va.toNat % 65536
    .ok (bits e 0 24 * 65536 + low, (e >>> 60).setWidth 2)
def sliceOf (pa : Nat) : Nat := pa / 65536 / 98304

/-- Translation at a unit that reads the tables (a streamer, a slice, an engine; R331). -/
def State.tableWalk (s : State) (base : Nat) (va : Word) (n : Need) : Except Flt (Nat × BitVec 2 × Word) :=
  if bits va 57 7 ≠ 0 then .error (xlateFlt base .xlate 3 va)
  else
    match findEntry (s.domain base).entries va with
    | none => .error (xlateFlt base .xlate 1 va)
    | some e =>
      match checkEntry base va e n with
      | .error f => .error f
      | .ok (pa, at_) => .ok (pa, at_, e)

/-- `cycles` of a launch (R336): its cycle count, from the go on. -/
def State.cycles (s : State) (base : Nat) : Nat :=
  match (s.domain base).launch with
  | some l =>
    match l.phase with
    | .running | .stopping _ _ _ => l.base + (s.now - l.start)
    | .stopped _ _ _ | .quiet _ _ => l.base
    | _ => 0
  | none => 0

/-- An access refused for its domain is written to the violation log of its partition (R332, R346). -/
def State.logViolation (s : State) (c x : Nat) (f : Flt) : State :=
  if f.code == .perm && f.a == 79 then
    let p := c / 64
    let e : List Word := [f.addr, at_ (s.rel c * 16 + x) 0 ||| at_ (f.code.code + 256 * 79) 32, nat64 (s.cycles (s.baseOf p)), 0]
    s.updPart p fun q => { q with vlogN := q.vlogN + 1, vlog := (q.vlog ++ [e]).drop (q.vlog.length + 1 - 64) }
  else s

/-- A walk for a region begins at its home slice, unless one runs or 256 do (R333). -/
def State.startWalk (s : State) (base : Nat) (va : Word) : State :=
  let m := 2 ^ (s.domain base).log2
  let p := base + regionOf va % m
  let q := s.part p
  if q.walks.contains (regionOf va) || 256 ≤ q.walks.length then s
  else (s.updPart p fun q => { q with walks := q.walks ++ [regionOf va] }).count p 10 1

/-- What translation at a core answers: an address, a fault, or a stall for an entry that has not arrived (R331). -/
inductive Xl
  | ok (pa : Nat) (attr : BitVec 2) (entry : Word)
  | flt (f : Flt)
  | miss
  deriving DecidableEq, Repr

/-- Translation at the issuing context: its core's buffer, and what its STALLED bundle has been answered, which other entries may have
driven out of the buffer since (R331). -/
def State.lookup (s : State) (va : Word) (n : Need) : Xl :=
  let base := s.domOf s.cur.core
  if bits va 57 7 ≠ 0 then .flt (xlateFlt base .xlate 3 va)
  else
    match (bufFind s.myCore.tlb va).or (bufFind s.me.xhave va) with
    | some e =>
      match checkEntry base va e n with
      | .error f => .flt f
      | .ok (pa, a) => .ok pa a e
    | none => if s.me.xmiss = some (pageOf va) then .flt (xlateFlt base .xlate 1 va) else .miss

/-- A miss stalls the bundle, and a walk begins where the shared unit lacks the page too (R331, R333). -/
def State.xmissStall (s : State) (va : Word) : State :=
  let p := s.cur.core / 64
  let s := s.count p 9 1
  let s := match bufFind (s.part p).shared va with
    | some _ => s
    | none => s.startWalk (s.domOf s.cur.core) va
  s.stallMe (.xlate (pageOf va))

/-- A NOENTRY of a domain that the host services is held and not delivered (R334). -/
def State.serviced (s : State) (c : Nat) (f : Flt) : Bool :=
  f.code == .xlate && f.a == 1 && (s.domain (s.domOf c)).serving
/-- PAGEREQ, to the queue that issued LAUNCH (R334). -/
def State.pageReq (s : State) (c : Nat) (va : Word) : State :=
  match s.launchOf c with
  | some l => s.post l.q [entry 4 (c / 64) 0 0 [va, nat64 (s.rel c)]]
  | none => s
/-- A hold of a serviced NOENTRY (R334), or the fault. -/
def State.xlateFault (s : State) (f : Flt) : State :=
  if s.serviced s.cur.core f then (s.pageReq s.cur.core f.addr).stallMe (.held f.addr s.now)
  else (s.logViolation s.cur.core s.cur.ctx f).raise f

/-- Translate for the issuing bundle and go on with the address, or stall or fault (R331, R332). -/
def State.translate (s : State) (va : Word) (n : Need) (k : Nat → BitVec 2 → Word → State → State) : State :=
  match s.lookup va n with
  | .ok pa a e => k pa a e (s.updCore s.cur.core fun c => { c with tlb := bufPut 64 c.tlb va e })
  | .flt f => s.xlateFault f
  | .miss => s.xmissStall va

/-- What an operation that may fault answers: the fault is taken on the untouched state. -/
def State.orRaise (s : State) {α : Type} (r : Except Flt α) (k : α → State) : State :=
  match r with
  | .error f => s.raise f
  | .ok v => k v
/-- Go on when a check holds, else fault. -/
def State.check (s : State) (ok : Bool) (f : Flt) (k : State) : State := if ok then k else s.raise f

/-! ## Performing global accesses at a slice -/

def State.hbmNum (s : State) (pa n : Nat) : Nat := Memory.num zeroByte s.mem pa n
def State.hbmPut (s : State) (pa : Nat) (bs : List Byte) : State :=
  { s with
    mem := Memory.store zeroByte s.mem pa bs
    bad := s.bad.filter fun e => match e with
      | .hbm o => !(decide (pa ≤ o) && decide (o + 8 ≤ pa + bs.length))
      | _ => true }
def State.ver (s : State) (pa : Nat) : BitVec 16 := AMap.get 0 (s.part (sliceOf pa)).vers (pa / 8)
/-- The version store of a slice takes one more superseded value (R253): it holds six, the fewest that R247's program needs, and
as many more as the implementation gives it (log 11). -/
def State.hasRoom (s : State) (pa : Nat) : Bool := decide ((s.part (sliceOf pa)).retained.length ≤ 5 + Config.versionStoreMore)
/-- Room for the words of one write: a header's two are written together or not at all (R141). -/
def State.roomFor (s : State) (pa n : Nat) : Bool :=
  s.hasRoom pa && (decide (n ≤ 8) || decide ((s.part (sliceOf pa)).retained.length ≤ 4 + Config.versionStoreMore))

/-- A write performed at its slice (R248): a VERSIONED word gains a version, the superseded value is retained, and the
window reclaim is made (R252, R253). -/
def State.performWrite (s : State) (pa : Nat) (bs : List Byte) (versioned : Bool) : State :=
  let s := s.count (sliceOf pa) 5 bs.length
  if versioned then
    let w := pa / 8
    let cur := s.ver pa
    let new := cur + 1
    let old := nat64 (s.hbmNum (w * 8) 8)
    (s.updPart (sliceOf pa) fun p => { p with
      vers := AMap.set p.vers w new,
      retained := (p.retained ++ [(w, cur, old)]).filter
        (fun e => !(e.1 == w && decide (2 ^ 15 ≤ (new - e.2.1).toNat))) }).hbmPut pa bs
  else s.hbmPut pa bs

/-- A write of one or two whole words, each with a version of its own. -/
def State.performWords (s : State) (pa : Nat) (bs : List Byte) (versioned : Bool) : State :=
  if bs.length ≤ 8 then s.performWrite pa bs versioned
  else (s.performWrite pa (bs.take 8) versioned).performWrite (pa + 8) (bs.drop 8) versioned
/-- RECL performed (R253). -/
def State.performRecl (s : State) (pa : Nat) (v : BitVec 16) : State :=
  s.updPart (sliceOf pa) fun p => { p with
    retained := p.retained.filter fun e =>
      !(e.1 == pa / 8 && decide (1 ≤ (v - e.2.1).toNat) && decide ((v - e.2.1).toNat < 2 ^ 15)) }

/-- The stores of a core's view (R266): those of its contexts; an engine's held writes are in no view (R274). -/
def Core.view (k : Core) : List LaneEntry := k.lanes.filter fun l => !l.recl && l.ctx != 15
/-- The youngest of some stores that covers a byte (R267). -/
def laneByte (ls : List LaneEntry) (a : Nat) : Option Byte :=
  match (ls.filter (fun l => decide (l.pa ≤ a) && decide (a < l.pa + l.n))).getLast? with
  | some l => some (BitVec.ofNat 8 (l.data.toNat >>> (8 * (a - l.pa))))
  | none => none
/-- Bytes of a slice under some stores. -/
def State.numUnder (s : State) (ls : List LaneEntry) (pa : Nat) : Nat → Nat
  | 0 => 0
  | n + 1 => ((laneByte ls pa).getD (Memory.read zeroByte s.mem pa)).toNat + 256 * s.numUnder ls (pa + 1) n
/-- Bytes as the core views them: its lanes over the slice. -/
def State.viewNum (s : State) (c pa n : Nat) : Nat := s.numUnder (s.core c).view pa n

/-- The earlier loads of a context to the word of `pa` that have not been performed (R267). -/
def State.loadsBefore (s : State) (c x pa id : Nat) : List LoadReq :=
  s.loads.filter fun q => q.core == c && q.ctx == x && q.pa / 8 == pa / 8 && decide (q.id < id)
def State.loadBefore (s : State) (c x pa id : Nat) : Bool := !(s.loadsBefore c x pa id).isEmpty
/-- An earlier store or reclaim of a context to the word of `pa` that stands in its lane (R267, R286). -/
def State.laneBefore (s : State) (c x pa id : Nat) : Bool :=
  (s.core c).lanes.any fun l => l.ctx == x && l.pa / 8 == pa / 8 && decide (l.id < id)
def Place.sameWord : Place → Place → Bool
  | .pool a, .pool b => a / 8 == b / 8
  | .phys a _, .phys b _ => a / 8 == b / 8
  | _, _ => false
/-- Atomics of a context at a word that have not been performed: results they will return (R267, R276). -/
def State.atomsAt (s : State) (c x : Nat) (pl : Place) : List Nat :=
  (s.net.filterMap fun p => match p.body with
    | .atom _ q _ _ _ ctx out => if p.src == c && ctx == x && pl.sameWord q then some out else none
    | _ => none) ++
  s.cores.flatMap fun k => k.2.handler.filterMap fun r => match r with
    | .atom src _ q _ _ _ ctx out => if src == c && ctx == x && pl.sameWord q then some out else none
    | _ => none
/-- An access of the issuing context stays behind its own atomics at the word. -/
def State.behindAtoms (s : State) (pl : Place) (k : State) : State :=
  match s.atomsAt s.cur.core s.cur.ctx pl with
  | [] => k
  | l => s.stallMe (.fence l)

/-- The context's own atomics at the words of a range of its scratchpad. -/
def State.ownAtoms (s : State) (off n : Nat) : List Nat :=
  (List.range ((n + 7) / 8)).flatMap fun i => s.atomsAt s.cur.core s.cur.ctx (.pool (off + 8 * i))

/-- The first bad word of HBM that a range touches. -/
def State.badHbm (s : State) (pa n : Nat) : Option Nat :=
  s.bad.findSome? fun e => match e with
    | .hbm o => if pa < o + 8 ∧ o < pa + n then some o else none
    | _ => none
/-- A byte of the core's view at an address stands in a bad word of HBM, with no store over it (R266, R324). -/
def State.viewBad (s : State) (c pa n : Nat) : Bool :=
  (List.range n).any fun i => (laneByte (s.core c).view (pa + i)).isNone && (s.badHbm (pa + i) 1).isSome
/-- A served PLAIN line enters the buffer of 512 lines with the slice's values at that moment (R249, R268, log 68); one with a bad word is
not kept (R324). -/
def State.fillLine (s : State) (c pa : Nat) : State :=
  let base := pa / 64 * 64
  if (s.badHbm base 64).isSome then s else
  let bs := (List.range 64).map fun i => Memory.read zeroByte s.mem (base + i)
  s.updCore c fun k =>
    let l := if (AMap.find k.lbuf (pa / 64)).isNone ∧ 512 ≤ k.lbuf.length then k.lbuf.tail else k.lbuf
    { k with lbuf := AMap.set l (pa / 64) bs }
/-- An entry that the shared unit holds and the core's buffer lacks is taken over, for an access that no bundle waits with (R331). -/
def State.prefill (s : State) (va : Word) : State :=
  let c := s.cur.core
  match bufFind (s.core c).tlb va, bufFind (s.part (c / 64)).shared va with
  | none, some e => (s.updCore c fun k => { k with tlb := bufPut 64 k.tlb va e }).count (c / 64) 9 1
  | _, _ => s
/-- A local read by an instruction (R324): its bytes, or the ECC fault. -/
def State.readLocal (s : State) (c off n : Nat) : Except Flt (List Byte) :=
  match s.badIn c off n with
  | some o => .error (eccFlt (localAddr o))
  | none => .ok ((s.core c).bytes off n)
/-- A write into a core's pool; a full 8-byte write to a bad word clears its error (R324). -/
def State.putLocal (s : State) (c off : Nat) (bs : List Byte) : State :=
  (s.updCore c fun k => k.put off bs).clearBad c off bs.length
/-- A store narrower than a bad word that it touches faults ECC, as a read would (R324). -/
def State.storeEcc (s : State) (c off n : Nat) : Option Flt :=
  s.bad.findSome? fun e => match e with
    | .pool k o => if k = c ∧ off < o + 8 ∧ o < off + n ∧ ¬(off ≤ o ∧ o + 8 ≤ off + n) then some (eccFlt (localAddr o)) else none
    | _ => none

end Sys2Proof.Machine
end

