-- ==== Sys2Proof/Machine/Flags.lean ====
section
/-! DEFINITION. The sticky bits of `flags` (R77), and which of them a rounding raises (R75, R80). -/

namespace Sys2Proof.Machine
open Sys2Proof

abbrev Bits6 := BitVec 6
def fNone : Bits6 := 0
/-- Inexact. -/
def fNX : Bits6 := 1
/-- Overflow. -/
def fOF : Bits6 := 2
/-- Underflow. -/
def fUF : Bits6 := 4
/-- A NaR, or a NaN from inputs that are none. -/
def fNR : Bits6 := 8
/-- Saturation. -/
def fSA : Bits6 := 16
/-- Division by zero. -/
def fDZ : Bits6 := 32
def fIf (b : Bool) (f : Bits6) : Bits6 := if b then f else 0

/-- Flags of a finite rounding: inexact, and underflow where the result is tiny after rounding and inexact (R75). -/
def fRound (inexact tiny : Bool) : Bits6 := fIf inexact fNX ||| fIf (inexact && tiny) fUF
/-- Flags of an overflow (R67, R73, R75). -/
def fOver : Bits6 := fOF ||| fNX
/-- Flags of a stochastic rounding that is not exact (R80). -/
def fStoch (inf tiny : Bool) : Bits6 := fNX ||| fIf inf fOF ||| fIf tiny fUF

end Sys2Proof.Machine
end

