-- ==== Sys2Proof/Machine/Fp.lean ====
section
/-! DEFINITION. IEEE 754 arithmetic on bit patterns (R75, R76, R79, R80, R102, R103): every operand is an exact dyadic
number, every operation is exact, and the result is rounded once. -/

namespace Sys2Proof.Machine
open Sys2Proof

/-- A binary format: significand bits with the hidden one, exponent bits, and the canonical NaN (R75). -/
structure Fmt where
  p   : Nat
  ew  : Nat
  nan : Nat
  deriving DecidableEq, Repr
def fmt32 : Fmt := ⟨24, 8, 0x7FC00000⟩
def fmt64 : Fmt := ⟨53, 11, 0x7FF8000000000000⟩
def fmt16 : Fmt := ⟨11, 5, 0x7E00⟩
def fmtB16 : Fmt := ⟨8, 8, 0x7FC0⟩
def Fmt.bias (f : Fmt) : Int := 2 ^ (f.ew - 1) - 1
def Fmt.emin (f : Fmt) : Int := 1 - f.bias
def Fmt.emax (f : Fmt) : Int := f.bias
def Fmt.signBit (f : Fmt) : Nat := 2 ^ (f.p - 1 + f.ew)
def Fmt.infBits (f : Fmt) : Nat := (2 ^ f.ew - 1) * 2 ^ (f.p - 1)
def Fmt.maxBits (f : Fmt) : Nat := f.infBits - 1
def Fmt.signed (f : Fmt) (s : Bool) (v : Nat) : Nat := if s then v + f.signBit else v

/-- A value: NaN, an infinity, or ± m × 2^e (m = 0 for a zero). -/
inductive Fv
  | nan
  | inf (s : Bool)
  | fin (s : Bool) (m : Nat) (e : Int)
  deriving DecidableEq, Repr

/-- Reading a pattern. -/
def Fmt.read (f : Fmt) (w : Nat) : Fv :=
  let s := decide (w / f.signBit % 2 = 1)
  let ex := w / 2 ^ (f.p - 1) % 2 ^ f.ew
  let fr := w % 2 ^ (f.p - 1)
  if ex = 2 ^ f.ew - 1 then (if fr = 0 then .inf s else .nan)
  else if ex = 0 then .fin s fr (f.emin - (f.p - 1 : Nat))
  else .fin s (fr + 2 ^ (f.p - 1)) ((ex : Int) - f.bias - (f.p - 1 : Nat))

/-- Rounding modes of R76. -/
inductive Rm
  | rne | rz | ru | rd
  deriving DecidableEq, Repr
def rmOf (b : BitVec 2) : Rm := if b = 0 then .rne else if b = 1 then .rz else if b = 2 then .ru else .rd

/-- Whether a magnitude with a discarded part goes up: `two` is twice the discarded part against the step. -/
def goesUp (rm : Rm) (s odd : Bool) (rem step : Nat) (sticky : Bool) : Bool :=
  match rm with
  | .rne => decide (step < 2 * rem) || (decide (2 * rem = step) && (sticky || odd))
  | .rz => false
  | .ru => !s && (decide (rem ≠ 0) || sticky)
  | .rd => s && (decide (rem ≠ 0) || sticky)

/-- m × 2^e (plus a part below one unit of m, where `sticky`) brought to units of 2^q: the kept magnitude after rounding,
and whether anything was discarded. -/
def cutAt (rm : Rm) (s : Bool) (m : Nat) (e q : Int) (sticky : Bool) : Nat × Bool :=
  if q ≤ e then (m * 2 ^ (e - q).toNat, sticky)
  else
    let step := 2 ^ (q - e).toNat
    let k := m / step
    let r := m % step
    (if goesUp rm s (k % 2 == 1) r step sticky then k + 1 else k, decide (r ≠ 0) || sticky)

/-- Overflow by mode (R79, R101): infinity or the largest finite number. -/
def Fmt.overflow (f : Fmt) (rm : Rm) (s : Bool) : Nat :=
  let big := match rm with
    | .rne => true
    | .rz => false
    | .ru => !s
    | .rd => s
  f.signed s (if big then f.infBits else f.maxBits)

/-- Rounding an exact value once into a format, with the flags it raises (R75). Where `sticky`, the value lies strictly
between m and m + 1 units, and m has more than p + 2 bits. -/
def Fmt.round (f : Fmt) (rm : Rm) (s : Bool) (m : Nat) (e : Int) (sticky : Bool) : Nat × Bits6 :=
  if m = 0 then (f.signed s 0, fNone)
  else
    let top : Int := e + Nat.log2 m
    let q0 : Int := top - (f.p - 1 : Nat)
    let q : Int := max q0 (f.emin - (f.p - 1 : Nat))
    let (k, nx) := cutAt rm s m e q sticky
    let (k0, _) := cutAt rm s m e q0 sticky
    let tiny := decide (top < f.emin) && !(decide (top = f.emin - 1) && decide (k0 = 2 ^ f.p))
    let et : Int := q + Nat.log2 k
    if k ≠ 0 ∧ f.emax < et then (f.overflow rm s, fOver)
    else
      let bits :=
        if k < 2 ^ (f.p - 1) then k
        else
          let k' := if k = 2 ^ f.p then 2 ^ (f.p - 1) else k
          (et + f.bias).toNat * 2 ^ (f.p - 1) + (k' - 2 ^ (f.p - 1))
      (f.signed s bits, fRound nx tiny)

/-- Rounding a value into a format. -/
def Fmt.put (f : Fmt) (rm : Rm) : Fv → Nat × Bits6
  | .nan => (f.nan, fNone)
  | .inf s => (f.signed s f.infBits, fNone)
  | .fin s m e => f.round rm s m e false

def Fv.isNaN : Fv → Bool
  | .nan => true
  | _ => false
def Fv.neg : Fv → Fv
  | .nan => .nan
  | .inf s => .inf (!s)
  | .fin s m e => .fin (!s) m e
/-- The exact sum as a signed integer in units of 2^e. -/
def signedAt (s : Bool) (m : Nat) (e q : Int) : Int :=
  let v : Int := m * 2 ^ (e - q).toNat
  if s then -v else v

/-- An exact sum; the sign of a zero sum is that of IEEE 754 (R101). The flag is NR where a NaN comes of no NaN. -/
def Fv.add (rm : Rm) (a b : Fv) : Fv × Bits6 :=
  match a, b with
  | .nan, _ => (.nan, fNone)
  | _, .nan => (.nan, fNone)
  | .inf s, .inf t => if s = t then (.inf s, fNone) else (.nan, fNR)
  | .inf s, .fin _ _ _ => (.inf s, fNone)
  | .fin _ _ _, .inf t => (.inf t, fNone)
  | .fin s m e, .fin t n g =>
    let q := min e g
    let v := signedAt s m e q + signedAt t n g q
    if v = 0 then
      (.fin (if m = 0 ∧ n = 0 ∧ s = t then s else decide (rm = .rd)) 0 q, fNone)
    else (.fin (decide (v < 0)) v.natAbs q, fNone)

/-- An exact product. -/
def Fv.mul (a b : Fv) : Fv × Bits6 :=
  match a, b with
  | .nan, _ => (.nan, fNone)
  | _, .nan => (.nan, fNone)
  | .inf s, .inf t => (.inf (s != t), fNone)
  | .inf s, .fin t n _ => if n = 0 then (.nan, fNR) else (.inf (s != t), fNone)
  | .fin s m _, .inf t => if m = 0 then (.nan, fNR) else (.inf (s != t), fNone)
  | .fin s m e, .fin t n g => (.fin (s != t) (m * n) (e + g), fNone)

def Fmt.addB (f : Fmt) (rm : Rm) (a b : Nat) : Nat × Bits6 :=
  let (v, x) := (f.read a).add rm (f.read b)
  let (w, y) := f.put rm v
  (w, x ||| y)
def Fmt.negB (f : Fmt) (a : Nat) : Nat := if a / f.signBit % 2 = 1 then a - f.signBit else a + f.signBit
def Fmt.subB (f : Fmt) (rm : Rm) (a b : Nat) : Nat × Bits6 :=
  let (v, x) := (f.read a).add rm (f.read b).neg
  let (w, y) := f.put rm v
  (w, x ||| y)
def Fmt.mulB (f : Fmt) (rm : Rm) (a b : Nat) : Nat × Bits6 :=
  let (v, x) := (f.read a).mul (f.read b)
  let (w, y) := f.put rm v
  (w, x ||| y)
/-- A × B + D fused; `np` negates the product and `nd` the addend (R101). NR only where no input is a NaN. -/
def Fmt.fmaB (f : Fmt) (rm : Rm) (np nd : Bool) (a b d : Nat) : Nat × Bits6 :=
  let x := f.read a
  let y := f.read b
  let z := f.read d
  if x.isNaN || y.isNaN || z.isNaN then (f.nan, fNone)
  else
    let (p, g) := x.mul y
    let (v, h) := (if np then p.neg else p).add rm (if nd then z.neg else z)
    let (w, k) := f.put rm v
    (w, g ||| h ||| k)

/-- A quotient rounded once, with the specials of R78. -/
def Fmt.divB (f : Fmt) (rm : Rm) (a b : Nat) : Nat × Bits6 :=
  match f.read a, f.read b with
  | .nan, _ => (f.nan, fNone)
  | _, .nan => (f.nan, fNone)
  | .inf _, .inf _ => (f.nan, fNR)
  | .inf s, .fin t _ _ => (f.signed (s != t) f.infBits, fNone)
  | .fin s _ _, .inf t => (f.signed (s != t) 0, fNone)
  | .fin s m e, .fin t n g =>
    if n = 0 then (if m = 0 then (f.nan, fNR) else (f.signed (s != t) f.infBits, fDZ))
    else if m = 0 then (f.signed (s != t) 0, fNone)
    else
      let k := 2 * f.p + 8
      f.round rm (s != t) (m * 2 ^ k / n) (e - g - k) (decide (m * 2 ^ k % n ≠ 0))

/-- Integer square root by Newton's steps from above. -/
def isqrtGo (n : Nat) : Nat → Nat → Nat
  | 0, x => x
  | fuel + 1, x =>
    let y := (x + n / x) / 2
    if y < x then isqrtGo n fuel y else x
def isqrt (n : Nat) : Nat := if n = 0 then 0 else isqrtGo n (Nat.log2 n + 8) (2 ^ (Nat.log2 n / 2 + 1))

/-- A magnitude as an even power of two times a number of at least 2k bits. -/
def evenScale (k m : Nat) (e : Int) : Nat × Int :=
  let m' := m * 2 ^ (2 * k)
  let e' := e - (2 * k : Nat)
  if e' % 2 = 0 then (m', e') else (m' * 2, e' - 1)

/-- VSQRT, VRSQ and VRCP of R78, each rounded by RNE. -/
def Fmt.sqrtB (f : Fmt) (a : Nat) : Nat × Bits6 :=
  match f.read a with
  | .nan => (f.nan, fNone)
  | .inf s => if s then (f.nan, fNR) else (f.infBits, fNone)
  | .fin s m e =>
    if m = 0 then (f.signed s 0, fNone)
    else if s then (f.nan, fNR)
    else
      let (n, g) := evenScale (f.p + 4) m e
      let r := isqrt n
      f.round .rne false r (g / 2) (decide (r * r ≠ n))
def Fmt.rsqB (f : Fmt) (a : Nat) : Nat × Bits6 :=
  match f.read a with
  | .nan => (f.nan, fNone)
  | .inf s => if s then (f.nan, fNR) else (0, fNone)
  | .fin s m e =>
    if m = 0 then (f.signed s f.infBits, fDZ)
    else if s then (f.nan, fNR)
    else
      let (n, g) := evenScale 0 m e
      let k := 2 * f.p + 8
      let big := 2 ^ (2 * k)
      let r := isqrt (big / n)
      f.round .rne false r (-(g / 2) - k) (decide (r * r * n ≠ big))
def Fmt.one (f : Fmt) : Nat := (2 ^ (f.ew - 1) - 1) * 2 ^ (f.p - 1)
def Fmt.rcpB (f : Fmt) (a : Nat) : Nat × Bits6 := f.divB .rne f.one a

/-- Exact comparison of two values that are no NaN: below, equal, above; the zeros are equal. -/
def Fv.cmp (a b : Fv) : Ordering :=
  match a, b with
  | .inf s, .inf t => if s = t then .eq else if s then .lt else .gt
  | .inf s, _ => if s then .lt else .gt
  | _, .inf t => if t then .gt else .lt
  | .fin s m e, .fin t n g =>
    let q := min e g
    compare (signedAt s m e q) (signedAt t n g q)
  | _, _ => .eq
/-- VMIN and VMAX of F types (R102): a NaN gives the canonical NaN, and −0 lies below +0. -/
def Fmt.minmaxB (f : Fmt) (isMax : Bool) (a b : Nat) : Nat :=
  let x := f.read a
  let y := f.read b
  if x.isNaN || y.isNaN then f.nan
  else
    let less := match x.cmp y with
      | .lt => true
      | .gt => false
      | .eq => decide (a / f.signBit % 2 = 1)
    if less != isMax then a else b
/-- The compares of R103. -/
def Fmt.cmpB (f : Fmt) (c : VCond) (a b : Nat) : Bool :=
  let x := f.read a
  let y := f.read b
  if x.isNaN || y.isNaN then c == .ne
  else
    match c, x.cmp y with
    | .eq, o => o == .eq
    | .ne, o => o != .eq
    | .lt, o => o == .lt
    | .le, o => o != .gt

/-- To an integer between `lo` and `hi` (R79). -/
def Fv.toInt (rm : Rm) (lo hi : Int) : Fv → Int × Bits6
  | .nan => (0, fSA)
  | .inf s => (if s then lo else hi, fSA)
  | .fin s m e =>
    let (k, nx) := cutAt rm s m e 0 false
    let v : Int := if s then -(k : Int) else k
    if v < lo then (lo, fSA) else if hi < v then (hi, fSA) else (v, fIf nx fNX)
/-- From an integer (R79). -/
def Fmt.ofInt (f : Fmt) (rm : Rm) (v : Int) : Nat × Bits6 := f.round rm (decide (v < 0)) v.natAbs 0 false
/-- From one format to another (R79). -/
def Fmt.conv (src dst : Fmt) (rm : Rm) (a : Nat) : Nat × Bits6 := dst.put rm (src.read a)

/-- The stochastic conversion of R80 with draw `d`. -/
def Fmt.stoch (f : Fmt) (v : Fv) (d : Nat) : Nat × Bits6 :=
  match v with
  | .nan => (f.nan, fNone)
  | .inf s => (f.signed s f.infBits, fNone)
  | .fin s m e =>
    if m = 0 then (f.signed s 0, fNone)
    else
      let top : Int := e + Nat.log2 m
      let q : Int := max (top - (f.p - 1 : Nat)) (f.emin - (f.p - 1 : Nat))
      let (lo, nx) := cutAt .rz s m e q false
      if top > f.emax then (f.signed s f.infBits, fOver)
      else if !nx then f.round .rz s m e false
      else
        let step := 2 ^ (q - e).toNat
        let rd := (m % step) * 2 ^ 24 / step
        let k := if d % 2 ^ 24 < rd then lo + 1 else lo
        let (w, _) := f.round .rz s k q false
        let mag := w % f.signBit
        let w := if k ≠ 0 ∧ f.emax < q + Nat.log2 k then f.signed s f.infBits else w
        let inf := decide (w % f.signBit = f.infBits)
        (w, fStoch inf (decide (mag < 2 ^ (f.p - 1)) && !inf))

end Sys2Proof.Machine
end

