-- ==== Sys2Proof/Machine/Transc.lean ====
section
/-! DEFINITION. VEXP2 and VLOG2 of R78: the exact value is enclosed from below by integer arithmetic, and the enclosure
rounded; its width, below 2^-60 of the value, lies far inside the distance of any FP32 case from a rounding boundary
(DEDUCED, log 14). -/

namespace Sys2Proof.Machine
open Sys2Proof

/-- Fraction bits of the enclosure of an exponential. -/
def expBits : Nat := 96

/-- From below, 2^(f / 2^k) × 2^96 for f < 2^k, taking the bits of f from the top: `root` is 2^(2^-i) × 2^96 from below. -/
def exp2Go : Nat → Nat → Nat → Nat → Nat
  | 0, _, _, acc => acc
  | k + 1, f, root, acc =>
    let root := isqrt (root * 2 ^ expBits)
    let acc := if 2 ^ k ≤ f then acc * root / 2 ^ expBits else acc
    exp2Go k (f % 2 ^ k) root acc
def exp2Frac (k f : Nat) : Nat := exp2Go k f (2 * 2 ^ expBits) (2 ^ expBits)

/-- 2^(n + f / 2^k) rounded into FP32; exact only where f = 0. -/
def exp2Round (rm : Rm) (s : Bool) (n : Int) (k f : Nat) : Nat × Bits6 :=
  if f = 0 then fmt32.round rm s 1 n false else fmt32.round rm s (exp2Frac k f) (n - (expBits : Nat)) true

/-- VEXP2. -/
def exp2B (a : Nat) : Nat × Bits6 :=
  match fmt32.read a with
  | .nan => (fmt32.nan, fNone)
  | .inf s => (if s then 0 else fmt32.infBits, fNone)
  | .fin s m e =>
    if m = 0 then (fmt32.one, fNone)
    else if 9 ≤ e + Nat.log2 m then (if s then (0, fUF ||| fNX) else (fmt32.infBits, fOver))
    else
      let k := (-e).toNat
      let x : Int := if s then -((m * 2 ^ e.toNat : Nat) : Int) else (m * 2 ^ e.toNat : Nat)
      let n := x / 2 ^ k
      let f := (x % 2 ^ k).toNat
      if f = 0 then exp2Round .rne false n 0 0
      else if 110 < k then
        exp2Round .rne false n 110 (Nat.max 1 (f / 2 ^ (k - 110)))
      else exp2Round .rne false n k f

/-- Working precision and result bits of the logarithm. -/
def logBits : Nat := 240
/-- `n` bits of log2(y / 2^240) for y in [1, 2), from below, by squaring. -/
def log2Go : Nat → Nat → Nat → Nat
  | 0, _, acc => acc
  | n + 1, y, acc =>
    let z := y * y / 2 ^ logBits
    if 2 * 2 ^ logBits ≤ z then log2Go n (z / 2) (2 * acc + 1) else log2Go n z (2 * acc)

/-- VLOG2. -/
def log2B (a : Nat) : Nat × Bits6 :=
  match fmt32.read a with
  | .nan => (fmt32.nan, fNone)
  | .inf s => if s then (fmt32.nan, fNR) else (fmt32.infBits, fNone)
  | .fin s m e =>
    if m = 0 then (fmt32.signed true fmt32.infBits, fDZ)
    else if s then (fmt32.nan, fNR)
    else
      let l := Nat.log2 m
      let n : Int := e + l
      if m = 2 ^ l then fmt32.ofInt .rne n
      else
        let v : Int := n * 2 ^ 100 + log2Go 100 (m * 2 ^ (logBits - l)) 0
        -- the exact value lies in (v, v + 1) units of 2^-100; below zero its magnitude lies under v's
        if v < 0 then fmt32.round .rne true (v.natAbs - 1) (-100) true
        else fmt32.round .rne false v.toNat (-100) true

end Sys2Proof.Machine
end

