-- ==== Sys2Proof/Machine/LFmt.lean ====
section
/-! DEFINITION. The logarithmic formats L6 and L8 (R63 to R69) and the rounding of an exact value into a tile element
(R73, R144). -/

namespace Sys2Proof.Machine
open Sys2Proof

/-- An L format by its fraction steps F: 4 for L6, 8 for L8. A code is sign above L in `F`-dependent width. -/
def lWidth (F : Nat) : Nat := if F = 4 then 5 else 7
def lMax (F : Nat) : Int := 2 ^ (lWidth F - 1) - 1
def lZero (F : Nat) : Nat := 2 ^ (lWidth F - 1)
def lNaR (F : Nat) : Nat := 2 ^ lWidth F + lZero F
def lCode (F : Nat) (s : Bool) (L : Int) : Nat :=
  (L % 2 ^ lWidth F).toNat + (if s then 2 ^ lWidth F else 0)
def lSign (F c : Nat) : Bool := decide (c / 2 ^ lWidth F % 2 = 1)
def lField (F c : Nat) : Int := sintN (lWidth F) c
def lIsZero (F c : Nat) : Bool := c % 2 ^ (lWidth F + 1) == lZero F
def lIsNaR (F c : Nat) : Bool := c % 2 ^ (lWidth F + 1) == lNaR F

/-- Over(x, pol) of R67. -/
def lOver (F : Nat) (sat s : Bool) : Nat × Bits6 :=
  if sat then (lCode F s (lMax F), fOver ||| fSA) else (lNaR F, fOver ||| fNR)

/-- RoundL of R67 on a finite magnitude m × 2^e; the thresholds are compared exactly, by 2F-th powers. -/
def lRoundFin (F : Nat) (sat s : Bool) (m : Nat) (e : Int) : Nat × Bits6 :=
  let l := Nat.log2 m
  let top := m ^ (2 * F)
  let j := ((List.range F).filter fun k => decide (2 ^ (2 * k + 1 + 2 * F * l) < top)).length
  let L : Int := F * (e + l) + j
  if lMax F < L then lOver F sat s
  else if L < -lMax F then (lZero F, fUF ||| fNX)
  else (lCode F s L, fIf (decide (m ≠ 2 ^ l)) fNX)

/-- RoundL of R67; `sat` is the policy SAT. -/
def lRound (F : Nat) (sat : Bool) : Fv → Nat × Bits6
  | .nan => (lNaR F, fNR)
  | .inf s => lOver F sat s
  | .fin s m e => if m = 0 then (lZero F, fIf s fUF) else lRoundFin F sat s m e

/-- l6 → l8 of R68. -/
def l6to8 (c : Nat) : Nat × Bits6 :=
  if lIsZero 4 c then (lZero 8, fNone) else if lIsNaR 4 c then (lNaR 8, fNR)
  else (lCode 8 (lSign 4 c) (2 * lField 4 c), fNone)
/-- l8 → l6 of R68: an odd L is a tie, and goes to the even neighbour. -/
def l8to6 (sat : Bool) (c : Nat) : Nat × Bits6 :=
  if lIsZero 8 c then (lZero 4, fNone) else if lIsNaR 8 c then (lNaR 4, fNR)
  else
    let L := lField 8 c
    let h := L / 2
    let r := if L % 2 = 0 then h else if h % 2 = 0 then h else h + 1
    let x := fIf (decide (L % 2 ≠ 0)) fNX
    if lMax 4 < r then
      let (w, f) := lOver 4 sat (lSign 8 c)
      (w, f ||| x)
    else if r < -lMax 4 then (lZero 4, fUF ||| fNX)
    else (lCode 4 (lSign 8 c) r, x)
/-- L → f32 of R68. -/
def lToF32 (F : Nat) (rm : Rm) (c : Nat) : Nat × Bits6 :=
  if lIsZero F c then (0, fNone) else if lIsNaR F c then (fmt32.nan, fNR)
  else
    let L := lField F c
    exp2Round rm (lSign F c) (L / F) (if F = 4 then 2 else 3) (L % F).toNat

/-- The linear magnitude of R70. -/
def lTable (F f : Nat) : Nat :=
  if F = 4 then [2048, 2435, 2896, 3444].getD f 0 else [2048, 2233, 2435, 2656, 2896, 3158, 3444, 3756].getD f 0

/-- R73's overflow of an IEEE destination under its policy: ±largest under SAT, ±∞ under STRICT. -/
def Fmt.putPol (f : Fmt) (sat : Bool) (v : Fv) : Nat × Bits6 :=
  match v with
  | .fin s m e =>
    let (w, g) := f.round .rne s m e false
    if (g &&& fOF) ≠ 0 then (f.signed s (if sat then f.maxBits else f.infBits), fOver ||| fIf sat fSA) else (w, g)
  | v => f.put .rne v

end Sys2Proof.Machine
end

