-- ==== Sys2Proof/Machine/Operands.lean ====
section
/-! DEFINITION. Operand forms: the registers a word names (R36, R41), lane values and the effective mask (R97, R98), and
the streams an A-class word pops and pushes (R110 to R116). -/

namespace Sys2Proof.Machine
open Sys2Proof

/-- The s registers a word reads or writes: the registers HAZARD looks for, since only s registers are destinations of
variable-latency results (R36). A field whose register the entry ignores for some operand values (b of `SEND` with n = 0, a of `RTAB`
with S[b] = 0, d of `CARM` with S[b] = 0) counts as read whatever those are: the model's choice (log 75). -/
def sRegs : Instr → List (BitVec 6)
  | .add d a b | .sub d a b | .and d a b | .or d a b | .xor d a b | .andn d a b | .shl d a b | .shr d a b
  | .sar d a b | .rol d a b | .min d a b | .max d a b | .minu d a b | .maxu d a b | .slt d a b | .sltu d a b
  | .seq d a b | .mul d a b | .mulh d a b | .mulhu d a b | .div d a b | .divu d a b | .rem d a b | .remu d a b
  | .sel d a b | .start d a b | .copy d a b | .copyc d a b | .halo d a b | .wmark d a b _ | .atomAdd d a b
  | .atomMax d a b | .atomMin d a b | .atomMaxu d a b | .atomMinu d a b | .atomSwap d a b | .atomCas d a b
  | .atomOr d a b | .atomAnd d a b | .atomXor d a b | .atomFmax32 d a b | .carm d a b | .chbind d a b
  | .chset d a b | .chq d a b | .rdrem d a b | .rdsend d a b | .pget d a b | .phase d a b | .cbcast d a b
  | .credAdd d a b | .credMin d a b | .credMax d a b | .credOr d a b | .credAnd d a b => [d, a, b]
  | .clz d a | .popc d a | .addi d a _ | .andi d a _ | .ori d a _ | .xori d a _ | .shli d a _ | .shri d a _
  | .sari d a _ | .slti d a _ | .jalr d a _ | .ld d a _ _ | .st d a _ _ | .ldv d a _ | .cread d a | .cflt d a
  | .qwait d a _ | .jqnext d a | .psum d a | .gmem d a | .pmrd d a => [d, a]
  | .li d _ | .lih d _ | .tget d _ | .mstat d | .nextev d _ | .rdraw d | .spos d _ | .csrr d _ => [d]
  | .b _ a b _ | .recl a b | .send a b | .reply a b | .recvp a b | .cadd a b | .cset a b | .cwait a b _
  | .tmake _ a b | .tset _ a b | .ptcfg a b | .pset a b | .evsend a b | .slog a b | .horiz a b | .rkey a b
  | .rtab a b | .nest a b | .vins _ a b => [a, b]
  | .jal _ => [61#6]
  | .pool a | .recvpCancel a | .thdr _ a | .tsth _ a | .mdrain _ a | .rollb a | .fossil a | .ready a | .cbar a
  | .cbarx a | .sbind _ a | .vbcast _ a | .trap a => [a]
  | .nexti d a => [d, a, 56#6, 57#6, 58#6, 59#6]
  | .vext d _ b => [d, b]
  | .csrw _ b => [b]
  | _ => []

/-- Waiting instructions, which never stand in a pair (R35, R57). -/
def isWaiting : Instr → Bool
  | .cwait _ _ _ | .qwait _ _ _ | .nextev _ _ | .lease | .ldv _ _ _ | .rdsend _ _ _ | .phase _ _ _
  | .cbar _ | .cbarx _ | .cbcast _ _ _ | .credAdd _ _ _ | .credMin _ _ _ | .credMax _ _ _ | .credOr _ _ _
  | .credAnd _ _ _ => true
  | _ => false
/-- Words that a body of SREP may not hold (R114). -/
def bodyForbids (i : Instr) : Bool :=
  isWaiting i || (match i with
    | .b _ _ _ _ | .j _ | .jal _ | .jalr _ _ _ | .start _ _ _ | .endt | .srep _ | .sbind _ _ | .sfree _ => true
    | _ => false)

/-- The v register a C word writes (R35). -/
def cWritesV : Instr → Option Nat
  | .vbcast v _ | .vins v _ _ => some v.toNat
  | _ => none

/-- A v position of a type: one register, or the pair of a 64-bit type (R22). -/
def vregs (wide : Bool) (v : BitVec 5) : List Nat := if wide then [v.toNat, v.toNat + 1] else [v.toNat]

/-- The v registers an A word writes (R35). -/
def aWritesV : Instr → List Nat
  | .vadd t d _ _ | .vsub t d _ _ | .vmul t d _ _ | .vfma t d _ _ | .vfms t d _ _ | .vnfma t d _ _ | .vmin t d _ _
  | .vmax t d _ _ | .vdiv t d _ _ | .vand t d _ _ | .vor t d _ _ | .vxor t d _ _ | .vshl t d _ _ | .vshr t d _ _
  | .vsar t d _ _ | .vmulh t d _ _ | .vsel t d _ _ | .vabs t d _ | .vneg t d _ | .vmov t d _ | .vnot t d _
  | .vred _ t d _ | .vscan _ t d _ => vregs t.wide d
  | .vcvt c d _ => vregs c.wideD d
  | .vidx d | .vexp2 d _ | .vlog2 d _ | .vrcp d _ | .vrsq d _ | .vsqrt d _ | .vperm d _ _ | .vrnd d | .vrndu d
  | .pcnt d _ | .pfirst d _ => [d.toNat]
  | _ => []

/-- Issue cycles a bundle holds the slot for (R17, R99). -/
def issueCycles : Instr → Nat
  | .vmul t _ _ _ | .vmulh t _ _ _ => if t.wide then 2 else 1
  | .vadd t _ _ _ | .vsub t _ _ _ | .vfma t _ _ _ | .vfms t _ _ _ | .vnfma t _ _ _ | .vmin t _ _ _ | .vmax t _ _ _
  | .vsel t _ _ _ | .vabs t _ _ | .vneg t _ _ | .vmov t _ _ | .vcmp _ t _ _ _ => if t == .f64 then 2 else 1
  | .vcvt c _ _ => if c.wideD || c.wideA then 2 else 1
  | .vexp2 _ _ | .vlog2 _ _ | .vrcp _ _ | .vrsq _ _ | .vsqrt _ _ => 2
  | .vdiv t _ _ _ => if t == .f32 then 2 else if t == .f64 then 8 else 4
  | .vperm _ _ _ => 8
  | .vred _ t _ _ | .vscan _ t _ _ => if t.wide then 2 else 1
  | _ => 1

/-! ## Lanes -/

/-- The values of a v position: 32-bit lanes, or pairs (R97). -/
def joinLanes (wide : Bool) (l : List (List Word32)) : List Word :=
  match wide, l with
  | true, lo :: hi :: _ => (lo.zip hi).map fun (a, b) => b ++ a
  | _, lo :: _ => lo.map fun a => a.setWidth 64
  | _, [] => []
def splitLanes (wide : Bool) (l : List Word) : List (List Word32) :=
  if wide then [l.map fun w => w.setWidth 32, l.map fun (w : Word) => (w >>> 32).setWidth 32]
  else [l.map fun w => w.setWidth 32]

/-- Lane by lane under the mask (R98): lanes outside it keep D and raise nothing. -/
def mapLanes (M : Word) (f : Nat → Word → Word → Word → Word × Bits6) :
    Nat → List Word → List Word → List Word → List Word × Bits6
  | i, a :: as, b :: bs, d :: ds =>
    let (r, g) := mapLanes M f (i + 1) as bs ds
    if M.getLsbD i then
      let (v, h) := f i a b d
      (v :: r, h ||| g)
    else (d :: r, g)
  | _, _, _, _ => ([], fNone)

/-! ## Streams -/

def Stream.len (t : Stream) : Nat := t.counts.foldl (· * ·) 1
def etSize (et : BitVec 3) : Nat := if et = 0 then 4 else if et = 3 || et = 4 then 1 else 2
def elemOff : Nat → List Nat → List Int → Int
  | e, n :: ns, s :: ss => (e % n : Nat) * s + elemOff (e / n) ns ss
  | _, _, _ => 0
/-- The address of element e (R110). -/
def Stream.addr (t : Stream) (e : Nat) : Word := t.base + w64 (elemOff e t.counts t.strides)
/-- An element as its lane holds it (R110). A NaN of an F16 element becomes the canonical FP32 NaN: the model takes R110's conversion,
where R75 would have the pop keep its payload and sign (log 65). -/
def etRead (et : BitVec 3) (v : Nat) : Word32 :=
  if et = 2 then BitVec.ofInt 32 (sintN 16 v)
  else if et = 4 then BitVec.ofInt 32 (sintN 8 v)
  else if et = 5 then BitVec.ofNat 32 (v * 65536)
  else if et = 6 then BitVec.ofNat 32 (fmt16.conv fmt32 .rne v).1
  else BitVec.ofNat 32 v
def streamFlt (v reason b : Nat) : Flt := flt .stream (nat64 v) (nat64 reason) (nat64 b)
/-- The elements of the beat at a position, and its tail mask (R112). -/
def Stream.beatElems (t : Stream) (k : Nat) : List Nat := (List.range (Nat.min 64 (t.len - 64 * k))).map (64 * k + ·)
def Stream.tail (t : Stream) (k : Nat) : Word := nat64 (2 ^ Nat.min 64 (t.len - 64 * k) - 1)

/-- The watermark channel that an access by a context stalls under (R260, R294). -/
def Core.marked (k : Core) (off n : Nat) : Option Nat :=
  firstOf (fun h => let w := AMap.get {} k.wmarks h; decide (w.mark < off + n) && decide (off < w.limit) && decide (w.mark < w.limit))
    (List.range 8)

/-- A local access stalls under a watermark (R260, R294). -/
def State.unmarked (s : State) (off n : Nat) (k : State) : State :=
  match s.myCore.marked off n with
  | some h => s.stallMe (.watermark h s.wmStart (localAddr off))
  | none => k
/-- An access of the issuing context to its own scratchpad, whose address has been checked: behind its own atomics there (R267) and
the watermarks (R294). -/
def State.inOrder (s : State) (off n : Nat) (k : State) : State :=
  match s.ownAtoms off n with
  | [] => s.unmarked off n k
  | l => s.stallMe (.fence l)
/-- A load of the issuing context from its own scratchpad, whose address has been checked (R260, R324). -/
def State.loadLocal (s : State) (a : Word) (n : Nat) (k : List Byte → State) : State :=
  s.inOrder (offOf a) n (s.orRaise (s.readLocal s.cur.core (offOf a) n) k)
/-- An access of the issuing context that may not be performed yet: its own atomics at the word come first (R267). -/
def State.afterAtoms (s : State) (pl : Place) : Except Fate Unit :=
  match s.atomsAt s.cur.core s.cur.ctx pl with
  | [] => .ok ()
  | l => .error (.stall (.fence l))
/-- A local element of the issuing context (R112): it lies in the scratchpad, under no watermark, behind its own atomics. -/
def State.elemAt (s : State) (a : Word) (n : Nat) : Except Fate Unit :=
  if !inScratch s.myCore a n then .error (.fault { code := .pool, a := a, addr := a })
  else
    match s.myCore.marked (offOf a) n with
    | some h => .error (.stall (.watermark h s.wmStart a))
    | none => s.afterAtoms (.pool (offOf a))
/-- A global element of a read stream at its physical address, as `LD` would read it (R27, R116, R267): from the core's view, from
the line buffer where the machine so chooses, or from the slice, whose line then enters the buffer. -/
def State.elemGlobal (s : State) (a : Word) (pa n : Nat) (plain : Bool) : Except Fate (Nat × State) :=
  let c := s.cur.core
  if s.myCore.view.any (fun l => l.pa / 8 == pa / 8) then
    if s.viewBad c pa n then .error (.fault (eccFlt a)) else .ok (s.viewNum c pa n, s)
  else
    let slice := fun (t : State) =>
      if (s.badHbm pa n).isSome then .error (.fault (eccFlt a))
      else .ok (s.viewNum c pa n, if plain then (t.fillLine c pa).count (sliceOf pa) 4 64 else t.count (sliceOf pa) 4 n)
    match (if plain then AMap.find s.myCore.lbuf (pa / 64) else none) with
    | some line =>
      let t := { s with free := s.free + 1 }
      if s.coin then .ok (ofBytes ((line.drop (pa % 64)).take n), t) else slice t
    | none => slice s
/-- One element of a read stream of the issuing context (R112, R116), or what keeps it from being read: the loads of its word that the
context issued before the `SBIND` come first (R267). -/
def State.elemRead (s : State) (v : Nat) (t : Stream) (pos e : Nat) : Except Fate (Nat × State) :=
  let a := t.addr e
  let n := etSize t.et
  if isLocal a then
    match s.elemAt a n with
    | .error f => .error f
    | .ok _ =>
      match s.readLocal s.cur.core (offOf a) n with
      | .error f => .error (.fault f)
      | .ok bs => .ok (ofBytes bs, s)
  else
    let s := s.prefill a
    match s.lookup a ⟨true, false⟩ with
    | .flt f => .error (.fault f)
    | .miss => .error (.stall (.xlate (pageOf a)))
    | .ok pa at_ ent =>
      if at_ = 2 then .error (.fault (streamFlt v 6 pos))
      else
        match s.afterAtoms (.phys pa false), s.loadsBefore s.cur.core s.cur.ctx pa t.bound with
        | .error f, _ => .error f
        | .ok _, q :: qs => .error (.stall (.fence ((q :: qs).map (·.id))))
        | .ok _, [] =>
          (s.updCore s.cur.core fun k => { k with tlb := bufPut 64 k.tlb a ent }).elemGlobal a pa n (at_ == 0)
/-- Elements of a beat as the issuing context reads them: the lanes read, what stopped the reading, and the state after it. -/
def State.readElems (s : State) (v : Nat) (t : Stream) (pos : Nat) : List Nat → List Word32 × Option Fate × State
  | [] => ([], none, s)
  | e :: r =>
    match s.elemRead v t pos e with
    | .error f => ([], some f, s)
    | .ok (x, s) =>
      let (l, f, s) := s.readElems v t pos r
      (etRead t.et x :: l, f, s)
/-- A beat of some lanes: the lanes past the stream's last element read as 0. -/
def beatOf (l : List Word32) : Beat := { lanes := l ++ List.replicate (64 - l.length) 0, flt := none }
/-- The rest of beat `k` of a read stream, behind the lanes that `part` holds. -/
def State.fetchBeat (s : State) (v : Nat) (t : Stream) (k : Nat) : List Word32 × Option Fate × State :=
  let (l, f, s) := s.readElems v t (64 * k) ((t.beatElems k).drop t.part.length)
  (t.part ++ l, f, s)

/-- A pop finds its beat: fetched ahead, or read now where every element is local (R112). -/
def State.popBeat (s : State) (v : Nat) (t : Stream) : Except Fate (Beat × Stream) :=
  let k := t.pos / 64
  if t.len ≤ t.pos then .error (.fault (streamFlt v 3 t.pos))
  else
    match t.fetched with
    | b :: r =>
      match b.flt with
      | some f => .error (.fault f)
      | none => .ok (b, { t with pos := t.pos + 64, fetched := r })
    | [] =>
      if (t.beatElems k).all (fun e => isLocal (t.addr e)) then
        match s.fetchBeat v t k with
        | (_, some f, _) => .error f
        | (l, none, _) => .ok (beatOf l, { t with pos := t.pos + 64, part := [] })
      else .error (.stall (.beat v))

/-- Stores a context holds in its lanes (R266, R283). -/
def Core.laneCount (k : Core) (x : Nat) : Nat := (k.lanes.filter fun l => l.ctx == x && !l.recl).length
/-- Room for `n` more stores in the lanes of a context: in free mode for the first of them, 64 being held at most, and no earlier
one still waiting; in deterministic mode for all of them within the 1,024 words of a quantum (R242, R283), where each store counts as a word
of its own: the model's choice (log 91). -/
def State.laneRoom (s : State) (n : Nat) : Option Stall :=
  let k := (s.myCore).laneCount s.cur.ctx
  if s.det s.cur.core then (if 1024 < k + n then some .quantum else none)
  else if 64 ≤ k ∨ s.me.push ≠ [] then some .lanes else none
/-- A store stands at the tail of the lane of its slice, and updates a buffered line (R249, R266). -/
def Core.entered (k : Core) (e : LaneEntry) : Core :=
  let k' := match AMap.find k.lbuf (e.pa / 64) with
    | none => k
    | some l => if e.recl then k else
      { k with lbuf := AMap.set k.lbuf (e.pa / 64) (l.take (e.pa % 64) ++ toBytes e.n e.data.toNat ++ l.drop (e.pa % 64 + e.n)) }
  { k' with lanes := k.lanes ++ [e] }
/-- The lane entry that an access of the issuing context makes. -/
def State.laneEntry (s : State) (va : Word) (pa n : Nat) (data : Word) (versioned recl : Bool) : LaneEntry :=
  { id := s.uid, ctx := s.cur.ctx, slice := sliceOf pa, va := va, pa := pa, n := n, data := data, versioned := versioned,
    recl := recl, pc := s.cur.pc }
/-- A store or a reclaim enters the lane of its slice (R266, R286). -/
def State.enterLane (s : State) (va : Word) (pa n : Nat) (data : Word) (versioned recl : Bool) : State :=
  (s.updCore s.cur.core fun k => k.entered (s.laneEntry va pa n data versioned recl)).fresh
/-- A store of a pushed beat enters its lane. In free mode one that finds 64 held waits, and its context is STALLED until it
has entered (R116, R283). -/
def State.streamStore (s : State) (va : Word) (pa n : Nat) (data : Word) (versioned : Bool) : State :=
  if !s.det s.cur.core && (decide (64 ≤ s.myCore.laneCount s.cur.ctx) || s.me.push != []) then
    (s.updMe fun k => { k with
      push := k.push ++ [s.laneEntry va pa n data versioned false], oldest := s.myCore.oldestOf s.cur.ctx
      st := if k.st = .ready then .stalled else k.st, stall := some .lanes }).fresh
  else s.enterLane va pa n data versioned false
/-- Stores that wait for room enter their lanes while there is some (R283). -/
def Core.pourIn (x : Nat) : List LaneEntry → Core → Core
  | [], k => k
  | e :: r, k =>
    if k.laneCount x < 64 then Core.pourIn x r ((k.setCtx x { k.ctx x with push := r }).entered e) else k
/-- The oldest store of a context, for which it waits, has been performed (R283). -/
def Core.lanesOpen (k : Core) (x : Nat) : Bool := !k.lanes.any fun l => (k.ctx x).oldest == some l.id
/-- Stores that wait enter once the oldest has been performed; the next that finds no room waits for the oldest of now (R283). -/
def Core.refill (k : Core) (x : Nat) : Core :=
  if (k.ctx x).push = [] || !k.lanesOpen x then k
  else
    let k := Core.pourIn x (k.ctx x).push k
    k.setCtx x { k.ctx x with oldest := if (k.ctx x).push = [] then none else k.oldestOf x }

/-- One element of a write stream is stored, as `ST` would store it (R112, R116). -/
def State.elemWrite (s : State) (v : Nat) (t : Stream) (e : Nat) (x : Word32) : Except Fate State :=
  let a := t.addr e
  let n := etSize t.et
  let c := s.cur.core
  if isLocal a then
    match s.elemAt a n with
    | .error f => .error f
    | .ok _ =>
      match s.storeEcc c (offOf a) n with
      | some f => .error (.fault f)
      | none => .ok (s.putLocal c (offOf a) (toBytes n x.toNat))
  else
    match s.lookup a ⟨false, true⟩ with
    | .flt f => .error (.fault f)
    | .miss => .error (.stall (.xlate (pageOf a)))
    | .ok pa at_ ent =>
      if at_ = 2 then .error (.fault (streamFlt v 6 t.pos))
      else
        match s.afterAtoms (.phys pa false) with
        | .error f => .error f
        | .ok _ =>
          .ok ((s.updCore c fun k => { k with tlb := bufPut 64 k.tlb a ent }).streamStore a pa n (x.setWidth 64) (at_ == 1))

/-- The elements of a beat that a push stores under a mask (R112). -/
def Stream.stored (t : Stream) (M : Word) : List Nat := (t.beatElems (t.pos / 64)).filter fun e => M.getLsbD (e - t.pos)
/-- A push stores the lanes in the mask, in element order, and the position advances (R112). -/
def State.pushBeat (s : State) (v : Nat) (t : Stream) (M : Word) (l : List Word32) : Except Fate State :=
  if t.len ≤ t.pos then .error (.fault (streamFlt v 3 t.pos))
  else
    match (t.stored M).foldl
        (fun (r : Except Fate State) (e : Nat) =>
          match r with
          | .error f => .error f
          | .ok s => s.elemWrite v t e (l.getD (e - t.pos) 0)) (.ok s) with
    | .error f => .error f
    | .ok s => .ok (s.updMe fun k =>
        { k with streams := AMap.set k.streams v { t with pos := t.pos + 64 } })

/-- The state after a bundle that fared other than by retiring. -/
def State.suffer (s : State) : Fate → State
  | .fault f => s.xlateFault f
  | .stall (.xlate p) => s.xmissStall (pageVa p)
  | .stall r => s.stallMe r
  | .park => s.parkMe
  | .wait w => s.waitMe w
  | f => s.fare f

/-- What an A word computes from its v operands: the values of the v registers it reads, under the effective mask. -/
structure VIn where
  reg  : Nat → List Word32
  mask : Word
/-- What it writes: v registers with all their lanes, flags, and effects on p registers, mask or draws. -/
structure VOut where
  regs  : List (Nat × List Word32)
  flags : Bits6
  also  : State → State

/-- The pops of a word, in the order of its registers. Where two of its streams fault, which fault is taken is the model's choice (log 67):
the spec names none. -/
def popAll (s : State) : List Nat → Except Fate (List (Nat × Beat × Stream))
  | [] => .ok []
  | v :: r =>
    match popAll s r with
    | .error f => .error f
    | .ok l =>
      match AMap.find s.src.streams v with
      | none => .ok l
      | some t =>
        match s.popBeat v t with
        | .error f => .error f
        | .ok (b, t) => .ok ((v, b, t) :: l)
def pushAll (s : State) (M : Word) : List (Nat × List Word32) → Except Fate State
  | [] => .ok s
  | (v, l) :: r =>
    match AMap.find s.src.streams v with
    | none => pushAll (s.updMe fun k => k.wv v l) M r
    | some t =>
      match s.pushBeat v t M l with
      | .error f => .error f
      | .ok s => pushAll (s.updMe fun k => k.wv v l) M r

/-- Every A-class word (R97, R98, R112): directions are checked, each read-bound register is popped once, the effective
mask takes the tails of the streams popped and pushed, and write-bound registers are pushed. -/
def State.aWord (s : State) (reads writes : List Nat) (f : VIn → VOut) : State :=
  let bound := fun v => AMap.find s.src.streams v
  let bad := (reads.find? fun v => match bound v with | some t => t.write | none => false).or
    (writes.find? fun v => match bound v with | some t => !t.write | none => false)
  match bad with
  | some v => s.suffer (.fault (streamFlt v 4 ((bound v).map (·.pos) |>.getD 0)))
  | none =>
    match popAll s reads.dedup with
    | .error f => s.suffer f
    | .ok pops =>
      let tails := (pops.map fun p => (AMap.get { write := false, et := 0, base := 0, counts := [], strides := [], pos := 0, fetched := [] }
          s.src.streams p.1)).map (fun t => t.tail (t.pos / 64)) ++
        (writes.filterMap bound).map (fun t => t.tail (t.pos / 64))
      let M := tails.foldl (· &&& ·) s.src.amask
      let reg := fun v => match pops.find? (fun p => p.1 == v) with
        | some p => lanes64 p.2.1.lanes
        | none => s.src.vr v
      let o := f { reg := reg, mask := M }
      let s1 := pops.foldl (fun (s : State) p => s.updMe fun k =>
        { k.wv p.1 p.2.1.lanes with streams := AMap.set k.streams p.1 p.2.2 }) s
      let stores := (writes.filterMap bound).flatMap fun t => (t.stored M).filter fun e => !isLocal (t.addr e)
      match (if stores = [] then none else s.laneRoom stores.length) with
      | some r => s.suffer (.stall r)
      | none =>
        match pushAll s1 M o.regs with
        | .error f => s.suffer f
        | .ok s2 => o.also (s2.raiseFlags o.flags)

/-- The common mould of a typed element operation (R98, R101): `dRead` says that D is an operand. -/
def State.vop (s : State) (wd wa : Bool) (d : BitVec 5) (srcs : List (BitVec 5)) (dRead : Bool)
    (f : Nat → Word → Word → Word → Word × Bits6) : State :=
  let dr := vregs wd d
  s.aWord (srcs.flatMap (vregs wa) ++ (if dRead then dr else [])) dr fun i =>
    let val := fun w r => joinLanes w ((vregs w r).map i.reg)
    let A := match srcs with | a :: _ => val wa a | [] => List.replicate 64 0
    let B := match srcs with | _ :: b :: _ => val wa b | _ => List.replicate 64 0
    let D := val wd d
    let (r, g) := mapLanes i.mask f 0 A B D
    { regs := dr.zip (splitLanes wd r), flags := g, also := id }

end Sys2Proof.Machine
end

