-- ==== Sys2Proof/Machine/Scalar.lean ====
section
/-! DEFINITION. The scalar instructions (R83 to R88, R96). -/

namespace Sys2Proof.Machine
open Sys2Proof

def countLeading (a : Word) : Nat := if a = 0 then 64 else 63 - Nat.log2 a.toNat
def popCount (a : Word) : Nat := ((List.range 64).filter fun i => a.getLsbD i).length
def one64 (b : Bool) : Word := if b then 1 else 0
/-- Two sources, one destination (R84). -/
def State.alu (s : State) (d a b : BitVec 6) (f : Word → Word → Word) : State := s.ws d (f (s.rs a) (s.rs b))
/-- One source and a sign-extended immediate (R86). -/
def State.aluImm (s : State) (d a : BitVec 6) (imm : BitVec 11) (f : Word → Word → Word) : State :=
  s.ws d (f (s.rs a) (imm.signExtend 64))

/-- The divisions of R85: quotient or remainder, and whether DZ is raised. -/
def divResult (signed quot : Bool) (a b : Word) : Word × Bits6 :=
  if b = 0 then (BitVec.allOnes 64, fDZ)
  else if signed then
    if a.toInt = -2 ^ 63 ∧ b.toInt = -1 then (if quot then a else 0, fNone)
    else
      let q := a.toInt.tdiv b.toInt
      (w64 (if quot then q else a.toInt - q * b.toInt), fNone)
  else
    let q := a.toNat / b.toNat
    (nat64 (if quot then q else a.toNat - q * b.toNat), fNone)
def State.divide (s : State) (d a b : BitVec 6) (signed quot : Bool) : State :=
  let r := divResult signed quot (s.rs a) (s.rs b)
  (s.ws d r.1).raiseFlags r.2

/-- ADD (R84). -/
def execAdd (d a b : BitVec 6) (s : State) : Out := .next (s.alu d a b fun x y => x + y)
/-- SUB (R84). -/
def execSub (d a b : BitVec 6) (s : State) : Out := .next (s.alu d a b fun x y => x - y)
/-- AND (R84). -/
def execAnd (d a b : BitVec 6) (s : State) : Out := .next (s.alu d a b fun x y => x &&& y)
/-- OR (R84). -/
def execOr (d a b : BitVec 6) (s : State) : Out := .next (s.alu d a b fun x y => x ||| y)
/-- XOR (R84). -/
def execXor (d a b : BitVec 6) (s : State) : Out := .next (s.alu d a b fun x y => x ^^^ y)
/-- ANDN (R84). -/
def execAndn (d a b : BitVec 6) (s : State) : Out := .next (s.alu d a b fun x y => x &&& ~~~y)
/-- SHL (R84). -/
def execShl (d a b : BitVec 6) (s : State) : Out := .next (s.alu d a b fun x y => x <<< (y.toNat % 64))
/-- SHR (R84). -/
def execShr (d a b : BitVec 6) (s : State) : Out := .next (s.alu d a b fun x y => x >>> (y.toNat % 64))
/-- SAR (R84). -/
def execSar (d a b : BitVec 6) (s : State) : Out := .next (s.alu d a b fun x y => x.sshiftRight (y.toNat % 64))
/-- ROL (R84). -/
def execRol (d a b : BitVec 6) (s : State) : Out := .next (s.alu d a b fun x y => x.rotateLeft (y.toNat % 64))
/-- MIN (R84). -/
def execMin (d a b : BitVec 6) (s : State) : Out := .next (s.alu d a b fun x y => if x.toInt ≤ y.toInt then x else y)
/-- MAX (R84). -/
def execMax (d a b : BitVec 6) (s : State) : Out := .next (s.alu d a b fun x y => if x.toInt ≤ y.toInt then y else x)
/-- MINU (R84). -/
def execMinu (d a b : BitVec 6) (s : State) : Out := .next (s.alu d a b fun x y => if x.toNat ≤ y.toNat then x else y)
/-- MAXU (R84). -/
def execMaxu (d a b : BitVec 6) (s : State) : Out := .next (s.alu d a b fun x y => if x.toNat ≤ y.toNat then y else x)
/-- SLT (R84). -/
def execSlt (d a b : BitVec 6) (s : State) : Out := .next (s.alu d a b fun x y => one64 (decide (x.toInt < y.toInt)))
/-- SLTU (R84). -/
def execSltu (d a b : BitVec 6) (s : State) : Out := .next (s.alu d a b fun x y => one64 (decide (x.toNat < y.toNat)))
/-- SEQ (R84). -/
def execSeq (d a b : BitVec 6) (s : State) : Out := .next (s.alu d a b fun x y => one64 (decide (x = y)))
/-- CLZ (R84). -/
def execClz (d a : BitVec 6) (s : State) : Out := .next (s.ws d (nat64 (countLeading (s.rs a))))
/-- POPC (R84). -/
def execPopc (d a : BitVec 6) (s : State) : Out := .next (s.ws d (nat64 (popCount (s.rs a))))
/-- MUL (R84). -/
def execMul (d a b : BitVec 6) (s : State) : Out := .next (s.alu d a b fun x y => x * y)
/-- MULH (R84). -/
def execMulh (d a b : BitVec 6) (s : State) : Out := .next (s.alu d a b fun x y => w64 (x.toInt * y.toInt / 2 ^ 64))
/-- MULHU (R84). -/
def execMulhu (d a b : BitVec 6) (s : State) : Out := .next (s.alu d a b fun x y => nat64 (x.toNat * y.toNat / 2 ^ 64))
/-- DIV (R85). -/
def execDiv (d a b : BitVec 6) (s : State) : Out := .next (s.divide d a b true true)
/-- DIVU (R85). -/
def execDivu (d a b : BitVec 6) (s : State) : Out := .next (s.divide d a b false true)
/-- REM (R85). -/
def execRem (d a b : BitVec 6) (s : State) : Out := .next (s.divide d a b true false)
/-- REMU (R85). -/
def execRemu (d a b : BitVec 6) (s : State) : Out := .next (s.divide d a b false false)
/-- ADDI (R86). -/
def execAddi (d a : BitVec 6) (imm : BitVec 11) (s : State) : Out := .next (s.aluImm d a imm fun x i => x + i)
/-- ANDI (R86). -/
def execAndi (d a : BitVec 6) (imm : BitVec 11) (s : State) : Out := .next (s.aluImm d a imm fun x i => x &&& i)
/-- ORI (R86). -/
def execOri (d a : BitVec 6) (imm : BitVec 11) (s : State) : Out := .next (s.aluImm d a imm fun x i => x ||| i)
/-- XORI (R86). -/
def execXori (d a : BitVec 6) (imm : BitVec 11) (s : State) : Out := .next (s.aluImm d a imm fun x i => x ^^^ i)
/-- SHLI (R86). -/
def execShli (d a sh : BitVec 6) (s : State) : Out := .next (s.ws d (s.rs a <<< sh.toNat))
/-- SHRI (R86). -/
def execShri (d a sh : BitVec 6) (s : State) : Out := .next (s.ws d (s.rs a >>> sh.toNat))
/-- SARI (R86). -/
def execSari (d a sh : BitVec 6) (s : State) : Out := .next (s.ws d ((s.rs a).sshiftRight sh.toNat))
/-- SLTI (R86). -/
def execSlti (d a : BitVec 6) (imm : BitVec 11) (s : State) : Out := .next (s.aluImm d a imm fun x i => one64 (decide (x.toInt < i.toInt)))
/-- LI (R87). -/
def execLi (d : BitVec 6) (imm : BitVec 17) (s : State) : Out := .next (s.ws d (imm.signExtend 64))
/-- LIH (R87). -/
def execLih (d : BitVec 6) (imm : BitVec 17) (s : State) : Out := .next (s.ws d (s.rs d <<< 17 ||| imm.setWidth 64))
/-- SEL (R88). -/
def execSel (d a b : BitVec 6) (s : State) : Out := .next (if s.rs b ≠ 0 then s.ws d (s.rs a) else s)
/-- NOP (R96). -/
def execNop (s : State) : Out := .next (s)

end Sys2Proof.Machine
end

