-- ==== Sys2Proof/Machine/Control.lean ====
section
/-! DEFINITION. Control transfers, the start of a helper and the end of a task (R89 to R95, R211, R212). -/

namespace Sys2Proof.Machine
open Sys2Proof

/-- A jump to a target, or the ALIGN fault of R15 and R89; `link` is written only where the jump is made. -/
def State.jump (s : State) (t : Int) (link : State → State) : State :=
  if t < 0 ∨ 0xFFFC < t then s.raise (flt .align 0 (w64 t) 0)
  else
    let s := link s
    { s with cur := { s.cur with next := t.toNat } }
/-- PC + Size (R90, R91). -/
def State.linkAddr (s : State) : Word := nat64 (s.cur.wpc + s.cur.size)

def BCond.holds (c : BCond) (x y : Word) : Bool :=
  match c with
  | .eq => decide (x = y)
  | .ne => decide (x ≠ y)
  | .lt => decide (x.toInt < y.toInt)
  | .ge => decide (y.toInt ≤ x.toInt)
  | .ltu => decide (x.toNat < y.toNat)
  | .geu => decide (y.toNat ≤ x.toNat)

/-- B (R89). -/
def execB (c : BCond) (a b : BitVec 6) (disp : BitVec 8) (s : State) : Out :=
  .next (if BCond.holds c (s.rs a) (s.rs b) then s.jump (s.cur.wpc + 4 * disp.toInt) id else s)
/-- J (R90). -/
def execJ (imm : BitVec 23) (s : State) : Out := .next (s.jump (s.cur.wpc + 4 * imm.toInt) id)
/-- JAL (R90). -/
def execJal (imm : BitVec 23) (s : State) : Out :=
  .next (s.jump (s.cur.wpc + 4 * imm.toInt) fun s => s.ws 61 s.linkAddr)
/-- JALR (R91): the target is the 64-bit sum, read as unsigned. -/
def execJalr (d a : BitVec 6) (off : BitVec 11) (s : State) : Out :=
  .next (
    let t := s.rs a + w64 (4 * off.toInt)
    if t.toNat % 4 ≠ 0 then s.raise (flt .align 0 t 0) else s.jump (t.toNat : Nat) fun s => s.ws d s.linkAddr)

/-- What PHASE counts its cost from: cycles, or retired words in deterministic mode (R224). -/
def State.costNow (s : State) (c x : Nat) : Word :=
  if s.det c then (s.ctx c x).retired else nat64 (s.cycles (s.domOf c))

/-- A helper at the start of a task (R23, R111, R220): registers zero but `msg`; keys, ordinal, `rsid` and the table of
the scalar stream kept. -/
def Ctx.begin_ (k : Ctx) (pc : Nat) (msg base : Word) : Ctx :=
  { st := .ready, pc := pc, s := [(60, msg)], rkey0 := k.rkey0, rkey1 := k.rkey1, rord := k.rord, rsid := k.rsid,
    rtab := k.rtab, retired := k.retired, retiredQ := k.retiredQ, phases := [(256, base)] }

/-- The lowest FREE helper that the pool word allows (R24, R92). -/
def Core.freeHelper (k : Core) : Option Nat :=
  firstOf (fun x => decide ((k.ctx x).st = .free)) ((List.range (k.rfu - 1)).map (· + 1))

/-- START (R92): the helper's first bundle follows the issuer's release (R94). -/
def execStart (d a b : BitVec 6) (s : State) : Out :=
  .next (
    let t := s.rs a
    if t.toNat > 0xFFFC ∨ t.toNat % 4 ≠ 0 then s.raise (flt .align 0 t 0)
    else
      let c := s.cur.core
      match s.myCore.freeHelper with
      | none => s.ws d 0
      | some n =>
        let msg := s.rs b
        let on := s.covered c s.cur.ctx .core
        let s := s.updCtx c n fun k => { k.begin_ t.toNat msg (s.costNow c n) with startOn := on }
        s.ws d (nat64 n))

/-- Outstanding of R36. -/
def Ctx.outstanding (k : Ctx) : Nat := (k.outs.map (·.size)).foldl (· + ·) 0

/-- ENDT (R95): parks until Outstanding is zero; the task then ends (TASK_END, R211). -/
def execEndt (s : State) : Out :=
  .next (if s.me.outstanding ≠ 0 then s.parkMe
    else s.updMe fun k => { k with st := .parked, ending := true, streams := [] })

/-- A slot is occupied no longer; from the next cycle it may accept (R211 step 2). -/
def Channel.vacate (ch : Channel) (i : Nat) : Channel :=
  if (AMap.find ch.slots i).isSome then { ch with slots := AMap.erase ch.slots i, freed := ch.freed ++ [i] } else ch
/-- A ring slot is freed (R211 step 2); an unanswered MSG returns RELEASE to its sender first (step 1). -/
def State.freeSlot (s : State) (c h i : Nat) : State :=
  let s := match AMap.find ((s.core c).chan h).slots i with
    | some t => if t.kind = SlotKind.msg ∧ t.answered = false then s.sendRelease c t.hdr t.port t.pkg else s
    | none => s
  s.updCore c fun k => k.updChan h (·.vacate i)
def State.freeSlot? (s : State) (c : Nat) : Option (Nat × Nat) → State
  | some (h, i) => s.freeSlot c h i
  | none => s

/-- TASK_END (R211, R212): once Outstanding is zero, and what its last bundle pushed stands in the lanes (R116), the held slot is released and freed and the context becomes FREE. -/
def execTaskEnd (core ctx : Nat) (s : State) : Out :=
  .next (
    let k := s.ctx core ctx
    if k.ending && k.outs.isEmpty && k.push.isEmpty then
      let s := s.freeSlot? core k.task
      let s := s.freeSlot? core k.heldQ
      s.updCtx core ctx fun k =>
        { k with st := .free, ending := false, task := none, heldQ := none, streams := [], srep := none, nests := [],
                 pending := [] }
    else s)

end Sys2Proof.Machine
end

