-- ==== Sys2Proof/Machine/Random.lean ====
section
/-! DEFINITION. The Chervil generator and its instructions (R117 to R123). -/

namespace Sys2Proof.Machine
open Sys2Proof

def rotL32 (v n : Nat) : Nat := (v * 2 ^ n + v / 2 ^ (32 - n)) % 2 ^ 32
/-- One round of R117. -/
def chervilRound (key rho : Nat) (xy : Nat × Nat) : Nat × Nat :=
  let x := (xy.1 + xy.2 + key) % 2 ^ 32
  (x, rotL32 xy.2 rho ^^^ x)
/-- Draw(σ, n) of R117. -/
def chervil (k0 k1 : Word32) (sigma n : Nat) : Word32 :=
  let k1' := if sigma / 2 ^ 18 % 2 = 0 then k1.toNat ^^^ 0xFFFFFFFF else k1.toNat
  let c := (sigma % 2 ^ 18 * 2 ^ 46 + n) % 2 ^ 64
  let s0 := chervilRound k0.toNat 7 (c % 2 ^ 32, c / 2 ^ 32)
  let s1 := chervilRound k1' 12 s0
  let s2 := chervilRound k0.toNat 19 s1
  let s3 := chervilRound k1' 24 s2
  BitVec.ofNat 32 (s3.1 ^^^ s3.2)
/-- Uniform(D) of R117, an exact FP32. -/
def uniform (d : Word32) : Word32 := BitVec.ofNat 32 (fmt32.round .rne false (2 * (d.toNat / 512) + 1) (-24) false).1

/-- The stream core and stream context of a context's draws: its own, or those of `rsid` (R119). -/
def streamOf (lcore ctx : Nat) (rsid : BitVec 17) : Nat × Nat :=
  if rsid.getLsbD 12 then ((rsid.extractLsb' 0 12).toNat, (rsid.extractLsb' 13 4).toNat) else (lcore, ctx)
def State.myStream (s : State) : Nat × Nat := streamOf (s.rel s.cur.core) s.cur.ctx s.src.rsid
def State.laneSigma (s : State) (l : Nat) : Nat := s.myStream.1 * 64 + l
def State.scalarSigma (s : State) : Nat := 2 ^ 18 + s.myStream.1 * 16 + s.myStream.2
/-- The draw of a lane at its ordinal (R118, R120). -/
def State.laneDraw (s : State) (l : Nat) : Word32 :=
  chervil s.src.rkey0 s.src.rkey1 (s.laneSigma l) (AMap.get 0 s.myCore.lord l).toNat
/-- The ordinals of the lanes that drew advance by one (R118). -/
def State.advanceLanes (s : State) (M : Word) : State :=
  s.updCore s.cur.core fun k =>
    { k with lord := (List.range 64).foldl (fun m l => if M.getLsbD l then AMap.upd 0 m l (· + 1) else m) k.lord }

/-- RKEY (R121). -/
def execRkey (a b : BitVec 6) (s : State) : Out :=
  .next (
    let x := s.rs a
    let o := (s.rs b).setWidth 46
    (s.updMe fun k => { k with rkey0 := x.setWidth 32, rkey1 := (x >>> 32).setWidth 32 }).updCore s.cur.core fun k =>
      { k with lord := (List.range 64).map fun l => (l, o) })

/-- RTAB (R122). -/
def execRtab (a b : BitVec 6) (s : State) : Out :=
  .next (
    let base := s.rs a
    let n := s.rs b
    if n = 0 then s.updMe fun k => { k with rtab := none }
    else if base.toNat % 4 ≠ 0 then s.raise (flt .align 0 base 0)
    else if !inScratch s.myCore base (4 * n.toNat) then s.raise (flt .pool 0 base 0)
    else s.updMe fun k => { k with rtab := some (base, n) })

/-- The scalar-stream word of a context at an ordinal, as stored or drawn, or what keeps it from being read: TABEND, or a
watermark over the table (R123, R294). The table of a helper that `POOL` has left beyond a smaller scratchpad is read there all the same: the
model's choice (log 82). -/
def State.drawAt (s : State) (uni : Bool) (n : Nat) : Except Fate Word32 :=
  match s.src.rtab with
  | some (base, len) =>
    let off := offOf base + 4 * n
    if len.toNat ≤ n then .error (.fault (flt .tabend base (nat64 n) len))
    else if s.ownAtoms off 4 ≠ [] then .error (.stall (.fence (s.ownAtoms off 4)))
    else
      match s.myCore.marked off 4 with
      | some h => .error (.stall (.watermark h s.wmStart (localAddr off)))
      | none =>
        match s.readLocal s.cur.core off 4 with
        | .error f => .error (.fault f)
        | .ok bs => .ok (BitVec.ofNat 32 (ofBytes bs))
  | none =>
    let d := chervil s.src.rkey0 s.src.rkey1 s.scalarSigma n
    .ok (if uni then uniform d else d)

/-- The next scalar-stream word of a context (R123). -/
def State.scalarDraw (s : State) (uni : Bool) : Except Fate Word32 := s.drawAt uni s.src.rord.toNat

/-- RDRAW (R123). -/
def execRdraw (d : BitVec 6) (s : State) : Out :=
  .next (match s.scalarDraw true with
    | .error f => s.suffer f
    | .ok v => (s.ws d (v.setWidth 64)).updMe fun k => { k with rord := k.rord + 1 })

end Sys2Proof.Machine
end

