-- ==== Sys2Proof/Machine/Vector.lean ====
section
/-! DEFINITION. The vector instructions (R97 to R109): every A-class word but the draws' streams, and the transfers between
scalar and vector registers. -/

namespace Sys2Proof.Machine
open Sys2Proof

def tyBits (t : VType) : Nat := if t.wide then 64 else 32
def tySigned : VType → Bool
  | .i32 | .i64 => true
  | _ => false
def tyFmt : VType → Option Fmt
  | .f32 => some fmt32
  | .f64 => some fmt64
  | _ => none
/-- A lane value read as an integer of its type (R97). -/
def laneInt (t : VType) (x : Word) : Int := if tySigned t then sintN (tyBits t) x.toNat else (x.toNat : Int)
/-- An integer kept to the width of a type. -/
def laneOf (t : VType) (i : Int) : Word := BitVec.ofInt 64 (i % 2 ^ tyBits t)
def natRes (r : Nat × Bits6) : Word × Bits6 := (nat64 r.1, r.2)
def State.rm (s : State) : Rm := rmOf s.src.frm

/-- A two-source operation: its IEEE form and its integer form (R101). -/
def arith (t : VType) (fo : Fmt → Nat → Nat → Nat × Bits6) (io : Int → Int → Int) (x y : Word) : Word × Bits6 :=
  match tyFmt t with
  | some f => natRes (fo f x.toNat y.toNat)
  | none => (laneOf t (io (laneInt t x) (laneInt t y)), fNone)
def State.vbin (s : State) (t : VType) (d a b : BitVec 5) (fo : Fmt → Nat → Nat → Nat × Bits6) (io : Int → Int → Int) : State :=
  s.vop t.wide t.wide d [a, b] false fun _ x y _ => arith t fo io x y
/-- A fused operation (R101). -/
def State.vfused (s : State) (t : VType) (d a b : BitVec 5) (np nd : Bool) : State :=
  s.vop t.wide t.wide d [a, b] true fun _ x y z =>
    match tyFmt t with
    | some f => natRes (f.fmaB s.rm np nd x.toNat y.toNat z.toNat)
    | none => (z, fNone)
/-- A logic operation or a shift (R101). -/
def State.vlogic (s : State) (t : VType) (d a b : BitVec 5) (f : Word → Word → Word) : State :=
  s.vop t.wide t.wide d [a, b] false fun _ x y _ => (laneOf t (f x y).toNat, fNone)
def State.vone (s : State) (t : VType) (d a : BitVec 5) (f : Word → Word × Bits6) : State :=
  s.vop t.wide t.wide d [a] false fun _ x _ _ => f x
/-- A one-source FP32 operation (R78). -/
def State.vfun (s : State) (d a : BitVec 5) (f : Nat → Nat × Bits6) : State :=
  s.vop false false d [a] false fun _ x _ _ => natRes (f x.toNat)

def minMax (t : VType) (isMax : Bool) (x y : Word) : Word × Bits6 :=
  match tyFmt t with
  | some f => (nat64 (f.minmaxB isMax x.toNat y.toNat), fNone)
  | none =>
    let less := decide (laneInt t x ≤ laneInt t y)
    (if less != isMax then x else y, fNone)
/-- VDIV (R104). -/
def divLane (t : VType) (rm : Rm) (x y : Word) : Word × Bits6 :=
  match tyFmt t with
  | some f => natRes (f.divB rm x.toNat y.toNat)
  | none => if laneInt t y = 0 then (laneOf t (-1), fDZ) else (laneOf t ((laneInt t x).tdiv (laneInt t y)), fNone)
/-- VABS and VNEG of an F type: a NaN gives the canonical NaN (R101). -/
def absLane (t : VType) (x : Word) : Word × Bits6 :=
  match tyFmt t with
  | some f => (if (f.read x.toNat).isNaN then nat64 f.nan else nat64 (x.toNat % f.signBit), fNone)
  | none => (laneOf t (laneInt t x).natAbs, fNone)
def negLane (t : VType) (x : Word) : Word × Bits6 :=
  match tyFmt t with
  | some f => (if (f.read x.toNat).isNaN then nat64 f.nan else nat64 (f.negB x.toNat), fNone)
  | none => (laneOf t (-laneInt t x), fNone)
def cmpLane (c : VCond) (t : VType) (x y : Word) : Bool :=
  match tyFmt t with
  | some f => f.cmpB c x.toNat y.toNat
  | none =>
    let a := laneInt t x
    let b := laneInt t y
    match c with
    | .eq => decide (a = b)
    | .ne => decide (a ≠ b)
    | .lt => decide (a < b)
    | .le => decide (a ≤ b)
/-- The lanes for which a test holds, as a mask. -/
def maskOf (l : List Bool) : Word := nat64 (l.foldr (fun b n => b.toNat + 2 * n) 0)

/-- VADD (R101). -/
def execVadd (t : VType) (d a b : BitVec 5) (s : State) : Out := .next (s.vbin t d a b (fun f x y => f.addB s.rm x y) fun x y => x + y)
/-- VSUB (R101). -/
def execVsub (t : VType) (d a b : BitVec 5) (s : State) : Out := .next (s.vbin t d a b (fun f x y => f.subB s.rm x y) fun x y => x - y)
/-- VMUL (R101). -/
def execVmul (t : VType) (d a b : BitVec 5) (s : State) : Out := .next (s.vbin t d a b (fun f x y => f.mulB s.rm x y) fun x y => x * y)
/-- VFMA (R101). -/
def execVfma (t : VType) (d a b : BitVec 5) (s : State) : Out := .next (s.vfused t d a b false false)
/-- VFMS (R101). -/
def execVfms (t : VType) (d a b : BitVec 5) (s : State) : Out := .next (s.vfused t d a b false true)
/-- VNFMA (R101). -/
def execVnfma (t : VType) (d a b : BitVec 5) (s : State) : Out := .next (s.vfused t d a b true false)
/-- VMIN (R102). -/
def execVmin (t : VType) (d a b : BitVec 5) (s : State) : Out := .next (s.vop t.wide t.wide d [a, b] false fun _ x y _ => minMax t false x y)
/-- VMAX (R102). -/
def execVmax (t : VType) (d a b : BitVec 5) (s : State) : Out := .next (s.vop t.wide t.wide d [a, b] false fun _ x y _ => minMax t true x y)
/-- VABS (R101). -/
def execVabs (t : VType) (d a : BitVec 5) (s : State) : Out := .next (s.vone t d a (absLane t))
/-- VNEG (R101). -/
def execVneg (t : VType) (d a : BitVec 5) (s : State) : Out := .next (s.vone t d a (negLane t))
/-- VCMP (R103): bits outside M become 0. -/
def execVcmp (c : VCond) (t : VType) (p : BitVec 3) (a b : BitVec 5) (s : State) : Out :=
  .next (s.aWord (vregs t.wide a ++ vregs t.wide b) [] fun i =>
    let A := joinLanes t.wide ((vregs t.wide a).map i.reg)
    let B := joinLanes t.wide ((vregs t.wide b).map i.reg)
    let m := maskOf ((A.zip B).map fun (x, y) => cmpLane c t x y) &&& i.mask
    { regs := [], flags := fNone, also := fun s => s.updMe fun k => { k with p := AMap.set k.p p.toNat m } })
/-- VSEL (R101): pb is no part of M. -/
def execVsel (t : VType) (d a : BitVec 5) (p : BitVec 3) (s : State) : Out :=
  .next (s.vop t.wide t.wide d [a] true fun l x _ z => (if (s.src.pr p.toNat).getLsbD l then x else z, fNone))
/-- The lane conversions of R60, R67 to R69, R79 and R80, with the lane's draw. -/
def convLane (c : Cvt) (rm : Rm) (draw : Nat) (x : Word) : Word × Bits6 :=
  let v := x.toNat
  let f32 := fmt32.read (v % 2 ^ 32)
  let ofI := fun (w : Nat) (r : Int × Bits6) => (laneOf (if w = 64 then .n64 else .n32) r.1, r.2)
  match c with
  | .f32i32 => ofI 32 (f32.toInt rm (-2 ^ 31) (2 ^ 31 - 1))
  | .f32n32 => ofI 32 (f32.toInt rm 0 (2 ^ 32 - 1))
  | .i32f32 => natRes (fmt32.ofInt rm (sintN 32 v))
  | .n32f32 => natRes (fmt32.ofInt rm (v % 2 ^ 32 : Nat))
  | .f32f64 => natRes (fmt32.conv fmt64 rm (v % 2 ^ 32))
  | .f64f32 => natRes (fmt64.conv fmt32 rm v)
  | .f32bf16 => natRes (fmt32.conv fmtB16 rm (v % 2 ^ 32))
  | .bf16f32 => natRes (fmtB16.conv fmt32 rm (v % 2 ^ 16))
  | .f32f16 => natRes (fmt32.conv fmt16 rm (v % 2 ^ 32))
  | .f16f32 => natRes (fmt16.conv fmt32 rm (v % 2 ^ 16))
  | .f64i64 => ofI 64 ((fmt64.read v).toInt rm (-2 ^ 63) (2 ^ 63 - 1))
  | .i64f64 => natRes (fmt64.ofInt rm (sintN 64 v))
  | .f32l6 => natRes (lRound 4 true f32)
  | .l6f32 => natRes (lToF32 4 rm (v % 64))
  | .f32l8 => natRes (lRound 8 true f32)
  | .l8f32 => natRes (lToF32 8 rm (v % 256))
  | .l8l6 => natRes (l8to6 true (v % 256))
  | .l6l8 => natRes (l6to8 (v % 64))
  | .f32bf16sr => natRes (fmtB16.stoch f32 draw)
  | .f32f16sr => natRes (fmt16.stoch f32 draw)
  | .f64f32sr => natRes (fmt32.stoch (fmt64.read v) draw)
  | .i32i8 =>
    let i := sintN 32 v
    if i < -128 then (0x80, fSA) else if 127 < i then (0x7F, fSA) else (nat64 (i % 256).toNat, fNone)
  | .i8i32 => (laneOf .n32 (sintN 8 v), fNone)
def isSr : Cvt → Bool
  | .f32bf16sr | .f32f16sr | .f64f32sr => true
  | _ => false
/-- VCVT (R105): the .sr forms take one draw of each lane in M. -/
def execVcvt (c : Cvt) (d a : BitVec 5) (s : State) : Out :=
  .next (s.aWord (vregs c.wideA a) (vregs c.wideD d) fun i =>
    let A := joinLanes c.wideA ((vregs c.wideA a).map i.reg)
    let D := joinLanes c.wideD ((vregs c.wideD d).map i.reg)
    let (r, g) := mapLanes i.mask (fun l x _ _ => convLane c s.rm (if isSr c then (s.laneDraw l).toNat else 0) x) 0 A A D
    { regs := (vregs c.wideD d).zip (splitLanes c.wideD r), flags := g,
      also := fun t => if isSr c then t.advanceLanes i.mask else t })
/-- VMOV (R101): bits unchanged (R75). -/
def execVmov (t : VType) (d a : BitVec 5) (s : State) : Out := .next (s.vone t d a fun x => (x, fNone))
/-- VIDX (R101). -/
def execVidx (d : BitVec 5) (s : State) : Out := .next (s.vop false false d [] false fun l _ _ _ => (nat64 l, fNone))
/-- VDIV (R104). -/
def execVdiv (t : VType) (d a b : BitVec 5) (s : State) : Out := .next (s.vop t.wide t.wide d [a, b] false fun _ x y _ => divLane t s.rm x y)
/-- VAND (R101). -/
def execVand (t : VType) (d a b : BitVec 5) (s : State) : Out := .next (s.vlogic t d a b fun x y => x &&& y)
/-- VOR (R101). -/
def execVor (t : VType) (d a b : BitVec 5) (s : State) : Out := .next (s.vlogic t d a b fun x y => x ||| y)
/-- VXOR (R101). -/
def execVxor (t : VType) (d a b : BitVec 5) (s : State) : Out := .next (s.vlogic t d a b fun x y => x ^^^ y)
/-- VNOT (R101). -/
def execVnot (t : VType) (d a : BitVec 5) (s : State) : Out := .next (s.vone t d a fun x => (laneOf t (~~~x).toNat, fNone))
/-- VSHL (R101). -/
def execVshl (t : VType) (d a b : BitVec 5) (s : State) : Out := .next (s.vlogic t d a b fun x y => x <<< (y.toNat % tyBits t))
/-- VSHR (R101). -/
def execVshr (t : VType) (d a b : BitVec 5) (s : State) : Out := .next (s.vlogic t d a b fun x y => x >>> (y.toNat % tyBits t))
/-- VSAR (R101), arithmetic for I and N alike. -/
def execVsar (t : VType) (d a b : BitVec 5) (s : State) : Out := .next (s.vop t.wide t.wide d [a, b] false fun _ x y _ =>
    (laneOf t (sintN (tyBits t) x.toNat / 2 ^ (y.toNat % tyBits t)), fNone))
/-- VMULH (R101). -/
def execVmulh (t : VType) (d a b : BitVec 5) (s : State) : Out := .next (s.vop t.wide t.wide d [a, b] false fun _ x y _ =>
    (laneOf t (laneInt t x * laneInt t y / 2 ^ tyBits t), fNone))
/-- VEXP2 (R78). -/
def execVexp2 (d a : BitVec 5) (s : State) : Out := .next (s.vfun d a exp2B)
/-- VLOG2 (R78). -/
def execVlog2 (d a : BitVec 5) (s : State) : Out := .next (s.vfun d a log2B)
/-- VRCP (R78). -/
def execVrcp (d a : BitVec 5) (s : State) : Out := .next (s.vfun d a fmt32.rcpB)
/-- VRSQ (R78). -/
def execVrsq (d a : BitVec 5) (s : State) : Out := .next (s.vfun d a fmt32.rsqB)
/-- VSQRT (R78). -/
def execVsqrt (d a : BitVec 5) (s : State) : Out := .next (s.vfun d a fmt32.sqrtB)
/-- VPERM (R106): every lane of va is a source. -/
def execVperm (d a b : BitVec 5) (s : State) : Out :=
  .next (s.aWord [a.toNat, b.toNat] [d.toNat] fun i =>
    let A := i.reg a.toNat
    let (r, _) := mapLanes i.mask (fun _ x _ _ => ((A.getD (x.toNat % 64) 0).setWidth 64, fNone)) 0
      (joinLanes false [i.reg b.toNat]) (joinLanes false [i.reg b.toNat]) (joinLanes false [i.reg d.toNat])
    { regs := [(d.toNat, (splitLanes false r).headD [])], flags := fNone, also := id })

/-- One application of a reduction's operation (R81, R107). -/
def redOp (op : RedOp) (t : VType) (rm : Rm) (x y : Word) : Word × Bits6 :=
  match op with
  | .add => arith t (fun f x y => f.addB rm x y) (fun x y => x + y) x y
  | .min => minMax t false x y
  | .max => minMax t true x y
/-- What a lane outside M enters as (R81). -/
def redIdent (op : RedOp) (t : VType) : Word :=
  match op, tyFmt t with
  | .add, some f => nat64 f.signBit
  | .add, none => 0
  | .min, some f => nat64 f.infBits
  | .max, some f => nat64 (f.signBit + f.infBits)
  | .min, none => if tySigned t then nat64 (2 ^ (tyBits t - 1) - 1) else nat64 (2 ^ tyBits t - 1)
  | .max, none => if tySigned t then nat64 (2 ^ (tyBits t - 1)) else 0
def zipOp (f : Word → Word → Word × Bits6) : List Word → List Word → List Word × Bits6
  | a :: as, b :: bs =>
    let (r, g) := zipOp f as bs
    let (v, h) := f a b
    (v :: r, h ||| g)
  | _, _ => ([], fNone)
/-- TreeRed of R81. -/
def treeRed (f : Word → Word → Word × Bits6) : Nat → List Word → Word × Bits6
  | 0, l => (l.headD 0, fNone)
  | n + 1, l =>
    let (r, g) := zipOp f (l.take (2 ^ n)) (l.drop (2 ^ n))
    let (v, h) := treeRed f n r
    (v, g ||| h)
/-- The prefix of R82: steps 1, 2, 4, 8, 16, 32. -/
def scanSteps (f : Word → Word → Word × Bits6) : List Nat → List Word → List Word × Bits6
  | [], l => (l, fNone)
  | d :: ds, l =>
    let (r, g) := zipOp f l (l.drop d)
    let (v, h) := scanSteps f ds (l.take d ++ r)
    (v, g ||| h)
def withIdent (M : Word) (e : Word) (l : List Word) : List Word :=
  (l.zip (List.range 64)).map fun (x, i) => if M.getLsbD i then x else e
/-- The beat index of R107. -/
def State.beta (s : State) : Nat := match s.src.srep with | some r => r.beta | none => 0

/-- VRED (R81, R107). -/
def execVred (op : RedOp) (t : VType) (d a : BitVec 5) (s : State) : Out :=
  .next (s.aWord (vregs t.wide a ++ vregs t.wide d) (vregs t.wide d) fun i =>
    let A := joinLanes t.wide ((vregs t.wide a).map i.reg)
    let D := joinLanes t.wide ((vregs t.wide d).map i.reg)
    let (r, g) := treeRed (redOp op t s.rm) 6 (withIdent i.mask (redIdent op t) A)
    let (r, h) := if 0 < s.beta then redOp op t s.rm (D.headD 0) r else (r, fNone)
    let (w, _) := mapLanes i.mask (fun _ _ _ _ => (r, fNone)) 0 A A D
    { regs := (vregs t.wide d).zip (splitLanes t.wide w), flags := g ||| h, also := id })
/-- VSCAN (R82, R107). -/
def execVscan (op : RedOp) (t : VType) (d a : BitVec 5) (s : State) : Out :=
  .next (s.aWord (vregs t.wide a ++ vregs t.wide d) (vregs t.wide d) fun i =>
    let A := joinLanes t.wide ((vregs t.wide a).map i.reg)
    let D := joinLanes t.wide ((vregs t.wide d).map i.reg)
    let f := redOp op t s.rm
    let (r, g) := scanSteps f [1, 2, 4, 8, 16, 32] (withIdent i.mask (redIdent op t) A)
    let (r, h) := if 0 < s.beta then zipOp f (List.replicate 64 (D.getD 63 0)) r else (r, fNone)
    let (w, _) := mapLanes i.mask (fun _ x _ _ => (x, fNone)) 0 r r D
    { regs := (vregs t.wide d).zip (splitLanes t.wide w), flags := g ||| h, also := id })

/-- The draws of R120. -/
def State.draws (s : State) (d : BitVec 5) (f : Word32 → Word32) : State :=
  s.aWord [] [d.toNat] fun i =>
    let D := joinLanes false [i.reg d.toNat]
    let (r, _) := mapLanes i.mask (fun l _ _ _ => ((f (s.laneDraw l)).setWidth 64, fNone)) 0 D D D
    { regs := [(d.toNat, (splitLanes false r).headD [])], flags := fNone, also := fun t => t.advanceLanes i.mask }
/-- VRND (R120). -/
def execVrnd (d : BitVec 5) (s : State) : Out := .next (s.draws d uniform)
/-- VRNDU (R120). -/
def execVrndu (d : BitVec 5) (s : State) : Out := .next (s.draws d id)

/-- A p register is written (R108). -/
def State.wp (s : State) (p : BitVec 3) (v : Word) : State := s.updMe fun k => { k with p := AMap.set k.p p.toNat v }
def State.rp (s : State) (p : BitVec 3) : Word := s.src.pr p.toNat
/-- PAND (R108). -/
def execPand (d a b : BitVec 3) (s : State) : Out := .next (s.wp d (s.rp a &&& s.rp b))
/-- POR (R108). -/
def execPor (d a b : BitVec 3) (s : State) : Out := .next (s.wp d (s.rp a ||| s.rp b))
/-- PXOR (R108). -/
def execPxor (d a b : BitVec 3) (s : State) : Out := .next (s.wp d (s.rp a ^^^ s.rp b))
/-- PNOT (R108). -/
def execPnot (d a : BitVec 3) (s : State) : Out := .next (s.wp d (~~~s.rp a))
/-- PCNT (R108). -/
def execPcnt (d : BitVec 5) (p : BitVec 3) (s : State) : Out := .next (s.vop false false d [] false fun _ _ _ _ => (nat64 (popCount (s.rp p)), fNone))
def lowestSet (w : Word) : Nat := (firstOf (fun i => w.getLsbD i) (List.range 64)).getD 64
/-- PFIRST (R108). -/
def execPfirst (d : BitVec 5) (p : BitVec 3) (s : State) : Out := .next (s.vop false false d [] false fun _ _ _ _ => (nat64 (lowestSet (s.rp p)), fNone))
/-- PMASK (R108). -/
def execPmask (p : BitVec 3) (s : State) : Out := .next (s.updMe fun k => { k with amask := s.rp p })
/-- ANOP (R108). -/
def execAnop (s : State) : Out := .next (s)

/-- A C-class word that names a bound v register faults STREAM, reason DIR (R109, R112). -/
def State.unbound (s : State) (v : BitVec 5) (k : State) : State :=
  match AMap.find s.src.streams v.toNat with
  | some t => s.raise (streamFlt v.toNat 4 t.pos)
  | none => k
/-- VBCAST (R109). -/
def execVbcast (v : BitVec 5) (a : BitVec 6) (s : State) : Out := .next (s.unbound v (s.updMe fun k => k.wv v.toNat (List.replicate 64 ((s.rs a).setWidth 32))))
/-- VEXT (R109). -/
def execVext (d : BitVec 6) (v : BitVec 5) (b : BitVec 6) (s : State) : Out := .next (s.unbound v
    (s.ws d (((s.src.vr v.toNat).getD ((s.rs b).toNat % 64) 0).setWidth 64)))
/-- VINS (R109). -/
def execVins (v : BitVec 5) (a b : BitVec 6) (s : State) : Out := .next (s.unbound v
    (s.updMe fun k => k.wv v.toNat ((s.src.vr v.toNat).set ((s.rs b).toNat % 64) ((s.rs a).setWidth 32))))

end Sys2Proof.Machine
end

