-- ==== Sys2Proof/Machine/Stream.lean ====
section
/-! DEFINITION. Binding and repeating streams (R110 to R116). -/

namespace Sys2Proof.Machine
open Sys2Proof

/-- The descriptor of R110 in eight words, checked in the order of R111: a stream, or the STREAM reason. -/
def readDesc (ws : List Word) : Except Nat Stream :=
  let w := fun i => ws.getD i 0
  let ctl := w 1
  let lv := bits ctl 4 2 + 1
  let et : BitVec 3 := BitVec.ofNat 3 (bits ctl 1 3)
  let wr := bits ctl 0 1 = 1
  let counts := (List.range lv).map fun j => bits (w (2 + j)) 0 32
  let strides := (List.range lv).map fun j => sintN 32 (bits (w (2 + j)) 32 32)
  let t : Stream := { write := wr, et := et, base := w 0, counts := counts, strides := strides, pos := 0, fetched := [] }
  if bits ctl 6 58 ≠ 0 ∨ w 6 ≠ 0 ∨ w 7 ≠ 0 ∨ (List.range (4 - lv)).any (fun j => w (2 + lv + j) != 0) ∨
      counts.any (· == 0) ∨ 2 ^ 40 ≤ t.len ∨ et = 7 ∨ (wr ∧ (et = 5 ∨ et = 6)) then .error 1
  else if t.base.toNat % etSize et ≠ 0 ∨ strides.any (fun s => s % (etSize et : Int) != 0) then .error 2
  else .ok t

/-- SBIND (R111). Where the descriptor fails, no position of `vd` is bound by it: the record's b is 0, the model's choice (log 66). -/
def execSbind (v : BitVec 3) (a : BitVec 6) (s : State) : Out :=
  .next (
    let x := s.rs a
    if x.toNat % 64 ≠ 0 then s.raise (flt .align 0 x 0)
    else if !inScratch s.myCore x 64 then s.raise (flt .pool 0 x 0)
    else s.loadLocal x 64 fun bs =>
      match readDesc (wordsOf 8 bs) with
      | .error r => s.raise (streamFlt v.toNat r 0)
      | .ok t => (s.updMe fun k => { k with streams := AMap.set k.streams v.toNat { t with bound := s.uid } }).fresh)
/-- SFREE (R113). -/
def execSfree (v : BitVec 3) (s : State) : Out :=
  .next (s.updMe fun k => { k with streams := AMap.erase k.streams v.toNat })
/-- SPOS (R113). -/
def execSpos (d : BitVec 6) (v : BitVec 3) (s : State) : Out :=
  .next (s.ws d (match AMap.find s.src.streams v.toNat with
    | some t => nat64 (Nat.min t.pos t.len)
    | none => BitVec.allOnes 64))

/-- The address after `n` bundles from `pc`, by their L bits (R33, R34). -/
def skipBundles (m : Memory) : Nat → Nat → Nat
  | pc, 0 => pc
  | pc, n + 1 => skipBundles m (if 128 ≤ (Memory.read brkByte m (pc + 3)).toNat then pc + 4 else pc + 8) n

/-- SREP (R114). -/
def execSrep (n : BitVec 17) (s : State) : Out :=
  .next (
    let k := s.src
    if n.toNat = 0 ∨ 256 < n.toNat ∨ k.streams.isEmpty then s.raise (streamFlt 0 5 n.toNat)
    else
      let left := k.streams.map fun (_, t) => ceilDiv (t.len - t.pos) 64
      let nrep := left.foldl Nat.min (left.headD 0)
      let body := s.cur.next
      if nrep = 0 then { s with cur := { s.cur with next := skipBundles s.myCore.imem body n.toNat } }
      else s.updMe fun k => { k with srep := some { body := body, n := n.toNat, idx := 0, beta := 0, nrep := nrep } })

/-- A stream of a context stands as `t`; where a pop waits for its beat, the context tries the bundle again. -/
def State.putStream (s : State) (core ctx v : Nat) (t : Stream) (wake : Bool) : State :=
  s.updCtx core ctx fun k =>
    let k := { k with streams := AMap.set k.streams v t }
    if wake then { k with st := .ready, stall := none } else k
/-- STREAM_BEAT_ARRIVAL (R112): at most four beats are fetched ahead of the pop. What keeps an element from being read stops the
beat there: a pop that waits for it faults or stalls with it, and a beat that no pop waits for is tried again later. -/
def execStreamBeatArrival (core ctx v : Nat) (s : State) : Out :=
  .next (
    let k := s.ctx core ctx
    match AMap.find k.streams v with
    | none => s
    | some t =>
      let b := t.pos / 64 + t.fetched.length
      let waits := decide (k.st = .stalled) && k.stall == some (.beat v)
      if t.write ∨ 4 ≤ t.fetched.length ∨ t.len ≤ 64 * b then s
      else
        match (s.asIf core ctx).fetchBeat v t b with
        | (l, none, u) => u.putStream core ctx v { t with fetched := t.fetched ++ [beatOf l], part := [] } waits
        | (l, some f, u) =>
          if waits then
            match f with
            | .fault f => u.putStream core ctx v { t with fetched := [{ beatOf l with flt := some f }], part := [] } true
            | f => (u.putStream core ctx v { t with part := l } false).suffer f
          else u.putStream core ctx v { t with part := l } false)

end Sys2Proof.Machine
end

