-- ==== Sys2Proof/Machine/TileHdr.lean ====
section
/-! DEFINITION. Tile headers (R128 to R145), the elements of a tile and their conversion (R133 to R137, R144, R146), and
the tile handle instructions (R154 to R158). -/

namespace Sys2Proof.Machine
open Sys2Proof

/-! ## Header fields -/

def TReg.fmt (t : TReg) : Nat := bits t.w0 4 4
def TReg.scl (t : TReg) : Nat := bits t.w0 8 4
def TReg.spr (t : TReg) : Nat := bits t.w0 12 2
/-- pol: SAT. -/
def TReg.sat (t : TReg) : Bool := bits t.w0 14 1 == 0
def TReg.colMajor (t : TReg) : Bool := bits t.w0 15 1 == 1
def TReg.rows (t : TReg) : Nat := bits t.w0 16 12 + 1
def TReg.cols (t : TReg) : Nat := bits t.w0 28 12 + 1
def TReg.pitch (t : TReg) : Nat := bits t.w0 40 16
def TReg.scaleOff (t : TReg) : Nat := 16 * bits t.w1 0 16
def TReg.metaOff (t : TReg) : Nat := 16 * bits t.w1 16 16
def TReg.dataOff (t : TReg) : Nat := 16 * bits t.w1 32 16
def TReg.isLocal (t : TReg) : Bool := t.addr.getLsbD 47
/-- The tile's address in the 64-bit form of R26 and R27 (R158). -/
def TReg.addr64 (t : TReg) : Word := at_ t.isLocal.toNat 63 ||| nat64 (t.addr.toNat % 2 ^ 47)
def TReg.base (t : TReg) : Nat := t.addr.toNat % 2 ^ 47
/-- The 48-bit address of a 64-bit one (R154, R156). -/
def addr48 (a : Word) : BitVec 48 := BitVec.ofNat 48 (bits a 63 1 * 2 ^ 47 + a.toNat % 2 ^ 47)
/-- fmt ∥ scl ∥ spr of a COMBO record (R138). -/
def TReg.combo (t : TReg) : Word := nat64 (t.fmt * 64 + t.scl * 4 + t.spr)
/-- A field of a header word is replaced. -/
def setField (w : Word) (lo n v : Nat) : Word :=
  (w &&& ~~~(at_ (2 ^ n - 1) lo)) ||| at_ (v % 2 ^ n) lo
def withFmt (w0 : Word) (f : Nat) : Word := setField w0 4 4 f

/-- One bit of R131's CRC-8. -/
def crc8Bit (c : Nat) : Nat := if 128 ≤ c then (c * 2 % 256) ^^^ 0x07 else c * 2
def crc8 (bs : List Byte) : Nat := bs.foldl (fun c b => Nat.repeat crc8Bit 8 (c ^^^ b.toNat)) 0
/-- The check of two header words (R131). -/
def hdrCheck (w0 w1 : Word) : Nat := crc8 (toBytes 8 w0.toNat ++ toBytes 7 w1.toNat)
/-- Word 1 with its check recomputed. -/
def sealed (w0 w1 : Word) : Word := setField w1 56 8 (hdrCheck w0 w1)

def hdrFlt (c : FCode) (obj a b : Nat) (w0 w1 : Word) : Flt :=
  { code := c, obj := nat64 obj, a := nat64 a, b := nat64 b, d0 := w0, d1 := w1 }

/-- Codes FMT, SCL, SPR and ZERO of R130, in order. -/
def fieldsBad (w0 w1 : Word) : Option (Nat × Nat) :=
  let fmt := bits w0 4 4
  let scl := bits w0 8 4
  let spr := bits w0 12 2
  if 9 ≤ fmt ∧ fmt ≤ 14 then some (2, fmt)
  else if 6 ≤ scl then some (3, scl)
  else if 2 ≤ spr then some (4, spr)
  else if bits w0 56 8 ≠ 0 then some (5, bits w0 56 8)
  else if bits w1 50 6 ≠ 0 then some (5, bits w1 50 6)
  else none
/-- Codes DATAOFF and AREAOFF of R130. -/
def offsBad (w0 w1 : Word) : Option (Nat × Nat) :=
  if bits w1 32 16 = 0 then some (6, 0)
  else if (bits w0 8 4 ≠ 0 ∧ bits w1 0 16 = 0) ∨ (bits w0 12 2 = 1 ∧ bits w1 16 16 = 0) then some (7, 0)
  else none
/-- Steps 1 to 3 of R138. -/
def checkHdr (obj : Nat) (w0 w1 : Word) : Except Flt Unit :=
  if bits w0 0 4 ≠ 0xB then .error (hdrFlt .hdrfld obj 1 (bits w0 0 4) w0 w1)
  else if bits w1 56 8 ≠ hdrCheck w0 w1 then .error (hdrFlt .hdrchk obj (bits w1 56 8) (hdrCheck w0 w1) w0 w1)
  else
    match (fieldsBad w0 w1).or (offsBad w0 w1) with
    | some (c, v) => .error (hdrFlt .hdrfld obj c v w0 w1)
    | none => .ok ()
/-- CheckHandle of R156, on words whose check byte has been computed. -/
def checkHandle (obj : Nat) (w0 w1 : Word) : Except Flt Unit :=
  match (if bits w0 0 4 ≠ 0xB then some (1, bits w0 0 4) else fieldsBad w0 w1) with
  | some (c, v) => .error (hdrFlt .hdrfld obj c v w0 w1)
  | none => .ok ()
/-- The tile address checks of R156. -/
def checkTileAddr (a : Word) : Except Flt Unit :=
  if a.toNat % 16 ≠ 0 then .error (flt .align 0 a 0)
  else if bits a 47 16 ≠ 0 then .error (flt (if isLocal a then .pool else .xlate) 0 a 0)
  else .ok ()

/-! ## Areas (R133 to R137) -/

/-- The element size of a format; an ACC tile's follows its mode (R137). -/
def fmtSize (fmt mode : Nat) : Nat :=
  if fmt = 8 then [8, 16, 4].getD mode 8 else [1, 1, 2, 2, 4, 8, 1, 4].getD fmt 4
/-- Bytes of a line of n elements (R134). -/
def lineLen (fmt mode n : Nat) : Nat := if fmt = 0 then 3 * ceilDiv n 4 else fmtSize fmt mode * n
def TReg.lines (t : TReg) : Nat := if t.colMajor then t.cols else t.rows
/-- Elements that a line stores: half under S24. -/
def TReg.stored (t : TReg) : Nat :=
  let n := if t.colMajor then t.rows else t.cols
  if t.spr = 1 then ceilDiv n 2 else n
def TReg.lineBytes (t : TReg) (fmt mode : Nat) : Nat := lineLen fmt mode t.stored
def TReg.lineAt (t : TReg) (n : Nat) : Nat := t.dataOff + 16 * t.pitch * n
/-- Bytes of a KROW or KCOL entry over a k extent (R135). -/
def entryLen (K : Nat) : Nat := 1 + ceilDiv (ceilDiv K 64) 2
/-- The logical k extent of a line of an S24 tile runs along the line (R136). -/
def TReg.metaLine (t : TReg) : Nat := 16 * ceilDiv (if t.colMajor then t.rows else t.cols) 128
def TReg.scaleLen (t : TReg) : Nat :=
  [0, 1, t.rows, t.cols, entryLen t.cols * t.rows, entryLen t.rows * t.cols].getD t.scl 0
def TReg.metaLen (t : TReg) : Nat :=
  if t.fmt = 8 then 16 + ceilDiv (t.rows * t.cols) 4 else if t.spr = 1 then t.metaLine * t.lines else 0
/-- The scale and metadata areas: offsets and lengths. -/
def TReg.areas (t : TReg) : List (Nat × Nat) :=
  (if t.scl = 0 then [] else [(t.scaleOff, t.scaleLen)]) ++ (if t.metaLen = 0 then [] else [(t.metaOff, t.metaLen)])
/-- The bytes of some lines; what lies between the end of a line and the next pitch step is never read (R133). -/
def TReg.lineSpans (t : TReg) (fmt mode : Nat) (lines : List Nat) : List (Nat × Nat) :=
  lines.map fun n => (t.lineAt n, t.lineBytes fmt mode)
/-- The bytes from the tile's start to the end of its last line and of every area (R143). -/
def TReg.extent (t : TReg) (fmt mode : Nat) : Nat :=
  Nat.max (Nat.max 16 (t.lineAt (t.lines - 1) + t.lineBytes fmt mode))
    (Nat.max (if t.scl = 0 then 0 else t.scaleOff + t.scaleLen)
      (if t.metaLen = 0 then 0 else t.metaOff + t.metaLen))

/-! ## Elements -/

/-- Reading bytes of a tile from its start: a byte by the number of the read it belongs to, and its offset. The bytes of one read are of
one moment (R153, R274). -/
abbrev TileRd := Nat → Nat → Byte
/-- A read of a single byte. -/
def TileRd.one (rd : TileRd) (a : Nat) : Byte := rd (4 * a) a
/-- n bytes of a read as a number. -/
def rdNum (rd : TileRd) (x a : Nat) : Nat → Nat
  | 0 => 0
  | n + 1 => (rd x a).toNat + 256 * rdNum rd x (a + 1) n

/-- Stored element j of line n, one read: four of L6 stand in a group (R64, R133). -/
def TReg.code (t : TReg) (rd : TileRd) (mode n j : Nat) : Nat :=
  if t.fmt = 0 then
    let a := t.lineAt n + 3 * (j / 4)
    rdNum rd (4 * a + j % 4) a 3 / 2 ^ (6 * (j % 4)) % 64
  else
    let a := t.lineAt n + fmtSize t.fmt mode * j
    rdNum rd (4 * a) a (fmtSize t.fmt mode)
/-- The four metadata bits of group g of line n, and whether they are in order (R136). -/
def TReg.pair (t : TReg) (rd : TileRd) (n g : Nat) : Nat × Nat :=
  let q := (rd.one (t.metaOff + t.metaLine * n + g / 2)).toNat / 2 ^ (4 * (g % 2)) % 16
  (q % 4, q / 4)
/-- Line and place of element (i, j) in a dense reading. -/
def TReg.place (t : TReg) (i j : Nat) : Nat × Nat := if t.colMajor then (j, i) else (i, j)
/-- The code of element (i, j), none where S24 does not keep it (R136). -/
def TReg.elem (t : TReg) (rd : TileRd) (mode i j : Nat) : Option Nat :=
  let (n, k) := t.place i j
  if t.spr = 1 then
    let (a, b) := t.pair rd n (k / 4)
    if k % 4 = a then some (t.code rd mode n (2 * (k / 4)))
    else if k % 4 = b then some (t.code rd mode n (2 * (k / 4) + 1)) else none
  else some (t.code rd mode n k)

def int8 (b : Byte) : Int := sintN 8 b.toNat
/-- Base exponent and k-block step of a row or column entry (R135). -/
def TReg.kEntry (t : TReg) (rd : TileRd) (K idx b : Nat) : Int × Nat :=
  let e := t.scaleOff + entryLen K * idx
  (int8 (rd.one e), (rd.one (e + 1 + b / 2)).toNat / 2 ^ (4 * (b % 2)) % 16)
/-- The exponent of element (i, j): for KROW and KCOL the base and the step of its k-block (R72, R146). -/
def TReg.expo (t : TReg) (rd : TileRd) (i j : Nat) : Int :=
  match t.scl with
  | 0 => 0
  | 1 => int8 (rd.one t.scaleOff)
  | 2 => int8 (rd.one (t.scaleOff + i))
  | 3 => int8 (rd.one (t.scaleOff + j))
  | 4 => let (b, s) := t.kEntry rd t.cols i (j / 64); b + s
  | _ => let (b, s) := t.kEntry rd t.rows j (i / 64); b + s

/-- The first k-block step of 8 to 15 in the areas of the given rows or columns, or S24 pair out of order in the given
lines (R130 codes STEP and METAPAIR, R139). A tile with both faults STEP: the spec gives no order, and this one is the model's choice
(log 84). -/
def TReg.areaBad (t : TReg) (rd : TileRd) (idxs lines : List Nat) : Option (Nat × Nat) :=
  let K := if t.scl = 4 then t.cols else t.rows
  let step := if t.scl = 4 ∨ t.scl = 5 then
      idxs.findSome? fun i => (List.range (ceilDiv K 64)).findSome? fun b =>
        let s := (t.kEntry rd K i b).2
        if 8 ≤ s then some (8, s) else none
    else none
  let pair := if t.spr = 1 then
      lines.findSome? fun n => (List.range ((if t.colMajor then t.rows else t.cols) / 4)).findSome? fun g =>
        let (a, b) := t.pair rd n g
        if a < b then none else some (9, n * 65536 + g)
    else none
  step.or pair

/-- What a source element is worth: an IEEE or integer value, or ± 2^(L / F). -/
inductive Val
  | fv (v : Fv)
  | lg (s : Bool) (F : Nat) (L : Int)
  deriving DecidableEq, Repr

def ieeeFmt (f : Nat) : Fmt := if f = 2 then fmtB16 else if f = 3 then fmt16 else if f = 4 then fmt32 else fmt64
/-- An element as a value (R63, R65, R75, R134). -/
def valOf (fmt c : Nat) : Val × Bits6 :=
  if fmt ≤ 1 then
    let F := if fmt = 0 then 4 else 8
    if lIsNaR F c then (.fv .nan, fNR)
    else if lIsZero F c then (.fv (.fin false 0 0), fNone)
    else (.lg (lSign F c) F (lField F c), fNone)
  else if fmt ≤ 5 then (.fv ((ieeeFmt fmt).read c), fNone)
  else
    let v := sintN (if fmt = 6 then 8 else 32) c
    (.fv (.fin (decide (v < 0)) v.natAbs 0), fNone)
/-- A value times 2^e. -/
def Val.scale (e : Int) : Val → Val
  | .fv (.fin s m g) => .fv (.fin s m (g + e))
  | .fv v => .fv v
  | .lg s F L => .lg s F (L + F * e)
/-- A value for a rounding that no tie can meet: an irrational magnitude is enclosed, its lowest bit standing for the
rest. -/
def Val.toFv : Val → Fv
  | .fv v => v
  | .lg s F L =>
    let f := (L % F).toNat
    if f = 0 then .fin s 1 (L / F)
    else .fin s (2 * exp2Frac (if F = 4 then 2 else 3) f + 1) (L / F - (expBits + 1 : Nat))

/-- 2^(L / F) as a code of the L format F, in or out of its range (R67). -/
def lPut (F : Nat) (sat s : Bool) (L : Int) (x : Bits6) : Nat × Bits6 :=
  if lMax F < L then
    let (w, f) := lOver F sat s
    (w, f ||| x)
  else if L < -lMax F then (lZero F, fUF ||| fNX)
  else (lCode F s L, x)
/-- A value rounded once into a format under a policy (R67, R68, R73, R146): between the two L formats as R68 says, and within one by
R67, which sets NX wherever the value is no power of two. -/
def Val.put (fmt : Nat) (sat : Bool) (v : Val) : Nat × Bits6 :=
  if fmt ≤ 1 then
    let F := if fmt = 0 then 4 else 8
    match v with
    | .fv x => lRound F sat x
    | .lg s G L =>
      if G = F then lPut F sat s L (fIf (decide (L % F ≠ 0)) fNX)
      else if F = 8 then lPut F sat s (2 * L) fNone
      else
        let h := L / 2
        let r := if L % 2 = 0 then h else if h % 2 = 0 then h else h + 1
        lPut F sat s r (fIf (decide (L % 2 ≠ 0)) fNX)
  else if fmt ≤ 5 then (ieeeFmt fmt).putPol sat v.toFv
  else
    let n := if fmt = 6 then 8 else 32
    let (i, f) := v.toFv.toInt .rne (-(2 ^ (n - 1))) (2 ^ (n - 1) - 1)
    ((i % 2 ^ n).toNat, f)
/-- NaR or the canonical quiet NaN of a format. -/
def nanCode (fmt : Nat) : Nat := if fmt = 0 then lNaR 4 else if fmt = 1 then lNaR 8 else (ieeeFmt fmt).nan
/-- A code is NaR or an IEEE NaN (R129). -/
def isNanCode (fmt c : Nat) : Bool :=
  if fmt = 0 then lIsNaR 4 c else if fmt = 1 then lIsNaR 8 c
  else if fmt ≤ 5 then ((ieeeFmt fmt).read c).isNaN else false

/-- A line's bytes from its codes; L6 groups are filled with zero codes (R64). -/
def packL6 : List Nat → List Byte
  | [] => []
  | a :: r =>
    let g := fun k => (r.getD k 0x10) * 2 ^ (6 * (k + 1))
    match r with
    | _ :: _ :: _ :: r' => toBytes 3 (a + g 0 + g 1 + g 2) ++ packL6 r'
    | _ => toBytes 3 (a + g 0 + g 1 + g 2)
def packLine (fmt : Nat) (l : List Nat) : List Byte :=
  if fmt = 0 then packL6 l else l.flatMap (toBytes (fmtSize fmt 0))

/-- What a tile writer has produced: element codes with the bits raised, row by row. -/
abbrev Elems := List (Nat × Bits6)
def Elems.at (l : Elems) (i : Nat) : Nat × Bits6 := l.getD i (0, fNone)
def Elems.flags (l : Elems) : Bits6 := l.foldl (fun g e => g ||| e.2) fNone
/-- Every (row, column) of a tile, row by row. -/
def TReg.cells (t : TReg) : List (Nat × Nat) :=
  (List.range t.rows).flatMap fun i => (List.range t.cols).map fun j => (i, j)
/-- A dense tile's data from its elements: offsets from the tile's start, and bytes (R133, R134). -/
def TReg.dataWrites (t : TReg) (fmt : Nat) (l : Elems) : List (Nat × List Byte) :=
  (List.range t.lines).map fun n =>
    (t.lineAt n, packLine fmt ((List.range (if t.colMajor then t.rows else t.cols)).map fun k =>
      (Elems.at l (if t.colMajor then k * t.cols + n else n * t.cols + k)).1))
/-- The result header of R144. -/
def TReg.result (t : TReg) (fmt : Nat) (sat nar : Bool) : Word × Word :=
  let w0 := withFmt t.w0 fmt
  let w1 := setField (setField t.w1 48 1 sat.toNat) 49 1 nar.toNat
  (w0, sealed w0 w1)
/-- Everything a converting writer writes: data, then the whole header (R141, R144). -/
def TReg.writes (t : TReg) (fmt : Nat) (l : Elems) : List (Nat × List Byte) :=
  let sat := l.any fun e => (e.2 &&& fSA) != 0
  let nar := l.any fun e => isNanCode fmt e.1
  let (w0, w1) := t.result fmt sat nar
  t.dataWrites fmt l ++ [(0, bytesOf [w0, w1])]

/-- Bytes of a local tile of a core. -/
def Core.tileRd (k : Core) (t : TReg) : TileRd := fun _ o => k.byte (t.base + o)
/-- The moment of a numbered read of an engine thread: one since its fork at which its release was complete, or now (R153, R274). -/
def State.momentOf (s : State) (id rd : Nat) : Option Moment :=
  s.past.find? fun m => decide (id < m.uid) && !m.held.contains id && Config.readsAt id m.at_ rd
/-- A core as an engine thread finds its pool in a numbered read. -/
def State.poolAt (s : State) (id c rd : Nat) : Core :=
  match s.momentOf id rd with
  | some m => let p := AMap.get ([], []) m.pools c; { pool := p.1, undef := p.2 }
  | none => s.core c
/-- A byte of a pool as a copy engine reads it, each word at a moment of its own (R257). -/
def State.engineByte (s : State) (id c a : Nat) : Byte := (s.poolAt id c (c * 2 ^ 20 + a / 8)).byte a
/-- A tile as an engine reads it as its operand of number k: each element, exponent, step and pair at a moment of its own, and whole (R153). -/
def State.engineRd (s : State) (id c : Nat) (t : TReg) (k : Nat := 0) : TileRd := fun x o =>
  (s.poolAt id c ((c * 4 + k) * 2 ^ 60 + x)).byte (t.base + o)
/-- The words of a write, or what stands of it in each. -/
def wordCuts : Nat → Nat → List Byte → List (Nat × List Byte)
  | _, _, [] => []
  | 0, a, bs => [(a, bs)]
  | n + 1, a, bs => (a, bs.take (8 - a % 8)) :: wordCuts n (a + (8 - a % 8)) (bs.drop (8 - a % 8))
/-- The single writes that an engine makes to a local tile, by pool offset: words, and the header whole (R141, R274). -/
def TReg.cuts (t : TReg) (ws : List (Nat × List Byte)) : List (Nat × List Byte) :=
  ws.flatMap fun w => if w.1 = 0 then [(t.base, w.2)] else wordCuts w.2.length (t.base + w.1) w.2
/-- The same of a drain, which writes row by row: the words of column-major lines in turn (R165). -/
def TReg.drainCuts (t : TReg) (ws : List (Nat × List Byte)) : List (Nat × List Byte) :=
  if t.colMajor then
    let ls := ws.dropLast.map fun w => t.cuts [w]
    (List.range (ls.foldl (fun n l => Nat.max n l.length) 0)).flatMap (fun k => ls.filterMap (·[k]?)) ++ t.cuts ws.getLast?.toList
  else t.cuts ws
/-- An engine makes writes to its core's pool. -/
def State.engineWrites (s : State) (c : Nat) (ws : List (Nat × List Byte)) : State := ws.foldl (fun s w => s.putLocal c w.1 w.2) s
/-- A write of a tile that is narrower than a bad word it touches takes the engine path (R324). -/
def State.tileStoreEcc (s : State) (c : Nat) (t : TReg) (ws : List (Nat × List Byte)) : Option Flt :=
  ws.findSome? fun w => s.storeEcc c (t.base + w.1) w.2.length

/-! ## The handle instructions -/

/-- The address checks of R154. -/
def State.hdrAddr (s : State) (a : Word) (k : State) : State :=
  if !isLocal a ∨ a.toNat % 16 ≠ 0 ∨ s.myCore.spSize < offOf a + 16 then s.raise (flt .pool 0 a 0) else k

/-- THDR (R154). -/
def execThdr (t : BitVec 4) (a : BitVec 6) (s : State) : Out :=
  .next (
    let x := s.rs a
    s.hdrAddr x (s.inOrder (offOf x) 16 (s.orRaise (s.readLocal s.cur.core (offOf x) 16) fun bs =>
      let w := wordsOf 2 bs
      let w0 := w.getD 0 0
      let w1 := w.getD 1 0
      s.orRaise (checkHdr t.toNat w0 w1) fun _ => s.wt t { w0 := w0, w1 := w1, addr := addr48 x })))
/-- TSTH (R155). -/
def execTsth (t : BitVec 4) (a : BitVec 6) (s : State) : Out :=
  .next (
    let x := s.rs a
    let r := s.rt t
    s.hdrAddr x (s.inOrder (offOf x) 16 (s.putLocal s.cur.core (offOf x) (bytesOf [r.w0, sealed r.w0 r.w1]))))
/-- TMAKE (R156). -/
def execTmake (t : BitVec 4) (a b : BitVec 6) (s : State) : Out :=
  .next (
    let x := s.rs a
    s.orRaise (checkTileAddr x) fun _ =>
      let w0 := s.rs b
      let w1 := sealed w0 (at_ 1 32)
      s.orRaise (checkHandle t.toNat w0 w1) fun _ => s.wt t { w0 := w0, w1 := w1, addr := addr48 x })

/-- The fields TSET changes, by selector 0 to 12: word, low bit, width, and the code of a value that does not fit
(R157). -/
def tsetField (sel : Nat) : Nat × Nat × Nat × Nat :=
  [(0, 4, 4, 2), (0, 8, 4, 3), (0, 12, 2, 4), (0, 14, 1, 5), (0, 15, 1, 5), (0, 16, 12, 5), (0, 28, 12, 5),
   (0, 40, 16, 5), (1, 0, 16, 5), (1, 16, 16, 5), (1, 32, 16, 5), (1, 48, 1, 5), (1, 49, 1, 5)].getD sel (0, 0, 0, 0)
/-- TSET (R157). -/
def execTset (t : BitVec 4) (a b : BitVec 6) (s : State) : Out :=
  .next (
    let sel := bits (s.rs a) 0 4
    let v := s.rs b
    let r := s.rt t
    let done := fun (w0 w1 : Word) =>
      let w1 := sealed w0 w1
      s.orRaise (checkHandle t.toNat w0 w1) fun _ => s.wt t { r with w0 := w0, w1 := w1 }
    if sel = 13 then
      s.orRaise (checkTileAddr v) fun _ =>
        let w1 := sealed r.w0 r.w1
        s.orRaise (checkHandle t.toNat r.w0 w1) fun _ => s.wt t { w0 := r.w0, w1 := w1, addr := addr48 v }
    else if sel = 14 then done v r.w1
    else if sel = 15 then done r.w0 v
    else
      let (w, lo, n, code) := tsetField sel
      let x := if sel = 5 ∨ sel = 6 then (v - 1).toNat else v.toNat
      let put := fun (h : Word) => setField h lo n x
      let w0 := if w = 0 then put r.w0 else r.w0
      let w1 := if w = 1 then put r.w1 else r.w1
      if 2 ^ n ≤ x then s.raise (hdrFlt .hdrfld t.toNat code v.toNat w0 (sealed w0 w1))
      else done w0 w1)
/-- TGET (R158). -/
def execTget (d : BitVec 6) (t : BitVec 4) (s : State) : Out := .next (s.ws d (s.rt t).addr64)

end Sys2Proof.Machine
end

