-- ==== Sys2Proof/Machine/Wait.lean ====
section
/-! DEFINITION. Bounded waits (R42, R43, R57): how a waiting instruction begins and goes on waiting, and how a context
stands while an event is taken on it. -/

namespace Sys2Proof.Machine
open Sys2Proof

/-- 2^w ticks, or 2^wlim for w = 0 (R42). -/
def State.waitLimit (s : State) (w : BitVec 5) : Nat := 2 ^ (if w = 0 then s.me.wlim.toNat else w.toNat)
/-- The issuing context begins to wait; a poll of a wait in progress leaves it as it is. -/
def State.await (s : State) (i : Instr) (w : BitVec 5) : State :=
  match s.cur.again, s.me.wait with
  | true, some t => s.fare (.wait t)
  | _, _ => s.waitMe { instr := i, start := s.ticks s.cur.core, limit := s.waitLimit w }
/-- A bundle of `words` words retires and the next is at `next` (R96, R242, R338). A bundle that falls through
past 0xFFFC goes on at 0x10000, where no word of R15 lies (log 63). -/
def State.retire (s : State) (c x next words : Nat) : State :=
  (s.updCtx c x fun k => { k with
    pc := next, retired := k.retired + BitVec.ofNat 64 words, retiredQ := k.retiredQ + 1, xhave := [] }).count (c / 64) 1 words
/-- The next bundle after `r` repeated body's bundle has retired (R114): its repetition state, and where it stands. -/
def Srep.step (r : Srep) : Option Srep × Bool :=
  if r.idx + 1 < r.n then (some { r with idx := r.idx + 1 }, false)
  else if r.beta + 1 < r.nrep then (some { r with idx := 0, beta := r.beta + 1 }, true)
  else (none, false)
/-- A retired bundle of a body goes on with the repetition (R114); `was` is the repetition state that it issued under. -/
def State.repeats (s : State) (c x : Nat) (was : Option Srep) : State :=
  match was with
  | none => s
  | some r => s.updCtx c x fun k => { k with srep := r.step.1, pc := if r.step.2 then r.body else k.pc }
/-- A context leaves its wait: the instruction, a lone word, retires and the context is READY (R227). -/
def State.leaveWait (s : State) (c x : Nat) : State :=
  (s.updCtx c x fun k => { k with st := .ready, wait := none }).retire c x ((s.ctx c x).pc + 4) 1
/-- The wait of a context has reached its limit; under FREEZE the limit runs on (log 70). -/
def State.limitOver (s : State) (c x : Nat) : Option Wait :=
  let k := s.ctx c x
  match k.st, k.wait with
  | .waiting, some w => if w.start + w.limit ≤ s.ticks c then some w else none
  | _, _ => none
/-- The wait of a context ends by its limit: its fault waits for THAW (R326). -/
def State.expired (s : State) (c x : Nat) : Option Wait := if (s.core c).frozen then none else s.limitOver c x

end Sys2Proof.Machine
end

