-- ==== Sys2Proof/Machine/Turntable.lean ====
section
/-! DEFINITION. The Turntables (R147 to R153, R159 to R166): leases, runs, spills, and the accumulator commands. -/

namespace Sys2Proof.Machine
open Sys2Proof

/-! ## Slots -/

/-- The Turntable of a core: compute cores 8k to 8k + 7 are served by Turntable k (R30). -/
def State.ttOf (s : State) (c : Nat) : Option Nat := if s.isCompute c then some (c % 64 / 8) else none
def coreAt (p k j : Nat) : Nat := p * 64 + 8 * k + j
def Turntable.holders (t : Turntable) : Nat := ((List.range 8).filter fun j => (t.slot j).holds).length
/-- A command that completes in this cycle, behind the issue slots: it holds no entry any more, so that a context which waits for
one issues in that same cycle (R18, R152). -/
def State.completing (s : State) (f : Fin) : Bool :=
  s.addsToCome && !f.merge && (s.inputs.headD []).any fun i => match i with
    | .engineCommandComplete id => id == f.id
    | _ => false
/-- Commands of a core that are queued, running or still to complete (R151). -/
def State.ttBusy (s : State) (c : Nat) : Nat :=
  (s.slot c).queue.length + (s.fins.filter fun f => f.core == c && f.turn.isSome && !s.completing f).length

/-- Bytes of an accumulator by mode (R149). -/
def accBytes (mode : Nat) : Nat := [8, 8, 16, 4].getD mode 8
def accPattern (mode : Nat) (v : Int) : List Byte :=
  toBytes (accBytes mode) (v % 2 ^ (8 * accBytes mode)).toNat
def accRead (mode : Nat) (v : Nat) : Int := if mode = 3 then (v : Int) else sintN (8 * accBytes mode) v

/-- The live values go to the core's accumulator banks (R149); half a word at their end that a bad word cannot take is reported on the
engine path (R324). -/
def State.spill (s : State) (c : Nat) : State :=
  let t := s.slot c
  if t.live then
    let bs := t.acc.flatMap (accPattern t.mode)
    let tail := bs.length % 8
    let s := match (if tail = 0 then none else s.storeEcc c (accBase + (bs.length - tail)) tail) with
      | some f => (s.sendHw c c (.fault 63 (s.record c 15 0xFFFF clsEngine f) false)).putLocal c accBase (bs.take (bs.length - tail))
      | none => s.putLocal c accBase bs
    (s.count (c / 64) 3 1).updSlot c fun t => { t with live := false, spilled := true, acc := [] }
  else s
/-- A slot whose spilled values, as the banks hold them, have become live; in mode none every element is zero (R149). -/
def TSlot.restored (t : TSlot) (k : Core) : TSlot :=
  let n := accBytes t.mode
  if t.spilled then { t with
      live := true, spilled := false
      acc := (List.range (t.rows * t.cols)).map fun i => if t.mode = 0 then 0 else accRead t.mode (k.num (accBase + n * i) n) }
  else t

/-! ## Runs (R148) -/

/-- A candidate of the scan: a holder with a command queued, or a core that waits in LEASE. -/
def Turntable.cand (t : Turntable) (j : Nat) : Bool :=
  let q := t.slot j
  (q.holds && !q.queue.isEmpty) || q.waits
def Turntable.scan (t : Turntable) : Option Nat :=
  firstOf t.cand ((List.range 8).map fun j => (t.last + 1 + j) % 8)

/-- A `LEASE` that waited completes (R148, R159). -/
def TSlot.granted (q : TSlot) : TSlot := { q with waits := false, holds := true, mrel := false }
/-- A run begins: its limit is the lessee's C0's `leaserun`; a LEASE that waits there is granted. -/
def State.beginRun (s : State) (p k j : Nat) : State :=
  let limit := (s.ctx (coreAt p k j) 0).leaserun.toNat
  s.updTt p k fun t =>
    let t := { t with current := some j, last := j, runN := 0, runLimit := limit, runStart := s.now }
    if (t.slot j).waits && !s.det (coreAt p k j) then t.updSlot j TSlot.granted else t
/-- The sticky fault bit of a completion counter is set: at once on the core itself, else by message behind the record
(R152, R259); a port takes the name of a cell in another package. -/
def State.faultCounter (s : State) (from_ c : Nat) (ccnt : Word) : State :=
  match s.counterName c ccnt with
  | .ok (.loc n) =>
    if from_ = c ∧ s.det c = false then
      s.updCore c fun k => k.setCell n { k.cell n with fault := true, cause := 0x19 }
    else s.sendHw from_ c (.faultSet n)
  | .ok (.far d n) => s.sendHw from_ d (.faultSet n)
  | .ok (.xpkg _ _ _) => s.sendHw from_ (agent (c / 64) (2 + c % 2)) (.faultSet ccnt.toNat)
  | .error _ => s
/-- The counter index an engine's record carries (R199). -/
def counterIndex (ccnt : Word) : Nat := if isLocal ccnt then (offOf ccnt - ctrBase) / 8 % 2048 else bits ccnt 0 11
/-- The engine path of R139 and R152: the record to ch63 of the issuing core, under the index of its counter where it has one (R199), and the
counter's fault bit. -/
def State.engineFault (s : State) (c : Nat) (ccnt : Word) (f : Flt) : State :=
  let s := s.logViolation c 15 f
  let rec_ := s.record c 15 0xFFFF clsEngine (if ccnt = 0 then f else { f with obj := nat64 (counterIndex ccnt) })
  let s := s.postTo c c none false rec_
  if ccnt = 0 then s else s.faultCounter c c ccnt
/-- The banks' values, as they stand, become live (R149); a bank word that cannot be read is reported on the engine path (R324). -/
def State.restore (s : State) (c : Nat) : State :=
  let t := s.slot c
  if t.spilled then
    let s := (s.count (c / 64) 3 1).updSlot c fun t => t.restored (s.core c)
    match s.badIn c accBase (t.rows * t.cols * accBytes t.mode) with
    | some o => s.sendHw c c (.fault 63 (s.record c 15 0xFFFF clsEngine (eccFlt (localAddr o))) false)
    | none => s
  else s

/-- Switch(c) of R148. -/
def State.switchTo (s : State) (p k j : Nat) : State :=
  let s := match (s.tt p k).current with
    | some o => s.spill (coreAt p k o)
    | none => s
  (s.restore (coreAt p k j)).beginRun p k j
/-- The Turntable as its choices see it. In deterministic mode a core that waits in `LEASE` is a candidate at a close alone: only what is
its own may wake a context within a quantum (R242, log 81). -/
def State.turns (s : State) (p k : Nat) : Turntable :=
  let t := s.tt p k
  if s.det (coreAt p k 0) then { t with slots := t.slots.map fun (e : Nat × TSlot) => (e.1, { e.2 with waits := false }) } else t
/-- The choice at the end of a run. -/
def State.choose (s : State) (p k : Nat) : State :=
  let t := s.turns p k
  match t.scan with
  | none => match t.current with
    | some j => if (t.slot j).holds then s.beginRun p k j else (s.spill (coreAt p k j)).updTt p k fun t => { t with current := none }
    | none => s
  | some j => if t.current = some j then s.beginRun p k j else s.switchTo p k j
/-- A run ends, or an idle array takes the first candidate (R148). -/
def Turntable.runOver (t : Turntable) (now : Nat) : Bool :=
  match t.current with
  | none => t.scan.isSome
  | some j =>
    let q := t.slot j
    let rival := (List.range 8).any fun i => i != j && t.cand i
    !q.holds || decide (t.runLimit ≤ t.runN) || q.waits ||
      (q.queue.isEmpty && rival && (decide (t.runN ≠ 0) || decide (t.runStart + 64 ≤ now)))
/-- TURNTABLE_RUN_END (R148). -/
def execTurntableRunEnd (part k : Nat) (s : State) : Out :=
  .next (if (s.turns part k).runOver s.now then s.choose part k else s)

/-- The lease ends once MREL has issued and the core's commands have completed, unless a `LEASE` issued since waits (R160). -/
def State.leaseEnd (s : State) (c : Nat) : State :=
  let q := s.slot c
  if q.holds && q.mrel && !q.waits && decide (s.ttBusy c = 0) then
    let s := s.updSlot c fun q => { q with holds := false, mrel := false }
    if (s.tt (c / 64) (c % 64 / 8)).current = some (c % 8) then s.choose (c / 64) (c % 64 / 8) else s
  else s

/-! ## Leases -/

def leaseFlt (tt : Option Nat) (reason b : Nat) : Flt := flt .lease (nat64 (tt.getD 15)) (nat64 reason) (nat64 b)
/-- NOTCTL and NOTT of R150. -/
def State.ttCheck (s : State) (k : Nat → State) : State :=
  let c := s.cur.core
  let t := s.ttOf c
  if s.cur.ctx ≠ 0 then s.raise (leaseFlt t 1 s.cur.ctx)
  else
    match t with
    | none => s.raise (leaseFlt none 2 (c % 64))
    | some t => k t
/-- NOTCTL to NOLEASE of R150. -/
def State.leased (s : State) (k : Nat → State) : State :=
  s.ttCheck fun t =>
    let q := s.slot s.cur.core
    if !q.holds || q.mrel then s.raise (leaseFlt (some t) 3 0) else k t

/-- LEASE (R159): a core that has released and is current still takes its lease back at once. -/
def execLease (s : State) : Out :=
  .next (s.ttCheck fun t =>
    let c := s.cur.core
    let q := s.slot c
    if q.holds && !q.mrel then s
    else if q.holds && (s.tt (c / 64) t).current == some (c % 8) then s.updSlot c fun q => { q with mrel := false }
    else (s.updSlot c fun q => { q with waits := true }).await .lease 0)
/-- At a close the cores of a domain that wait in `LEASE` become current one after another, at each Turntable in ascending order (log 81). -/
def State.grantLeases (s : State) (cores : List Nat) : State :=
  cores.foldl (fun s c =>
    if (s.slot c).waits then
      let s := if (s.tt (c / 64) (c % 64 / 8)).current = some (c % 8) then s else s.switchTo (c / 64) (c % 64 / 8) (c % 8)
      s.updSlot c TSlot.granted
    else s) s
/-- LEASE_EXPIRY (R159). -/
def execLeaseExpiry (core ctx : Nat) (s : State) : Out :=
  .next (
    match s.expired core ctx with
    | some w =>
      if w.instr = .lease then
        let t := s.tt (core / 64) (core % 64 / 8)
        let cur := match t.current with | some j => 8 * (core % 64 / 8) + j | none => 63
        (((s.updSlot core fun q => { q with waits := false }).leaseEnd core).asIf core ctx).raise
          (flt .wait (nat64 (core % 64 / 8)) (nat64 cur) (nat64 t.holders))
      else s
    | none => s)
/-- MREL (R160). -/
def execMrel (s : State) : Out :=
  .next (s.ttCheck fun _ =>
    let c := s.cur.core
    let q := s.slot c
    if q.holds && !q.mrel then (s.updSlot c fun q => { q with mrel := true }).leaseEnd c else s)

/-! ## Issuing a command (R138, R142, R143, R150, R151) -/

def comboFlt (obj a : Nat) (t : TReg) : Flt :=
  { code := .combo, obj := nat64 obj, a := nat64 a, b := t.combo, d0 := t.w0, d1 := t.w1 }
def shapeFlt (obj a b : Nat) (t : TReg) : Flt := hdrFlt .shape obj a b t.w0 t.w1
/-- The mode R142 gives for the formats of A and B; 0 for a pairing that is not allowed. -/
def mmaMode (a b : Nat) : Nat :=
  if a = 0 ∧ b = 0 then 1 else if a ≤ 1 ∧ b ≤ 1 then 2 else if a = 2 ∧ b = 2 then 3 else 0
def modeCols (mode : Nat) : Nat := if mode = 2 then 64 else 128
/-- A's own half of R142, with MMAG's row-major A (R163). -/
def comboA (t : TReg) (gather : Bool) : Bool :=
  t.isLocal && decide (t.fmt ≤ 2) &&
    (t.scl == 0 || t.scl == 1 || t.scl == 2 || (t.scl == 4 && t.fmt != 2)) &&
    !(t.spr == 1 && t.colMajor) && !(gather && t.colMajor)
def comboB (a b : TReg) : Bool :=
  b.isLocal && decide (mmaMode a.fmt b.fmt ≠ 0) &&
    (b.scl == 0 || b.scl == 1 || b.scl == 3 || (b.scl == 5 && b.fmt != 2)) && b.spr == 0
/-- The extent check of R143; its record names the tile's address alone (log 30). -/
def State.fits (s : State) (c : Nat) (t : TReg) (fmt mode : Nat) : Except Flt Unit :=
  if (s.core c).spSize < t.base + t.extent fmt mode then .error (flt .pool 0 t.addr64 0) else .ok ()
def checkOk (ok : Bool) (f : Flt) : Except Flt Unit := if ok then .ok () else .error f
/-- The completion counter named by `ccnt` (R152). -/
def State.ccntOk (s : State) : Except Flt Unit :=
  if s.src.ccnt = 0 then .ok ()
  else
    match s.counterName s.cur.core s.src.ccnt with
    | .ok _ => .ok ()
    | .error f => .error f

/-- The step-5 checks of MMA and MMAG, codes 1 to 7 in order (R143). Which of two operands a code blames is the model's choice: code 1
names B with its rows, code 5 the operand with its pitch (log 30). -/
def mmaShape (ra rb rc : Nat) (a b c : TReg) (mode : Nat) (idx : Option (List Nat)) : Except Flt Unit := do
  checkOk (a.cols == b.rows) (shapeFlt rb 1 b.rows b)
  checkOk (match idx with | some _ => decide (c.rows ≤ 64) | none => c.rows == a.rows) (shapeFlt rc 2 c.rows c)
  checkOk (c.cols == b.cols) (shapeFlt rc 3 c.cols c)
  checkOk (decide (c.rows ≤ 256) && decide (c.cols ≤ modeCols mode))
    (shapeFlt rc 4 (if 256 < c.rows then c.rows else c.cols) c)
  checkOk (decide (a.lineBytes a.fmt 0 ≤ 16 * a.pitch)) (shapeFlt ra 5 a.pitch a)
  checkOk (decide (b.lineBytes b.fmt 0 ≤ 16 * b.pitch)) (shapeFlt rb 5 b.pitch b)
  match idx with
  | none => .ok ()
  | some l =>
    match ((l.take c.rows).zipIdx).find? (fun e => decide (a.rows ≤ e.1)) with
    | some (v, i) => .error (shapeFlt ra 6 (i * 2 ^ 32 + v) a)
    | none => .ok ()
  checkOk (!(a.spr == 1) || decide (a.cols % 4 = 0)) (shapeFlt ra 7 a.cols a)

/-- All the checks of MMA and MMAG after the lease (R138, R150, R163). The check of `ccnt` comes last: the spec gives it no place (log 28). -/
def State.mmaCheck (s : State) (tt ra rb rc : Nat) (a b c : TReg) (vk : Option (BitVec 5)) (idx : Option (List Nat)) :
    Except Flt Nat := do
  checkHdr ra a.w0 a.w1
  checkHdr rb b.w0 b.w1
  checkHdr rc c.w0 c.w1
  checkOk (comboA a idx.isSome) (comboFlt ra 1 a)
  checkOk (comboB a b) (comboFlt rb 2 b)
  match vk with
  | some v => match AMap.find s.src.streams v.toNat with
    | some t => .error (streamFlt v.toNat 4 t.pos)
    | none => .ok ()
  | none => .ok ()
  let mode := mmaMode a.fmt b.fmt
  mmaShape ra rb rc a b c mode idx
  s.fits s.cur.core a a.fmt 0
  s.fits s.cur.core b b.fmt 0
  let q := s.slot s.cur.core
  checkOk (q.iRows != 0) (leaseFlt (some tt) 4 0)
  checkOk (c.rows == q.iRows && c.cols == q.iCols) (leaseFlt (some tt) 5 (q.iRows * 65536 + q.iCols))
  checkOk (q.iMode == 0 || q.iMode == mode) (comboFlt rc 3 c)
  checkOk (decide (c.rows * c.cols * accBytes mode ≤ s.myCore.accSize)) (leaseFlt (some tt) 6 (c.rows * c.cols * accBytes mode))
  s.ccntOk
  .ok mode

/-- A command enters the core's queue, or its context stalls for an entry (R151). It is a release at core scope: it runs once the
accesses that the core's contexts have made have been performed (R153, R270). -/
def State.enqueue (s : State) (cmd : TCmd) (f : TSlot → TSlot) : State :=
  let c := s.cur.core
  if 16 ≤ s.ttBusy c then s.stallMe .queue
  else
    let cmd := { cmd with id := s.uid, ctx := s.cur.ctx, ccnt := s.src.ccnt, waits := s.coveredCore c .core ++ s.unsent c s.cur.ctx }
    (s.updSlot c fun q => f { q with queue := q.queue ++ [cmd] }).fresh
def noCmd (i : Instr) : TCmd :=
  { id := 0, op := i, ctx := 0, ta := {}, tb := {}, tc := {}, rows := [], amax := none, mode := 0, ccnt := 0 }

/-- MZERO (R162). -/
def execMzero (tc : BitVec 4) (s : State) : Out :=
  .next (s.leased fun tt =>
    let c := s.rt tc
    s.orRaise (do
      checkHdr tc.toNat c.w0 c.w1
      checkOk (decide (c.rows ≤ 256) && decide (c.cols ≤ 128)) (shapeFlt tc.toNat 4 (if 256 < c.rows then c.rows else c.cols) c)
      checkOk (decide (c.rows * c.cols * 8 ≤ s.myCore.accSize)) (leaseFlt (some tt) 6 (c.rows * c.cols * 8))
      s.ccntOk) fun _ =>
      s.enqueue { noCmd (.mzero tc) with tc := c } fun q => { q with iRows := c.rows, iCols := c.cols, iMode := 0 })
/-- MMA (R163). -/
def execMma (tc ta tb : BitVec 4) (s : State) : Out :=
  .next (s.leased fun tt =>
    let a := s.rt ta
    let b := s.rt tb
    let c := s.rt tc
    s.orRaise (s.mmaCheck tt ta.toNat tb.toNat tc.toNat a b c none none) fun mode =>
      s.enqueue { noCmd (.mma tc ta tb) with ta := a, tb := b, tc := c, rows := List.range a.rows, mode := mode }
        fun q => { q with iMode := mode })
/-- MMAG (R163, R164). -/
def execMmag (tc ta tb : BitVec 4) (k : BitVec 5) (s : State) : Out :=
  .next (s.leased fun tt =>
    let a := s.rt ta
    let b := s.rt tb
    let c := s.rt tc
    let idx := (s.src.vr k.toNat).map (·.toNat)
    s.orRaise (s.mmaCheck tt ta.toNat tb.toNat tc.toNat a b c (some k) (some idx)) fun mode =>
      s.enqueue { noCmd (.mmag tc ta tb k) with ta := a, tb := b, tc := c, rows := idx.take c.rows, mode := mode }
        fun q => { q with iMode := mode })
/-- The format a drain writes (R144, R145). -/
def drainFmt (t : TReg) (mode : Nat) : Nat := if t.fmt = 15 then (if mode = 3 then 4 else 2) else t.fmt
/-- MDRAIN (R165). -/
def execMdrain (tc : BitVec 4) (a : BitVec 6) (s : State) : Out :=
  .next (s.leased fun tt =>
    let c := s.rt tc
    let q := s.slot s.cur.core
    let fmt := drainFmt c q.iMode
    s.orRaise (do
      checkHdr tc.toNat c.w0 c.w1
      checkOk (c.isLocal && (decide (c.fmt ≤ 4) || c.fmt == 15) && decide (c.scl ≤ 1) && c.spr == 0) (comboFlt tc.toNat 3 c)
      checkOk (decide (c.lineBytes fmt 0 ≤ 16 * c.pitch)) (shapeFlt tc.toNat 5 c.pitch c)
      checkOk (q.iRows == 0 || (c.rows == q.iRows && c.cols == q.iCols))
        (shapeFlt tc.toNat 8 (if c.rows = q.iRows then c.cols else c.rows) c)
      s.fits s.cur.core c fmt 0
      checkOk (q.iRows != 0) (leaseFlt (some tt) 4 0)
      checkOk (decide (a = 0) || decide ((s.rs a).toNat % 4 = 0)) (flt .align 0 (s.rs a) 0)
      s.ccntOk) fun _ =>
      s.enqueue { noCmd (.mdrain tc a) with tc := c, amax := if a = 0 then none else some (s.rs a) } id)

/-! ## Running a command -/

/-- The core whose command the Turntable runs next, with that command, once its release is complete. -/
def State.turnHead (s : State) (p k : Nat) : Option (Nat × TCmd) :=
  let t := s.tt p k
  match t.current with
  | none => none
  | some j =>
    if t.runLimit ≤ t.runN then none
    else match (t.slot j).queue with
      | [] => none
      | cmd :: _ => if s.pendingIds (coreAt p k j) cmd.waits then none else some (coreAt p k j, cmd)
/-- The command leaves the queue's head and counts in its run; it has still to make its writes and to complete (R148, R152, R274). -/
def State.finishTurn (s : State) (p k c : Nat) (cmd : TCmd) (flags : Bits6) (flt : Option Flt) (merge : Bool)
    (ws : List (Nat × List Byte) := []) : State :=
  let s := s.updTt p k fun t => { t with runN := t.runN + 1 }
  let s := s.updSlot c fun q => { q with queue := q.queue.tail }
  { s with fins := s.fins ++ [{ id := cmd.id, core := c, ctx := cmd.ctx, flags := flags, ccnt := cmd.ccnt, flt := flt,
                                merge := merge, turn := some k, amax := cmd.amax.getD 0, ws := ws }] }

/-- The slot after an MZERO of a tile's shape (R162). -/
def TSlot.zeroed (q : TSlot) (t : TReg) : TSlot :=
  let n := t.rows * t.cols
  { q with
    rows := t.rows, cols := t.cols, mode := 0, live := true, spilled := false,
    eA := List.replicate t.rows 0, eB := List.replicate t.cols 0, acc := List.replicate n 0,
    sat := List.replicate n false, nar := List.replicate n false }
/-- MZERO_RUN (R162). -/
def execMzeroRun (part k : Nat) (s : State) : Out :=
  .next (
    match s.turnHead part k with
    | some (c, cmd) =>
      match cmd.op with
      | .mzero _ => (s.updSlot c fun q => q.zeroed cmd.tc).finishTurn part k c cmd fNone none false
      | _ => s
    | none => s)

/-- An L operand as an array of mode F takes it: L6 is widened (R68). -/
structure LOp where
  nar  : Bool
  zero : Bool
  neg  : Bool
  l    : Int
  deriving DecidableEq, Repr
def lOp (fmt mode : Nat) (c : Option Nat) : LOp :=
  match c with
  | none => ⟨false, true, false, 0⟩
  | some c =>
    let F := if fmt = 0 then 4 else 8
    ⟨lIsNaR F c, lIsZero F c, lSign F c, if fmt = 0 ∧ mode = 2 then 2 * lField F c else lField F c⟩
/-- One product of R71, on value, SAT and NaR; the flag is raised where it saturates. A NaR operand, widened from L6 or not, marks the
accumulator and raises no bit of its own: R71 gives the command SA alone (log 30). -/
def lProduct (mode : Nat) (a b : LOp) (steps : Nat) (x : Int × Bool × Bool × Bits6) : Int × Bool × Bool × Bits6 :=
  let (acc, sat, nar, f) := x
  if a.nar || b.nar then (acc, sat, true, f)
  else if a.zero || b.zero || sat then x
  else
    let F := if mode = 1 then 4 else 8
    let B : Int := if mode = 1 then 8 else 16
    let top : Int := 2 ^ (if mode = 1 then 63 else 127) - 1
    let Ls := a.l + b.l
    let c : Int := (lTable F (Ls % F).toNat * 2 ^ (Ls / F + B + steps).toNat : Nat)
    let t := acc + (if a.neg != b.neg then -c else c)
    if top < t then (top, true, nar, f ||| fSA) else if t < -top then (-top, true, nar, f ||| fSA)
    else (t, sat, nar, f)

/-- A group of four products and the accumulator in BF16 mode (R74). -/
def bfGroup (acc : Nat) (l : List (Nat × Nat)) : Nat × Bits6 :=
  let a := fmt32.read acc
  let ps := l.map fun p => (fmtB16.read p.1, fmtB16.read p.2)
  if a.isNaN || ps.any (fun p => p.1.isNaN || p.2.isNaN) then (fmt32.nan, fNone)
  else
    let (sum, f) := ps.foldl (fun (r : Option Fv × Bits6) p =>
      let (v, g) := p.1.mul p.2
      match r.1 with
      | none => (some v, g)
      | some x => let (y, h) := x.add .rne v; (some y, r.2 ||| g ||| h)) (none, fNone)
    let (v, h) := a.add .rne (sum.getD (.fin false 0 0))
    let (w, g) := fmt32.put .rne v
    if v.isNaN then (fmt32.nan, fNR)
    else
      let now := w % fmt32.signBit == fmt32.infBits
      let was := acc % fmt32.signBit == fmt32.infBits
      (w, f ||| h ||| g ||| fIf (now && !was) fOver)
def bfRun (acc : Nat) : List (Nat × Nat) → Nat → Nat × Bits6
  | _, 0 => (acc, fNone)
  | l, n + 1 =>
    let g := l.take 4
    let (a, f) := bfGroup acc (g ++ List.replicate (4 - g.length) (0, 0))
    let (b, h) := bfRun a (l.drop 4) n
    (b, f ||| h)

/-- The base exponent of a row or column (R72). -/
def TReg.baseExpo (t : TReg) (rd : TileRd) (i : Nat) : Int :=
  match t.scl with
  | 0 => 0
  | 1 => int8 (rd.one t.scaleOff)
  | 4 => (t.kEntry rd t.cols i 0).1
  | 5 => (t.kEntry rd t.rows i 0).1
  | _ => int8 (rd.one (t.scaleOff + i))
def TReg.step (t : TReg) (rd : TileRd) (i k : Nat) : Nat :=
  match t.scl with
  | 4 => (t.kEntry rd t.cols i (k / 64)).2
  | 5 => (t.kEntry rd t.rows i (k / 64)).2
  | _ => 0

/-- One accumulator after a command: value, SAT, NaR and the bits raised (R71, R74). -/
def accumulate (mode K : Nat) (a b : TReg) (rda rdb : TileRd) (row c : Nat) (acc : Int) (sat nar : Bool) :
    Int × Bool × Bool × Bits6 :=
  if mode = 3 then
    let l := (List.range K).map fun k => ((a.elem rda 0 row k).getD 0, (b.elem rdb 0 k c).getD 0)
    let (w, f) := bfRun acc.toNat l (ceilDiv K 4)
    ((w : Int), sat, nar, f)
  else
    (List.range K).foldl (fun x k =>
      lProduct mode (lOp a.fmt mode (a.elem rda 0 row k)) (lOp b.fmt mode (b.elem rdb 0 k c))
        (a.step rda row k + b.step rdb c k) x) (acc, sat, nar, fNone)

/-- The slot after an MMA or MMAG (R163). -/
def TSlot.mma (q : TSlot) (cmd : TCmd) (rda rdb : TileRd) : TSlot × Bits6 :=
  let K := cmd.ta.cols
  let res := cmd.rows.zipIdx.flatMap fun (row, i) => (List.range q.cols).map fun c =>
    let n := i * q.cols + c
    accumulate cmd.mode K cmd.ta cmd.tb rda rdb row c (q.acc.getD n 0) (q.sat.getD n false) (q.nar.getD n false)
  ({ q with
      mode := cmd.mode
      eA := cmd.rows.map (cmd.ta.baseExpo rda)
      eB := (List.range q.cols).map (cmd.tb.baseExpo rdb)
      acc := res.map (·.1)
      sat := res.map (·.2.1)
      nar := res.map (·.2.2.1) }, res.foldl (fun f r => f ||| r.2.2.2) fNone)

/-- The first bad word of a core's pool among the bytes of a tile's areas: an engine's read of it takes the engine path (R324). -/
def State.spansEcc (s : State) (c : Nat) (t : TReg) (l : List (Nat × Nat)) : Option Flt :=
  l.findSome? fun a => (s.badIn c (t.base + a.1) a.2).map fun o => eccFlt (localAddr o)
def State.areaEcc (s : State) (c : Nat) (t : TReg) : Option Flt := s.spansEcc c t t.areas
/-- The same among its data and its areas. -/
def State.tileEcc (s : State) (c : Nat) (t : TReg) (fmt mode : Nat) (lines : List Nat) : Option Flt :=
  (s.areaEcc c t).or (s.spansEcc c t (t.lineSpans fmt mode lines))
/-- Lines that an MMA reads of A, where it names rows. -/
def TReg.linesOf (t : TReg) (rows : List Nat) : List Nat := if t.colMajor then List.range t.lines else rows
def areaFlt (t : TReg) (r : Option (Nat × Nat)) : Option Flt :=
  match r with
  | some (c, v) => some (hdrFlt .hdrfld 0 c v t.w0 t.w1)
  | none => none

/-- The mode a queued command leaves in the slot (R151). -/
def modeAfter (m : Nat) (t : TCmd) : Nat :=
  match t.op with
  | .mzero _ => 0
  | .mma _ _ _ | .mmag _ _ _ _ => t.mode
  | _ => m

/-- MMA_RUN (R163): scale and metadata areas are read first, and a fault there leaves the accumulators (R139); the mode
that later commands were checked against then falls back. -/
def execMmaRun (part k : Nat) (s : State) : Out :=
  .next (
    match s.turnHead part k with
    | some (c, cmd) =>
      match cmd.op with
      | .mma _ _ _ | .mmag _ _ _ _ =>
        let rda := s.engineRd cmd.id c cmd.ta
        let rdb := s.engineRd cmd.id c cmd.tb 1
        let cols := List.range cmd.tb.cols
        let bad := ((((s.areaEcc c cmd.ta).or (areaFlt cmd.ta (cmd.ta.areaBad rda cmd.rows cmd.rows))).or
          (s.areaEcc c cmd.tb)).or (areaFlt cmd.tb (cmd.tb.areaBad rdb cols []))).or
          ((s.tileEcc c cmd.ta cmd.ta.fmt 0 (cmd.ta.linesOf cmd.rows)).or
            (s.tileEcc c cmd.tb cmd.tb.fmt 0 (List.range cmd.tb.lines)))
        match bad with
        | some f =>
          (s.updSlot c fun q => { q with iMode := q.queue.tail.foldl modeAfter q.mode }).finishTurn
            part k c cmd fNone (some f) false
        | none =>
          let (q, f) := (s.slot c).mma cmd rda rdb
          let macs := q.rows * q.cols * (if cmd.ta.spr = 1 then cmd.ta.cols / 2 else cmd.ta.cols)
          ((s.updSlot c fun _ => q).count part 2 macs).finishTurn part k c cmd f none false
      | _ => s
    | none => s)

/-- AbsRN32 of R165. -/
def absRN32 : Fv → Nat
  | .nan => 0
  | .inf _ => fmt32.infBits
  | .fin _ m e => (fmt32.round .rne false m e false).1
/-- One drained element: its code and bits, and its magnitude for the amax (R73, R165). -/
def drainElem (fmt mode : Nat) (pol : Bool) (e' : Int) (acc : Int) (sat nar : Bool) (ea eb : Int) : (Nat × Bits6) × Nat :=
  if nar then ((nanCode fmt, fNR), 0)
  else if sat then
    let neg := decide (acc < 0)
    let x := if !pol then nanCode fmt
      else if fmt ≤ 1 then let F := if fmt = 0 then 4 else 8; lCode F neg (lMax F)
      else (ieeeFmt fmt).signed neg (ieeeFmt fmt).maxBits
    ((x, fSA ||| fIf (!pol) fNR), 0x7F800000)
  else
    let v : Fv := if mode = 0 then .fin false 0 0
      else if mode = 3 then fmt32.read acc.toNat
      else .fin (decide (acc < 0)) acc.natAbs (-(if mode = 2 then 27 else 19))
    match Val.scale (ea + eb) (.fv v) with
    | .fv .nan => ((nanCode fmt, fIf (decide (fmt ≤ 1)) fNR), 0)
    | w => ((w.scale (-e')).put fmt pol, absRN32 w.toFv)
/-- The elements of a drain and the amax (R165). -/
def TSlot.drain (q : TSlot) (fmt : Nat) (pol : Bool) (e' : Int) : Elems × Nat :=
  let r := (List.range (q.rows * q.cols)).map fun n =>
    drainElem fmt q.mode pol e' (q.acc.getD n 0) (q.sat.getD n false) (q.nar.getD n false)
      (q.eA.getD (n / q.cols) 0) (q.eB.getD (n % q.cols) 0)
  (r.map (·.1), r.foldl (fun m x => Nat.max m x.2) 0)

/-- The amax merge is sent to the word's owner (R165), or the fault of its address. -/
def State.sendMerge (s : State) (c id : Nat) (a : Word) (m : Nat) : Except Flt State :=
  if isLocal a then
    if offOf a + 4 ≤ (s.core c).spSize then
      .ok (s.updCore c fun k => { k with handler := k.handler ++ [.merge (.pool (offOf a)) (nat64 m) id c] })
    else .error { flt .pool 0 a 0 with addr := a }
  else
    match s.tableWalk (s.domOf c) a ⟨true, true⟩ with
    | .error f => .error f
    | .ok (pa, at_, e) =>
      let o := s.phys c (bits e 40 12)
      if o = c ∧ s.det c = false then
        .ok (s.updCore c fun k => { k with handler := k.handler ++ [.merge (.phys pa (at_ == 1)) (nat64 m) id c] })
      else .ok (s.stamped c id fun s => s.sendHw c o (.merge (.phys pa (at_ == 1)) (nat64 m) id))
/-- A drain's merge that a serviced domain holds for want of a translation waits with its PAGEREQ (R334). -/
def State.holdMerge (s : State) (c id m : Nat) (a : Word) : State :=
  { s.pageReq c a with fins := s.fins.map fun x => if x.id == id then { x with merge := true, page := some (s.now, m) } else x }
/-- A held merge is tried again, its page having come (R334). -/
def State.retryMerge (s : State) (f : Fin) : State :=
  match f.page with
  | none => s
  | some (_, m) =>
    let put := fun (s : State) (g : Fin) => { s with fins := s.fins.map fun x => if x.id == f.id then g else x }
    match s.sendMerge f.core f.id f.amax m with
    | .ok t => put t { f with page := none }
    | .error e => put s { f with page := none, merge := false, flt := some e }

/-- MDRAIN_RUN (R165, R166). -/
def execMdrainRun (part k : Nat) (s : State) : Out :=
  .next (
    match s.turnHead part k with
    | some (c, cmd) =>
      match cmd.op with
      | .mdrain _ _ =>
        let q := s.slot c
        let fmt := drainFmt cmd.tc q.mode
        match (if cmd.tc.scl = 1 then s.badIn c (cmd.tc.base + cmd.tc.scaleOff) 1 else none) with
        | some o => s.finishTurn part k c cmd fNone (some (eccFlt (localAddr o))) false
        | none =>
          let (el, m) := q.drain fmt cmd.tc.sat (cmd.tc.expo (s.engineRd cmd.id c cmd.tc) 0 0)
          let ws := cmd.tc.writes fmt el
          match s.tileStoreEcc c cmd.tc ws with
          | some f => s.finishTurn part k c cmd fNone (some f) false
          | none =>
          let ws := cmd.tc.drainCuts ws
          match cmd.amax with
          | none => s.finishTurn part k c cmd el.flags none false ws
          | some a =>
            match s.sendMerge c cmd.id a m with
            | .ok s => s.finishTurn part k c cmd el.flags none true ws
            | .error f =>
              if s.serviced c f then (s.finishTurn part k c cmd el.flags none true ws).holdMerge c cmd.id m a
              else s.finishTurn part k c cmd el.flags (some f) false ws
      | _ => s
    | none => s)

/-! ## Status (R161) -/

/-- The slot as the core's queued commands will leave it: they count as run, on the memory as it stands (R161). -/
def State.aheadSlot (s : State) (c : Nat) : TSlot :=
  let k := s.core c
  (s.slot c).queue.foldl (fun q cmd =>
    match cmd.op with
    | .mzero _ => q.zeroed cmd.tc
    | .mma _ _ _ | .mmag _ _ _ _ => ((q.restored k).mma cmd (k.tileRd cmd.ta) (k.tileRd cmd.tb)).1
    | _ => q.restored k) (s.slot c)
/-- The status word of R161. -/
def State.mstat (s : State) (c : Nat) : Word :=
  match s.ttOf c with
  | none => at_ 15 48
  | some t =>
    let q := s.slot c
    let a := s.aheadSlot c
    let shape := decide (q.iRows ≠ 0)
    at_ t 48 ||| at_ (s.tt (c / 64) t).holders 40 ||| at_ (q.iCols - 1) 28 ||| at_ (q.iRows - 1) 16 |||
    at_ (s.ttBusy c) 8 ||| at_ q.iMode 6 ||| at_ (a.nar.any id).toNat 5 ||| at_ (a.sat.any id).toNat 4 |||
    at_ shape.toNat 3 ||| at_ a.spilled.toNat 2 ||| at_ a.live.toNat 1 ||| at_ q.holds.toNat 0
/-- MSTAT (R161). -/
def execMstat (d : BitVec 6) (s : State) : Out := .next (s.ws d (s.mstat s.cur.core))

/-! ## Completion -/

/-- Engine threads make some of their writes (R264): any number of them in any cycle, in order. -/
def State.writeOn (s : State) : State :=
  (s.fins.filter fun f => f.ws != []).foldl (fun s f =>
    let n := Config.writesIn f.id s.now
    let cut := fun (g : Fin) => if g.id == f.id then { g with ws := g.ws.drop n } else g
    { s.engineWrites f.core (f.ws.take n) with fins := s.fins.map cut }) s
/-- Engine threads of the module that have still to read: queued commands, copies, and requests on their way. -/
def State.readers (s : State) : List Nat :=
  (s.parts.flatMap fun p => p.2.tts.flatMap fun t => t.2.slots.flatMap fun q => q.2.queue.map (·.id)) ++
    (s.cores.flatMap fun c => c.2.tileQ.map (·.id)) ++ s.jobs.map (·.id) ++ (s.net.filter fun p => p.body.asks).map (·.id)
/-- Threads whose release is not complete. -/
def State.unreleased (s : State) : List Nat :=
  (s.parts.flatMap fun p => p.2.tts.flatMap fun t => t.2.slots.flatMap fun q =>
    (q.2.queue.filter fun m => s.pendingIds (coreAt p.1 t.1 q.1) m.waits).map (·.id)) ++
    (s.cores.flatMap fun c => (c.2.tileQ.filter fun m => s.pendingIds c.1 m.waits).map (·.id)) ++
    (s.net.filter fun p => p.body.asks && !s.sent p).map (·.id)
/-- What stands at the beginning of a cycle is kept for the engine threads at work, and forgotten with the last of them. -/
def State.remember (s : State) : State :=
  match s.readers with
  | [] => { s with past := [] }
  | i :: l =>
    let least := l.foldl Nat.min i
    { s with past := (s.past.filter fun m => decide (least < m.uid)) ++
        [{ at_ := s.now, uid := s.uid, held := s.unreleased, mem := s.mem,
           pools := s.cores.map fun (e : Nat × Core) => (e.1, (e.2.pool, e.2.undef)) }] }
/-- ENGINE_COMMAND_COMPLETE (R152): its last writes are made, flags go to C0, then 1 is added to the counter, an edge of system scope
(R273); or the engine path. -/
def execEngineCommandComplete (id : Nat) (s : State) : Out :=
  .next (
    match s.fins.find? (fun f => f.id == id) with
    | some f =>
      if f.merge then s
      else
        let s := { s with fins := s.fins.filter fun g => g.id != id }.engineWrites f.core f.ws
        let s := s.stamped f.core f.id fun s => match f.flt with
          | some e => s.engineFault f.core f.ccnt e
          | none =>
            let s := s.updCtx f.core 0 fun k => { k with flags := k.flags ||| f.flags }
            match s.counterName f.core f.ccnt with
            | .ok n => if f.ccnt = 0 then s else s.addName f.core f.core 15 n f.ccnt 1 [] .sys true
            | .error _ => s
        if f.turn.isSome then s.leaseEnd f.core else s
    | none => s)

/-- The packet an arrival event takes: deliverable, and its core's pool is not being cleared (R289). -/
def State.arriving (s : State) (id : Nat) : Option Packet :=
  match s.deliverable id with
  | some p => if p.dst < 4096 && (s.core p.dst).clearing then none else some p
  | none => none
/-- ENGINE_FAULT_SETTING (R152), held while the core's banks clear (R289). -/
def execEngineFaultSetting (id : Nat) (s : State) : Out :=
  .next (
    match s.arriving id with
    | some p =>
      match p.body with
      | .faultSet n => if 4096 ≤ p.dst then s else (s.sink p).setCell p.dst n { s.cell p.dst n with fault := true, cause := 0x19 }
      | _ => s
    | none => s)

/-- In deterministic mode a handler thread does what other cores asked of it, and what it does at slices, in the cycle of a close alone
(R242, R243). -/
def State.closeWork (s : State) (c : Nat) (r : HReq) : Bool :=
  match s.launchOf c with
  | some l => l.det && l.qstart != s.now && (match r with
    | .atom src _ (.pool _) _ _ _ _ _ | .merge (.pool _) _ _ src => src != c
    | _ => true)
  | none => false
/-- DRAIN_MERGE (R165): the owner's handler thread serves the merge at the head of its queue. -/
def execDrainMerge (core : Nat) (s : State) : Out :=
  .next (
    let k := s.core core
    match k.handler with
    | .merge pl v eng src :: r =>
      if s.handlerHeld core || s.closeWork core (.merge pl v eng src) then s
      else
        let done := fun (s : State) (f : Option Flt) =>
          { (s.updCore core fun k => { k with handler := r, hheld := none }).count (core / 64) 7 (if core = src then 0 else 1) with
            fins := s.fins.map fun x => if x.id == eng then { x with merge := false, flt := f } else x }
        match pl with
        | .pool off =>
          match s.badIn core off 4 with
          | some o => done s (some (eccFlt (localAddr o)))
          | none => done (s.putLocal core off (toBytes 4 (Nat.max (k.num off 4) v.toNat))) none
        | .phys pa versioned =>
          match s.badHbm pa 4 with
          | some _ => done s (some (eccFlt (((s.fins.find? fun x => x.id == eng).map fun (x : Fin) => x.amax).getD 0)))
          | none =>
            if versioned && !s.hasRoom pa then
              if k.hheld.isNone then s.updCore core fun k => { k with hheld := some (s.ticks src) } else s
            else done ((s.count (sliceOf pa) 4 4).performWrite pa (toBytes 4 (Nat.max (s.hbmNum pa 4) v.toNat)) versioned) none
    | _ => s)

end Sys2Proof.Machine
end

