-- ==== Sys2Proof/Machine/TileUnit.lean ====
section
/-! DEFINITION. The tile unit (R167, R168), tiles moved verbatim or converted (R146), variable-latency requests (R36, R37)
and the block-queue unit (R169). -/

namespace Sys2Proof.Machine
open Sys2Proof

/-! ## Moving a tile into a tile (R142, R143, R146) -/

/-- The destination as the result's header describes it where it takes the source's layout. -/
def TReg.like (d src : TReg) (fmt : Nat) : TReg :=
  { d with w0 := setField (setField (withFmt d.w0 fmt) 8 4 src.scl) 12 2 src.spr }
/-- The verbatim case of R146; an ACC image lands in an AUTO tile only by TCVT, which converts it (R142, R144, R167). -/
def isVerbatim (src d : TReg) : Bool :=
  (src.fmt == d.fmt && src.scl == d.scl && src.spr == d.spr) || (d.fmt == 15 && src.fmt != 8)
/-- The destination with the format it takes; `mode` is an ACC source's mode. -/
def landing (src d : TReg) (mode : Nat) : TReg :=
  if isVerbatim src d then d.like src src.fmt
  else if d.fmt = 15 then { d with w0 := withFmt d.w0 (if mode = 2 then 4 else 2) }
  else d
/-- The source's half of R142. -/
def srcOk (cvt : Bool) (src : TReg) : Bool :=
  (!cvt || src.isLocal) && decide (src.fmt ≤ 8) && (src.fmt != 8 || (src.scl == 0 && src.spr == 0))
/-- The destination's half of R142. -/
def dstOk (cvt : Bool) (src d : TReg) : Bool :=
  (!cvt || d.isLocal) &&
    (if d.fmt = 8 then src.fmt == 8 && d.scl == 0 && d.spr == 0
     else if isVerbatim src d then true
     else decide (d.scl ≤ 1) && d.spr == 0 && (src.fmt != 8 || (cvt && (decide (d.fmt ≤ 4) || d.fmt == 15))))
def kExtent (t : TReg) : Nat := if t.colMajor then t.rows else t.cols
/-- A destination as the bytes of a verbatim move lie in it: under S24 its lines and areas are the source's, whatever its own order, at its own
offsets and pitch (R146). -/
def TReg.laidAs (e src : TReg) : TReg := if src.spr = 1 then { e with w0 := setField e.w0 15 1 (bits src.w0 15 1) } else e
/-- The destination of a move as its bytes lie in it. -/
def moved (src d : TReg) (mode : Nat) : TReg :=
  if isVerbatim src d then (landing src d mode).laidAs src else landing src d mode
/-- Areas that run into one another, or have no place: the destination leaves no room (R146). -/
def crowded (d : TReg) (mode : Nat) : Option Nat :=
  let areas := [(0, 16), (d.dataOff, d.lineAt (d.lines - 1) + d.lineBytes d.fmt mode - d.dataOff)] ++ d.areas
  areas.zipIdx.findSome? fun (a, i) => areas.zipIdx.findSome? fun (b, j) =>
    if i < j ∧ a.1 < b.1 + b.2 ∧ b.1 < a.1 + a.2 then some (b.1 / 16) else none
/-- Step 5 of R138 for a source and a destination (R143). An ACC source's lines are judged under `mode`, and the format that an AUTO
destination takes under `land`: what the engine has read, or at issue the smallest of each (R143, R145). -/
def moveShape (rs rd : Nat) (src d : TReg) (mode land : Nat) : Except Flt Unit := do
  let e := moved src d land
  checkOk (decide (src.lineBytes src.fmt mode ≤ 16 * src.pitch)) (shapeFlt rs 5 src.pitch src)
  checkOk (decide (e.lineBytes e.fmt mode ≤ 16 * d.pitch)) (shapeFlt rd 5 d.pitch d)
  match (if isVerbatim src d then crowded e mode else none) with
  | some o => .error (shapeFlt rd 5 o d)
  | none => .ok ()
  checkOk (src.spr != 1 || decide (kExtent src % 4 = 0)) (shapeFlt rs 7 (kExtent src) src)
  checkOk (d.rows == src.rows && d.cols == src.cols) (shapeFlt rd 8 (if d.rows = src.rows then d.cols else d.rows) d)

/-- The ACC mode byte that an engine reads, where it is none of R137's. -/
def modeBad (src : TReg) (rd : TileRd) : Option (Nat × Nat) :=
  let m := (rd.one src.metaOff).toNat
  if src.fmt = 8 ∧ 2 < m then some (7, m) else none
/-- The steps and pairs that an engine finds out of order in a source's areas (R139). -/
def sourceBad (src : TReg) (rd : TileRd) : Option (Nat × Nat) :=
  if src.fmt = 8 then none
  else src.areaBad rd (List.range (if src.scl = 4 then src.rows else src.cols)) (List.range src.lines)
/-- Mode of an ACC source, as bits of R137: 0 L6, 1 L8, 2 BF16. -/
def accMode (src : TReg) (rd : TileRd) : Nat := if src.fmt = 8 then (rd.one src.metaOff).toNat else 0

/-- A verbatim move: scale area, metadata area, data, header (R146). Between dense tiles of different order the elements are laid out
anew; otherwise every line moves as it stands, the unused values of a last L6 group too (log 31). -/
def verbatimWrites (src d : TReg) (rd : TileRd) : List (Nat × List Byte) :=
  let mode := accMode src rd
  let e := d.like src src.fmt
  let raw := fun (o n : Nat) => (List.range n).map fun i => rd.one (o + i)
  let pack := fun (l : List Nat) => if src.fmt = 0 then packL6 l else l.flatMap (toBytes (fmtSize src.fmt mode))
  let whole := if src.fmt = 0 then 4 * ceilDiv src.stored 4 else src.stored
  let data :=
    if src.spr = 1 ∨ src.colMajor = d.colMajor then
      (List.range src.lines).map fun l => (e.lineAt l, pack ((List.range whole).map fun k => src.code rd mode l k))
    else
      (List.range e.lines).map fun l => (e.lineAt l, pack ((List.range (kExtent e)).map fun k => src.code rd mode k l))
  let w1 := setField (setField d.w1 48 1 (bits src.w1 48 1)) 49 1 (bits src.w1 49 1)
  (if src.scl = 0 then [] else [(d.scaleOff, raw src.scaleOff src.scaleLen)]) ++
    (if src.metaLen = 0 then [] else [(d.metaOff, raw src.metaOff src.metaLen)]) ++ data ++
    [(0, bytesOf [e.w0, sealed e.w0 w1])]

/-- Elements converted one by one (R146); an ACC image's as a drain's, with zero exponents (R167).
An integer that a NaR leaves is no NaR, so it counts as clamped alone (R77, R79). -/
def convertElems (src e : TReg) (rd : TileRd) (e' : Int) : Elems :=
  let mode := accMode src rd
  src.cells.zipIdx.map fun ((i, j), n) =>
    if src.fmt = 8 then
      let m := mode + 1
      let c := src.code rd mode (if src.colMajor then j else i) (if src.colMajor then i else j)
      let two := (rd.one (src.metaOff + 16 + n / 4)).toNat / 2 ^ (2 * (n % 4)) % 4
      (drainElem e.fmt m e.sat e' (accRead m c) (two % 2 == 1) (two / 2 == 1) 0 0).1
    else
      match src.elem rd 0 i j with
      | none => (Val.fv (.fin false 0 0)).put e.fmt e.sat
      | some c =>
        let (v, f) := valOf src.fmt c
        let (w, g) := (v.scale (src.expo rd i j - e')).put e.fmt e.sat
        (w, (if e.fmt = 6 ∨ e.fmt = 7 then f &&& ~~~fNR else f) ||| g)
/-- What a move of a tile writes, in order, with the bits it raises. -/
def moveWrites (src d : TReg) (rd rdd : TileRd) : List (Nat × List Byte) × Bits6 :=
  if isVerbatim src d then (verbatimWrites src d rd, fNone)
  else
    let e := landing src d (accMode src rd)
    let el := convertElems src e rd (d.expo rdd 0 0)
    (e.writes e.fmt el, el.flags)

/-! ## TCVT and AQADD -/

/-- Commands of a core at its tile unit. -/
def State.tileBusy (s : State) (c : Nat) : Nat :=
  (s.core c).tileQ.length + (s.fins.filter fun f => f.core == c && f.turn.isNone && !s.completing f).length
/-- A command enters the tile unit's queue, or its context stalls for an entry; its release is that of R153. The spec leaves open whether
the tile unit shares the Turntable's 16 entries of R151: the model gives it 16 of its own (log 76). -/
def State.tileEnqueue (s : State) (cmd : TCmd) : State :=
  let c := s.cur.core
  if 16 ≤ s.tileBusy c then s.stallMe .tileUnit
  else
    let cmd := { cmd with id := s.uid, ctx := s.cur.ctx, ccnt := s.src.ccnt, waits := s.coveredCore c .core ++ s.unsent c s.cur.ctx }
    (s.updCore c fun k => { k with tileQ := k.tileQ ++ [cmd] }).fresh

/-- TCVT (R167). -/
def execTcvt (td ts : BitVec 4) (s : State) : Out :=
  .next (
    let src := s.rt ts
    let d := s.rt td
    s.orRaise (do
      checkHdr ts.toNat src.w0 src.w1
      checkHdr td.toNat d.w0 d.w1
      checkOk (srcOk true src) (comboFlt ts.toNat 4 src)
      checkOk (dstOk true src d) (comboFlt td.toNat 3 d)
      moveShape ts.toNat td.toNat src d 2 0
      let e := moved src d 0
      s.fits s.cur.core src src.fmt 2
      s.fits s.cur.core e e.fmt 2
      s.ccntOk) fun _ => s.tileEnqueue { noCmd (.tcvt td ts) with ta := src, tc := d })

/-- The linear value of an L code (R168). -/
def linVal (F c : Nat) : Fv :=
  if lIsNaR F c then .nan
  else if lIsZero F c then .fin false 0 0
  else
    let L := lField F c
    .fin (lSign F c) (lTable F (L % F).toNat) (L / F - 11)
def fvScale (e : Int) : Fv → Fv
  | .fin s m g => .fin s m (g + e)
  | v => v
def aqElem (F fmt : Nat) (pol : Bool) (a b : Nat) (ea eb e' : Int) : Nat × Bits6 :=
  match (fvScale ea (linVal F a)).add .rne (fvScale eb (linVal F b)) with
  | (.nan, _) => (nanCode fmt, fNR)
  | (v, _) => (Val.fv (fvScale (-e') v)).put fmt pol
/-- The format an AQADD writes (R144, R168). -/
def aqFmt (d a : TReg) : Nat := if d.fmt = 15 then a.fmt else d.fmt
/-- AQADD (R168). -/
def execAqadd (td ta tb : BitVec 4) (s : State) : Out :=
  .next (
    let a := s.rt ta
    let b := s.rt tb
    let d := s.rt td
    let fmt := aqFmt d a
    let src := fun (t : TReg) => t.isLocal && decide (t.fmt ≤ 1) && decide (t.scl ≤ 3) && t.spr == 0
    s.orRaise (do
      checkHdr ta.toNat a.w0 a.w1
      checkHdr tb.toNat b.w0 b.w1
      checkHdr td.toNat d.w0 d.w1
      checkOk (src a) (comboFlt ta.toNat 1 a)
      checkOk (src b && b.fmt == a.fmt) (comboFlt tb.toNat 2 b)
      checkOk (d.isLocal && (decide (d.fmt ≤ 2) || d.fmt == 4 || d.fmt == 15) && decide (d.scl ≤ 1) && d.spr == 0)
        (comboFlt td.toNat 3 d)
      checkOk (decide (a.lineBytes a.fmt 0 ≤ 16 * a.pitch)) (shapeFlt ta.toNat 5 a.pitch a)
      checkOk (decide (b.lineBytes b.fmt 0 ≤ 16 * b.pitch)) (shapeFlt tb.toNat 5 b.pitch b)
      checkOk (decide (d.lineBytes fmt 0 ≤ 16 * d.pitch)) (shapeFlt td.toNat 5 d.pitch d)
      checkOk (b.rows == a.rows && b.cols == a.cols) (shapeFlt tb.toNat 8 (if b.rows = a.rows then b.cols else b.rows) b)
      checkOk (d.rows == a.rows && d.cols == a.cols) (shapeFlt td.toNat 8 (if d.rows = a.rows then d.cols else d.rows) d)
      s.fits s.cur.core a a.fmt 0
      s.fits s.cur.core b b.fmt 0
      s.fits s.cur.core d fmt 0
      s.ccntOk) fun _ => s.tileEnqueue { noCmd (.aqadd td ta tb) with ta := a, tb := b, tc := d })

/-- A command of the tile unit has run; it has still to make its writes and to complete (R152, R274). -/
def State.finishTile (s : State) (c : Nat) (cmd : TCmd) (flags : Bits6) (flt : Option Flt) (ws : List (Nat × List Byte) := []) : State :=
  let s := s.updCore c fun k => { k with tileQ := k.tileQ.tail }
  { s with fins := s.fins ++ [{ id := cmd.id, core := c, ctx := cmd.ctx, flags := flags, ccnt := cmd.ccnt, flt := flt,
                                merge := false, turn := none, ws := ws }] }
/-- The TILE exponent of a destination, read at the write, where its word is bad (R324). -/
def State.scaleEcc (s : State) (c : Nat) (d : TReg) : Option Flt :=
  if d.scl = 1 then s.spansEcc c d [(d.scaleOff, 1)] else none
/-- What a TCVT's engine finds wrong as it reads (R139, R143): the mode byte, shapes and extents under it, steps and pairs. -/
def tcvtFlt (s : State) (id c : Nat) (src d : TReg) : Option Flt :=
  let rd := s.engineRd id c src
  let m := accMode src rd
  let e := moved src d m
  let shape := match (do
      moveShape 0 0 src d m m
      s.fits c src src.fmt m
      s.fits c e e.fmt m : Except Flt Unit) with
    | .error f => some f
    | .ok _ => none
  ((s.areaEcc c src).or (areaFlt src (modeBad src rd))).or ((shape.or (areaFlt src (sourceBad src rd))).or
    ((s.tileEcc c src src.fmt m (List.range src.lines)).or (if isVerbatim src d then none else s.scaleEcc c d)))
/-- TILE_UNIT_RUN (R167, R168): the head of the core's queue runs once its release is complete; its areas
are read first (R139). -/
def execTileUnitRun (core : Nat) (s : State) : Out :=
  .next (
    match (s.core core).tileQ with
    | [] => s
    | cmd :: _ =>
      if s.pendingIds core cmd.waits then s else
      let d := cmd.tc
      let rdd := s.engineRd cmd.id core d 2
      match cmd.op with
      | .tcvt _ _ =>
        match tcvtFlt s cmd.id core cmd.ta d with
        | some f => s.finishTile core cmd fNone (some f)
        | none =>
          let (ws, f) := moveWrites cmd.ta d (s.engineRd cmd.id core cmd.ta) rdd
          match s.tileStoreEcc core d ws with
          | some f => s.finishTile core cmd fNone (some f)
          | none => s.finishTile core cmd f none (d.cuts ws)
      | .aqadd _ _ _ =>
        let a := cmd.ta
        let b := cmd.tb
        let ra := s.engineRd cmd.id core a
        let rb := s.engineRd cmd.id core b 1
        match ((s.tileEcc core a a.fmt 0 (List.range a.lines)).or (s.tileEcc core b b.fmt 0 (List.range b.lines))).or
            (s.scaleEcc core d) with
        | some f => s.finishTile core cmd fNone (some f)
        | none =>
          let F := if a.fmt = 0 then 4 else 8
          let fmt := aqFmt d a
          let e' := d.expo rdd 0 0
          let el : Elems := a.cells.map fun (i, j) =>
            aqElem F fmt d.sat ((a.elem ra 0 i j).getD 0) ((b.elem rb 0 i j).getD 0) (a.expo ra i j) (b.expo rb i j) e'
          let ws := d.writes fmt el
          match s.tileStoreEcc core d ws with
          | some f => s.finishTile core cmd fNone (some f)
          | none => s.finishTile core cmd el.flags none (d.cuts ws)
      | _ => s)

/-! ## Variable-latency results (R36, R37) -/

/-- A request for results: it parks where Outstanding would pass 32, else its destinations enter Pending, but s0. -/
def State.ask (s : State) (kind : OutKind) (dests : List (BitVec 6)) (size : Nat) (k : Nat → State → State) : State :=
  if 32 < s.me.outstanding + size then s.parkMe (32 - size)
  else
    let o : Outst := { id := s.uid, kind := kind, dests := dests.map fun d => 64 + d.toNat, size := size, vals := none,
                       flt := none, pc := s.cur.pc }
    k s.uid (s.updMe fun c => { c with
      outs := c.outs ++ [o], pending := c.pending ++ (dests.filter (· != 0)).map fun d => 64 + d.toNat }).fresh
/-- The values of a request, or its failure, are on their way back to the context. -/
def State.settle (s : State) (c x id : Nat) (vals : Option (List Word)) (f : Option Flt) : State :=
  s.updCtx c x fun k => { k with outs := k.outs.map fun o => if o.id == id then { o with vals := vals, flt := f } else o }

/-- The context takes no further bundle until its SEQ access has been performed (R251). -/
def State.untilDone (s : State) (id : Nat) : State :=
  if s.cur.fate = .retire then s.updMe fun k => { k with st := .stalled, stall := some (.seq id) } else s

/-! ## The block-queue unit -/

/-- Agent number of a partition's block-queue unit. -/
def jqAgent (p : Nat) : Nat := agent p 5
/-- JQNEXT (R169). -/
def execJqnext (d a : BitVec 6) (s : State) : Out :=
  .next (
    let w := s.rs a
    s.ask .jq [d] 1 fun id s =>
      s.transmit s.cur.core s.cur.ctx (jqAgent (s.cur.core / 64))
        (.jq (bits w 0 4) (bits w 16 16) (bits w 32 32) s.cur.ctx id) [] .core false)
/-- The answer of queue (round, next) to a request of round r for n blocks, and the queue after it (R169). -/
def jqServe (q : Nat × Nat) (r n : Nat) : Word × (Nat × Nat) :=
  let dlt := (r + 65536 - q.1) % 65536
  if 32768 ≤ dlt then (BitVec.allOnes 64, q)
  else
    let next := if dlt ≠ 0 then 0 else q.2
    if next < n then (nat64 next, (r, next + 1)) else (BitVec.allOnes 64, (r, next))
/-- JQNEXT_SERVE (R169). -/
def execJqnextServe (id : Nat) (s : State) : Out :=
  .next (
    match s.deliverable id with
    | some p =>
      match p.body with
      | .jq q r n ctx out =>
        let part := partOfKey p.dst
        let (v, q') := jqServe (AMap.get (0, 0) (s.part part).jq q) r n
        ((s.sink p).updPart part fun k => { k with jq := AMap.set k.jq q q' }).settle p.src ctx out (some [v]) none
      | _ => s
    | none => s)

end Sys2Proof.Machine
end

