-- ==== Sys2Proof/Machine/Msg.lean ====
section
/-! DEFINITION. Messages, answers and posted receives (R170, R174 to R182, R186, R189, R192 to R195, R246, R354), block reads
(R204) and atomics (R183, R196). -/

namespace Sys2Proof.Machine
open Sys2Proof

/-! ## Sending -/

/-- CheckHeader of R193: the low bit of the field that R29, R174 or R193 forbids, with its value. -/
def State.checkHeader (s : State) (c : Nat) (h : Word) : Except Flt Unit :=
  let k := hKind h
  if !s.inRange c (hDest h) then .error (perm 52 (nat64 (hDest h)))
  else if 0x20 ≤ k ∧ k ≤ 0x5F ∧ hDest h % 64 ≠ 0 then .error (perm 52 (nat64 (hDest h)))
  else if 0x60 ≤ k ∧ k ≤ 0x6F ∧ (c % 64 = 48 ∨ c % 64 = 49) ∧ hDest h ≠ s.rel c then .error (perm 52 (nat64 (hDest h)))
  else if (0x20 ≤ k ∧ k ≤ 0x5F ∨ 0x60 ≤ k ∧ k ≤ 0x6F ∧ (c % 64 = 48 ∨ c % 64 = 49)) ∧ !s.inRange c (hRcore h) then
    .error (perm 34 (nat64 (hRcore h)))
  else .ok ()
/-- Kinds that SEND takes (R193). -/
def sendKind (c k : Nat) : Bool :=
  k == 0 || k == 3 || (decide (0x20 ≤ k) && decide (k ≤ 0x5F)) ||
    (decide (0x60 ≤ k) && decide (k ≤ 0x6F) && (c % 64 == 48 || c % 64 == 49))
/-- One more request awaits its answer (R189). -/
def State.awaits (s : State) (c : Nat) : State := s.updCore c fun k => { k with awaiting := k.awaiting + 1 }
def State.windowFull (s : State) : Bool := decide (s.myCore.window ≤ s.myCore.awaiting)
/-- A request that reserves a slot of its reply channel and then observes the window (R177, R189, R193): while the window is full
its context is STALLED, and keeps the reservation for the bundle. -/
def State.request (s : State) (h : Nat) (k : State → State) : State :=
  s.orRaise (if s.me.resv = some h then .ok s else s.reserve s.cur.core h) fun t =>
    if s.windowFull then (t.updMe fun c => { c with resv := some h }).stallMe .window
    else k ((t.updMe fun c => { c with resv := none }).awaits s.cur.core)
def State.payload (s : State) (a : Word) (n : Nat) (k : List Word → State) : State :=
  if n = 0 then k []
  else if a.toNat % 8 ≠ 0 then s.raise (flt .align 0 a 0)
  else if !inScratch s.myCore a (8 * n) then s.raise (flt .pool 0 a 0)
  else s.loadLocal a (8 * n) fun bs => k (wordsOf n bs)
/-- Where a request of a kind goes: a core, a streamer, or the Flazar port beside a link junction core. -/
def State.destOf (s : State) (h : Word) : Nat :=
  let d := s.phys s.cur.core (hDest h)
  if hKind h < 0x20 then d
  else if hKind h < 0x40 then agent (d / 64) 0
  else if hKind h < 0x60 then agent (d / 64) 1
  else agent (s.cur.core / 64) (2 + s.cur.core % 2)
/-- SEND (R193). -/
def execSend (a b : BitVec 6) (s : State) : Out :=
  .next (
    let c := s.cur.core
    let h := s.rs a
    let k := hKind h
    s.orRaise (s.checkHeader c h) fun _ =>
      if !sendKind c k then s.raise (perm 20 (nat64 k))
      else if 7 < hWords h then s.raise (perm 16 (nat64 (hWords h)))
      else s.payload (s.rs b) (hWords h) fun ws =>
        if k = 0 ∨ k = 3 then
          if hRcore h ≠ s.rel c then s.raise (perm 34 (nat64 (hRcore h)))
          else s.request (hRchan h) fun s => s.sendMe (s.destOf h) (.words h ws)
        else s.sendMe (s.destOf h) (.request h ws))

/-! ## Arriving -/

/-- A packet of header and payload words. -/
def State.arrivingWords (s : State) (id : Nat) : Option (Packet × Word × List Word) :=
  match s.arriving id with
  | some p => match p.body with
    | .words h ws => some (p, h, ws)
    | _ => none
  | none => none
/-- The receiver's answer to a request: to the sender's reserved slot (R170), or out through the port it came by, with the route
word of what came (R175); `ws` is the payload. -/
def State.refuse (s : State) (c src kind : Nat) (h : Word) (ws : List Word) : State :=
  let b := match portOf src, refusal s c kind h with
    | some _, .words r l => Body.words r (l ++ [s.route (routeFrom (ws.getD (hWords h) 0))])
    | _, b => b
  (s.sendHw c src b).count (partOfKey c) 8 1
/-- Nobody answers at this key: an index that names nothing, or a core the partition lacks (R32, R175). -/
def State.absent (s : State) (c : Nat) : Bool := !s.isUser c && c % 64 != 63

/-- Header and payload enter a slot; what comes from another package brings its route word, for bytes 56 to 63 (R350). -/
def State.landMsg (s : State) (c ch : Nat) (slot : Slot) (h : Word) (ws : List Word) : State :=
  match portOf slot.src with
  | none => s.land c ch slot (h :: ws)
  | some _ =>
    let q := (s.core c).chan ch
    let a := q.slotAddr (q.free.getD 0)
    let r := ws.getD (hWords h) 0
    (s.land c ch { slot with pkg := routeFrom r } (h :: ws.take (hWords h))).putLocal c (a + 56) (toBytes 8 r.toNat)
/-- Requests of a context to another package that its Flazar port has still to accept: at the port, or on their way to it (R269). -/
def State.atPorts (s : State) (c x : Nat) : List Nat :=
  if s.det c then [] else
  (s.net.filter fun p => p.src == c && p.srcCtx == x && ((portOf p.dst).isSome || (match p.body with
    | .words h _ => isEnvelope p h
    | _ => false))).map (·.id)
/-- A MSG at a channel (R179, R181): accepted, or the kind of its refusal. -/
def State.msgAt (s : State) (c : Nat) (h : Word) (ws : List Word) (src : Nat) (sc : Scope) : State × Option Nat :=
  let ch := (s.core c).chan (hDchan h)
  if s.absent c then (s, some 0x0F)
  else if !ch.bound then (s, some 0x0E)
  else if ch.room then (s.landMsg c (hDchan h) { kind := .msg, hdr := h, src := src, port := portKey src, scope := sc } h ws, none)
  else (s, some 0x02)
/-- MSG (R181). -/
def execMsgArrival (id : Nat) (s : State) : Out :=
  .next (
    match s.arrivingWords id with
    | some (p, h, ws) =>
      if hKind h ≠ 0 ∨ p.dst % 64 = 63 ∨ 4096 ≤ p.dst ∨ isEnvelope p h then s
      else
        match (s.sink p).msgAt p.dst h ws p.src p.scope with
        | (t, none) => t
        | (t, some k) => t.refuse p.dst p.src k h ws
    | none => s)

/-- A reply enters the slot reserved for it (R177, R181), and its request leaves the window (R189). -/
def State.replyIn (s : State) (p : Packet) (h : Word) (ws : List Word) (kind : SlotKind) : State :=
  let c := p.dst
  let s := (s.sink p).answered c
  let s := s.updCore c fun k => k.updChan (hDchan h) fun ch => { ch with reserved := ch.reserved - 1 }
  s.landMsg c (hDchan h) { kind := kind, hdr := h, src := p.src, scope := p.scope } h ws
/-- What reaches the host completion ring: a MSG to index 63 on ch60 with at most six payload words (R246), or a `REPLY` to a message of the
station there (R354). -/
def isReport (p : Packet) (h : Word) : Bool :=
  p.dst % 64 == 63 && hKind h == 0 && hDchan h == 60 && decide (hWords h ≤ 6)
def toStation (p : Packet) : Bool :=
  match p.body with
  | .words h _ => isReport p h || (p.dst % 64 == 63 && hKind h == 1 && hRchan h == 60)
  | _ => false
/-- Of the messages that a station holds, one that came earlier goes first (R246). Which of two senders' messages comes first is left to the
order of their arrivals (R187). -/
def State.reportBefore (s : State) (p : Packet) : Bool :=
  s.net.any fun q => q.dst == p.dst && (match q.came, p.came with
    | some a, some b => decide (a < b)
    | some _, none => true
    | none, _ => false)
/-- The station holds a message that has come (R246). -/
def State.stationHold (s : State) (p : Packet) : State :=
  if p.came.isSome then s
  else { s with net := s.net.map fun (q : Packet) => if q.id == p.id then { q with came := some s.uid } else q }.fresh
/-- A `REPLY` to a message of the station on ch60 reaches the host completion ring as a report does, and is held while the ring
is full (R180, R354). -/
def State.stationReply (s : State) (p : Packet) (h : Word) (ws : List Word) : State :=
  let q := s.hostQueue (p.dst / 64)
  let k := s.queue q
  if k.held.isEmpty && decide (k.ring.length < k.cap) && !s.reportBefore p then
    (s.sink p).post q [[at_ 5 0 ||| at_ (s.rel p.src / 64) 16, h] ++ (ws.take (hWords h) ++ List.replicate 6 0).take 6]
  else s.stationHold p
def State.replyEvent (s : State) (id kind : Nat) (slot : SlotKind) : State :=
  match s.arrivingWords id with
  | some (p, h, ws) =>
    if hKind h ≠ kind ∨ 4096 ≤ p.dst then s
    else if p.dst % 64 = 63 ∧ kind = 1 ∧ hRchan h = 60 then s.stationReply p h ws
    else if p.dst % 64 = 63 ∨ s.absent p.dst then s.sink p
    else s.replyIn p h ws slot
  | none => s
/-- REPLY_ARRIVAL (R181); the station firmware takes a REPLY to a ch60 message (R180, R354). -/
def execReplyArrival (id : Nat) (s : State) : Out := .next (s.replyEvent id 0x01 .reply)
/-- RDDATA (R204). -/
def execRddata (id : Nat) (s : State) : Out := .next (s.replyEvent id 0x08 .reply)

/-- The TIMED or CANCEL of a flight entry has an answer to come no more (R177, R306). -/
def Core.updFlight (k : Core) (f : List InFlight → List InFlight) : Core :=
  { k with event := { k.event with flight := f k.event.flight } }
/-- What the event engine does with a refusal of its TIMED or CANCEL (R306): REFUSED is sent again 256 ticks later, and a TIMED whose CANCEL
still stands in the queue is dropped with it, since a TIMED sent after its CANCEL would survive it (R317, log 45); the others free its slot
and post a record. A TIMED that is dropped leaves its CANCEL nothing to cancel, and goes with a CANCEL that is dropped. -/
def State.timedRefused (s : State) (p : Packet) (kind chan : Nat) (old : Word) (pkt : Nat) : State :=
  let c := p.dst
  let s := ((s.sink p).answered c).unreserve c chan
  match (s.core c).event.flight.find? (fun g => g.pkt == pkt) with
  | none => s
  | some f =>
    let orphan := fun (g : InFlight) => if g.gone == some pkt then { g with gone := none } else g
    let drop := fun (l : List InFlight) => (l.filter fun g => g.pkt != pkt && !(f.gone == some g.pkt && g.again.isSome)).map orphan
    let unqueued := fun (k : Core) => { k with event := { k.event with cancels := k.event.cancels.filter fun r => r.pkt != pkt } }
    let later := fun (l : List InFlight) => l.map fun g => if g.pkt == pkt then { g with again := some (s.ticks c + 256) } else g
    if kind ≠ 0x02 then
      let s := s.updCore c fun k => unqueued (k.updFlight drop)
      (s.place c none false (s.record c 15 0xFFFF clsEngine (flt .engine (nat64 (hDest old)) (f.payload.getD 1 0) 0))).1
    else if (s.core c).event.cancels.any fun r => r.pkt == pkt then s.updCore c fun k => unqueued (k.updFlight drop)
    else s.updCore c fun k => k.updFlight later
def State.refusalEvent (s : State) (id kind : Nat) : State :=
  match s.arriving id with
  | some p =>
    match p.body with
    | .refusedTimed k chan old pkt => if k = kind then s.timedRefused p k chan old pkt else s
    | _ => s.replyEvent id kind .refusal
  | none => s
/-- REFUSED (R170, R181). -/
def execRefusedReply (id : Nat) (s : State) : Out := .next (s.refusalEvent id 0x02)
/-- REFUSED_UNBOUND (R176, R179). -/
def execRefusedUnbound (id : Nat) (s : State) : Out := .next (s.refusalEvent id 0x0E)
/-- REFUSED_NOCORE (R175). -/
def execRefusedNocore (id : Nat) (s : State) : Out := .next (s.refusalEvent id 0x0F)
/-- REFUSED_HALTED (R186), of which none is kept where ch63 has no room (log 80): a refused atomic's register receives all ones and ch63 the refusal; a refused block read's
refusal takes its reserved slot (R204). -/
def execRefusedHalted (id : Nat) (s : State) : Out :=
  .next (
    match s.arriving id with
    | some p =>
      match p.body with
      | .refusedAtom ctx out h =>
        let c := p.dst
        let s := ((s.sink p).answered c).settle c ctx out (some [BitVec.allOnes 64]) none
        let ch := (s.core c).chan 63
        if ch.bound && ch.room then
          let r : Word := header (s.rel c) 63 (s.rel p.src) 0 0x0D 1 (hTag h)
          s.land c 63 { kind := .refusal, hdr := r, src := p.src, scope := p.scope } [r, h]
        else s
      | _ => s.replyEvent id 0x0D .refusal
    | none => s)

/-- A fault record arrives (R178); the station takes one that answers its own message on ch60 (R354). -/
def State.takeRecord (s : State) (p : Packet) (chan : Nat) (rec : List Word) (reserved : Bool) : State :=
  let t := s.sink p
  if p.dst % 64 = 63 ∧ chan = 60 ∧ reserved then t
  else ((if reserved then t.answered p.dst else t).place p.dst (some chan) reserved rec).1
/-- FAULT_RECORD (R178). -/
def execFaultRecord (id : Nat) (s : State) : Out :=
  .next (
    match s.arriving id with
    | some p =>
      match p.body with
      | .fault chan rec reserved => s.takeRecord p chan rec reserved
      | _ => s
    | none => s)

/-- RELEASE (R177): a reservation ends, and a TIMED or CANCEL no longer counts in its region's bound (R296); a refused TIMED whose CANCEL has
been taken is not sent again (R306, R317). -/
def execReleaseArrival (id : Nat) (s : State) : Out :=
  .next (
    match s.arriving id with
    | some p =>
      match p.body with
      | .release ch timed =>
        let s := ((s.sink p).answered p.dst).unreserve p.dst ch
        match timed with
        | some i =>
          let gone := ((s.core p.dst).event.flight.find? fun f => f.pkt == i).bind (·.gone)
          s.updCore p.dst fun k => k.updFlight fun l => l.filter fun f => f.pkt != i && !(gone == some f.pkt && f.again.isSome)
        | none => s
      | _ => s
    | none => s)

/-! ## The station core (R246, R354) -/

/-- The launch-relative id of a message's sender. -/
def State.sender (s : State) (p : Packet) (h : Word) : Nat := if (portOf p.src).isSome then hRcore h else s.rel p.src
/-- HOST_REPORT (R246): held while the completion ring is full. -/
def execHostReport (id : Nat) (s : State) : Out :=
  .next (
    match s.arrivingWords id with
    | some (p, h, ws) =>
      match isReport p h, s.launchOf p.dst with
      | true, some l =>
        let q := s.queue l.q
        if q.held.isEmpty && decide (q.ring.length < q.cap) && !s.reportBefore p then
          let e := [at_ 5 0 ||| at_ (s.sender p h / 64) 16, h] ++ (ws.take (hWords h) ++ List.replicate 6 0).take 6
          ((s.sink p).post l.q [e]).sendRelease p.dst h (portKey p.src) (routeFrom (ws.getD (hWords h) 0))
        else s.stationHold p
      | _, _ => s
    | none => s)
/-- A counter add that no cell takes is answered by a fault record at ch63 of its sender (R198, R354). -/
def State.caddFault (s : State) (p : Packet) (n : Nat) (x : Word) (who : BitVec 12) (name : Word) : State :=
  let c := s.phys p.dst who.toNat
  let f : Flt := { code := .perm, obj := nat64 n, a := 20, b := name, d0 := x }
  s.sendHw p.dst c (.fault 63 (s.record c 15 0xFFFF clsEngine f) false)
/-- STATION_MESSAGE (R354). -/
def execStationMessage (id : Nat) (s : State) : Out :=
  .next (
    match s.arriving id with
    | some p =>
      if p.dst % 64 ≠ 63 ∨ 4096 ≤ p.dst then s
      else
        match p.body with
        | .words h ws =>
          if (isReport p h && (s.launchOf p.dst).isSome) || hKind h = 1 then s
          else if hKind h = 0 ∨ hKind h = 3 then (s.sink p).refuse p.dst p.src 0x0E h ws
          else s.sink p
        | .rdreq h _ _ => (s.sink p).refuse p.dst p.src 0x0E h []
        | .cadd n x who _ name => (s.sink p).caddFault p n x who name
        | .fault chan rec reserved => s.takeRecord p chan rec reserved
        | _ => s.sink p
    | none => s)

/-! ## REPLY and posted receives -/

/-- The ring slot at an offset of a core's scratchpad. -/
def Core.slotAt (k : Core) (off : Nat) : Option (Nat × Nat × Slot) :=
  k.channels.findSome? fun (h, ch) => ch.slots.findSome? fun (i, t) => if ch.slotAddr i = off then some (h, i, t) else none
/-- An answer that carries a header goes back where the request came from: out of the package by the port it came by, with a route word and a
release at system scope (R175, R192, R194, R269, R350). -/
def State.answerTo (s : State) (from_ : Nat) (t : Slot) (h : Word) (ws : List Word) : State :=
  match t.port with
  | none => s.sendMe (s.phys from_ (hDest h)) (.words h ws)
  | some p => s.transmit from_ s.cur.ctx p (.words h (ws ++ [s.route t.pkg]))
      (s.covered from_ s.cur.ctx .sys ++ s.atPorts from_ s.cur.ctx) .sys false
/-- REPLY (R29, R174, R194). -/
def execReply (a b : BitVec 6) (s : State) : Out :=
  .next (
    let x := s.rs a
    let c := s.cur.core
    if x.toNat % 64 ≠ 0 then s.raise (flt .align 0 x 0)
    else
      match (if isLocal x then s.myCore.slotAt (offOf x) else none) with
      | some (h, i, t) =>
        if t.kind = SlotKind.msg ∧ t.answered = false then
          s.loadLocal x 8 fun bs =>
            let q := (wordsOf 1 bs).getD 0 0
            let r := header (hRcore q) (hRchan q) (s.rel c) (hDchan q) 0x01 1 (hTag q)
            if t.port.isNone && !s.inRange c (hRcore q) then s.raise (perm 52 (nat64 (hRcore q)))
            else (s.answerTo c t r [s.rs b]).updCore c fun k =>
              k.updChan h fun ch => { ch with slots := AMap.set ch.slots i { t with answered := true } }
        else s.raise (perm 71 x)
      | none => s.raise (perm 71 x))

def Posted.takes (r : Posted) (src tag : Nat) : Bool := (r.sw || r.src.toNat == src) && (r.tw || r.tag.toNat == tag)
/-- A tagged message lands in a posted buffer (R182): its bytes, then the counter add, then RELEASE. -/
def State.landTagged (s : State) (c : Nat) (r : Posted) (p : Packet) (h : Word) (ws : List Word) : State :=
  let port := portKey p.src
  let l := h :: ws.take (hWords h)
  let n := 8 * l.length
  let s := s.putLocal c r.buf (bytesOf l)
  let s := { s.updCore c (fun k => k.blur (r.buf + n) s.free (64 - n)) with free := s.free + 64 }
  let w := ws.getD (hWords h) 0
  let s := if port.isSome then s.putLocal c (r.buf + 56) (toBytes 8 w.toNat) else s
  let s := s.addHere c r.cnt 1 (s.sender p h) p.srcCtx p.scope
  s.sendRelease c h port (routeFrom w)
/-- TAGGED (R182). -/
def execTaggedArrival (id : Nat) (s : State) : Out :=
  .next (
    match s.arrivingWords id with
    | some (p, h, ws) =>
      if hKind h ≠ 3 ∨ p.dst % 64 = 63 ∨ 4096 ≤ p.dst ∨ isEnvelope p h then s
      else
        let c := p.dst
        let t := s.sink p
        if s.absent c then t.refuse c p.src 0x0F h ws
        else
          let k := s.core c
          match k.posted.find? (fun r => r.takes (s.sender p h) (hTag h)) with
          | some r => (t.updCore c fun k => { k with posted := k.posted.erase r }).landTagged c r p h ws
          | none =>
            if k.overflow.length < 32 then t.updCore c fun k => { k with overflow := k.overflow ++ [p] }
            else
              let t := t.refuse c p.src 0x02 h ws
              (t.place c none false (t.record c 15 0xFFFF clsInfo
                { code := .ovqfull, a := nat64 (s.sender p h), b := nat64 (hTag h) })).1
    | none => s)
/-- RECVP (R195). -/
def execRecvp (a b : BitVec 6) (s : State) : Out :=
  .next (
    let x := s.rs a
    let w := s.rs b
    let c := s.cur.core
    let r : Posted := { buf := offOf x, cnt := bits w 32 11, tw := w.getLsbD 31, sw := w.getLsbD 30,
                        src := BitVec.ofNat 12 (bits w 16 12), tag := BitVec.ofNat 16 (bits w 0 16) }
    if bits w 43 21 ≠ 0 ∨ bits w 28 2 ≠ 0 ∨ 2043 < r.cnt then s.raise (perm 69 w)
    else if x.toNat % 64 ≠ 0 then s.raise (flt .align 0 x 0)
    else if !inScratch s.myCore x 64 then s.raise (flt .pool 0 x 0)
    else if 64 ≤ s.myCore.posted.length then s.raise (flt .wait 64 64 64)
    else
      match s.myCore.overflow.find? (fun p => match p.body with | .words h _ => r.takes (s.sender p h) (hTag h) | _ => false) with
      | some p =>
        match p.body with
        | .words h ws =>
          (s.updCore c fun k => { k with overflow := k.overflow.filter fun q => q.id != p.id }).landTagged c r p h ws
        | _ => s
      | none => s.updCore c fun k => { k with posted := k.posted ++ [r] })
/-- RECVP.cancel (R195). -/
def execRecvpCancel (a : BitVec 6) (s : State) : Out :=
  .next (
    let x := s.rs a
    s.updCore s.cur.core fun k => { k with posted := k.posted.eraseP fun r => isLocal x && r.buf == offOf x })

/-! ## The hardware handler thread (R183) -/

/-- The atomic operations of R196, by fn. -/
def atomOp (op : Nat) (old b d : Word) : Word :=
  match op with
  | 0 => old + b
  | 1 => if old.toInt < b.toInt then b else old
  | 2 => if b.toInt < old.toInt then b else old
  | 3 => if old.toNat < b.toNat then b else old
  | 4 => if b.toNat < old.toNat then b else old
  | 5 => b
  | 6 => if old = d then b else old
  | 7 => old ||| b
  | 8 => old &&& b
  | 9 => old ^^^ b
  | _ => nat64 (fmt32.minmaxB true (old.toNat % 2 ^ 32) (b.toNat % 2 ^ 32))
/-- ATOM of operation `op` (R196); on a SEQ page the context waits until it has been performed (R251). -/
def State.atom (s : State) (op : Nat) (d a b : BitVec 6) : State :=
  let x := s.rs a
  let c := s.cur.core
  let w := if op = 10 then 4 else 8
  let off := offOf x
  let go := fun (own : Nat) (pl : Place) (kind : OutKind) (seq : Bool) (s : State) =>
    if s.windowFull then s.stallMe .window
    else
      let on := s.covered c s.cur.ctx (scopeTo c own)
      s.ask kind [d] 1 fun id s =>
        let body := Body.atom op pl w (s.rs b) (s.rs d) s.cur.ctx id
        let note := fun (o : Outst) => if o.id == id then { o with va := x } else o
        let s := ((s.updMe fun k => { k with outs := k.outs.map note }).transmit c s.cur.ctx own body on (scopeTo c own)
          (kind == .atomLocal)).awaits c
        if seq then s.untilDone id else s
  if x.toNat % w ≠ 0 then s.raise (flt .align 0 x 0)
  else if isLocal x then
    if (ctrBase ≤ off ∧ off < ctrBase + 0x4000) ∨ (accBase ≤ off ∧ off < 0xC0000) then s.raise (perm 76 x)
    else if !inScratch s.myCore x w then s.raise (flt .pool 0 x 0)
    else go c (.pool off) .atomLocal false s
  else s.translate x ⟨true, true⟩ fun pa at_ e s =>
    go (s.phys c (bits e 40 12)) (.phys pa (at_ == 1)) .atomRemote (at_ == 2) s
/-- ATOM.add (R196). -/
def execAtomAdd (d a b : BitVec 6) (s : State) : Out := .next (s.atom 0 d a b)
/-- ATOM.max (R196). -/
def execAtomMax (d a b : BitVec 6) (s : State) : Out := .next (s.atom 1 d a b)
/-- ATOM.min (R196). -/
def execAtomMin (d a b : BitVec 6) (s : State) : Out := .next (s.atom 2 d a b)
/-- ATOM.maxu (R196). -/
def execAtomMaxu (d a b : BitVec 6) (s : State) : Out := .next (s.atom 3 d a b)
/-- ATOM.minu (R196). -/
def execAtomMinu (d a b : BitVec 6) (s : State) : Out := .next (s.atom 4 d a b)
/-- ATOM.swap (R196). -/
def execAtomSwap (d a b : BitVec 6) (s : State) : Out := .next (s.atom 5 d a b)
/-- ATOM.cas (R196). -/
def execAtomCas (d a b : BitVec 6) (s : State) : Out := .next (s.atom 6 d a b)
/-- ATOM.or (R196). -/
def execAtomOr (d a b : BitVec 6) (s : State) : Out := .next (s.atom 7 d a b)
/-- ATOM.and (R196). -/
def execAtomAnd (d a b : BitVec 6) (s : State) : Out := .next (s.atom 8 d a b)
/-- ATOM.xor (R196). -/
def execAtomXor (d a b : BitVec 6) (s : State) : Out := .next (s.atom 9 d a b)
/-- ATOM.fmax32 (R196). -/
def execAtomFmax32 (d a b : BitVec 6) (s : State) : Out := .next (s.atom 10 d a b)

/-- The header a refused atomic shows (R170, R186). -/
def atomHeader (s : State) (src dst : Nat) : Word := header (s.rel dst) 0 (s.rel src) 63 0x04 0 0
/-- Whether an item of work at core `c` is a message, which counts as sunk once it has been performed (R239). -/
def HReq.counts (c : Nat) : HReq → Nat
  | .atom src _ _ _ _ _ _ _ | .merge _ _ _ src => if src = c then 0 else 1
  | .rdreq _ _ _ _ | .steal _ _ => 1
def State.handlerPush (s : State) (c : Nat) (r : HReq) : State := s.updCore c fun k => { k with handler := k.handler ++ [r] }
/-- A request that the handler thread of a frozen core meets is refused (R186, R204). -/
def State.refuseHalted (s : State) (c : Nat) (r : HReq) : State :=
  match r with
  | .atom src _ _ _ _ _ ctx out =>
    ((s.count (c / 64) 7 (r.counts c)).transmit c 15 src (.refusedAtom ctx out (atomHeader s src c)) [] (scopeTo c src) (c == src)).count (c / 64) 8 1
  | .rdreq src h _ _ => (s.count (c / 64) 7 (r.counts c)).refuse c src 0x0D h []
  | r => s.handlerPush c r
/-- A packet of work for a handler thread. -/
def Packet.handlerReq (p : Packet) : Option HReq :=
  match p.body with
  | .atom op pl n x e ctx out => some (.atom p.src op pl n x e ctx out)
  | .merge pl v eng => some (.merge pl v eng p.src)
  | .rdreq h off n => some (.rdreq p.src h off n)
  | .stealReq ring => some (.steal p.src ring)
  | _ => none
/-- An item of work arrives at a handler thread that holds at most 64 (R183), or is refused under FREEZE (R186). -/
def State.handlerArrival (s : State) (id : Nat) (sort : HReq → Bool) : State :=
  match s.arriving id with
  | some p =>
    match p.handlerReq with
    | some r =>
      if !sort r || p.dst % 64 == 63 then s
      else
        let t := { s with net := s.net.filter fun q => q.id != p.id }
        if (s.core p.dst).frozen then t.refuseHalted p.dst r
        else if 64 ≤ (s.core p.dst).handler.length then s else t.handlerPush p.dst r
    | none => s
  | none => s
/-- ATOM_REQUEST (R183). -/
def execAtomRequest (id : Nat) (s : State) : Out :=
  .next (s.handlerArrival id fun r => match r with
    | .atom _ _ _ _ _ _ _ _ | .merge _ _ _ _ => true
    | _ => false)
/-- RDREQ (R204). -/
def execRdreq (id : Nat) (s : State) : Out :=
  .next (
    match s.arriving id with
    | some p =>
      match p.body with
      | .rdreq h _ _ =>
        if s.absent p.dst then (s.sink p).refuse p.dst p.src 0x0F h []
        else s.handlerArrival id fun r => match r with
          | .rdreq _ _ _ _ => true
          | _ => false
      | _ => s
    | none => s)

/-- The head of a handler thread's queue has been performed. -/
def State.handlerDone (s : State) (c : Nat) : State :=
  (s.updCore c fun k => { k with handler := k.handler.tail, hheld := none }).count (c / 64) 7
    (((s.core c).handler.head?.map (HReq.counts c)).getD 0)
/-- The handler's result goes back to the issuing context (R196); within a core it is no message. -/
def State.sendAtomr (s : State) (c src ctx out : Nat) (v : Word) (f : Option Flt) : State :=
  s.transmit c 15 src (.atomr ctx out v f) [] (scopeTo c src) (c == src)
/-- The address of an atomic's word, as its context gave it. -/
def State.atomVa (s : State) (src ctx out : Nat) : Word :=
  (((s.ctx src ctx).outs.find? fun o => o.id == out).map fun (o : Outst) => o.va).getD 0
/-- A word that the handler thread cannot read takes the engine path (R324), and its result is a free value. -/
def State.atomEcc (s : State) (c src ctx out : Nat) (a : Word) : State :=
  let s := s.postTo c src none false (s.record c 14 0xFFFF clsEngine (eccFlt a))
  { s.sendAtomr c src ctx out (Config.freeWord s.free) none with free := s.free + 1 }
/-- ATOM_PERFORM (R183): one read-modify-write, indivisible; on a VERSIONED page it makes one version, and is held while the
version store has no room (R254). -/
def execAtomPerform (core : Nat) (s : State) : Out :=
  .next (
    let k := s.core core
    match k.handler with
    | .atom src op pl n x e ctx out :: _ =>
      if s.handlerHeld core || s.closeWork core (.atom src op pl n x e ctx out) then s
      else
        match pl with
        | .pool off =>
          match s.badIn core off n with
          | some o => (s.handlerDone core).atomEcc core src ctx out (localAddr o)
          | none =>
            let old := nat64 (k.num off n)
            ((s.handlerDone core).putLocal core off (toBytes n (atomOp op old x e).toNat)).sendAtomr core src ctx out old none
        | .phys pa versioned =>
          match s.badHbm pa n with
          | some _ => (s.handlerDone core).atomEcc core src ctx out (s.atomVa src ctx out)
          | none =>
            if s.laneBefore src ctx pa out then s
            else if versioned && !s.hasRoom pa then
              if k.hheld.isNone then s.updCore core fun k => { k with hheld := some (s.ticks src) } else s
            else
              let old := nat64 (s.hbmNum pa n)
              (((s.handlerDone core).count (sliceOf pa) 4 n).performWrite pa (toBytes n (atomOp op old x e).toNat) versioned).sendAtomr core src ctx out old none
    | _ => s)
/-- ATOMR (R196): the result reaches the issuing context, or the atomic's deferred fault (R254). -/
def execAtomr (id : Nat) (s : State) : Out :=
  .next (
    match s.arriving id with
    | some p =>
      match p.body with
      | .atomr ctx out v f => ((s.sink p).answered p.dst).settle p.dst ctx out (if f.isNone then some [v] else none) f
      | _ => s
    | none => s)

/-- RDREM (R204). -/
def execRdrem (d a b : BitVec 6) (s : State) : Out :=
  .next (
    let h := s.rs d
    let c := s.cur.core
    let x := s.rs a
    let n := (s.rs b).toNat
    if !s.inRange c (hDest h) then s.raise (perm 52 (nat64 (hDest h)))
    else if hRcore h ≠ s.rel c then s.raise (perm 34 (nat64 (hRcore h)))
    else if x.toNat % 8 ≠ 0 then s.raise (flt .align 0 x 0)
    else if n % 8 ≠ 0 ∨ n < 8 ∨ 56 < n then s.raise (perm 69 (s.rs b))
    else s.request (hRchan h) fun s =>
      s.sendMe (s.phys c (hDest h)) (.rdreq (header (hDest h) (hDchan h) (hRcore h) (hRchan h) 0x07 0 (hTag h)) (offOf x) n))
/-- RDREQ_PERFORM (R204). -/
def execRdreqPerform (core : Nat) (s : State) : Out :=
  .next (
    let k := s.core core
    match k.handler with
    | .rdreq src h off n :: _ =>
      if s.handlerHeld core || s.closeWork core (.rdreq src h off n) then s
      else
        let t := s.handlerDone core
        let fail := fun (f : Flt) => t.sendHw core src (.fault (hRchan h) (s.record core 14 0xFFFF clsEngine f) true)
        if k.spSize < off + n then fail { flt .pool 0 (localAddr off) 0 with addr := localAddr off }
        else
          match s.badIn core off n with
          | some o => fail (eccFlt (localAddr o))
          | none =>
            t.sendHw core src (.words (header (hRcore h) (hRchan h) (s.rel core) (hDchan h) 0x08 (n / 8) (hTag h))
              (wordsOf (n / 8) (k.bytes off n)))
    | _ => s)

end Sys2Proof.Machine
end

