-- ==== Sys2Proof/Machine/Counter.lean ====
section
/-! DEFINITION. Counter cells and their instructions (R184, R185, R190, R197 to R199). -/

namespace Sys2Proof.Machine
open Sys2Proof

/-- The issuing context's local counter, or the fault of its name (R190, R197). -/
def State.withCounter (s : State) (a : BitVec 6) (k : Nat → State) : State := s.orRaise (s.localCounter s.cur.core (s.rs a)) k
/-- CADD (R198): the release of R192 comes before the add. -/
def execCadd (a b : BitVec 6) (s : State) : Out :=
  .next (
    let c := s.cur.core
    let w := s.rs a
    s.orRaise (s.counterName c w) fun n =>
      let sc := match n with
        | .loc _ => .core
        | .far d _ => scopeTo c d
        | .xpkg _ _ _ => .sys
      let ports := if sc = .sys then s.atPorts c s.cur.ctx else []
      s.addName c c s.cur.ctx n w (s.rs b) (s.covered c s.cur.ctx sc ++ ports) sc false)
/-- CREAD (R198). -/
def execCread (d a : BitVec 6) (s : State) : Out := .next (s.withCounter a fun n => s.ws d (s.cell s.cur.core n).value)
/-- CARM (R198): it disarms, or arms and fires or overruns at once. The record of an overrun that the arm finds has no adder to name: its detail
word is the arming context (log 79). -/
def execCarm (d a b : BitVec 6) (s : State) : Out :=
  .next (s.withCounter a fun n =>
    let c := s.cur.core
    let x := s.rs b
    let v := s.cell c n
    let t := s.rs d
    if x = 0 then s.setCell c n { v with armed := false, fired := false, pend := false }
    else if x.toNat % 32 ≠ 0 then s.raise (flt .align 0 x 0)
    else if !inScratch s.myCore x 32 then s.raise (flt .pool 0 x 0)
    else if 2044 ≤ n then s.raise (perm 68 (nat64 n))
    else
      let s := s.setCell c n { v with target := t, desc := BitVec.ofNat 23 (offOf x), armed := true, fired := false, pend := false }
      if v.value = t then s.fire c n
      else if t.toNat < v.value.toNat then s.overrun c n (at_ (s.rel c) 52 ||| at_ s.cur.ctx 48)
      else s)
/-- CSET (R198). -/
def execCset (a b : BitVec 6) (s : State) : Out :=
  .next (s.withCounter a fun n =>
    let c := s.cur.core
    s.setCell c n { s.cell c n with
      value := s.rs b, fired := false, pend := false, fault := false, cause := 0,
      lastcore := BitVec.ofNat 12 (s.rel c), lastctx := BitVec.ofNat 4 s.cur.ctx })
/-- CFLT (R198). -/
def execCflt (d a : BitVec 6) (s : State) : Out :=
  .next (s.withCounter a fun n =>
    let v := s.cell s.cur.core n
    (s.setCell s.cur.core n { v with fault := false, cause := 0 }).ws d v.word2)

/-- The fault a wait on a faulted cell takes: the cell's cause (R184, R199). -/
def Cell.waitFlt (v : Cell) (n : Nat) (t : Word) : Flt :=
  { code := if v.cause = 0x06 then .perm else if v.cause = 0x0A then .cntovr else if v.cause = 0x1A then .ecc else .engine,
    obj := nat64 n, a := v.value, b := t, d0 := v.word2 }
/-- CWAIT (R199): the fault bit is tested before the value. -/
def execCwait (a b : BitVec 6) (w : BitVec 5) (s : State) : Out :=
  .next (s.withCounter a fun n =>
    let v := s.cell s.cur.core n
    let t := s.rs b
    if v.fault then s.raise (v.waitFlt n t)
    else if t.toNat ≤ v.value.toNat then s.acquire s.cur.core v.acq
    else s.await (.cwait a b w) w)

/-- CADDM (R185), held while the core's banks clear (R289); an absent core or a station answers with a fault record (R198). -/
def execCaddm (id : Nat) (s : State) : Out :=
  .next (
    match s.arriving id with
    | some p =>
      match p.body with
      | .cadd n x who ctx name =>
        if 4096 ≤ p.dst ∨ p.dst % 64 = 63 then s
        else if s.absent p.dst then (s.sink p).caddFault p n x who name
        else (s.sink p).counterAdd p.dst n x who.toNat ctx.toNat p.scope
      | _ => s
    | none => s)

/-- COUNTER_PENDING_PUSH (R185): pending cells of one ring push in ascending index as room appears. -/
def execCounterPendingPush (core n : Nat) (s : State) : Out :=
  .next (
    let k := s.core core
    let v := k.cell n
    let ring := k.ringOf v.desc.toNat
    if !v.pend then s
    else if ring.isSome && k.counters.any (fun e => decide (e.1 < n) && e.2.pend && k.ringOf e.2.desc.toNat == ring) then s
    else s.fire core n)

end Sys2Proof.Machine
end

