-- ==== Sys2Proof/Machine/Channel.lean ====
section
/-! DEFINITION. Binding, setting and querying channels, polled channels (R179, R180, R200 to R203), and the reductions of the die
gateways (R205, R206). -/

namespace Sys2Proof.Machine
open Sys2Proof

/-! ## CHBIND, CHSET and CHQ -/

/-- A handler PC that R15 allows, or the polled value. -/
def handlerOk (h : Word) : Bool := h == 0xFFFFFFFF || (decide (h.toNat ≤ 0xFFFC) && decide (h.toNat % 4 = 0))
/-- The priority R180 fixes, where it fixes one. -/
def fixedPrio (h : Nat) : Option Nat :=
  if h = 63 then some 7 else if h = 62 then some 4 else if h = 61 then some 0 else if h = 60 then some 6 else none
def prioBreaks (h prio : Nat) : Bool :=
  match fixedPrio h with
  | some p => prio != p
  | none => false
/-- CHBIND (R201). -/
def execChbind (d a b : BitVec 6) (s : State) : Out :=
  .next (
    let c := s.cur.core
    let h := bits (s.rs d) 0 6
    let pc := s.rs a
    let w := s.rs b
    let ring := bits w 0 23
    let depth := bits w 24 8 + 1
    let k := s.myCore
    if bits w 36 28 ≠ 0 ∨ bits w 23 1 ≠ 0 then s.raise (perm 69 w)
    else if prioBreaks h (bits w 32 3) ∨ (h = 61 ∧ pc ≠ 0xFFFFFFFF) ∨ (h = 0 ∧ (c % 64 = 48 ∨ c % 64 = 49)) then
      s.raise (perm 65 (nat64 h))
    else if !handlerOk pc then s.raise (flt .align 0 pc 0)
    else if ring % 64 ≠ 0 then s.raise (flt .align 0 (localAddr ring) 0)
    else if k.spSize < ring + 64 * depth then s.raise (flt .pool 0 (localAddr ring) 0)
    else if (k.chan h).used ≠ 0 then s.raise (perm 64 (nat64 h))
    else s.updCore c fun k => k.setChan h
      { bound := true, handler := pc.setWidth 32, ring := ring, depth := depth, prio := bits w 32 3, share := bits w 35 1 == 1 })
/-- A channel as the decision of this cycle sees it: a `CHSET` of the cycle counts from the next (R214). -/
def Channel.seen (h : Channel) (now : Nat) : Channel :=
  match h.was with
  | some (handler, prio, t) => if t = now then { h with handler := handler, prio := prio } else h
  | none => h
/-- CHSET (R202). -/
def execChset (d a b : BitVec 6) (s : State) : Out :=
  .next (
    let c := s.cur.core
    let h := bits (s.rs d) 0 6
    let v := s.rs b
    let upd := fun (f : Channel → Channel) => s.updCore c fun k => k.updChan h f
    let keep := fun (ch : Channel) => { ch with was := some ((ch.seen s.now).handler, (ch.seen s.now).prio, s.now) }
    if s.rs a = 0 then
      if 1 < v.toNat then s.raise (perm 69 v) else upd fun ch => { ch with bound := v == 1 }
    else if s.rs a = 1 then
      if h = 61 ∧ v ≠ 0xFFFFFFFF then s.raise (perm 65 (nat64 h))
      else if !handlerOk v then s.raise (flt .align 0 v 0)
      else upd fun ch => { keep ch with handler := v.setWidth 32 }
    else if s.rs a = 2 then
      if 7 < v.toNat then s.raise (perm 69 v)
      else if prioBreaks h v.toNat then s.raise (perm 65 (nat64 h))
      else upd fun ch => { keep ch with prio := v.toNat }
    else if s.rs a = 3 then
      if 1 < v.toNat then s.raise (perm 69 v) else upd fun ch => { ch with share := v == 1 }
    else s.raise (perm 69 (s.rs a)))

/-- The first slot in ring order from the head that no task has taken and that `p` admits (R181, R213). -/
def Channel.first (h : Channel) (p : Slot → Bool) : Option Nat :=
  firstOf (fun i => match AMap.find h.slots i with
    | some t => !t.taken && p t
    | none => false) (wrapFrom h.head h.depth)
/-- The slot that dispatch takes next (R203). -/
def Channel.headNow (h : Channel) : Nat := (h.first fun _ => true).getD h.head
/-- The slot after the last occupied one met going round from the head (R200). -/
def Channel.tail (h : Channel) : Nat :=
  match firstOf (fun i => (AMap.find h.slots i).isSome) (wrapFrom h.headNow h.depth).reverse with
  | some i => (i + 1) % h.depth
  | none => h.headNow
/-- The status word of R203. -/
def Channel.status (h : Channel) : Word :=
  at_ h.headNow 33 ||| at_ h.share.toNat 32 ||| at_ h.polled.toNat 31 ||| at_ h.bound.toNat 30 ||| at_ h.prio 27 |||
  at_ h.depth 18 ||| at_ h.reserved 9 ||| at_ h.occ 0
/-- CHQ (R203). -/
def execChq (d a b : BitVec 6) (s : State) : Out :=
  .next (
    let ch := s.myCore.chan (bits (s.rs a) 0 6)
    if s.rs b = 0 then s.ws d ch.status
    else if s.rs b = 1 then s.ws d (ch.handler.setWidth 64)
    else if s.rs b = 2 then s.ws d (localAddr ch.ring)
    else s.raise (perm 69 (s.rs b)))

/-! ## QWAIT -/

/-- A slot is taken: a task or a context holds it, and the head moves past it. -/
def State.takeSlot (s : State) (c h i : Nat) : State :=
  s.updCore c fun k => k.updChan h fun ch =>
    match AMap.find ch.slots i with
    | some t => { ch with slots := AMap.set ch.slots i { t with taken := true }, head := (i + 1) % ch.depth }
    | none => ch
/-- QWAIT (R200): the slot held before is freed once a message is taken. -/
def execQwait (d a : BitVec 6) (w : BitVec 5) (s : State) : Out :=
  .next (
    let c := s.cur.core
    let h := bits (s.rs a) 0 6
    let ch := s.myCore.chan h
    if h = 61 ∨ !ch.polled then s.raise (perm 69 (s.rs a))
    else
      match ch.first fun t => !s.pendingIds c t.waits with
      | some i =>
        let sc := match AMap.find ch.slots i with
          | some t => t.scope
          | none => .core
        let s := s.freeSlot? c s.me.heldQ
        let s := (s.takeSlot c h i).acquire c sc
        (s.updMe fun k => { k with heldQ := some (h, i) }).ws d (localAddr (ch.slotAddr i))
      | none => s.await (.qwait d a w) w)

/-! ## RDSEND (R205, R206) -/

/-- The group of a core's launch, and whether the core is a member (R228). -/
def State.group (s : State) (c g : Nat) : Group :=
  match s.launchOf c with
  | some l => AMap.get {} l.groups g
  | none => {}
def State.isMember (s : State) (c g : Nat) : Bool := (s.group c g).members.contains (s.rel c)
def State.notMem (s : State) (c g : Nat) : Flt :=
  flt .notmem (nat64 g) (nat64 (s.rel c)) (nat64 (s.group c g).members.length)
/-- The lowest partition of the domain on a partition's die, and the number of the domain's partitions there (R206). -/
def State.dieBase (s : State) (p : Nat) : Nat := Nat.max (s.baseOf p) (p / 8 * 8)
def State.dieCount (s : State) (p : Nat) : Nat := Nat.min 8 (2 ^ (s.domain (s.baseOf p)).log2)
/-- The gateway partition of a block on the die of a partition. -/
def State.gateway (s : State) (p block : Nat) : Nat := s.dieBase p + block % s.dieCount p
def gateCore (p : Nat) : Nat := p * 64 + 50
def State.gate (s : State) (p g : Nat) : Gate := AMap.get {} (s.part p).gates g
def State.updGate (s : State) (p g : Nat) (f : Gate → Gate) : State :=
  s.updPart p fun q => { q with gates := AMap.upd {} q.gates g f }
def rdOp (op : Nat) (a b : Word) : Word :=
  match op with
  | 0 => a + b
  | 1 => atomOp 2 a b 0
  | 2 => atomOp 1 a b 0
  | 3 => a ||| b
  | 4 => a &&& b
  | 5 => atomOp 4 a b 0
  | _ => atomOp 3 a b 0
def rdAll (op : Nat) : List Word → Word
  | [] => 0
  | a :: r => r.foldl (rdOp op) a

/-- The use of a core's next `RDSEND` on a group: the lowest that none of its own has (R206). `rdsends` lists the uses of those
that have retired. -/
def State.nextUse (s : State) (c g : Nat) : Nat :=
  let done := AMap.get [] (s.core c).rdsends g
  let used := done ++ (List.range 11).filterMap fun x => match (s.ctx c x).wait with
    | some w => match w.instr with
      | .rdsend d _ _ => if bits ((s.asIf c x).rs d) 0 8 = g then some w.use else none
      | _ => none
    | none => none
  (firstOf (fun k => !used.contains k) ((List.range (used.length + 1)).map (· + 1))).getD 1
/-- RDSEND (R206 steps 1 to 3): it waits until its contribution is accepted. -/
def execRdsend (d a b : BitVec 6) (s : State) : Out :=
  .next (
    let c := s.cur.core
    match s.cur.again, s.me.wait with
    | true, some w =>
      if w.arrived then s.updCore c fun k => { k with rdsends := AMap.upd [] k.rdsends (bits (s.rs d) 0 8) (· ++ [w.use]) }
      else s.fare (.wait w)
    | _, _ =>
      let w := s.rs d
      let x := s.rs b
      let g := bits w 0 8
      let op := bits w 16 3
      let block := bits w 32 32
      if bits w 19 13 ≠ 0 ∨ bits w 14 2 ≠ 0 ∨ op = 7 then s.raise (perm 69 w)
      else if !s.isMember c g then s.raise (s.notMem c g)
      else if x.toNat % 8 ≠ 0 then s.raise (flt .align 0 x 0)
      else if !inScratch s.myCore x 8 then s.raise (flt .pool 0 x 0)
      else s.check (s.src.ccnt != 0 && (s.counterName c s.src.ccnt).isOk) (perm 70 0) (s.request (bits w 8 6) fun s =>
        let use := s.nextUse c g
        let id := s.uid
        (s.sendMe (gateCore (s.gateway (c / 64) block))
          (.contrib g block op (bits w 8 6) use (s.rs a) (offOf x) s.src.ccnt s.cur.ctx)).waitMe
          { instr := .rdsend d a b, start := s.ticks c, limit := s.waitLimit 0, use := use, ids := [id] }))

/-- The results of a use are written and its counters added to, or every member is told of the mismatch; its in-flight
counts fall to zero (R206 steps 4 and 5). -/
def State.deliverUse (s : State) (gw g use : Nat) (all : List Contrib) (bad : Option (Nat × Nat)) (v : Word) : State :=
  let s := all.foldl (fun s k =>
    match bad with
    | some (seen, want) =>
      let f := flt .engine (nat64 (counterIndex k.cnt)) (nat64 seen) (nat64 want)
      (s.sendHw (gateCore gw) k.core (.fault k.rchan (s.record k.core 15 0xFFFF clsEngine f) false)).faultCounter
        (gateCore gw) k.core k.cnt
    | none =>
      let s := s.putLocal k.core k.result (toBytes 8 v.toNat)
      match s.counterName k.core k.cnt with
      | .ok n => s.addName (gateCore gw) k.core 15 n k.cnt 1 [] .pkg true
      | .error _ => s) s
  (s.domParts (s.baseOf gw)).foldl (fun s p => s.updGate p g fun t =>
    let t := if bad.isSome then { t with past := use :: t.past } else t
    let t := if t.parts.any fun e => e.2.1 == use then { t with parts := [], all := [], allBad := none } else t
    if t.use = use then { t with inflight := 0, got := [], bad := none } else t) s
def memberDies (s : State) (gw g : Nat) : List Nat :=
  ((s.group (gateCore gw) g).members.map fun r => s.phys (gateCore gw) r / 512).dedup
/-- A die's partial at the root gateway; with every die's, they combine in ascending die order. A partial of a use whose mismatch every
member has been told of is dropped. -/
def State.rootTake (s : State) (gw g block op use die : Nat) (v : Word) (got : List Contrib) (bad : Option (Nat × Nat)) : State :=
  if (s.gate gw g).past.contains use then s else
  let s := s.updGate gw g fun t =>
    let bad := (t.allBad.or bad).or (match t.parts with
      | e :: _ => if e.2.2.1 = op ∧ e.2.2.2.1 = block then none else some (op, e.2.2.1)
      | [] => none)
    { t with parts := t.parts ++ [(die, use, op, block, v)], all := t.all ++ got, allBad := bad }
  let t := s.gate gw g
  let dies := memberDies s gw g
  if dies.all fun x => t.parts.any fun e => e.1 == x then
    let vs := (List.range 8).flatMap fun x => (t.parts.filter fun e => e.1 == x).map fun e => e.2.2.2.2
    s.deliverUse gw g use t.all t.allBad (rdAll op vs)
  else s
/-- A die gateway that holds every member of its die combines them (R206 step 4). -/
def State.combine (s : State) (gw g : Nat) : State :=
  let t := s.gate gw g
  let here := (s.group (gateCore gw) g).members.filter fun r => s.phys (gateCore gw) r / 512 == gw / 8
  if here.any fun r => t.got.all fun k => k.core != s.phys (gateCore gw) r then s
  else
    let low := ((s.group (gateCore gw) g).members.foldl Nat.min 4095)
    let root := s.gateway (s.phys (gateCore gw) low / 64) t.block
    let v := rdAll t.op (t.got.map (·.value))
    if root = gw then s.rootTake gw g t.block t.op t.use (gw / 8) v t.got t.bad
    else s.sendHw (gateCore gw) (gateCore root) (.diePart g t.block t.op t.use (gw / 8) v t.got t.bad)
/-- The first contribution of a use that another gateway of the domain holds: its op and block (R206 step 5). -/
def State.elsewhere (s : State) (gw g use : Nat) : Option (Nat × Nat) :=
  (s.domParts (s.baseOf gw)).findSome? fun p =>
    let t := s.gate p g
    if p ≠ gw ∧ t.inflight ≠ 0 ∧ t.use = use ∧ t.got ≠ [] then some (t.op, t.block) else none
/-- Members whose blocks name different gateways of a die, or different roots, never combine: once every member has contributed, each is told
of the mismatch (R206 step 5). -/
def State.settleStrays (s : State) (gw g use : Nat) : State :=
  let gs := ((s.domParts (s.baseOf gw)).map fun p => s.gate p g).filter fun t => t.inflight != 0 && t.use == use
  let all := gs.flatMap (·.got)
  match (if (gs.map (·.block)).dedup.length ≤ 1 then none else gs.findSome? (·.bad)) with
  | some b =>
    if (s.group (gateCore gw) g).members.all fun r => all.any fun k => k.core == s.phys (gateCore gw) r then
      s.deliverUse gw g use all (some b) 0
    else s
  | none => s
/-- The gateway may accept a contribution of a use (R206 step 3). -/
def Gate.accepts (t : Gate) (use : Nat) : Bool := t.inflight == 0 || t.use == use
/-- A contribution is accepted, and counts as received (R239): RDSEND may retire, RELEASE returns, and the die combines when it is whole. -/
def State.acceptContrib (s : State) (gw : Nat) (p : Packet) : State :=
  match p.body with
  | .contrib g block op rchan use v result cnt ctx =>
    let far := s.elsewhere gw g use
    let s := s.updGate gw g fun t =>
      let k : Contrib := { core := p.src, ctx := ctx, value := v, result := result, cnt := cnt, rchan := rchan }
      if t.inflight = 0 then { t with use := use, inflight := 1, op := op, block := block, got := [k],
                                      bad := far.bind fun e => if e.1 ≠ op ∨ e.2 ≠ block then some (op, e.1) else none }
      else
        let odd := if op ≠ t.op ∨ block ≠ t.block then some (op, t.op) else none
        { t with inflight := t.inflight + 1, got := t.got ++ [k], bad := t.bad.or odd }
    let told := fun (w : Wait) => if w.ids = [p.id] then { w with arrived := true } else w
    let s := (s.updCtx p.src ctx fun k => { k with wait := k.wait.map told }).count gw 7 1
    let s := s.sendHw (gateCore gw) p.src (.release rchan none)
    (s.combine gw g).settleStrays gw g use
  | _ => s
/-- CONTRIB (R206): accepted, or held. -/
def execContrib (id : Nat) (s : State) : Out :=
  .next (
    match s.arriving id with
    | some p =>
      match p.body with
      | .contrib g _ _ _ use _ _ _ _ =>
        let gw := p.dst / 64
        let s := { s with net := s.net.filter fun q => q.id != p.id }
        if (s.gate gw g).accepts use then s.acceptContrib gw p
        else s.updGate gw g fun t => { t with waiting := t.waiting ++ [p] }
      | _ => s
    | none => s)
/-- CONTRIB_ACCEPT (R206): a held contribution whose use may begin is accepted. -/
def execContribAccept (part g : Nat) (s : State) : Out :=
  .next (
    let t := s.gate part g
    match t.waiting.find? (fun p => match p.body with
      | .contrib _ _ _ _ use _ _ _ _ => t.accepts use
      | _ => false) with
    | some p => (s.updGate part g fun t => { t with waiting := t.waiting.filter fun q => q.id != p.id }).acceptContrib part p
    | none => s)
/-- DIE_PARTIAL (R206). -/
def execDiePartial (id : Nat) (s : State) : Out :=
  .next (
    match s.arriving id with
    | some p =>
      match p.body with
      | .diePart g block op use die v got bad => (s.sink p).rootTake (p.dst / 64) g block op use die v got bad
      | _ => s
    | none => s)
/-- A contribution that has not been accepted is discarded, and its reservation with it (R206 step 6). -/
def State.dropContrib (s : State) (c id rchan : Nat) : State :=
  let s := { s with net := s.net.filter fun p => p.id != id }
  let drop := fun (t : Gate) => { t with waiting := t.waiting.filter fun p => p.id != id }
  let clean := fun (e : Nat × Part) => (e.1, { e.2 with gates := e.2.gates.map fun (t : Nat × Gate) => (t.1, drop t.2) })
  let s := { s with parts := s.parts.map clean }
  ((s.updCore c fun k => { k with awaiting := k.awaiting - 1 }).unreserve c rchan).count (c / 64) 7 1
/-- RDSEND_EXPIRY (R206). -/
def execRdsendExpiry (core ctx : Nat) (s : State) : Out :=
  .next (
    match s.expired core ctx with
    | some w =>
      match w.instr with
      | .rdsend d _ _ =>
        if w.arrived then s
        else
          let t := s.asIf core ctx
          let e := t.rs d
          let g := bits e 0 8
          let gt := s.gate (s.gateway (core / 64) (bits e 32 32)) g
          (t.dropContrib core (w.ids.headD 0) (bits e 8 6)).raise
            (flt .grpbusy (nat64 g) (nat64 gt.inflight) (nat64 w.use))
      | _ => s
    | none => s)

end Sys2Proof.Machine
end

