-- ==== Sys2Proof/Machine/Task.lean ====
section
/-! DEFINITION. The task picker, starvation and stealing (R211 to R217), READY, and the iteration fetcher (R218 to R222). -/

namespace Sys2Proof.Machine
open Sys2Proof

/-- The core's launch runs: contexts issue and tasks are dispatched from its cycle 0 to its stop (R238, R327). -/
def State.runs (s : State) (c : Nat) : Bool :=
  match s.launchOf c with
  | some l => match l.phase with
    | .running | .stopping _ _ _ => true
    | _ => false
  | none => false

/-! ## Dispatch (R213) -/

/-- A slot that a task may take: a message or a descriptor from an earlier cycle (R213, R214), whose release is complete (R218, R270). -/
def State.slotReady (s : State) (c : Nat) (t : Slot) : Bool := !t.taken && decide (t.landed < s.now) && !s.pendingIds c t.waits
/-- The first dispatchable slot of a core's channel. -/
def State.dispatchable (s : State) (c h : Nat) (ch : Channel) : Option Nat :=
  if h = 61 ∨ ch.polled then none else ch.first (s.slotReady c)
/-- The channels that a decision of this cycle may serve, as it sees them (R214); channel 0 of a link junction core belongs to its
port (R349). -/
def State.pickable (s : State) (c : Nat) : List (Nat × Channel × Nat) :=
  (s.core c).channels.filterMap fun (h, ch) =>
    let ch := ch.seen s.now
    if h = 0 ∧ (c % 64 = 48 ∨ c % 64 = 49) then none
    else match s.dispatchable c h ch with
      | some i => some (h, ch, i)
      | none => none
/-- The channel served next: the highest priority, then in turn after the one served last, or the lowest number in
deterministic mode (R213). -/
def State.pick (s : State) (c : Nat) : Option (Nat × Channel × Nat) :=
  let l := s.pickable c
  let p := (l.map fun e => e.2.1.prio).foldl Nat.max 0
  let e := l.filter fun x => x.2.1.prio == p
  let after := AMap.get 63 (s.core c).served p
  if s.det c then e.head?
  else (e.find? fun x => decide (after < x.1)).or e.head?

/-- Starvation counts begin and end as dispatchable slots come and go (R215). -/
def Channel.watch (ch : Channel) (slot : Option Nat) (now : Nat) : Channel :=
  match slot, ch.waitFrom with
  | none, _ => { ch with waitFrom := none, waitMax := 8 }
  | some i, none => { ch with waitFrom := some (i, now), waitMax := 8 }
  | some _, some _ => ch
def State.watchAll (s : State) (c : Nat) : State :=
  s.updCore c fun k => { k with channels := k.channels.map fun (h, ch) => (h, ch.watch (s.dispatchable c h ch) (s.ticks c)) }
/-- A dispatch at priority p is seen by every other channel that waits. -/
def State.sawDispatch (s : State) (c h p : Nat) : State :=
  s.updCore c fun k => { k with channels := k.channels.map fun (g, ch) =>
    (g, if g = h then { ch with waitFrom := none, waitMax := 8 }
        else if ch.waitMax = 8 ∨ ch.waitMax < p then { ch with waitMax := p } else ch) }

/-- A slot whose descriptor starts no task, for its entry PC or an error in it, is freed with a record (R213, R324). -/
def State.undispatched (s : State) (c h i : Nat) (f : Flt) : State :=
  ((s.updCore c fun k => k.updChan h fun ch => { ch with waitFrom := none, waitMax := 8 }).place c none false
    (s.record c 15 0xFFFF clsEngine f)).1.freeSlot c h i
/-- TASK_DISPATCH (R213): the one decision of a cycle. -/
def execTaskDispatch (core : Nat) (s : State) : Out :=
  .next (
    let k := s.core core
    if !s.runs core then s
    else if k.frozen then s.watchAll core
    else
      let s := s.watchAll core
      match k.freeHelper, s.pick core with
      | some x, some (h, ch, i) =>
        match AMap.find ch.slots i with
        | none => s
        | some t =>
          let s := s.takeSlot core h i
          let s := s.updCore core fun k => { k with served := AMap.set k.served ch.prio h }
          let (pc, msg) := match t.kind with
            | .desc off _ => (k.num off 4, localAddr off)
            | _ => (ch.handler.toNat, localAddr (ch.slotAddr i))
          let bad := match t.kind with
            | .desc off _ => s.badIn core off 4
            | _ => none
          match bad with
          | some o => s.undispatched core h i (eccFlt (localAddr o))
          | none =>
          if 0xFFFC < pc ∨ pc % 4 ≠ 0 then s.undispatched core h i (flt .align (nat64 h) (nat64 pc) 0)
          else
            let base := s.costNow core x
            ((s.sawDispatch core h ch.prio).updCtx core x fun c => { c.begin_ pc msg base with task := some (h, i) }).acquire core t.scope
      | _, _ => s)

/-- STARVE (R215). -/
def execStarve (core ch : Nat) (s : State) : Out :=
  .next (
    let h := (s.core core).chan ch
    match h.waitFrom with
    | some (i, t) =>
      if t + 2 ^ 20 ≤ s.ticks core then
        let s := s.updCore core fun k => k.updChan ch fun h => { h with waitFrom := some (i, s.ticks core), waitMax := 8 }
        (s.place core none false (s.record core 15 0xFFFF clsInfo (flt .starve (nat64 ch) (nat64 h.prio) (nat64 h.waitMax)))).1
      else s
    | none => s)

/-! ## Stealing (R216, R217) -/

/-- The victims of a core, from its own id onwards. -/
def State.victims (s : State) (c : Nat) : List Nat :=
  match s.launchOf c with
  | none => []
  | some l =>
    let me := s.rel c
    let all := ((l.groups.filter fun g => g.2.members.contains me).flatMap fun g => g.2.members).dedup
    let up := sortBy (fun a b => decide (a ≤ b)) (all.filter fun r => decide (me < r))
    let down := sortBy (fun a b => decide (a ≤ b)) (all.filter fun r => decide (r < me))
    (up ++ down).map (s.phys c)
/-- The ring a core would steal for. -/
def Core.stealRing (k : Core) : Option Nat :=
  let l := k.channels.filter fun e => e.2.bound && e.2.share && e.2.room
  let p := (l.map fun e => e.2.prio).foldl Nat.max 0
  ((l.filter fun e => e.2.prio == p).map (·.1)).head?
/-- STEAL_ATTEMPT (R216). -/
def execStealAttempt (core : Nat) (s : State) : Out :=
  .next (
    let k := s.core core
    let first := match s.launchOf core with
      | some l => !l.det || l.qstart == s.now
      | none => false
    match k.stealRing, (s.victims core)[k.stealNext]? with
    | some r, some v =>
      let waits := match k.stealWait with
        | some t => decide (s.ticks core < t)
        | none => false
      if s.runs core && first && !k.frozen && k.freeHelper.isSome && (s.pickable core).isEmpty && k.stealOut.isNone && !waits then
        (s.updCore core fun k => { k.updChan r (fun ch => { ch with reserved := ch.reserved + 1 }) with
          stealOut := some (r, v), stealWait := none }).sendHw core v (.stealReq r)
      else s
    | _, _ => s)
/-- STEAL_BACKOFF_EXPIRY (R216). -/
def execStealBackoffExpiry (core : Nat) (s : State) : Out :=
  .next (
    match (s.core core).stealWait with
    | some t => if t ≤ s.ticks core then s.updCore core fun k => { k with stealWait := none } else s
    | none => s)
/-- STEAL_REQUEST (R217). -/
def execStealRequest (id : Nat) (s : State) : Out :=
  .next (s.handlerArrival id fun r => match r with
    | .steal _ _ => true
    | _ => false)
/-- The head of a handler's queue, a steal, is served: the first pushed descriptor no task has taken, or NONE (R217). -/
def State.serveSteal (s : State) (core src ring : Nat) : State :=
  let k := s.core core
  let ch := k.chan ring
  let found := if ch.bound && ch.share then ch.first (fun t => match t.kind with
    | .desc _ _ => true
    | _ => false) else none
  let sc := scopeTo core src
  match found with
  | some i =>
    match ((AMap.find ch.slots i).map fun (t : Slot) => t.kind) with
    | some (.desc off _) =>
      match s.badIn core off 32 with
      | some o =>
        (s.place core none false (s.record core 14 0xFFFF clsEngine (eccFlt (localAddr o)))).1.transmit core 15 src
          (.stealAns ring none sc) [] sc false
      | none =>
      (s.freeSlot core ring i).transmit core 15 src (.stealAns ring (some (k.bytes off 32)) sc) (s.coveredCore core sc) sc false
    | _ => s
  | none => s.transmit core 15 src (.stealAns ring none sc) [] sc false
/-- STEAL_SERVE (R217). -/
def execStealServe (core : Nat) (s : State) : Out :=
  .next (
    match (s.core core).handler with
    | .steal src ring :: _ => if s.handlerHeld core || s.closeWork core (.steal src ring) then s else (s.handlerDone core).serveSteal core src ring
    | _ => s)
/-- STEAL_ANSWER (R217): the descriptor lands in the reserved slot, or the reservation ends and the next victim is due. After a success the
order begins anew: the spec says only that a failed request moves on (log 77). -/
def execStealAnswer (id : Nat) (s : State) : Out :=
  .next (
    match s.arriving id with
    | some p =>
      match p.body with
      | .stealAns ring d sc =>
        let c := p.dst
        let n := (s.victims c).length
        let s := (s.sink p).unreserve c ring
        match d with
        | some bs =>
          let ch := (s.core c).chan ring
          let off := ch.slotAddr (ch.free.getD 0)
          (s.updCore c fun k => { k with stealOut := none, stealNext := 0 }).land c ring { kind := .desc off true, scope := sc } (wordsOf 4 bs)
        | none =>
          s.updCore c fun k =>
            if k.stealNext + 1 < n then { k with stealOut := none, stealNext := k.stealNext + 1 }
            else { k with stealOut := none, stealNext := 0, stealWait := some (s.ticks c + 256) }
      | _ => s
    | none => s)

/-! ## READY -/

/-- The address checks of R218 and R220. -/
def State.descAddr (s : State) (a : Word) (k : State) : State :=
  if !isLocal a ∨ a.toNat % 32 ≠ 0 then s.raise (flt .align 0 a 0)
  else if !inScratch s.myCore a 32 then s.raise (flt .pool 0 a 0)
  else k
/-- READY (R218): the push is made at issue, and its task waits for the issuer's release (R270). -/
def execReady (a : BitVec 6) (s : State) : Out :=
  .next (
    let x := s.rs a
    let c := s.cur.core
    s.descAddr x (s.loadLocal (x + 4) 2 fun bs =>
      let ring := (bs.getD 0 0).toNat
      let ch := s.myCore.chan ring
      let on := s.covered c s.cur.ctx .core
      if 63 < ring ∨ (bs.getD 1 0).toNat ≠ ch.prio ∨ !ch.bound then s.raise (perm 69 x)
      else if ch.depth ≤ ch.used then s.raise (flt .wait (nat64 ring) (nat64 ch.used) (nat64 ch.depth))
      else s.pushDesc c ring (offOf x) .core none on))

/-! ## The iteration fetcher (R219 to R222) -/

/-- A nest descriptor: its slot, group and loop, or none where a rule of R219 is broken. -/
def readNest (bs : List Byte) : Option (Nat × Nat × Nest) :=
  let n := fun j => ofBytes ((bs.drop (4 * j)).take 4)
  let ctl := (wordsOf 4 bs).getD 2 0
  let lv := bits ctl 14 2 + 1
  let counts := (List.range lv).map n
  let N := counts.foldl (· * ·) 1
  if counts.any (· == 0) ∨ (List.range (4 - lv)).any (fun j => n (lv + j) != 0) ∨ bits ctl 32 32 = 0 ∨
      bits ctl 18 14 ≠ 0 ∨ bits ctl 12 2 ≠ 0 ∨ bits ctl 8 4 = 0 ∨ (wordsOf 4 bs).getD 3 0 ≠ 0 ∨ 2 ^ 48 ≤ N then none
  else some (bits ctl 16 2, bits ctl 0 8,
    { counts := counts, total := N, least := bits ctl 32 32, k := bits ctl 8 4, m := 0, name := 0, lo := 0, hi := 0 })
/-- NEST (R220). -/
def execNest (a b : BitVec 6) (s : State) : Out :=
  .next (
    let x := s.rs a
    let c := s.cur.core
    s.descAddr x (s.loadLocal x 32 fun bs =>
      match readNest bs with
      | none => s.raise (perm 69 x)
      | some (slot, g, z) =>
        if !s.isMember c g then s.raise (s.notMem c g)
        else s.orRaise (s.counterName c (s.rs b)) fun _ =>
          let m := (s.group c g).members.length
          (s.updMe fun k => { k with nests := AMap.set k.nests slot { z with m := m, name := s.rs b, gen := s.uid } }).fresh))

/-- Unpacking a flat index; levels above the nest's are 0 (R219). -/
def unpackIndex (e : Nat) : List Nat → Nat → List Word
  | _, 0 => []
  | [], n + 1 => 0 :: unpackIndex 0 [] n
  | c :: r, n + 1 => nat64 (e % c) :: unpackIndex (e / c) r n
/-- NEXTI (R221). A nest counter of another package takes no claim: the spec has no claim that leaves the package, and the model finds the nest
exhausted (log 78). -/
def execNexti (d a : BitVec 6) (s : State) : Out :=
  .next (
    let x := s.rs a
    let c := s.cur.core
    let ctx := s.cur.ctx
    match (if x.toNat < 4 then AMap.find s.src.nests x.toNat else none) with
    | none => s.raise (perm 69 x)
    | some z =>
      s.ask (.claim x.toNat z) [d, 56, 57, 58, 59] 5 fun id s =>
        if z.lo < z.hi then
          (s.updMe fun k => { k with nests := AMap.set k.nests x.toNat { z with lo := z.lo + 1 } }).settle c ctx id
            (some (1 :: unpackIndex z.lo z.counts 4)) none
        else
          match s.counterName c z.name with
          | .ok (.loc _) => s.transmit c ctx c (.claim z.name z.total z.least z.k z.m ctx id) [] .core false
          | .ok (.far o _) => s.transmit c ctx o (.claim z.name z.total z.least z.k z.m ctx id) [] (scopeTo c o) false
          | _ => s.settle c ctx id (some [0]) none)
/-- The chunk a claim receives (R222). -/
def claimSize (v total least k m : Nat) : Nat :=
  let r := total - v
  if r = 0 then 0 else Nat.min r (Nat.max least (ceilDiv r (k * m)))
/-- A claim is served: its chunk is added to the counter, and the claimer's results and the nest it was made for are set. A slot
that `NEST` has loaded anew since keeps its new nest. A counter that no core takes is answered by R198's record, of amount 0, and an exhausted
nest (log 78). -/
def State.serveClaim (s : State) (p : Packet) (name : Word) (total least k m ctx out : Nat) : State :=
  let o := p.dst
  let n := bits name 0 11
  let n := if isLocal name then (offOf name - ctrBase) / 8 else n
  let s := s.sink p
  if s.absent o ∨ o % 64 = 63 then
    (s.caddFault p n 0 (BitVec.ofNat 12 (s.rel p.src)) name).settle p.src ctx out (some [0]) none
  else
    let v := (s.cell o n).value.toNat
    let c := claimSize v total least k m
    if c = 0 then s.settle p.src ctx out (some [0]) none
    else
      let s := s.counterAdd o n (nat64 c) (s.rel p.src) ctx .ctx
      let slot := ((s.ctx p.src ctx).outs.find? (fun q => q.id == out)).map fun (q : Outst) => q.kind
      match slot with
      | some (.claim j z) =>
        let chunk := fun (y : Nat × Nest) => if y.1 = j ∧ y.2.gen = z.gen then (j, { y.2 with lo := v + 1, hi := v + c }) else y
        (s.updCtx p.src ctx fun k => { k with nests := k.nests.map chunk }).settle
          p.src ctx out (some (1 :: unpackIndex v z.counts 4)) none
      | _ => s
/-- CLAIM_SERVE (R222), held while the core's banks clear (R289). -/
def execClaimServe (id : Nat) (s : State) : Out :=
  .next (
    match s.arriving id with
    | some p =>
      match p.body with
      | .claim name total least k m ctx out => s.serveClaim p name total least k m ctx out
      | _ => s
    | none => s)

end Sys2Proof.Machine
end

