-- ==== Sys2Proof/Machine/Catenary.lean ====
section
/-! DEFINITION. The Catenary (R226 to R237): arrivals, completion and withdrawal, its instructions, and the schedule selector
(R223, R224). -/

namespace Sys2Proof.Machine
open Sys2Proof

/-! ## Uses -/

/-- S(g) of R235. -/
def groupScope (l : List Nat) : Scope :=
  if l.length ≤ 1 then .core else if (l.map (· / 64)).dedup.length ≤ 1 then .part else .pkg
/-- The fn, group, root, value and schedule count with which a waiting Catenary instruction arrives (R224, R231, R235). -/
structure CatOp where
  fn   : Nat
  g    : Nat
  root : Nat := 0
  x    : Word := 0
  ns   : Nat := 0
  dest : BitVec 6 := 0
  deriving DecidableEq, Repr
/-- The cost of a phase: what has grown since the context's last PHASE on the group, or the start of its task (R224). -/
def State.phaseCost (s : State) (g : Nat) : Word :=
  let k := s.me
  let base := (AMap.find k.phases g).getD (AMap.get 0 k.phases 256)
  nat64 (Nat.min ((s.costNow s.cur.core s.cur.ctx) - base).toNat (2 ^ 48 - 1))
/-- What the issuing context's instruction brings. -/
def State.catOp (s : State) (i : Instr) : Option CatOp :=
  let g := fun (a : BitVec 6) => bits (s.rs a) 0 8
  match i with
  | .cbar a => some { fn := 0, g := g a }
  | .cbarx a => some { fn := 1, g := g a }
  | .cbcast d a b => some { fn := 2, g := g a, root := bits (s.rs b) 0 12, x := s.rs d, dest := d }
  | .credAdd d a b => some { fn := 3, g := g a, x := s.rs b, dest := d }
  | .credMin d a b => some { fn := 4, g := g a, x := s.rs b, dest := d }
  | .credMax d a b => some { fn := 5, g := g a, x := s.rs b, dest := d }
  | .credOr d a b => some { fn := 6, g := g a, x := s.rs b, dest := d }
  | .credAnd d a b => some { fn := 7, g := g a, x := s.rs b, dest := d }
  | .phase d a b => some { fn := 16, g := g a, x := s.phaseCost (g a), ns := bits (s.rs b) 0 2 + 1, dest := d }
  | _ => none
def State.updGroup (s : State) (c g : Nat) (f : Group → Group) : State :=
  s.updLaunch (s.domOf c) fun l => { l with groups := AMap.upd {} l.groups g f }
/-- The waiting Catenary instruction of a context on group g that has not arrived, with the order of its issue. -/
def State.unarrived (s : State) (c x g : Nat) : Option (Wait × CatOp) :=
  match (s.ctx c x).st, (s.ctx c x).wait with
  | .waiting, some w =>
    if w.arrived then none
    else match (s.asIf c x).catOp w.instr with
      | some o => if o.g = g then some (w, o) else none
      | none => none
  | _, _ => none
/-- An earlier operation of the core on the group has still to arrive (R230). -/
def State.waitsBefore (s : State) (c g use : Nat) : Bool :=
  (List.range 11).any fun y => match s.unarrived c y g with
    | some (v, _) => decide (v.use < use)
    | none => false
/-- An arrival is made (R230, R235): the release is complete, the core has no arrival pending on the group, and no earlier
instruction of the core waits to arrive there. -/
def State.arrive (s : State) (c x : Nat) : State :=
  match (s.ctx c x).wait with
  | none => s
  | some w0 =>
    match (s.asIf c x).catOp w0.instr with
    | none => s
    | some o =>
      match s.unarrived c x o.g with
      | none => s
      | some (w, o) =>
        if (s.limitOver c x).isSome || s.waitsBefore c o.g w.use || s.pendingIds c w.ids || (s.group c o.g).arrivals.any (fun a => a.core == c) then s
        else
          let a : Arrival := { core := c, ctx := x, fn := o.fn, root := o.root, x := o.x, ns := o.ns, cycle := s.now }
          (s.updGroup c o.g fun t => { t with arrivals := t.arrivals ++ [a] }).updCtx c x
            fun k => { k with wait := some { w with arrived := true } }
/-- The checks of R224 and R235 are past: the context waits, and arrives in its issue cycle where it can. -/
def State.catWait (s : State) (i : Instr) (ids : List Nat) : State :=
  match s.cur.again, s.me.wait with
  | true, some w => s.fare (.wait w)
  | _, _ =>
    let c := s.cur.core
    let s := (s.waitMe { instr := i, start := s.ticks c, limit := s.waitLimit 0, use := s.uid, ids := ids }).fresh
    s.arrive c s.cur.ctx
/-- The shared mould of op 0x37 (R235). -/
def State.catenary (s : State) (i : Instr) (a : BitVec 6) (root : Option (BitVec 6)) (orders : Bool) : State :=
  let c := s.cur.core
  let g := (s.rs a).toNat
  if 255 < g then s.raise (perm 69 (s.rs a))
  else if !s.isMember c g then s.raise (s.notMem c g)
  else
    let badRoot := match root with
      | some b => decide (4095 < (s.rs b).toNat) || !(s.group c g).members.contains (s.rs b).toNat
      | none => false
    if badRoot then s.raise (perm 69 (s.rs (root.getD 0)))
    else s.catWait i (if orders then s.covered c s.cur.ctx (groupScope (s.group c g).members) else [])

/-- CBAR (R235). -/
def execCbar (a : BitVec 6) (s : State) : Out := .next (s.catenary (.cbar a) a none true)
/-- CBARX (R235). -/
def execCbarx (a : BitVec 6) (s : State) : Out := .next (s.catenary (.cbarx a) a none false)
/-- CBCAST (R235). -/
def execCbcast (d a b : BitVec 6) (s : State) : Out := .next (s.catenary (.cbcast d a b) a (some b) true)
/-- CRED.add (R235). -/
def execCredAdd (d a b : BitVec 6) (s : State) : Out := .next (s.catenary (.credAdd d a b) a none true)
/-- CRED.min (R235). -/
def execCredMin (d a b : BitVec 6) (s : State) : Out := .next (s.catenary (.credMin d a b) a none true)
/-- CRED.max (R235). -/
def execCredMax (d a b : BitVec 6) (s : State) : Out := .next (s.catenary (.credMax d a b) a none true)
/-- CRED.or (R235). -/
def execCredOr (d a b : BitVec 6) (s : State) : Out := .next (s.catenary (.credOr d a b) a none true)
/-- CRED.and (R235). -/
def execCredAnd (d a b : BitVec 6) (s : State) : Out := .next (s.catenary (.credAnd d a b) a none true)
/-- PHASE (R224). -/
def execPhase (d a b : BitVec 6) (s : State) : Out :=
  .next (
    let g := (s.rs a).toNat
    if 255 < g then s.raise (perm 69 (s.rs a))
    else if 3 < (s.rs b).toNat then s.raise (perm 69 (s.rs b))
    else if !s.isMember s.cur.core g then s.raise (s.notMem s.cur.core g)
    else s.catWait (.phase d a b) [])

/-- GMEM (R237). -/
def Group.word (t : Group) (me : Nat) : Word :=
  let l := t.members
  let rank := (l.filter fun r => decide (r < me)).length
  let isIn := l.contains me
  at_ isIn.toNat 63 ||| at_ (if l = [] then 0 else l.foldl Nat.min 4095) 48 ||| at_ (if isIn then rank else 0xFFF) 36 |||
    at_ l.length 24 ||| at_ t.meshW 12 ||| at_ t.meshH 0
def execGmem (d a : BitVec 6) (s : State) : Out :=
  .next (
    let g := (s.rs a).toNat
    if 255 < g then s.raise (perm 69 (s.rs a))
    else s.ws d ((s.group s.cur.core g).word (s.rel s.cur.core)))

/-! ## Completion (R227, R231, R235) -/

/-- Arrivals of a use in ascending member id. -/
def Group.byId (t : Group) : List Arrival := sortBy (fun a b => decide (a.core ≤ b.core)) t.arrivals
/-- Whether the arrivals carry different operations or roots (R231). -/
def mixedUse : List Arrival → Bool
  | [] => false
  | a :: r => r.any fun b => a.fn != b.fn || (a.fn == 2 && a.root != b.root)
def catRed (fn : Nat) (x y : Word) : Word :=
  match fn with
  | 3 => x + y
  | 4 => if y.toInt < x.toInt then y else x
  | 5 => if x.toInt < y.toInt then y else x
  | 6 => x ||| y
  | _ => x &&& y
/-- The result every member receives; `root` finds the root's value. -/
def catResult (l : List Arrival) (root : Nat → Bool) : Word :=
  match l with
  | [] => 0
  | a :: r => if a.fn = 2 then ((l.find? fun b => root b.core).map (·.x)).getD 0 else (r.map (·.x)).foldl (catRed a.fn) a.x
/-- The selector after a PHASE use of greatest cost M with ns schedules (R224). -/
def Group.select (t : Group) (M : Word) (ns : Nat) : Group :=
  let cost := if t.phases = 0 then t.cost else AMap.set t.cost t.cur M
  let tried := if t.phases = 0 then t.tried else AMap.set t.tried t.cur true
  let js := List.range ns
  let cur := match js.find? (fun j => !AMap.get false tried j) with
    | some j => j
    | none => js.foldl (fun b j => if (AMap.get 0 cost j).toNat < (AMap.get 0 cost b).toNat then j else b) 0
  { t with cost := cost, tried := tried, cur := cur, phases := t.phases + 1 }

/-- The wait with which a participant's context stands in the use: a fault may have ended it, and the context may wait for something else. Its
arrival stays in the use: the model's choice (log 88). -/
def State.waitsIn (s : State) (a : Arrival) (g : Nat) : Option Wait :=
  let k := s.ctx a.core a.ctx
  match k.st, k.wait with
  | .waiting, some w => if w.arrived && (((s.asIf a.core a.ctx).catOp w.instr).map (·.g)) == some g then some w else none
  | _, _ => none
/-- A waiting participant leaves the use with its result. -/
def State.leaveUse (s : State) (a : Arrival) (g : Nat) (v : Word) (sc : Scope) : State :=
  match s.waitsIn a g with
  | some w =>
    let d := (((s.asIf a.core a.ctx).catOp w.instr).map (·.dest)).getD 0
    let s := if a.fn = 1 ∨ a.fn = 16 then s else s.acquire a.core sc
    let s := if a.fn ≤ 1 then s else s.updCtx a.core a.ctx fun k => k.ws d.toNat v
    let s := s.leaveWait a.core a.ctx
    if a.fn = 16 then
      let base := s.costNow a.core a.ctx
      s.updCtx a.core a.ctx fun k => { k with phases := AMap.set k.phases g base }
    else s
  | none => s
/-- A use completes: every participant in the same cycle, or every member faults MIXED; members that waited to arrive for the
next use then arrive (R227, R230, R231). -/
def State.completeUse (s : State) (dom g : Nat) : State :=
  let t := s.group (dom * 64) g
  let l := t.byId
  let low := l.headD { core := 0, ctx := 0, fn := 0, root := 0, x := 0, ns := 1, cycle := 0 }
  let parts := (t.members.map fun r => s.phys (dom * 64) r / 64).dedup
  let s := parts.foldl (fun s p => s.count p 11 1) s
  let s := s.updGroup (dom * 64) g fun t =>
    { t with arrivals := [], uses := t.members.foldl (fun m r => AMap.upd 0 m r (· + 1)) t.uses }
  let s :=
    if mixedUse l then
      l.foldl (fun s a => match s.waitsIn a g with
        | some _ => (s.asIf a.core a.ctx).raise (perm 72 (nat64 (low.fn * 4096 + low.root)))
        | none => s) s
    else if low.fn = 16 then
      let M := (l.map (·.x)).foldl (fun m x => if m.toNat < x.toNat then x else m) 0
      let sel := t.select M low.ns
      let s := s.updGroup (dom * 64) g fun u => { u with cost := sel.cost, tried := sel.tried, cur := sel.cur, phases := sel.phases }
      l.foldl (fun s a => s.leaveUse a g (nat64 sel.cur) .core) s
    else
      let v := catResult l fun c => s.rel c == low.root
      l.foldl (fun s a => s.leaveUse a g v (groupScope t.members)) s
  (t.members.map (s.phys (dom * 64))).foldl (fun s c => (List.range 11).foldl (fun s x =>
    if (s.unarrived c x g).isSome then s.arrive c x else s) s) s

/-- The commit boundary and the completion of a use whose members have all arrived, in absolute cycles (R226, R227). -/
def commitAt (start : Nat) (l : List Arrival) : Nat :=
  start + 8 * (((l.map (·.cycle)).foldl Nat.max 0 - start) / 8 + 1)
def Group.whole (t : Group) : Bool := !t.members.isEmpty && t.arrivals.length == t.members.length
/-- CATENARY_COMPLETION (R227); in deterministic mode uses complete at quantum closes (R244). -/
def execCatenaryCompletion (dom g : Nat) (s : State) : Out :=
  .next (
    match (s.domain dom).launch with
    | some l =>
      let t := s.group (dom * 64) g
      if !l.det && t.whole && decide (commitAt l.start t.arrivals + 160 ≤ s.now) then s.completeUse dom g else s
    | none => s)
/-- CATENARY_ARRIVAL (R235). -/
def execCatenaryArrival (core ctx : Nat) (s : State) : Out :=
  .next (match (s.ctx core ctx).st with
    | .waiting => s.arrive core ctx
    | _ => s)
/-- CATENARY_WITHDRAWAL (R232): a limit that ends before the commit boundary withdraws the arrival. An operation that waits for an
earlier one of its core belongs to a use at which nobody has arrived. The arrival of a frozen core is withdrawn at its limit too; the fault
follows at THAW (log 70). -/
def execCatenaryWithdrawal (core ctx : Nat) (s : State) : Out :=
  .next (
    match s.limitOver core ctx, s.launchOf core with
    | some w, some l =>
      match (s.asIf core ctx).catOp w.instr with
      | some o =>
        let t := s.group core o.g
        if w.arrived && t.whole && !l.det && decide (commitAt l.start t.arrivals ≤ s.now) then s
        else
          let rest := t.arrivals.filter fun a => a.core != core || a.ctx != ctx
          let next := !w.arrived && (rest.any (fun a => a.core == core) || s.waitsBefore core o.g w.use)
          let s := s.updGroup core o.g fun t => { t with arrivals := rest }
          if (s.core core).frozen then s.updCtx core ctx fun k => { k with wait := some { w with arrived := false } }
          else (s.asIf core ctx).raise
            (flt .wait (nat64 o.g) (nat64 (if next then 0 else rest.length)) (nat64 t.members.length))
      | none => s
    | _, _ => s)

end Sys2Proof.Machine
end

