-- ==== Sys2Proof/Machine/MemOps.lean ====
section
/-! DEFINITION. Loads, stores, versions and fences (R248 to R254, R264 to R272, R280 to R287), watermark channels (R260,
R293, R294), the pool's division (R288, R289), and what returns to a context (R36, R38, R323). -/

namespace Sys2Proof.Machine
open Sys2Proof

/-! ## Checks (R280) -/

/-- A record of these checks holds the address in word 1 (R280). -/
def memFlt (c : FCode) (a : Word) : Flt := { code := c, a := a, addr := a }
def memPerm (reason : Nat) (a : Word) : Flt := { code := .perm, a := nat64 reason, b := a, addr := a }

/-- What a local address names (R26). -/
inductive Win
  | scratch (off : Nat) | acc (off : Nat) | counter (n : Nat)
  deriving DecidableEq, Repr
/-- Step 2 of R280 for a load or a store of `n` bytes. -/
def Core.winOf (k : Core) (a : Word) (n : Nat) (load : Bool) : Except Flt Win :=
  let o := offOf a
  if o + n ≤ k.spSize then .ok (.scratch o)
  else if accBase ≤ o ∧ o + n ≤ accBase + k.accSize then if load then .ok (.acc o) else .error (memPerm 76 a)
  else if ctrBase ≤ o ∧ o < ctrBase + 0x4000 then
    if load ∧ n = 8 then .ok (.counter ((o - ctrBase) / 8)) else .error (memPerm 76 a)
  else .error (memFlt .pool a)

/-! ## LD and ST (R282, R283) -/

/-- The bytes of an access size (R39). -/
def sizeBytes : Size → Nat
  | .b => 1 | .h => 2 | .w => 4 | .d => 8

/-- A request to a slice by the issuing context. -/
def State.askSlice (s : State) (kind : OutKind) (d : BitVec 6) (va : Word) (pa n : Nat) (attr : BitVec 2)
    (want : Option (BitVec 16)) : State :=
  s.ask kind [d] 1 fun id s =>
    let q : LoadReq := { id := id, core := s.cur.core, ctx := s.cur.ctx, va := va, pa := pa, n := n, attr := attr, want := want,
                         start := s.ticks s.cur.core, limit := s.waitLimit 0, pc := s.cur.pc }
    { s with loads := s.loads ++ [q] }
/-- The load is performed at issue, with a value at hand, or with its fault (R324). -/
def State.loadNow (s : State) (d : BitVec 6) (v : Nat) (f : Option Flt := none) : State :=
  s.ask .load [d] 1 fun id s => s.settle s.cur.core s.cur.ctx id (if f.isNone then some [nat64 v] else none) f
/-- A global load, placed by R267: in the core's view, behind the context's earlier loads of the word; from a buffered line, where
the machine so chooses; or at the slice. A SEQ access bypasses the view and the buffer (R278). -/
def State.globalLoad (s : State) (d : BitVec 6) (a : Word) (pa n : Nat) (attr : BitVec 2) : State :=
  s.behindAtoms (.phys pa false)
    (let c := s.cur.core
     let slice := fun (s : State) => s.askSlice .load d a pa n attr none
     let first := s.loadsBefore c s.cur.ctx pa s.uid
     if attr = 2 then (slice s).untilDone s.uid
     else if s.myCore.view.any (fun l => l.pa / 8 == pa / 8) then
       (if first = [] then s.loadNow d (s.viewNum c pa n) (if s.viewBad c pa n then some (eccFlt a) else none) else s.stallMe (.fence (first.map (·.id))))
     else
       match (if attr = 0 ∧ first = [] then AMap.find s.myCore.lbuf (pa / 64) else none) with
       | some line =>
         let t := { s with free := s.free + 1 }
         if s.coin then t.loadNow d (ofBytes ((line.drop (pa % 64)).take n)) else slice t
       | none => slice s)
/-- A global store enters its lane where there is room (R266, R283); a SEQ store is waited for (R251). -/
def State.globalStore (s : State) (a : Word) (pa n : Nat) (v : Word) (attr : BitVec 2) : State :=
  s.behindAtoms (.phys pa false)
    (match s.laneRoom 1 with
     | some r => s.stallMe r
     | none =>
       if attr = 2 then (s.enterLane a pa n v false false).untilDone s.uid else s.enterLane a pa n v (attr == 1) false)

/-- LD (R282). -/
def execLd (d a : BitVec 6) (sz : Size) (off : BitVec 9) (s : State) : Out :=
  .next (
    let n := sizeBytes sz
    let x := s.rs a + off.signExtend 64 * nat64 n
    let c := s.cur.core
    if x.toNat % n ≠ 0 then s.raise (memFlt .align x)
    else if isLocal x then
      s.orRaise (s.myCore.winOf x n true) fun w =>
        match w with
        | .counter i => s.ws d (s.cell c i).value
        | .scratch o | .acc o =>
          s.behindAtoms (.pool o) (s.unmarked o n (s.orRaise (s.readLocal c o n) fun bs => s.ws d (nat64 (ofBytes bs))))
    else s.translate x ⟨true, false⟩ fun pa at_ _ s => s.globalLoad d x pa n at_)
/-- ST (R282). -/
def execSt (d a : BitVec 6) (sz : Size) (off : BitVec 9) (s : State) : Out :=
  .next (
    let n := sizeBytes sz
    let x := s.rs a + off.signExtend 64 * nat64 n
    let c := s.cur.core
    let v := s.rs d
    if x.toNat % n ≠ 0 then s.raise (memFlt .align x)
    else if isLocal x then
      s.orRaise (s.myCore.winOf x n false) fun _ =>
        let o := offOf x
        s.behindAtoms (.pool o) (s.unmarked o n
          (match s.storeEcc c o n with
           | some f => s.raise f
           | none => s.putLocal c o (toBytes n v.toNat)))
    else s.translate x ⟨false, true⟩ fun pa at_ _ s => s.globalStore x pa n v at_)

/-! ## LDV, RECL and FENCE (R284 to R287) -/

/-- The common checks of `LDV` and `RECL` (R280, R284, R286). -/
def State.versioned (s : State) (x : Word) (n : Need) (k : Nat → State → State) : State :=
  if x.toNat % 8 ≠ 0 then s.raise (memFlt .align x)
  else if isLocal x then s.raise (memPerm 74 x)
  else s.translate x n fun pa at_ _ t => if at_ ≠ 1 then s.raise (memPerm 74 x) else t.behindAtoms (.phys pa true) (k pa t)
/-- LDV (R284). -/
def execLdv (d a : BitVec 6) (off : BitVec 9) (s : State) : Out :=
  .next (
    let x := s.rs a + off.signExtend 64 * 8
    let v := (s.rs d).setWidth 16
    s.versioned x ⟨true, false⟩ fun pa s => s.askSlice (.ldv v (sliceOf pa)) d x pa 8 1 (some v))
/-- RECL (R286). -/
def execRecl (a b : BitVec 6) (s : State) : Out :=
  .next (
    let x := s.rs a
    let v := (s.rs b).setWidth 16
    s.versioned x ⟨false, true⟩ fun pa s => s.enterLane x pa 8 (v.setWidth 64) true true)

/-- FENCE (R272, R287). -/
def execFence (sc : Scope) (s : State) : Out :=
  .next (
    let c := s.cur.core
    let l := s.ownOpen c s.cur.ctx sc ++ (if sc = .sys then s.atPorts c s.cur.ctx else [])
    if l ≠ [] then s.stallMe (.fence l) else s.acquire c sc)

/-! ## Performing at the slice (R248, R252 to R254, R266 to R268) -/

/-- A failure that reaches a context waits for its next bundle boundary; the first is kept. A context that has no bundle left to issue
takes it at once, whatever its state (R323). -/
def State.defer (s : State) (c x : Nat) (f : Flt) : State :=
  let k := s.ctx c x
  if k.deferred.isSome then s
  else if (k.st = .free ∨ k.st = .halted ∨ k.ending) ∧ (s.core c).frozen = false then s.takeFault c x k.pc clsDeferred f
  else s.updCtx c x fun k => { k with deferred := some ⟨f⟩ }
/-- A context STALLED for a reason issues again. -/
def State.unstall (s : State) (c x : Nat) (p : Stall → Bool) : State :=
  s.updCtx c x fun k => match k.st, k.stall with
    | .stalled, some r => if p r then { k with st := .ready } else k
    | _, _ => k
/-- A SEQ access of the context has been performed. -/
def State.seqDone (s : State) (c x id : Nat) : State := s.unstall c x fun r => r == .seq id

/-- A store narrower than a word of HBM that stands in error (R324). -/
def State.narrowBad (s : State) (pa n : Nat) : Bool := decide (n < 8) && (s.badHbm pa n).isSome
/-- A lane entry is performed and leaves its lane; a store that waited for the room enters (R283). -/
def State.performLane (s : State) (c : Nat) (e : LaneEntry) : State :=
  let s := s.updCore c fun k =>
    let k := { k with lanes := k.lanes.filter fun l => l.id != e.id }
    k.refill e.ctx
  if e.recl then s.performRecl e.pa (e.data.setWidth 16)
  else
    let s := if s.narrowBad e.pa e.n then s.defer c e.ctx (eccFlt e.va)
             else s.performWrite e.pa (toBytes e.n e.data.toNat) e.versioned
    s.seqDone c e.ctx e.id
/-- Two entries stand in one lane: of a context to a slice (R266), or of one engine command (R254). -/
def LaneEntry.sameLane (e l : LaneEntry) : Bool := l.ctx == e.ctx && (if e.ctx = 15 then l.pc == e.pc else l.slice == e.slice)
/-- The head of the lane that an entry stands in (R266). -/
def Core.laneHead (k : Core) (e : LaneEntry) : Bool :=
  match k.lanes.find? (e.sameLane ·) with
  | some h => h.id == e.id
  | none => false

/-- A wanted version against the current one: none is a future version (R252). -/
def State.versionAt (s : State) (pa : Nat) (v : BitVec 16) : Option (Except Flt Word) :=
  let cur := s.ver pa
  let d := (v - cur).toNat
  if d = 0 then some (.ok (nat64 (s.hbmNum pa 8)))
  else if d < 2 ^ 15 then none
  else
    match (s.part (sliceOf pa)).retained.find? (fun e => e.1 == pa / 8 && e.2.1 == v) with
    | some e => some (.ok e.2.2)
    | none => some (.error (flt .vgone (nat64 (sliceOf pa)) (cur.setWidth 64) (v.setWidth 64)))
/-- A request leaves the slice with its value or its failure. -/
def State.served (s : State) (q : LoadReq) (r : Except Flt Word) : State :=
  let s := { s with loads := s.loads.filter fun o => o.id != q.id }
  let s := match r with
    | .ok v => s.settle q.core q.ctx q.id (some [v]) none
    | .error f => s.settle q.core q.ctx q.id none (some f)
  s.seqDone q.core q.ctx q.id
/-- A slice serves a load or an `LDV` (R252, R267, R268, R284). -/
def State.serveLoad (s : State) (q : LoadReq) : State :=
  match s.badHbm q.pa q.n with
  | some _ => s.served q (.error (eccFlt q.va))
  | none =>
    match q.want with
    | some v =>
      match s.versionAt q.pa v with
      | some (.ok w) => (s.served q (.ok w)).count (sliceOf q.pa) 4 8
      | some (.error f) => s.served q (.error { f with d0 := nat64 q.pc })
      | none => s
    | none =>
      let under := if q.attr = 2 then [] else (s.core q.core).view.filter fun l => decide (l.id < q.id)
      let t := s.served q (.ok (nat64 (s.numUnder under q.pa q.n)))
      if q.attr = 0 then (t.fillLine q.core q.pa).count (sliceOf q.pa) 4 64 else t.count (sliceOf q.pa) 4 q.n
/-- An earlier reclaim of a context of the word of `pa` that stands in its lane. -/
def State.reclBefore (s : State) (c x pa id : Nat) : Bool :=
  (s.core c).lanes.any fun l => l.recl && l.ctx == x && l.pa / 8 == pa / 8 && decide (l.id < id)
/-- A request waits at its slice for earlier accesses of its context to the word (R267). In deterministic mode a SEQ access waits
for the close, as does an `LDV` behind a reclaim of its context; any other `LDV` reads what the last close left, whatever stands in the
lanes (R279, R285, R286). -/
def State.loadWaits (s : State) (q : LoadReq) : Bool :=
  (if s.det q.core then q.attr == 2 || (q.want.isSome && s.reclBefore q.core q.ctx q.pa q.id)
   else s.laneBefore q.core q.ctx q.pa q.id && (q.want.isSome || q.attr == 2)) ||
    s.loadBefore q.core q.ctx q.pa q.id
/-- SLICE_LOAD_SERVE (R267, R284). -/
def execSliceLoadServe (id : Nat) (s : State) : Out :=
  .next (
    match s.loads.find? (fun q => q.id == id) with
    | some q =>
      if s.loadWaits q then s
      else s.serveLoad q
    | none => s)
/-- LINE_EVICTION (R268). -/
def execLineEviction (core line : Nat) (s : State) : Out :=
  .next (s.updCore core fun k => { k with lbuf := AMap.erase k.lbuf line })
/-- LDV_HOLD_EXPIRY (R284): the version is still to come. -/
def execLdvHoldExpiry (id : Nat) (s : State) : Out :=
  .next (
    match s.loads.find? (fun q => q.id == id) with
    | some q =>
      match q.want with
      | some v =>
        if (s.versionAt q.pa v).isNone ∧ q.start + q.limit ≤ s.ticks q.core then
          s.served q (.error { code := .wait, obj := nat64 (sliceOf q.pa), a := (s.ver q.pa).setWidth 64,
                               b := v.setWidth 64, d0 := nat64 q.pc })
        else s
      | none => s
    | none => s)
/-- The limit of writes that a context's work holds at a slice (R254). -/
def State.holdOver (s : State) (c x : Nat) (start : Nat) : Bool :=
  decide (start + 2 ^ (s.ctx c x).wlim.toNat ≤ s.ticks c)
def State.vfull (s : State) (va : Word) (pa pc : Nat) : Flt :=
  { code := .vfull, obj := nat64 (sliceOf pa), a := va &&& ~~~7#64, b := (s.ver pa + 1).setWidth 64, d0 := nat64 pc }

/-! ## What returns to a context (R36 to R38, R323) -/

/-- The core and context of an outstanding result. -/
def State.findOut (s : State) (id : Nat) : Option (Nat × Nat × Outst) :=
  s.cores.findSome? fun (c, k) => k.ctxs.findSome? fun (x, t) => (t.outs.find? fun o => o.id == id).map fun o => (c, x, o)
/-- A parked context issues again where its last result is written, or where room for more has come (R18, R37). -/
def Core.unpark (k : Core) (x : Nat) : Core :=
  let t := k.ctx x
  if t.st = .parked ∧ !t.ending ∧ t.outstanding ≤ t.upTo then k.setCtx x { t with st := .ready } else k
/-- VARIABLE_LATENCY_RESULT (R36): the result is written, and s0 discards its; a failure stops the context at its next
boundary; a task that a fault ended discards both (R38). A performance-monitor count is read now (R338). -/
def execVariableLatencyResult (id : Nat) (s : State) : Out :=
  .next (
    match s.findOut id with
    | some (c, x, o) =>
      let vals := match o.kind with
        | .pm e p => some [AMap.get 0 (s.part p).pm e]
        | _ => o.vals
      if vals.isNone && o.flt.isNone then s
      else
        let s := s.updCtx c x fun k => { k with outs := k.outs.filter fun q => q.id != id }
        let k := s.ctx c x
        if k.st = .free ∨ k.st = .halted then s
        else
          match o.flt with
          | some f => if k.ending then s else s.defer c x f
          | none =>
            let s := if k.ending then s else
              s.updCtx c x fun k => (o.dests.zip (vals.getD [])).foldl (fun k e => k.ws (e.1 - 64) e.2) k
            s.updCore c fun k => k.unpark x
    | none => s)
/-- DEFERRED_FAULT (R320, R323): the context stops before its first bundle that has not issued. -/
def execDeferredFault (core ctx : Nat) (s : State) : Out :=
  .next (
    let k := s.ctx core ctx
    match k.deferred with
    | some d =>
      if (s.core core).frozen then s
      else s.takeFault core ctx (if k.st = .waiting then k.pc + 4 else k.pc) clsDeferred d.flt
    | none => s)

/-! ## Watermark channels (R260, R293, R294) -/

/-- Accesses of a core that stall under a watermark are tried again. -/
def State.retryMarks (s : State) (c : Nat) : State :=
  (List.range 11).foldl (fun s x => s.unstall c x fun r => match r with
    | .watermark _ _ _ => true
    | _ => false) s
/-- The highest address up to which every byte counts as written, within so many pieces. -/
def markUp (parts : List (Nat × Nat)) : Nat → Nat → Nat
  | 0, m => m
  | n + 1, m =>
    match parts.find? (fun p => decide (p.1 ≤ m) && decide (m < p.2)) with
    | some p => markUp parts n p.2
    | none => m
/-- The beats that have reached a channel in this cycle. -/
def Wmark.beatsAt (w : Wmark) (now : Nat) : List (Nat × Nat) := if w.at_ = now then w.beats else []
/-- WMARK (R293); a beat that reached the channel in the same cycle counts after it (R294). -/
def execWmark (d a b : BitVec 6) (n : BitVec 3) (s : State) : Out :=
  .next (
    let base := s.rs d
    let limit := s.rs a
    let mark := s.rs b
    let bad := [base, limit, mark].find? fun w => bits w 23 41 != 0 || w.toNat % 8 != 0
    match bad with
    | some w => s.raise (perm 69 w)
    | none =>
      if limit.toNat < base.toNat ∨ 65536 < limit.toNat - base.toNat then s.raise (perm 69 limit)
      else if mark.toNat < base.toNat ∨ limit.toNat < mark.toNat then s.raise (perm 69 mark)
      else if s.myCore.spSize < limit.toNat then s.raise (memFlt .pool (localAddr limit.toNat))
      else
        let beats := (AMap.get {} s.myCore.wmarks n.toNat).beatsAt s.now
        let w : Wmark := { base := base.toNat, limit := limit.toNat, mark := markUp beats beats.length mark.toNat, parts := beats,
                           beats := beats, at_ := s.now }
        (s.updCore s.cur.core fun k => { k with wmarks := AMap.set k.wmarks n.toNat w }).retryMarks s.cur.core)
/-- A copy's beat reaches watermark channel `h` of a core. -/
def State.advanceMark (s : State) (c h off n : Nat) : State :=
  (s.updCore c fun k =>
    let w := AMap.get {} k.wmarks h
    let ps := w.parts ++ [(off, off + n)]
    let w' : Wmark := { w with parts := ps, mark := markUp ps ps.length w.mark, beats := w.beatsAt s.now ++ [(off, off + n)],
                               at_ := s.now }
    { k with wmarks := AMap.set k.wmarks h w' }).retryMarks c
/-- WATERMARK_STALL_EXPIRY (R260, R294). -/
def execWatermarkStallExpiry (core ctx : Nat) (s : State) : Out :=
  .next (
    let k := s.ctx core ctx
    match k.st, k.stall with
    | .stalled, some (.watermark h t a) =>
      if t + 2 ^ k.wlim.toNat ≤ s.ticks core then
        (s.asIf core ctx).raise
          { code := .wait, obj := nat64 h, a := nat64 (AMap.get {} (s.core core).wmarks h).mark, b := a, addr := a }
      else s
    | _, _ => s)

/-! ## POOL (R288, R289) -/

/-- Engine commands and copies of a core that are outstanding, and copies that write into its pool (R288). -/
def State.engineBusy (s : State) (c : Nat) : Nat :=
  s.tileBusy c + (s.fins.filter fun f => f.core == c && f.turn.isSome).length +
    (s.net.filter fun p => match p.body with
      | .request _ _ => p.src == c
      | _ => false).length +
    (s.jobs.filter fun j => j.core == c || (isLocal j.dst && s.phys j.core (bits j.dst 40 12) == c) ||
      j.pieces.any (fun p => isLocal p.dst && s.phys j.core (bits p.dst 40 12) == c)).length
/-- The first reason of R288 that holds, with its detail. -/
def State.poolReason (s : State) : Option (Nat × Nat) :=
  let c := s.cur.core
  let x := s.cur.ctx
  let k := s.myCore
  let t := s.slot c
  match firstOf (fun y => (k.ctx (y + 1)).st != .free) (List.range 10) with
  | some y => some (1, y + 1)
  | none =>
    if x ≠ 0 then some (1, x)
    else if s.me.outstanding ≠ 0 ∨ k.lanes.any (fun l => l.ctx == x && !l.recl) then some (2, 0)
    else if t.holds ∨ t.queue ≠ [] then some (3, 0)
    else if s.engineBusy c ≠ 0 then some (4, s.engineBusy c)
    else
      match k.channels.find? (fun e => e.2.used != 0) with
      | some e => some (5, e.1)
      | none =>
        if k.posted ≠ [] ∨ k.overflow ≠ [] then some (5, 64)
        else if s.me.streams ≠ [] then some (6, 0) else none
/-- Areas that must lie within the new scratchpad: offset and end (R289). A watermark window begins at its channel's base, the model's choice
(log 92). -/
def Core.areas (k : Core) : List (Nat × Nat) :=
  (k.channels.filter fun e => e.2.bound).map (fun e => (e.2.ring, e.2.ring + 64 * e.2.depth)) ++
    (k.counters.filter fun e => e.2.armed).map (fun e => (e.2.desc.toNat, e.2.desc.toNat + 32)) ++
    k.wmarks.map (fun e => (e.2.base, e.2.limit)) ++
    (match (k.ctx 0).rtab with
     | some (b, n) => [(offOf b, offOf b + 4 * n.toNat)]
     | none => [])
/-- The banks are re-divided, and those whose layout changes are cleared (R289). -/
def State.repool (s : State) (c rfu acc : Nat) : State :=
  let k := s.core c
  let keepS := 4 * rfu + acc == 4 * k.rfu + k.acc
  let keepA := rfu == k.rfu && acc == k.acc
  let keep := fun (a : Nat) => if a < accBase then keepS else keepA
  let s := s.updCore c fun k =>
    { k with rfu := rfu, acc := acc, clearing := !(keepS && keepA),
             pool := k.pool.filter (fun e => keep e.1), undef := k.undef.filter (fun e => keep e.1) }
  let s := { s with bad := s.bad.filter fun e => match e with
    | .pool d o => d != c || keep o
    | _ => true }
  if keepA then s
  else s.updSlot c fun t => { t with rows := 0, cols := 0, acc := [], sat := [], nar := [], live := false, spilled := false,
                                     iRows := 0, iCols := 0 }
/-- POOL (R288, R289): the issuer stays STALLED while banks clear. -/
def execPool (a : BitVec 6) (s : State) : Out :=
  .next (
    let w := s.rs a
    let c := s.cur.core
    let rfu := bits w 0 4
    let acc := bits w 4 8
    if bits w 20 44 ≠ 0 ∨ rfu = 0 ∨ 11 < rfu ∨ 128 < acc then s.raise (perm 69 w)
    else
      match s.poolReason with
      | some (r, b) => s.raise (flt .poolbusy (nat64 s.cur.ctx) (nat64 r) (nat64 b))
      | none =>
        let lim := (192 - 4 * rfu - acc) * 2048
        match s.myCore.areas.find? (fun e => decide (lim < e.2)) with
        | some e => s.raise (flt .pool 0 (nat64 e.1) (nat64 lim))
        | none =>
          let s := s.repool c rfu acc
          if s.myCore.clearing then s.updMe fun k => { k with st := .stalled, stall := some .pool } else s)
/-- POOL_CLEAR_DONE (R289). -/
def execPoolClearDone (core : Nat) (s : State) : Out :=
  .next (
    if (s.core core).clearing then
      (s.updCore core fun k => { k with clearing := false }).unstall core 0 fun r => r == .pool
    else s)

end Sys2Proof.Machine
end

