-- ==== Sys2Proof/Machine/Copy.lean ====
section
/-! DEFINITION. Copies: `COPY`, `COPYC` and `HALO` (R290, R291), and the streamers that serve copy requests (R146, R255 to
R261, R292). -/

namespace Sys2Proof.Machine
open Sys2Proof

/-! ## The instructions (R290, R291) -/

/-- Fields of a request's word 2 that R255 forbids, apart from `rchan`. -/
def ctlBad (w : Word) : Bool :=
  let len := bits w 0 40
  bits w 62 2 != 0 || bits w 40 11 != 0 ||
    (if bits w 55 1 = 1 then len != 0 else len % 8 != 0 || len == 0 || decide (2 ^ 32 < len))
/-- A pool name with an unassigned bit set (R255). -/
def poolNameBad (a : Word) : Bool := isLocal a && (bits a 52 11 != 0 || bits a 20 20 != 0)
/-- The core a pool name names, launch-relative. -/
def poolCore (a : Word) : Nat := bits a 40 12
/-- A copy request leaves for its streamer with the release of R192; its payload ends in `ccnt`. -/
def State.sendCopy (s : State) (kind dest rchan : Nat) (ws : List Word) : State :=
  if !s.inRange s.cur.core dest then s.raise (perm 52 (nat64 dest))
  else
    let h := header (dest / 64 * 64) 0 (s.rel s.cur.core) rchan kind 4 0
    s.sendMe (s.destOf h) (.request h (ws ++ [s.src.ccnt]))
/-- The checks of R291 that COPY and COPYC share; `kind` answers the request kind or the offending operand. -/
def State.copyForm (s : State) (src dst ctl : Word) (kind : Except Word Nat) (dest : Nat) : State :=
  if ctlBad ctl then s.raise (perm 69 ctl)
  else if poolNameBad src then s.raise (perm 69 src)
  else if poolNameBad dst then s.raise (perm 69 dst)
  else
    match kind with
    | .error w => s.raise (perm 75 w)
    | .ok k =>
      if src.toNat % 8 ≠ 0 then s.raise (memFlt .align src)
      else if dst.toNat % 8 ≠ 0 then s.raise (memFlt .align dst)
      else s.orRaise s.ccntOk fun _ => s.sendCopy k dest (bits ctl 56 6) [src, dst, setField ctl 56 6 0]
/-- COPY (R290). Two global addresses name the same slice range where they are equal: a reading (log 90). -/
def execCopy (d a b : BitVec 6) (s : State) : Out :=
  .next (
    let src := s.rs d
    let dst := s.rs a
    let kind : Except Word Nat := match isLocal src, isLocal dst with
      | false, true => .ok 0x20
      | true, false => .ok 0x21
      | false, false => if src = dst then .error dst else .ok 0x22
      | true, true => .error dst
    s.copyForm src dst (s.rs b) kind (s.rel s.cur.core))
/-- COPYC (R290). -/
def execCopyc (d a b : BitVec 6) (s : State) : Out :=
  .next (
    let src := s.rs d
    let dst := s.rs a
    let kind : Except Word Nat :=
      if !isLocal src then .error src
      else if !isLocal dst then .error dst
      else if poolCore src / 64 ≠ poolCore dst / 64 then .error dst else .ok 0x40
    s.copyForm src dst (s.rs b) kind (poolCore src))
/-- The fields of word 1 of a HALO request (R261): group, rows, row bytes, pitch. -/
structure Block where
  g : Nat
  H : Nat
  R : Nat
  P : Nat
  deriving DecidableEq, Repr
def readBlock (w : Word) : Block := { g := bits w 52 8, H := bits w 40 12 + 1, R := bits w 20 20, P := bits w 0 20 }
def Block.bad (k : Block) (ew : Nat) : Bool :=
  k.R % 8 != 0 || k.P % 8 != 0 || ew % 8 != 0 || decide (k.P < k.R + 2 * ew)
/-- HALO (R290, R291). -/
def execHalo (d a b : BitVec 6) (s : State) : Out :=
  .next (
    let c := s.cur.core
    let B := s.rs d
    let w1 := s.rs a
    let e := s.rs b
    let k := readBlock w1
    let ew := bits e 0 16
    let t := s.group c k.g
    if bits e 16 40 ≠ 0 ∨ bits e 62 2 ≠ 0 then s.raise (perm 69 e)
    else if bits B 20 44 ≠ 0 then s.raise (perm 69 B)
    else if bits w1 60 4 ≠ 0 ∨ k.bad ew then s.raise (perm 69 w1)
    else if B.toNat % 8 ≠ 0 then s.raise (memFlt .align B)
    else if !s.isMember c k.g then s.raise (s.notMem c k.g)
    else if t.meshW = 0 ∨ t.meshH = 0 then s.raise (perm 69 w1)
    else if s.myCore.spSize < B.toNat + (k.H - 1) * k.P + k.R then s.raise (memFlt .pool (localAddr B.toNat))
    else s.orRaise s.ccntOk fun _ =>
      s.sendCopy 0x41 (s.rel c) (bits e 56 6) [at_ 1 63 ||| at_ (s.rel c) 40 ||| B, w1, nat64 ew])

/-! ## What a streamer reads and writes (R257) -/

/-- Why a copy stops: a fault of R259, a translation that firmware may service (R334), or version-store room (R254). -/
inductive Halt
  | fault (f : Flt) | page (va : Word) | room
  deriving DecidableEq, Repr

/-- A translation fault of a copy, held where servicing is enabled. -/
def State.orHold (s : State) (base : Nat) (f : Flt) : Halt :=
  if s.serviced (64 * base) f then .page f.addr else .fault f
/-- A copy's translation; a SEQ page faults SEQCOPY (R259). -/
def State.copyXlate (s : State) (c : Nat) (a : Word) (n : Need) : Except Halt (Nat × Bool) :=
  let base := s.domOf c
  match s.tableWalk base a n with
  | .error f => .error (s.orHold base f)
  | .ok (pa, at_, _) => if at_ = 2 then .error (.fault (memPerm 73 a)) else .ok (pa, at_ == 1)
/-- The stores of a copy's core that its reads observe in deterministic mode, where they still wait for the close: those made before
its issue (R140, R257, R279). -/
def State.forked (s : State) (j : CopyJob) : List LaneEntry :=
  if s.det j.core then (s.core j.core).view.filter fun l => decide (l.id < j.id) else []
/-- What a copy reads of a word of HBM: at a moment since its fork, which in deterministic mode is the last close (R243, R274). -/
def State.engineNum (s : State) (j : CopyJob) (pa n : Nat) : Nat :=
  match (if s.det j.core then none else s.momentOf j.id (2 ^ 40 + pa / 8)) with
  | some m => Memory.num zeroByte m.mem pa n
  | none => s.numUnder (s.forked j) pa n
/-- A read of at most 8 bytes within a word, or of a whole header, at one moment (R141, R257). -/
def State.copyRead (s : State) (j : CopyJob) (a : Word) (n : Nat) : Except Halt (List Byte) :=
  let c := j.core
  if isLocal a then
    let d := s.phys c (poolCore a)
    let o := bits a 0 20
    match s.badIn d o n with
    | some w => .error (.fault (eccFlt (localAddr w)))
    | none => .ok ((s.poolAt j.id d (d * 2 ^ 20 + o / 8)).bytes o n)
  else
    match s.copyXlate c a ⟨true, false⟩ with
    | .error h => .error h
    | .ok (pa, _) => if (s.badHbm pa n).isSome then .error (.fault (eccFlt a)) else .ok (toBytes n (s.engineNum j pa n))
/-- A write within a word, or of a whole header; in deterministic mode a global write is held for the close (R279). -/
def State.copyWrite (s : State) (j : CopyJob) (a : Word) (bs : List Byte) : Except Halt State :=
  let n := bs.length
  if isLocal a then
    let d := s.phys j.core (poolCore a)
    let o := bits a 0 20
    match s.storeEcc d o n with
    | some f => .error (.fault f)
    | none => .ok (s.putLocal d o bs)
  else
    match s.copyXlate j.core a ⟨false, true⟩ with
    | .error h => .error h
    | .ok (pa, versioned) =>
      if s.narrowBad pa n then .error (.fault (eccFlt a))
      else if s.det j.core then
        let part := fun (o : Nat) (both : Bool) =>
          let w := (bs.drop o).take 8
          ({ id := s.uid + o / 8, ctx := 15, slice := sliceOf pa, va := a + nat64 o, pa := pa + o, n := w.length,
             data := nat64 (ofBytes w), versioned := versioned, recl := false, pc := j.id, both := both } : LaneEntry)
        let es := if n ≤ 8 then [part 0 false] else [part 0 true, part 8 false]
        .ok (s.updCore j.core fun k => { k with lanes := k.lanes ++ es }).fresh.fresh
      else if versioned && !s.roomFor pa n then .error .room
      else .ok (s.performWords pa bs versioned)

/-- The start addresses of the parts of a global range, page by page. -/
def pageStarts (a : Word) (len : Nat) : List Word :=
  (List.range ((a.toNat % 65536 + len + 65535) / 65536)).map fun i =>
    if i = 0 then a else nat64 (a.toNat / 65536 * 65536 + 65536 * i)
/-- A page of a global range that a copy may not touch at all (R259). -/
def State.seqIn (s : State) (c : Nat) (a : Word) (len : Nat) : Option Flt :=
  if isLocal a then none
  else (pageStarts a len).findSome? fun p =>
    match s.tableWalk (s.domOf c) p ⟨false, false⟩ with
    | .ok (_, at_, _) => if at_ = 2 then some (memPerm 73 p) else none
    | .error _ => none
/-- A pool range of a copy (R255, R257): a window of a core's pool; `acc` allows the accumulator window. -/
def State.poolRange (s : State) (c : Nat) (a : Word) (len : Nat) (acc : Bool) : Option Flt :=
  let d := s.phys c (poolCore a)
  let k := s.core d
  let o := bits a 0 20
  if poolNameBad a then some (memPerm 69 a)
  else if !s.inRange c (poolCore a) || !s.isUser d then some (memFlt .pool a)
  else if ctrBase < o + len then some (memPerm 76 a)
  else if o + len ≤ k.spSize then none
  else if accBase ≤ o ∧ o + len ≤ accBase + k.accSize then if acc then none else some (memPerm 76 a)
  else some (memFlt .pool a)
/-- What may be said of a range before any byte of it is touched. -/
def State.rangeFlt (s : State) (c : Nat) (a : Word) (len : Nat) (acc : Bool) : Option Flt :=
  if isLocal a then s.poolRange c a len acc
  else if bits a 57 7 ≠ 0 ∨ 2 ^ 57 < a.toNat + len then some (xlateFlt (s.domOf c) .xlate 3 a)
  else s.seqIn c a len

/-! ## The end of a copy (R257, R259) -/

def streamerOf (j : CopyJob) : Nat := agent (j.core / 64) (if j.kind < 0x40 then 0 else 1)
/-- The counter that a request's word 3 names: a local form is one of core `rcore` (R255). -/
def State.copyCounter (s : State) (j : CopyJob) : Except Flt CName :=
  let rc := s.phys j.core (hRcore j.hdr)
  match s.counterName rc j.cnt with
  | .ok (.loc n) => .ok (if rc = j.core then .loc n else .far rc n)
  | .ok (.far d n) => .ok (if d = j.core then .loc n else .far d n)
  | r => r
def State.dropJob (s : State) (j : CopyJob) : State := { s with jobs := s.jobs.filter fun k => k.id != j.id }
/-- A copy fails: its record, by the request's fault path, and the fault bit of its counter (R259). An ILL record's a is the kind
(R256), which is no address. -/
def State.copyFail (s : State) (j : CopyJob) (f : Flt) : State := s.stamped j.core j.id fun s =>
  let s := s.logViolation j.core 15 f
  let g : Flt := { code := f.code, obj := nat64 j.kind, a := f.addr, b := nat64 j.done,
                   addr := if f.code = .ill then 0 else f.addr, d0 := f.d0, d1 := f.d1 }
  let rc := s.phys j.core (hRcore j.hdr)
  let s := (s.dropJob j).postTo (streamerOf j) rc (some (hRchan j.hdr)) false (s.record j.core 15 0xFFFF clsEngine g)
  if j.cnt = 0 then s else s.faultCounter (streamerOf j) rc j.cnt
/-- Writes of a copy that are held for a close (R279). -/
def State.copyHeld (s : State) (j : CopyJob) : Bool := (s.core j.core).lanes.any fun l => l.ctx == 15 && l.pc == j.id
/-- Every byte of a copy has been read. -/
def CopyJob.over (j : CopyJob) : Bool := j.pieces == [] && (!j.tile || j.done != 0)
/-- A copy whose every write is performed: 1 is added to its counter (R257). -/
def State.copyDone (s : State) (j : CopyJob) : State := s.stamped j.core j.id fun s =>
  let s := s.dropJob j
  if j.cnt = 0 then s
  else
    match s.copyCounter j with
    | .ok n => s.addName (streamerOf j) j.core 15 n j.cnt 1 [] .sys true
    | .error _ => s

/-! ## Requests (R256, R258, R261) -/

/-- The ranges of two copies' ends meet (R258). -/
def State.meet (s : State) (c : Nat) (a b : Word) (len : Nat) : Bool :=
  let sect := fun (x y n m : Nat) => decide (x < y + m) && decide (y < x + n)
  if isLocal a && isLocal b then poolCore a == poolCore b && sect (bits a 0 20) (bits b 0 20) len len
  else
    let span := fun (w : Word) (p : Word) => Nat.min (w.toNat + len) (p.toNat / 65536 * 65536 + 65536) - p.toNat
    !isLocal a && !isLocal b && (pageStarts a len).any fun p => (pageStarts b len).any fun q =>
      match s.copyXlate c p ⟨false, false⟩, s.copyXlate c q ⟨false, false⟩ with
      | .ok (x, _), .ok (y, _) => sect x y (span a p) (span b q)
      | _, _ => false
/-- The bytes of a source, up to the first that cannot be read. -/
def State.readAhead (s : State) (j : CopyJob) (a : Word) : Nat → List Byte
  | 0 => []
  | n + 1 =>
    match s.copyRead j a 8 with
    | .ok bs => bs ++ s.readAhead j (a + 8) n
    | .error _ => []
/-- A MOVE or GCOPY whose ranges meet, as far as their pages are mapped, reads ahead what it can of its source (R258): when it begins, and
before each beat, as servicing may map a page in between (R334). -/
def State.ahead (s : State) (j : CopyJob) : CopyJob :=
  match j.pieces with
  | [p] =>
    if j.tile || p.halo.isSome || decide (j.done + p.len ≤ j.snap.length) || !s.meet j.core p.src p.dst p.len then j
    else
      let snap := j.snap ++ List.replicate (j.done - j.snap.length) 0
      let n := snap.length - j.done
      { j with snap := snap ++ s.readAhead j (p.src + nat64 n) ((p.len - n) / 8) }
  | _ => j
/-- The address forms that a kind takes (R256). -/
def formsOk (kind : Nat) (src dst : Word) : Bool :=
  if kind = 0x20 then !isLocal src && isLocal dst
  else if kind = 0x21 then isLocal src && !isLocal dst
  else if kind = 0x22 then !isLocal src && !isLocal dst
  else isLocal src && isLocal dst
/-- The first thing wrong with a GET, PUT, GCOPY or MOVE request. -/
def State.copyBad (s : State) (j : CopyJob) (w2 : Word) : Option Flt :=
  let c := j.core
  let len := bits w2 0 40
  let unit := if j.tile then 16 else 8
  if ctlBad w2 ∨ bits w2 56 6 ≠ 0 then some (memPerm 69 w2)
  else if !formsOk j.kind j.src j.dst then some (memPerm 75 j.src)
  else if j.src.toNat % unit ≠ 0 then some (memFlt .align j.src)
  else if j.dst.toNat % unit ≠ 0 then some (memFlt .align j.dst)
  else
    match (if j.cnt = 0 then none else match s.copyCounter j with
        | .error f => some { f with addr := j.cnt }
        | .ok _ => none) with
    | some f => some f
    | none =>
      if j.tile then none
      else (s.rangeFlt c j.src len true).or (s.rangeFlt c j.dst len (j.kind == 0x40))

/-- The mesh neighbour of a member at N, E, S or W (R229). -/
def Group.neighbour (t : Group) (me side : Nat) : Option Nat :=
  let l := sortBy (fun a b => decide (a ≤ b)) t.members
  match l.findIdx? (· == me) with
  | none => none
  | some p =>
    let x := p % t.meshW
    let y := p / t.meshW
    if side = 0 then (if 0 < y then l[p - t.meshW]? else none)
    else if side = 1 then (if x + 1 < t.meshW then l[p + 1]? else none)
    else if side = 2 then (if y + 1 < t.meshH then l[p + t.meshW]? else none)
    else if 0 < x then l[p - 1]? else none
/-- Where each direction's bytes go, relative to B: source and destination offsets and length (R261). A row that is shorter than ew
sends its last ew bytes from its start on: the spec says nothing of it, and this is the model's choice (log 85). -/
def Block.sends (k : Block) (ew side : Nat) : List (Int × Int × Nat) :=
  let rows := List.range k.H
  let at_ := fun (r : Nat) (o : Int) => (r * k.P : Nat) + o
  if side = 0 then [(0, at_ k.H 0, k.R)]
  else if side = 2 then [(at_ (k.H - 1) 0, -(k.P : Int), k.R)]
  else if ew = 0 then []
  else if side = 3 then rows.map fun r => (at_ r 0, at_ r k.R, ew)
  else rows.map fun r => (at_ r (k.R - ew : Nat), at_ r (-(ew : Int)), ew)
/-- The runs of a HALO, N, E, S and W; the last of a direction adds to the receiver's halo counter of the facing side. -/
def State.haloPieces (s : State) (j : CopyJob) (k : Block) (ew : Nat) : List Piece :=
  let t := s.group j.core k.g
  let B : Int := (bits j.src 0 20 : Nat)
  (List.range 4).flatMap fun side =>
    match t.neighbour (s.rel j.core) side with
    | none => []
    | some d =>
      let l := k.sends ew side
      l.zipIdx.map fun (e, i) =>
        { src := at_ 1 63 ||| at_ (s.rel j.core) 40 ||| w64 (B + e.1),
          dst := at_ 1 63 ||| at_ d 40 ||| w64 ((B + e.2.1) % 2 ^ 20), len := e.2.2,
          halo := if i + 1 = l.length then some (s.phys j.core d, 2044 + (side + 2) % 4) else none }
/-- The first thing wrong with a HALO request (R261, R292). -/
def State.haloBad (s : State) (j : CopyJob) (k : Block) (w1 w2 : Word) : Option Flt :=
  let ew := bits w2 0 16
  let B := bits j.src 0 20
  let t := s.group j.core k.g
  if !isLocal j.src || poolNameBad j.src || poolCore j.src != s.rel j.core then some (memPerm 69 j.src)
  else if bits w1 60 4 ≠ 0 ∨ bits w2 16 48 ≠ 0 ∨ k.bad ew then some (memPerm 69 w1)
  else if B % 8 ≠ 0 then some (memFlt .align j.src)
  else if !s.isMember j.core k.g then some { s.notMem j.core k.g with addr := j.src }
  else if t.meshW = 0 ∨ t.meshH = 0 then some (memPerm 69 w1)
  else if (s.core j.core).spSize < B + (k.H - 1) * k.P + k.R then some (memFlt .pool j.src)
  else
    match (if j.cnt = 0 then none else match s.copyCounter j with
        | .error f => some { f with addr := j.cnt }
        | .ok _ => none) with
    | some f => some f
    | none => (s.haloPieces j k ew).findSome? fun p => s.poolRange j.core p.dst p.len false

/-- A request of a kind that an event takes, at a streamer. -/
def State.requestAt (s : State) (id : Nat) (kind : Nat → Bool) (k : State → CopyJob → List Word → State) : State :=
  match s.deliverable id with
  | some p =>
    match p.body with
    | .request h ws =>
      if !kind (hKind h) then s
      else
        let j : CopyJob := { id := p.id, kind := hKind h, core := p.src, ctx := p.srcCtx, hdr := h, cnt := ws.getD 3 0,
                             src := ws.getD 0 0, dst := ws.getD 1 0, tile := (ws.getD 2 0).getLsbD 55,
                             wm := if (ws.getD 2 0).getLsbD 51 then some (bits (ws.getD 2 0) 52 3) else none }
        if ws.length ≠ 4 then (s.sink p).copyFail j { code := .ill, addr := nat64 (hKind h) }
        else k (s.sink p) j ws
    | _ => s
  | none => s
/-- A copy begins at its streamer. -/
def State.beginCopy (s : State) (j : CopyJob) (ws : List Word) : State :=
  let w2 := ws.getD 2 0
  let len := bits w2 0 40
  match s.copyBad j w2 with
  | some f => s.copyFail j f
  | none =>
    let ps := if j.tile then [] else [{ src := j.src, dst := j.dst, len := len : Piece }]
    { s with jobs := s.jobs ++ [s.ahead { j with pieces := ps }] }
def State.badKind (s : State) (j : CopyJob) : State := s.copyFail j { code := .ill, addr := nat64 j.kind }
/-- GET (R256); a kind of the slice streamer that is not assigned fails here. -/
def execGet (id : Nat) (s : State) : Out :=
  .next (s.requestAt id (fun k => k == 0x20 || (decide (0x22 < k) && decide (k < 0x40))) fun s j ws =>
    if j.kind = 0x20 then s.beginCopy j ws else s.badKind j)
/-- PUT (R256). -/
def execPut (id : Nat) (s : State) : Out := .next (s.requestAt id (· == 0x21) fun s j ws => s.beginCopy j ws)
/-- GCOPY (R256). -/
def execGcopy (id : Nat) (s : State) : Out := .next (s.requestAt id (· == 0x22) fun s j ws => s.beginCopy j ws)
/-- MOVE (R256); a kind of the cluster streamer that is not assigned fails here. -/
def execMove (id : Nat) (s : State) : Out :=
  .next (s.requestAt id (fun k => k == 0x40 || (decide (0x41 < k) && decide (k < 0x60))) fun s j ws =>
    if j.kind = 0x40 then s.beginCopy j ws else s.badKind j)
/-- HALO (R261). -/
def execHaloRequest (id : Nat) (s : State) : Out :=
  .next (s.requestAt id (· == 0x41) fun s j ws =>
    let j := { j with tile := false, wm := none }
    let k := readBlock (ws.getD 1 0)
    let w2 := ws.getD 2 0
    match s.haloBad j k (ws.getD 1 0) w2 with
    | some f => s.copyFail j f
    | none =>
      let ps := s.haloPieces j k (bits w2 0 16)
      let j := { j with dst := 0 }
      if ps.isEmpty then s.copyDone j else { s with jobs := s.jobs ++ [{ j with pieces := ps }] })

/-! ## Tiles (R146) -/

/-- A byte of a tile, wherever it lies: a copy reads each word at a moment of its own (R257). -/
def State.tileByte (s : State) (j : CopyJob) (a : Word) : TileRd := fun _ o =>
  match s.copyRead j (a + nat64 o) 1 with
  | .ok (b :: _) => b
  | _ => 0
/-- The header at a tile start, read whole (R141). -/
def State.tileAt (s : State) (j : CopyJob) (a : Word) : Except Halt TReg :=
  match s.copyRead j a 16 with
  | .ok x => .ok { w0 := (wordsOf 2 x).getD 0 0, w1 := (wordsOf 2 x).getD 1 0, addr := addr48 a }
  | .error h => .error h
/-- Bytes of a tile can be reached: in its window, or every page of them (R139, R143, R324). What lies between a line's end and the next
pitch step is no part of them (R133). -/
def State.spanReach (s : State) (c : Nat) (n : Need) (a : Word) (len : Nat) : Option Halt :=
  if len = 0 then none
  else if isLocal a then
    match s.badIn (s.phys c (poolCore a)) (bits a 0 20) len with
    | some o => if n.rd then some (.fault (eccFlt (localAddr o))) else none
    | none => none
  else
    match s.seqIn c a len with
    | some f => some (.fault f)
    | none => (pageStarts a len).findSome? fun p =>
      match s.copyXlate c p n with
      | .error h => some h
      | .ok (pa, _) =>
        let m := Nat.min (65536 - pa % 65536) (a.toNat + len - p.toNat)
        if n.rd ∧ (s.badHbm pa m).isSome then some (.fault (eccFlt p)) else none
def State.spansReach (s : State) (c : Nat) (n : Need) (a : Word) (l : List (Nat × Nat)) : Option Halt :=
  l.findSome? fun e => s.spanReach c n (a + nat64 e.1) e.2
/-- A tile's extent lies in a scratchpad (R143, R146), or below the end of the address space (R27); the counter window is refused as for any
copy (R257). -/
def State.extentFlt (s : State) (c : Nat) (a : Word) (len : Nat) : Option Flt :=
  if isLocal a then
    (s.poolRange c a len true).or (if (s.core (s.phys c (poolCore a))).spSize < bits a 0 20 + len then some (memFlt .pool a) else none)
  else if bits a 57 7 ≠ 0 ∨ 2 ^ 57 < a.toNat + len then some (xlateFlt (s.domOf c) .xlate 3 a) else none
/-- The headers of a tile copy, checked through step 4 of R138. -/
def State.copyHeaders (s : State) (j : CopyJob) : Except Halt (TReg × TReg) :=
  let head := fun (a : Word) => (s.extentFlt j.core a 16).or (s.seqIn j.core a 16)
  match (head j.src).or (head j.dst) with
  | some f => .error (.fault f)
  | none =>
    match s.tileAt j j.src, s.tileAt j j.dst with
    | .ok src, .ok d =>
      let here := fun (a : Word) (r : Except Flt Unit) => match r with
        | .error f => .error { f with addr := a }
        | .ok u => .ok u
      let checks : Except Flt Unit := do
        here j.src (checkHdr 0 src.w0 src.w1)
        here j.dst (checkHdr 0 d.w0 d.w1)
        here j.src (checkOk (srcOk false src) (comboFlt 0 4 src))
        here j.dst (checkOk (dstOk false src d) (comboFlt 0 3 d))
      match checks with
      | .error f => .error (.fault f)
      | .ok _ => .ok (src, d)
    | .error h, _ => .error h
    | _, .error h => .error h
/-- What stops a tile copy once its headers stand: the mode byte, step 5 of R138, extents, pages and bad words, steps and pairs. -/
def State.copyTileHalt (s : State) (j : CopyJob) (src d : TReg) : Option Halt :=
  let c := j.core
  let rd := s.tileByte j j.src
  let m := accMode src rd
  let e := moved src d m
  let at_ := fun (f : Flt) => Halt.fault { f with addr := if f.obj = 1 then j.dst else j.src }
  let r : Need := ⟨true, false⟩
  let shape := match moveShape 0 1 src d m m with
    | .error f => some (at_ f)
    | .ok _ => none
  let early := if src.fmt = 8 then (s.spansReach c r j.src src.areas).or ((areaFlt src (modeBad src rd)).map at_) else none
  let ext := (s.extentFlt c j.src (src.extent src.fmt m)).or (s.extentFlt c j.dst (e.extent e.fmt m))
  (early.or (shape.or (ext.map Halt.fault))).or
    (((s.spansReach c r j.src (src.areas ++ src.lineSpans src.fmt m (List.range src.lines))).or
      (s.spansReach c ⟨false, true⟩ j.dst ((0, 16) :: (if isVerbatim src d then e.areas else []) ++ e.lineSpans e.fmt m (List.range e.lines)))).or
    ((if isVerbatim src d ∨ d.scl ≠ 1 then none else s.spanReach c r (j.dst + nat64 d.scaleOff) 1).or
      ((areaFlt src (sourceBad src rd)).map at_)))
/-- What a tile copy writes, in ascending order of address and the header last (R141, R257), or why it stops. -/
def State.readTile (s : State) (j : CopyJob) : Except Halt (List (Nat × List Byte)) :=
  match s.copyHeaders j with
  | .error h => .error h
  | .ok (src, d) =>
    match s.copyTileHalt j src d with
    | some h => .error h
    | none =>
      let ws := (moveWrites src d (s.tileByte j j.src) (s.tileByte j j.dst)).1
      .ok (sortBy (fun a b => decide (a.1 ≤ b.1)) ws.dropLast ++ ws.drop (ws.length - 1))

/-! ## Beats (R257, R260) -/

/-- One word, or part of one, of the copy's first run. -/
def State.copyWord (s : State) (j : CopyJob) : Except Halt (State × CopyJob) :=
  match j.pieces with
  | [] => .ok (s, j)
  | p :: r =>
    let n := if p.whole then p.len else Nat.min p.len (8 - p.dst.toNat % 8)
    let ahead := (j.snap.drop j.done).take n
    match (if ahead.length = n then .ok ahead else s.copyRead j p.src n) with
    | .error h => .error h
    | .ok bs =>
      match s.copyWrite j p.dst bs with
      | .error h => .error h
      | .ok s =>
        let s := match (if isLocal p.src then none else (s.copyXlate j.core p.src ⟨true, false⟩).toOption) with
          | some (pa, _) => s.count (sliceOf pa) 4 n
          | none => s
        if n < p.len then
          .ok (s, { j with done := j.done + n,
                           pieces := { p with src := p.src + nat64 n, dst := p.dst + nat64 n, len := p.len - n } :: r })
        else
          let s := match p.halo with
            | some (d, k) => s.stamped j.core j.id fun s => s.transmit (streamerOf j) 15 d
                (.cadd k 1 (BitVec.ofNat 12 (s.rel j.core)) 15 0) [] .pkg false
            | none => s
          .ok (s, { j with done := j.done + n, pieces := r })
/-- Some words of a beat: it ends at a 64 B line of the destination, at the end of a run, or where it must stop. -/
def State.copyLine (s : State) (j : CopyJob) : Nat → State × CopyJob × Option Halt
  | 0 => (s, j, none)
  | n + 1 =>
    match s.copyWord j with
    | .error h => (s, j, some h)
    | .ok (s, k) =>
      match k.pieces with
      | [] => (s, k, none)
      | p :: _ => if p.dst.toNat % 64 = 0 ∨ k.pieces.length ≠ j.pieces.length then (s, k, none) else s.copyLine k n
def State.setJob (s : State) (j : CopyJob) : State := { s with jobs := s.jobs.map fun k => if k.id == j.id then j else k }
/-- The copy stops: it fails, or waits in place. -/
def State.haltCopy (s : State) (j : CopyJob) (h : Halt) : State :=
  match h with
  | .fault f => s.copyFail j f
  | .room => s.setJob { j with held := some (j.held.getD (s.ticks j.core)) }
  | .page va =>
    (s.pageReq j.core va).setJob { j with page := some (va, s.now) }
/-- A pool that is being re-divided takes no beat (R289). -/
def State.beatHeld (s : State) (j : CopyJob) : Bool :=
  match j.pieces with
  | p :: _ => isLocal p.dst && (s.core (s.phys j.core (poolCore p.dst))).clearing
  | [] => false
/-- A beat that ends counts as written at its watermark (R260). -/
def State.beatDone (s : State) (j : CopyJob) (at0 : Word) (n : Nat) : State :=
  match j.wm with
  | some w => if isLocal at0 ∧ bits at0 0 20 < accBase ∧ 0 < n then s.advanceMark (s.phys j.core (poolCore at0)) w (bits at0 0 20) n else s
  | none => s
/-- A copy moves on within its beat, by words of which each is one write (R257, R264), and completes with its last. -/
def State.copyOn (s : State) (j : CopyJob) : State :=
  let j := s.ahead j
  let at0 := ((j.pieces.head?.map fun (p : Piece) => p.dst).getD 0) - nat64 j.part
  let (s, k, h) := s.copyLine j (8 - Config.writesIn j.id s.now % 8)
  let n := j.part + (k.done - j.done)
  let ends := h.isNone && (k.pieces.length != j.pieces.length || k.pieces.all fun p => p.dst.toNat % 64 == 0)
  let s := if ends then s.beatDone k at0 n else s
  let k := { k with part := if ends then 0 else n }
  match h with
  | some h => s.haltCopy k h
  | none => if k.over && !s.copyHeld k then s.copyDone k else s.setJob k
/-- Bytes that a tile copy reads of HBM, by offset from a tile's start (R338). -/
def State.countSpans (s : State) (j : CopyJob) (a : Word) (l : List (Nat × Nat)) : State :=
  if isLocal a then s
  else l.foldl (fun s e =>
    let at_ := a + nat64 e.1
    (pageStarts at_ e.2).foldl (fun s p => match s.copyXlate j.core p ⟨true, false⟩ with
      | .ok (pa, _) => s.count (sliceOf pa) 4 (Nat.min (65536 - pa % 65536) (at_.toNat + e.2 - p.toNat))
      | .error _ => s) s) s
/-- What a tile copy reads: its source, the header of its destination, and that one's exponent where it converts (R146). -/
def State.tileCounted (s : State) (j : CopyJob) : State :=
  match s.copyHeaders j with
  | .ok (src, d) =>
    let m := accMode src (s.tileByte j j.src)
    (s.countSpans j j.src ((0, 16) :: src.areas ++ src.lineSpans src.fmt m (List.range src.lines))).countSpans j j.dst
      ((0, 16) :: if isVerbatim src d ∨ d.scl ≠ 1 then [] else [(d.scaleOff, 1)])
  | .error _ => s
/-- COPY_BEAT (R257): a tile copy first reads its headers and areas. -/
def execCopyBeat (job : Nat) (s : State) : Out :=
  .next (
    match s.jobs.find? (fun j => j.id == job) with
    | none => s
    | some j =>
      if j.held.isSome ∨ j.page.isSome ∨ s.beatHeld j ∨ j.over then s
      else if j.tile ∧ j.done = 0 ∧ j.pieces = [] then
        match s.readTile j with
        | .error h => s.haltCopy j h
        | .ok ws =>
          let ps := (ws.filter fun w => w.2 != []).map fun w =>
            ({ src := localAddr 0, dst := j.dst + nat64 w.1, len := w.2.length, whole := w.1 == 0 } : Piece)
          (s.tileCounted j).setJob { j with pieces := ps, snap := ws.flatMap (·.2) }
      else s.copyOn j)

/-! ## Held writes (R254) -/

/-- The work of a lane behind an expired write is not performed, nor is what a push has still to put there (R116, R254). -/
def State.dropLane (s : State) (c : Nat) (e : LaneEntry) : State :=
  let gone := (s.core c).lanes.filter (e.sameLane ·)
  let s := s.updCore c fun k =>
    let k := { k with lanes := k.lanes.filter fun l => !gone.any fun g => g.id == l.id }
    if e.ctx = 15 then k
    else
      let rest := (k.ctx e.ctx).push.filter fun l => !e.sameLane l
      (k.setCtx e.ctx { k.ctx e.ctx with push := rest }).refill e.ctx
  gone.foldl (fun s l => s.seqDone c l.ctx l.id) s
/-- Bytes of a copy that it has made and no close has written. -/
def State.unwritten (s : State) (j : CopyJob) : Nat :=
  (((s.core j.core).lanes.filter fun l => l.ctx == 15 && l.pc == j.id).map (·.n)).foldl (· + ·) 0
/-- Bytes that the next write of a run has at most. -/
def pieceLen (p : Piece) : Nat := if p.whole then p.len else 8
/-- A lane entry is performed at its slice; an engine's that meets a bad word fails its copy, and is reported by itself where that has
failed already (R259, R324). -/
def State.performEntry (s : State) (c : Nat) (e : LaneEntry) : State :=
  if e.ctx = 15 && s.narrowBad e.pa e.n then
    match s.jobs.find? (fun j => j.id == e.pc) with
    | some j => (s.dropLane c e).copyFail { j with done := j.done - s.unwritten j } (eccFlt e.va)
    | none => (s.updCore c fun k => { k with lanes := k.lanes.filter fun l => l.id != e.id }).postTo c c none false
        (s.record c 15 0xFFFF clsEngine (eccFlt e.va))
  else s.performLane c e
/-- The head of a lane is tried: a write that finds the version store full is held from this tick on (R254). -/
def State.tryLane (s : State) (c : Nat) (e : LaneEntry) : State :=
  if e.versioned && !e.recl && !s.roomFor e.pa (if e.both then 16 else 8) then
    let hold := fun (l : LaneEntry) => if l.id == e.id then { l with held := some (l.held.getD (s.ticks c)) } else l
    s.updCore c fun k => { k with lanes := k.lanes.map hold }
  else s.performEntry c e
/-- STORE_LANE_PERFORM (R266). -/
def execStoreLanePerform (core id : Nat) (s : State) : Out :=
  .next (
    let k := s.core core
    match k.lanes.find? (fun l => l.id == id) with
    | some e =>
      if s.det core || !k.laneHead e || s.loadBefore core e.ctx e.pa e.id || e.held.isSome then s else s.tryLane core e
    | none => s)
/-- HELD_WRITE_PERFORM (R254): a lane entry or a copy that waits for room is performed as soon as an entry is free. -/
def execHeldWritePerform (core id : Nat) (s : State) : Out :=
  .next (
    let k := s.core core
    match k.lanes.find? (fun l => l.id == id) with
    | some e =>
      if s.det core || e.held.isNone || !k.laneHead e || !s.hasRoom e.pa then s else s.performLane core e
    | none =>
      match s.jobs.find? (fun j => j.id == id && j.core == core) with
      | some j =>
        match j.held, j.pieces with
        | some _, p :: _ =>
          match s.copyXlate core p.dst ⟨false, true⟩ with
          | .ok (pa, true) => if s.roomFor pa (pieceLen p) then s.copyOn { j with held := none } else s
          | _ => s.copyOn { j with held := none }
        | _, _ => s
      | none => s)

/-- VERSION_HOLD_EXPIRY (R254): a store or an atomic stops its context with VFULL; a copy, or an engine's write held at a close,
takes the engine path. A held write whose copy has failed since is dropped by the limit of C0. -/
def execVersionHoldExpiry (core id : Nat) (s : State) : Out :=
  .next (
    let k := s.core core
    match k.lanes.find? (fun l => l.id == id) with
    | some e =>
      match e.held with
      | none => s
      | some t =>
        let f := s.vfull e.va e.pa e.pc
        if e.ctx = 15 then
          match s.jobs.find? (fun j => j.id == e.pc) with
          | some j =>
            if s.holdOver core j.ctx t then (s.dropLane core e).copyFail { j with done := j.done - s.unwritten j } { f with addr := e.va }
            else s
          | none => if s.holdOver core 0 t then s.dropLane core e else s
        else if s.holdOver core e.ctx t && (s.det core || !s.hasRoom e.pa) then (s.dropLane core e).defer core e.ctx f
        else s
    | none =>
      match s.jobs.find? (fun j => j.id == id && j.core == core) with
      | some j =>
        match j.held, j.pieces with
        | some t, p :: _ =>
          if s.holdOver core j.ctx t then
            match s.copyXlate core p.dst ⟨false, true⟩ with
            | .ok (pa, _) =>
              if s.roomFor pa (pieceLen p) then s else s.copyFail j { s.vfull p.dst pa 0 with addr := p.dst }
            | .error _ => s.setJob { j with held := none }
          else s
        | _, _ => s
      | none =>
        match k.hheld, k.handler with
        | some t, .atom src _ (.phys pa _) _ _ _ ctx out :: _ =>
          if out = id ∧ s.holdOver src ctx t ∧ (s.det src ∨ s.hasRoom pa = false) then
            let pc := ((s.ctx src ctx).outs.find? fun o => o.id == out).map fun (o : Outst) => o.pc
            let f := s.vfull (s.atomVa src ctx out) pa (pc.getD 0)
            if s.det src then
              (((s.handlerDone core).answered src).settle src ctx out none (some f)).push [.ev (.variableLatencyResult out)]
            else (s.handlerDone core).sendAtomr core src ctx out 0 (some f)
          else s
        | some t, .merge (.phys pa _) _ eng src :: _ =>
          let x := (s.fins.find? fun x => x.id == eng).map fun (x : Fin) => (x.ctx, x.amax)
          if eng = id ∧ s.holdOver src (x.getD (0, 0)).1 t ∧ (s.det src ∨ s.hasRoom pa = false) then
            let fail := fun (f : Fin) => if f.id == eng then
              { f with merge := false, flt := some (s.vfull f.amax pa 0) } else f
            { s.handlerDone core with fins := s.fins.map fail }
          else s
        | _, _ => s)

end Sys2Proof.Machine
end

