-- ==== Sys2Proof/Machine/Event.lean ====
section
/-! DEFINITION. The event engine (R295, R296, R299 to R317): the propensity tree, draws, the timed inbox, the Siding, and
its instructions. -/

namespace Sys2Proof.Machine
open Sys2Proof

/-! ## The tree (R300 to R302) -/

/-- FP64 and FP32 +∞. -/
def inf64 : Word := 0x7FF0000000000000
def inf32 : Nat := fmt32.infBits
/-- Levels of a tree of n leaves: log2 of the least power of two not below n. -/
def levels (n : Nat) : Nat := if n ≤ 1 then 0 else Nat.log2 (n - 1) + 1
/-- node(k, i) of R300, FP32. -/
def node (leaves : AMap Word32) : Nat → Nat → Nat
  | 0, i => (AMap.get 0 leaves i).toNat
  | k + 1, i => (fmt32.addB .rne (node leaves k (2 * i)) (node leaves k (2 * i + 1))).1
def EvEngine.a0 (e : EvEngine) : Nat := node e.leaves (levels e.n) 0
/-- λ of R302, in units of 2^-24. -/
def lambda24 : Nat := 11629080
/-- Tau of R302, as FP64 bits. -/
def tau (wd a0 : Nat) : Nat :=
  let x := match fmt32.read wd with
    | .fin _ m e =>
      let l := Nat.log2 m
      if m = 2 ^ l then (fmt32.round .rne false ((-(e + l)).toNat * lambda24) (-24) false).1
      else
        let v : Int := (e + l) * 2 ^ 100 + log2Go 100 (m * 2 ^ (logBits - l)) 0
        (fmt32.round .rne false ((v.natAbs - 1) * lambda24) (-124) true).1
    | _ => 0
  (fmt32.conv fmt64 .rne (fmt32.divB .rne x a0).1).1
/-- Pick of R302: the descent below node(k, i) with t. -/
def pickLeaf (leaves : AMap Word32) : Nat → Nat → Nat → Nat
  | 0, i, _ => i
  | k + 1, i, t =>
    let L := node leaves k (2 * i)
    let R := node leaves k (2 * i + 1)
    if (fmt32.cmpB .lt t L ∧ L ≠ 0) ∨ R = 0 then pickLeaf leaves k (2 * i) t
    else pickLeaf leaves k (2 * i + 1) (fmt32.subB .rne t L).1
/-- A draw of NEXTEV at an ordinal, valid in its range (R302). -/
def State.eventDraw (s : State) (n : Nat) (wait : Bool) : Except Fate Nat :=
  match s.drawAt true n with
  | .error f => .error f
  | .ok w =>
    let v := w.toNat
    if (if wait then decide (0 < v) && decide (v ≤ 0x3F800000) else decide (v < 0x3F800000)) then .ok v
    else .error (.fault (flt .tabend ((s.src.rtab.map (·.1)).getD 0) (nat64 n) (nat64 (2 ^ 32 + v))))
/-- The time of the region's next internal event (R302). -/
def State.nextTime (s : State) (e : EvEngine) : Except Fate Word :=
  if e.a0 = 0 then .ok inf64
  else
    match s.eventDraw s.src.rord.toNat true with
    | .error f => .error f
    | .ok wd => .ok (nat64 (fmt64.addB .rne e.clock.toNat (tau wd e.a0)).1)

/-! ## Keys and the inbox (R303 to R305) -/

def EvKey.lt (a b : EvKey) : Bool :=
  let r := fun (k : EvKey) => match k.region with | none => 0 | some n => n + 1
  decide (a.time.toNat < b.time.toNat) || (a.time == b.time &&
    (decide (r a < r b) || (r a == r b && decide (a.seq < b.seq))))
/-- The least of some keys. -/
def leastKey : List EvKey → Option EvKey
  | [] => none
  | k :: r =>
    match leastKey r with
    | none => some k
    | some m => some (if m.lt k then m else k)
def State.engine (s : State) : EvEngine := s.myCore.event
def State.updEngine (s : State) (c : Nat) (f : EvEngine → EvEngine) : State :=
  s.updCore c fun k => { k with event := f k.event }
/-- The TIMED of a CANCEL (R305): the message that it was built to cancel. A rollback gives a key out again, so that the key alone would not
tell it from a TIMED sent since (log 45). -/
def EvEngine.target (e : EvEngine) (x : InEntry) : Option InEntry := e.inbox.find? fun i => !i.cancel && some i.pkt == x.gone
/-- Entries that have landed in an earlier cycle (R304). -/
def EvEngine.seen (e : EvEngine) (now : Nat) : List InEntry := e.inbox.filter fun i => decide (i.landed < now)
/-- Entries leave the inbox and free their slots. -/
def State.dropEntries (s : State) (c : Nat) (l : List InEntry) : State :=
  let s := l.foldl (fun s i => s.freeSlot c 61 i.slot) s
  s.updEngine c fun e => { e with inbox := e.inbox.filter fun i => !l.contains i }
/-- The INFO record of a CANCEL that found nothing to cancel (R305). -/
def State.late (s : State) (c : Nat) (k : EvKey) : State :=
  (s.place c (some 63) false (s.record c 15 0xFFFF clsInfo
    { code := .siding, obj := nat64 (k.region.getD 0), a := 5, b := k.time, d0 := nat64 k.seq })).1

/-- A TIMED or CANCEL enters ch61 and the inbox, or is refused as a MSG is (R304, R306). -/
def State.inboxArrival (s : State) (id kind : Nat) (k : State → Nat → InEntry → State) : State :=
  match s.arrivingWords id with
  | some (p, h, ws) =>
    if hKind h ≠ kind ∨ p.dst % 64 = 63 then s
    else
      let c := p.dst
      let t := s.sink p
      let no := fun (r : Nat) => (t.sendHw c p.src (.refusedTimed r (hRchan h) h p.id)).count (c / 64) 8 1
      if s.absent c then no 0x0F
      else
        let ch := (s.core c).chan 61
        if !ch.bound then no 0x0E
        else
          match (if ch.room then ch.free else none) with
          | none => no 0x02
          | some i =>
            let e : InEntry := { slot := i, cancel := kind == 0x0B, src := p.src, landed := s.now, done := none,
                                 pkt := p.id, gone := ((s.core p.src).event.flight.find? fun f => f.pkt == p.id).bind (·.gone),
                                 key := { time := ws.getD 0 0, region := some (hRcore h), seq := bits (ws.getD 1 0) 0 32 } }
            let slot : Slot := { kind := if kind = 0x0B then .cancel else .timed, hdr := h, src := p.src, scope := p.scope }
            let owe : Owed := { src := p.src, chan := hRchan h, pkt := p.id, landed := s.now }
            let t := (t.land c 61 slot (h :: ws)).updEngine c fun v => { v with inbox := v.inbox ++ [e], owed := v.owed ++ [owe] }
            k t c e
  | none => s
/-- TIMED_ARRIVAL (R304). -/
def execTimedArrival (id : Nat) (s : State) : Out := .next (s.inboxArrival id 0x0A fun s _ _ => s)
/-- The TIMED of a CANCEL from core `src` was refused, so that no region has it (R306). -/
def State.neverTaken (s : State) (src : Nat) (pkt : Option Nat) : Bool :=
  match pkt with
  | none => true
  | some t => (s.core src).event.flight.any (fun f => f.pkt == t && f.again.isSome) || s.net.any fun p => match p.body with
    | .refusedTimed _ _ _ k => k == t
    | _ => false
/-- CANCEL_ARRIVAL (R305). A CANCEL that finds room where its TIMED did not has nothing to cancel, and its TIMED is not sent again: it is
discarded, with no record, since no slot of its TIMED was freed (log 45). -/
def execCancelArrival (id : Nat) (s : State) : Out :=
  .next (s.inboxArrival id 0x0B fun s c e =>
    match (s.core c).event.target e with
    | none => if s.neverTaken e.src e.gone then s.dropEntries c [e] else (s.dropEntries c [e]).late c e.key
    | some t => if t.done.isNone then s.dropEntries c [t, e] else s)

/-! ## Rollback (R307, R308) -/

/-- The latest snapshot whose key precedes K, with the number of those up to it. -/
def EvEngine.snapBefore (e : EvEngine) (K : EvKey) : Option (Snap × Nat) :=
  let l := e.snaps.zipIdx.filter fun (s, _) => s.last.lt K
  l.getLast?.map fun (s, i) => (s, i + 1)
/-- Log entries are undone, newest first. -/
def State.undo (s : State) (c : Nat) : List LogEntry → State
  | [] => s
  | .leaf i old :: r => (s.updEngine c fun e => { e with leaves := AMap.set e.leaves i old }).undo c r
  | .bytes off old :: r => (s.putLocal c off (toBytes 8 old.toNat)).undo c r
/-- The CANCEL of a send record (R303, R308). -/
def SendRec.toCancel (r : SendRec) (own : Nat) : SendRec :=
  { r with hdr := header (hDest r.hdr) 61 own (hRchan r.hdr) 0x0B 2 (hTag r.hdr) }
/-- Rollback to K (R308), or SIDING: no snapshot, or a cancel queue that would exceed its 1,024 (R307); that reason has no code in
R307's table, so the record's is a free value (log 45). A TIMED that still awaits its resend is dropped, with no CANCEL (R306). -/
def State.rollback (s : State) (c : Nat) (K : EvKey) : Except Flt State :=
  let e := (s.core c).event
  match e.snapBefore K with
  | none => .error (flt .siding 0 4 K.time)
  | some (S, n) =>
    let own := s.rel c
    let gone := e.sends.drop S.sendN
    let waits := fun (r : SendRec) => e.flight.any fun f => f.pkt == r.pkt && f.again.isSome
    let new := (gone.filter fun r => !waits r).map fun r => r.toCancel own
    if 1024 < e.cancels.length + new.length then .error (flt .siding 0 (Config.freeWord s.free) 1024) else
    let s := s.undo c (e.log.drop S.logN).reverse
    let keep := fun (f : InFlight) => !gone.any fun r => r.pkt == f.pkt && f.again.isSome
    let back := fun (i : InEntry) => match i.done with
      | some d => if S.doneN ≤ d then { i with done := none } else i
      | none => i
    let s := s.updEngine c fun v =>
      { v with log := v.log.take S.logN, sends := v.sends.take S.sendN, doneN := S.doneN, clock := S.clock, seq := S.seq,
               last := S.last, snaps := v.snaps.take n, inbox := v.inbox.map back, flight := v.flight.filter keep,
               cancels := v.cancels ++ new }
    let s := s.count (c / 64) 13 1
    .ok (match e.owner with
      | some x => s.updCtx c x fun k => { k with rord := S.rord }
      | none => s)
/-- Unapplied CANCELs annihilate with their TIMEDs, now unprocessed (R305, R314). -/
def State.annihilate (s : State) (c : Nat) : State :=
  let e := (s.core c).event
  let pairs := ((e.seen s.now).filter (·.cancel)).filterMap fun i =>
    match e.target i with
    | some t => if t.done.isNone then some [t, i] else none
    | none => none
  s.dropEntries c pairs.flatten
/-- The key that NEXTEV rolls back to (R314). -/
def EvEngine.rollKey (e : EvEngine) (now : Nat) : Option EvKey :=
  leastKey ((e.seen now).filterMap fun i =>
    if i.cancel then (e.target i).map fun _ => i.key
    else if i.done.isNone && i.key.lt e.last then some i.key else none)
/-- The loop of R314, with so many turns at most: the fault of a rollback leaves the ones before it done. -/
def State.rollAll (s : State) (c : Nat) : Nat → State × Option Flt
  | 0 => (s, none)
  | n + 1 =>
    match ((s.core c).event).rollKey s.now with
    | none => (s, none)
    | some K =>
      match s.rollback c K with
      | .error f => (s, some f)
      | .ok s => (s.annihilate c).rollAll c n

/-! ## The instructions (R310 to R316) -/

/-- An FP64 operand is a time (R310). -/
def isTime (w : Word) : Bool := decide (w.toNat ≤ inf64.toNat)
/-- Only the region context of a compute core goes on (R299). -/
def State.region (s : State) (k : State) : State :=
  if s.isCompute s.cur.core ∧ s.engine.owner = some s.cur.ctx then k else s.raise (perm 77 (nat64 s.cur.ctx))
/-- PTCFG (R311): what is in flight stays so, and a TIMED whose CANCEL it clears from the queue is cancelled no more. -/
def execPtcfg (a b : BitVec 6) (s : State) : Out :=
  .next (
    let c := s.cur.core
    let n := s.rs a
    let t := s.rs b
    let e := s.engine
    let ch := s.myCore.chan 61
    if !s.isCompute c ∨ (e.owner.isSome ∧ e.owner ≠ some s.cur.ctx) then s.raise (perm 77 (nat64 s.cur.ctx))
    else if 4096 < n.toNat then s.raise (perm 69 n)
    else if !isTime t ∨ t = inf64 then s.raise (perm 69 t)
    else if n ≠ 0 ∧ !(ch.bound && ch.polled) then s.raise (perm 69 61)
    else
      let fresh := fun (i : InEntry) => { i with done := none }
      let base : EvEngine := { inbox := e.inbox.map fresh, owed := e.owed, flight := e.flight }
      s.updEngine c fun _ =>
        if n = 0 then base
        else { base with owner := some s.cur.ctx, n := n.toNat, clock := t, gvt := t, h := inf64, e := inf64, last := { time := t } })
/-- PSET (R312): the rate is checked, with every node above it (R301). -/
def execPset (a b : BitVec 6) (s : State) : Out :=
  .next (s.region (
    let c := s.cur.core
    let e := s.engine
    let j := s.rs a
    let v := s.rs b
    let w : Word32 := if v = 0x80000000 then 0 else v.setWidth 32
    let leaves := AMap.set e.leaves j.toNat w
    let bad := decide (2 ^ 31 ≤ w.toNat) || decide (inf32 ≤ w.toNat % 2 ^ 31) ||
      (List.range (levels e.n)).any fun k => node leaves (k + 1) (j.toNat / 2 ^ (k + 1)) == inf32
    if e.n ≤ j.toNat then s.raise (perm 69 j)
    else if bits v 32 32 ≠ 0 then s.raise (perm 69 v)
    else if bad then s.raise (flt .rate 0 j v)
    else if e.snaps ≠ [] ∧ 8192 ≤ e.log.length then s.raise (flt .siding 0 2 8192)
    else s.updEngine c fun e =>
      { e with leaves := leaves, log := if e.snaps = [] then e.log else e.log ++ [.leaf j.toNat (AMap.get 0 e.leaves j.toNat)] }))
/-- PGET (R312). -/
def execPget (d a b : BitVec 6) (s : State) : Out :=
  .next (s.region (
    let e := s.engine
    let j := s.rs a
    let k := s.rs b
    if e.n ≤ j.toNat then s.raise (perm 69 j)
    else if levels e.n < k.toNat then s.raise (perm 69 k)
    else s.ws d (nat64 (node e.leaves k.toNat (j.toNat / 2 ^ k.toNat)))))
def minTime (a b : Word) : Word := if b.toNat < a.toNat then b else a
/-- The region bound of R296. -/
def EvEngine.bound (e : EvEngine) (ti : Word) (now : Nat) : Word :=
  (((e.seen now).filter fun i => i.cancel || i.done.isNone).map (fun (i : InEntry) => i.key.time) ++
    e.flight.map (fun (f : InFlight) => f.time) ++ e.cancels.map (fun (r : SendRec) => r.time)).foldl minTime ti
/-- RELEASE goes back for what an earlier cycle took into the inbox (R296, R305). -/
def State.payOwed (s : State) (c : Nat) : State :=
  let due := fun (o : Owed) => decide (o.landed < s.now)
  let l := (s.core c).event.owed.filter due
  let s := s.updEngine c fun e => { e with owed := e.owed.filter fun o => !due o }
  l.foldl (fun s o => s.sendHw c o.src (.release o.chan (some o.pkt))) s
/-- PSUM (R296, R313). -/
def execPsum (d a : BitVec 6) (s : State) : Out :=
  .next (s.region (
    let e := s.engine
    let c := s.cur.core
    let x := s.rs a
    if 5 < x.toNat then s.raise (perm 69 x)
    else if x = 2 then
      match s.nextTime e with
      | .error f => s.suffer f
      | .ok ti => (s.ws d (e.bound ti s.now)).payOwed c
    else s.ws d ([nat64 e.a0, e.clock, 0, e.gvt, e.h, e.e].getD x.toNat 0)))

/-- The draw of R314, once the cancel queue is empty. -/
def State.nextEvent (s : State) (d : BitVec 6) (c : Nat) : State :=
  let e := (s.core c).event
  match s.nextTime e with
  | .error f => s.suffer f
  | .ok ti =>
    let h := (e.seen s.now).filter fun i => !i.cancel && i.done.isNone
    let hk := leastKey (h.map fun (i : InEntry) => i.key)
    let te := (hk.map fun (k : EvKey) => k.time).getD inf64
    let lim := minTime (nat64 (fmt64.addB .rne e.gvt.toNat e.h.toNat).1) e.e
    let m := minTime ti te
    if lim.toNat < m.toNat ∨ m = inf64 then s.ws d (BitVec.allOnes 64)
    else
      let own := s.rel c
      let next := fun (s : State) => (s.updMe fun k => { k with rord := k.rord + 2 }).count (c / 64) 12 1
      let ik : EvKey := { time := ti, region := some own, seq := e.seq.toNat }
      match hk.bind fun k => if k.lt ik || (k.time == ti && k.region == some own) then h.find? (fun i => i.key == k) else none with
      | some i =>
        let take := fun (v : InEntry) => if v == i then { v with done := some e.doneN } else v
        let s := s.updEngine c fun v => { v with clock := i.key.time, last := i.key, inbox := v.inbox.map take, doneN := v.doneN + 1 }
        ((next s).acquire c (scopeTo c (s.phys c (i.key.region.getD 0)))).ws d
          (localAddr (((s.core c).chan 61).slotAddr i.slot))
      | none =>
        match s.eventDraw (s.src.rord + 1).toNat false with
        | .error f => s.suffer f
        | .ok qd =>
          let j := pickLeaf e.leaves (levels e.n) 0 (fmt32.mulB .rne qd e.a0).1
          (next (s.updEngine c fun v => { v with clock := ti, last := ik })).ws d (nat64 j)
/-- NEXTEV (R314). -/
def execNextev (d : BitVec 6) (w : BitVec 5) (s : State) : Out :=
  .next (s.region (
    let c := s.cur.core
    let (s, f) := s.rollAll c (s.engine.inbox.length + 1)
    match f with
    | some f => { s with free := s.free + 1 }.raise f
    | none => if s.engine.cancels ≠ [] then s.await (.nextev d w) w else s.nextEvent d c))

/-- EVSEND (R315). -/
def execEvsend (a b : BitVec 6) (s : State) : Out :=
  .next (s.region (
    let c := s.cur.core
    let e := s.engine
    let h := s.rs a
    let n := hWords h
    if !s.inRange c (hDest h) ∨ !s.isCompute (s.phys c (hDest h)) then s.raise (perm 52 (nat64 (hDest h)))
    else if !s.inRange c (hRcore h) then s.raise (perm 34 (nat64 (hRcore h)))
    else if 6 < n then s.raise (perm 16 (nat64 n))
    else s.payload (s.rs b) n fun ws =>
      if hRcore h ≠ s.rel c then s.raise (perm 34 (nat64 (hRcore h)))
      else if e.snaps ≠ [] ∧ 1024 ≤ e.sends.length then s.raise (flt .siding 0 3 1024)
      else s.request (hRchan h) fun s =>
        let h' := header (hDest h) 61 (hRcore h) (hRchan h) 0x0A (n + 2) (hTag h)
        let ps := [e.clock, e.seq.setWidth 64] ++ ws
        let f : InFlight := { hdr := h', payload := ps, time := e.clock, pkt := s.uid, cancel := false, again := none }
        let r : SendRec := { hdr := h', time := e.clock, seq := e.seq, pkt := s.uid }
        let s := s.updEngine c fun v => { v with seq := v.seq + 1, flight := v.flight ++ [f], sends := if v.snaps = [] then v.sends else v.sends ++ [r] }
        s.sendMe (s.phys c (hDest h)) (.words h' ps)))
/-- SNAP (R316). -/
def execSnap (s : State) : Out :=
  .next (s.region (
    let e := s.engine
    if 256 ≤ e.snaps.length then s.raise (flt .siding 0 1 256)
    else
      let S : Snap := { clock := e.clock, rord := s.src.rord, seq := e.seq, last := e.last, logN := e.log.length,
                        sendN := e.sends.length, doneN := e.doneN }
      s.updEngine s.cur.core fun e => { e with snaps := e.snaps ++ [S] }))
/-- ROLLB (R316). -/
def execRollb (a : BitVec 6) (s : State) : Out :=
  .next (s.region (
    let t := s.rs a
    if !isTime t then s.raise (perm 69 t)
    else { s with free := s.free + 1 }.orRaise (s.rollback s.cur.core { time := t }) id))
/-- SLOG (R316). -/
def execSlog (a b : BitVec 6) (s : State) : Out :=
  .next (s.region (
    let x := s.rs a
    let v := s.rs b
    let c := s.cur.core
    let e := s.engine
    let o := offOf x
    if x.toNat % 8 ≠ 0 then s.raise (memFlt .align x)
    else if !isLocal x then s.raise (memFlt .pool x)
    else s.orRaise (s.myCore.winOf x 8 false) fun _ =>
      s.behindAtoms (.pool o) (s.unmarked o 8 (
        if e.snaps = [] then s.putLocal c o (toBytes 8 v.toNat)
        else if 8192 ≤ e.log.length then s.raise (flt .siding 0 2 8192)
        else s.orRaise (s.readLocal c o 8) fun bs =>
          (s.updEngine c fun e => { e with log := e.log ++ [.bytes o (nat64 (ofBytes bs))] }).putLocal c o (toBytes 8 v.toNat)))))
/-- What `FOSSIL` discards (R309): everything older than the latest snapshot not after GVT; a CANCEL whose TIMED goes is late
(R305), also in the one run of R297's image where R297 asks for another end: the model's choice (log 93). -/
def State.fossil (s : State) (c : Nat) : State :=
  let e := (s.core c).event
  match (e.snaps.zipIdx.filter fun (S, _) => decide (S.clock.toNat ≤ e.gvt.toNat)).getLast? with
  | none => s
  | some (S, n) =>
    let old := fun (i : InEntry) => match i.done with
      | some d => decide (d < S.doneN)
      | none => false
    let s := s.dropEntries c (e.inbox.filter old)
    let cut := fun (z : Snap) => { z with logN := z.logN - S.logN, sendN := z.sendN - S.sendN }
    let s := s.updEngine c fun v =>
      { v with log := v.log.drop S.logN, sends := v.sends.drop S.sendN, snaps := (v.snaps.drop n).map cut }
    let v := (s.core c).event
    (v.inbox.filter fun i => i.cancel && (v.target i).isNone).foldl (fun s i => (s.dropEntries c [i]).late c i.key) s
/-- FOSSIL (R309, R316). -/
def execFossil (a : BitVec 6) (s : State) : Out :=
  .next (s.region (
    let t := s.rs a
    if !isTime t ∨ t.toNat < s.engine.gvt.toNat then s.raise (perm 69 t)
    else (s.updEngine s.cur.core fun e => { e with gvt := t }).fossil s.cur.core))
/-- HORIZ (R316). -/
def execHoriz (a b : BitVec 6) (s : State) : Out :=
  .next (s.region (
    let H := s.rs a
    let E := s.rs b
    if !isTime H then s.raise (perm 69 H)
    else if !isTime E then s.raise (perm 69 E)
    else s.updEngine s.cur.core fun e => { e with h := H, e := E }))

/-! ## What the engine sends by itself (R306, R308) -/

/-- The engine sends where its reply channel has a slot and the window room (R177, R189). -/
def State.engineSend (s : State) (c pkt : Nat) (h : Word) (ps : List Word) : Option State :=
  if (s.core c).window ≤ (s.core c).awaiting then none
  else
    match s.reserve c (hRchan h) with
    | .error _ => none
    | .ok s =>
      let d := s.phys c (hDest h)
      let p : Packet := { id := pkt, src := c, srcCtx := 15, dst := d, body := .words h ps, waits := [], scope := scopeTo c d,
                          released := !s.det c }
      some (({ s with net := s.net ++ [p] }.count (c / 64) 6 1).awaits c)
/-- A message whose 256 ticks are over may go again (R306): a TIMED once its CANCEL, where that has left, is known to be refused too, and a
CANCEL behind its TIMED, as they were issued (R187). -/
def EvEngine.mayResend (e : EvEngine) (now : Nat) (f : InFlight) : Bool :=
  (f.again.any fun t => decide (t ≤ now)) &&
    !e.flight.any fun g => (g.gone == some f.pkt && g.again.isNone) || (f.gone == some g.pkt && g.again.isSome)
/-- TIMED_RESEND (R306): the first message that may go and finds a reply slot, as a new packet. -/
def execTimedResend (core : Nat) (s : State) : Out :=
  .next (
    let e := (s.core core).event
    match (e.flight.filter (e.mayResend (s.ticks core))).findSome? (fun f => (s.engineSend core s.uid f.hdr f.payload).map fun t => (f, t)) with
    | none => s
    | some (f, t) =>
        let sent := fun (g : InFlight) =>
          if g.pkt == f.pkt then { g with again := none, pkt := s.uid } else if g.gone == some f.pkt then { g with gone := some s.uid } else g
        let named := fun (r : SendRec) => if r.pkt == f.pkt then { r with pkt := s.uid } else r
        (t.updEngine core fun e =>
          { e with flight := e.flight.map sent, sends := e.sends.map named, cancels := e.cancels.map named }).fresh)
/-- CANCEL_SEND (R308): the head of the cancel queue. -/
def execCancelSend (core : Nat) (s : State) : Out :=
  .next (
    match (s.core core).event.cancels with
    | [] => s
    | r :: _ =>
      let ps : List Word := [r.time, r.seq.setWidth 64]
      match s.engineSend core s.uid r.hdr ps with
      | none => s
      | some t =>
        let f : InFlight := { hdr := r.hdr, payload := ps, time := r.time, pkt := s.uid, cancel := true, again := none, gone := some r.pkt }
        (t.updEngine core fun e => { e with cancels := e.cancels.tail, flight := e.flight ++ [f] }).fresh)

end Sys2Proof.Machine
end

