-- ==== Sys2Proof/Machine/Sys.lean ====
section
/-! DEFINITION. CSRs and performance counts (R336 to R338), TRAP, BRK and HALT (R325), words that do not decode (R61), the
debugger (R326), soft errors (R324, R347), and the expiry of waits (R43). -/

namespace Sys2Proof.Machine
open Sys2Proof

/-! ## CSRs (R336, R337) -/

/-- The value of a CSR. -/
def State.csr (s : State) (n : Nat) : Word :=
  let c := s.cur.core
  let k := s.src
  let l := s.launchOf c
  match n with
  | 0x00 => nat64 (s.cycles (s.domOf c))
  | 0x01 => k.retired
  | 0x02 => k.flags.setWidth 64
  | 0x03 => k.frm.setWidth 64
  | 0x04 => k.ccnt
  | 0x05 => k.wlim.setWidth 64
  | 0x06 => k.rkey0.setWidth 64
  | 0x07 => k.rkey1.setWidth 64
  | 0x08 => k.rord.setWidth 64
  | 0x09 => nat64 ((l.map (·.quantum)).getD 0)
  | 0x0A => nat64 ((l.map (·.det)).getD false).toNat
  | 0x0B => nat64 (s.rel c)
  | 0x0C => nat64 ((l.map (·.lcount)).getD 0)
  | 0x0D => nat64 (2 ^ (s.domain (s.domOf c)).log2)
  | 0x0E => s.myCore.poolw
  | 0x0F => k.leaserun.setWidth 64
  | 0x10 => 64
  | _ => k.rsid.setWidth 64
/-- CSRR (R337). -/
def execCsrr (d csr : BitVec 6) (s : State) : Out := .next (s.ws d (s.csr csr.toNat))
/-- CSRW (R337): what the bundle raises is ORed into `flags` after the write. -/
def execCsrw (csr b : BitVec 6) (s : State) : Out :=
  .next (
    let v := s.rs b
    match csr.toNat with
    | 0x02 => s.updMe fun k => { k with flags := v.setWidth 6 ||| s.cur.raised }
    | 0x03 => s.updMe fun k => { k with frm := v.setWidth 2 }
    | 0x04 => s.updMe fun k => { k with ccnt := v }
    | 0x05 => if v = 0 ∨ 31 < v.toNat then s.raise (perm 69 v) else s.updMe fun k => { k with wlim := v.setWidth 5 }
    | 0x06 => s.updMe fun k => { k with rkey0 := v.setWidth 32 }
    | 0x07 => s.updMe fun k => { k with rkey1 := v.setWidth 32 }
    | 0x08 => s.updMe fun k => { k with rord := v.setWidth 46 }
    | 0x0F => if v = 0 ∨ 16 < v.toNat then s.raise (perm 69 v) else s.updMe fun k => { k with leaserun := v.setWidth 5 }
    | _ => s.updMe fun k => { k with rsid := v.setWidth 17 })
/-- PMRD (R338). -/
def execPmrd (d a : BitVec 6) (s : State) : Out :=
  .next (
    let v := s.rs a
    let base := s.domOf s.cur.core
    let p := bits v 6 6
    if bits v 12 52 ≠ 0 ∨ 2 ^ (s.domain base).log2 ≤ p then s.raise (perm 69 v)
    else s.ask (.pm (bits v 0 6) (base + p)) [d] 1 fun _ s => s)

/-! ## TRAP, BRK, HALT and undecodable words (R61, R325) -/

/-- TRAP (R325). -/
def execTrap (a : BitVec 6) (s : State) : Out := .next (s.raise (flt .trap 0 (s.rs a) 0))
/-- FREEZE stops every context at its bundle boundary, and the handler thread (R186, R326): the contexts keep the states that THAW
returns, and stand HALTED meanwhile (`State.stateOf`). The atomics and block reads that wait for the thread are refused. -/
def State.freezeCore (s : State) (c : Nat) : State :=
  let stays := fun (r : HReq) => match r with
    | .atom _ _ _ _ _ _ _ _ | .rdreq _ _ _ _ => false
    | _ => true
  let q := (s.core c).handler
  let first := match q with
    | r :: _ => stays r
    | [] => false
  let s := s.updCore c fun k => { k with frozen := true, handler := q.filter stays, hheld := if first then k.hheld else none }
  (q.filter fun r => !stays r).foldl (fun s r => s.refuseHalted c r) s
/-- The state of a context (R16): HALTED by the debugger while its core is frozen. -/
def State.stateOf (s : State) (c x : Nat) : CtxSt :=
  if (s.core c).frozen && (s.ctx c x).st != .free then .halted else (s.ctx c x).st
/-- BRK (R325): with the debug enable bit set it freezes the core, and its record goes to the host (R326). -/
def execBrk (s : State) : Out :=
  .next (
    let c := s.cur.core
    let f := flt .brk 0 0 0
    if s.myCore.dbg then
      let s := (s.count (c / 64) 15 1).toHost (c / 64) (s.record c s.cur.ctx s.cur.pc clsPrecise f)
      ((s.freezeCore c).updCore c fun k => { k with brkAt := some (s.cur.ctx, s.cur.pc + s.cur.size) }).fare (.fault f)
    else s.raise f)
/-- HALT (R325). -/
def execHalt (s : State) : Out :=
  .next (if s.me.outstanding ≠ 0 then s.parkMe else s.updMe fun k => { k with st := .halted })
/-- A word that does not decode (R61): `check` is the check that fails, `second` says which word of the bundle it is. -/
def execUndecodableWord (w : Word32) (check : Nat) (second : Bool) (s : State) : Out :=
  .next (s.raise { code := .ill, a := nat64 check, b := nat64 second.toNat, d0 := w.setWidth 64 })

/-! ## The debugger (R326) -/

/-- FREEZE (R326). -/
def execFreeze (core : Nat) (s : State) : Out :=
  .next (if (s.core core).frozen then s else s.freezeCore core)
/-- THAW (R326): contexts return to the states they held, past a BRK that froze the core, which counts as a bundle of the body it
stood in (R114). -/
def execThaw (core : Nat) (s : State) : Out :=
  .next (
    let k := s.core core
    if !k.frozen then s
    else
      let t := s.updCore core fun k => { k with frozen := false, brkAt := none }
      match k.brkAt with
      | some (x, next) => (t.retire core x next 1).repeats core x (t.ctx core x).srep
      | none => t)
/-- DEBUG_ENABLE (R326). -/
def execDebugEnable (core : Nat) (s : State) : Out := .next (s.updCore core fun k => { k with dbg := true })

/-! ## Soft errors (R324, R347) -/

/-- The status page's advisory word (R347). -/
def State.advisory (s : State) : Word :=
  (s.parts.filter fun e => e.2.advised).foldl (fun w e => w ||| at_ 1 e.1) 0
/-- A partition raises REPLACE_ADVISED: one ADVISORY entry to every enabled queue of its domain (R347). -/
def State.advise (s : State) (p : Nat) : State :=
  if (s.part p).advised then s
  else
    let s := s.updPart p fun q => { q with advised := true }
    let qs := s.queues.filter fun e => e.2.enabled && s.baseOf (e.1 / 1024) == s.baseOf p
    qs.foldl (fun s e => s.post e.1 [entry 6 p 0 0 [s.advisory]]) s
/-- SOFT_ERROR_CORRECTED (R324): more than 1,024 within 2^36 cycles raise REPLACE_ADVISED (R347). -/
def execSoftErrorCorrected (part : Nat) (s : State) : Out :=
  .next (
    let s := s.count part 14 1
    let s := s.updPart part fun q => { q with softErrs := (q.softErrs ++ [s.now]).filter fun t => decide (s.now < t + 2 ^ 36) }
    if 1024 < (s.part part).softErrs.length then s.advise part else s)
/-- UNCORRECTABLE_ERROR (R324). -/
def execUncorrectableError (site : ErrSite) (s : State) : Out :=
  .next (
    match site with
    | .counter c n =>
      let s := s.setCell c n { s.cell c n with fault := true, cause := 0x1A }
      (s.place c none false (s.record c 15 0xFFFF clsEngine { code := .ecc })).1
    | .ownState c =>
      let s := (s.count (c / 64) 15 1).toHost (c / 64) (s.record c 15 0xFFFF clsEngine { code := .ecc })
      (s.fateOf c 0 true).updCore c fun k => { k with failed := true }
    | .saveArea b h =>
      s.updDomain b fun d => match AMap.find d.saves h with
        | some v => { d with saves := AMap.set d.saves h { v with crcOk := false } }
        | none => d
    | _ => if s.bad.contains site then s else { s with bad := s.bad ++ [site] })

/-! ## Expiry (R43, R199, R200, R314) -/

/-- WAIT_EXPIRY (R43): the record holds the object and its two index values as they stand. -/
def execWaitExpiry (core ctx : Nat) (s : State) : Out :=
  .next (
    match s.expired core ctx with
    | none => s
    | some w =>
      let t := s.asIf core ctx
      let k := s.core core
      match w.instr with
      | .cwait a b _ =>
        match s.localCounter core (t.rs a) with
        | .ok n => t.raise (flt .wait (nat64 n) (s.cell core n).value (t.rs b))
        | .error _ => s
      | .qwait _ a _ =>
        let h := bits (t.rs a) 0 6
        let ch := k.chan h
        t.raise (flt .wait (nat64 h) (nat64 ch.headNow) (nat64 ch.tail))
      | .nextev _ _ =>
        match k.event.cancels with
        | r :: _ =>
          let h := hRchan r.hdr
          let ch := k.chan h
          t.raise (flt .wait (nat64 h) (nat64 ch.used) (nat64 ch.depth))
        | [] => s
      | _ => s)

end Sys2Proof.Machine
end

