-- ==== Sys2Proof/Machine/Xlate.lean ====
section
/-! DEFINITION. Host commands as the firmware takes them (R341, R343), and translation as units, walks and the host drive it
(R330 to R335). -/

namespace Sys2Proof.Machine
open Sys2Proof

/-! ## Taking a command (R341, R343) -/

/-- Statuses of R343. -/
def stOk : Nat := 0
def stBadcmd : Nat := 1
def stBadimg : Nat := 2
def stNohandle : Nat := 3
def stPlacement : Nat := 4
def stBusy : Nat := 5
def stTooLate : Nat := 6
def stNotfound : Nat := 7
def stCtxlanes : Nat := 8
def stBadsave : Nat := 9
def stRange : Nat := 10
def stPerm : Nat := 11
def stDown : Nat := 12
def stCancelled : Nat := 13

/-- Bytes `lo` to `lo + n - 1` of a command entry. -/
def arg (cmd : List Word) (lo n : Nat) : Nat := wordField cmd lo n
def cmdId (cmd : List Word) : Word32 := BitVec.ofNat 32 (arg cmd 4 4)
/-- A command completes: DONE with its status, and words from byte 16 (R342). -/
def State.done (s : State) (q : Nat) (id : Word32) (status : Nat) (ws : List Word) : State :=
  s.post q [entry 1 (q / 1024) id.toNat status ws]
/-- The domain that a queue serves (R340). -/
def State.queueDom (s : State) (q : Nat) : Nat := s.baseOf (q / 1024)
/-- A queue is enabled, and its doorbell shows one more command (R340). -/
def Queue.hasOne (k : Queue) : Bool := k.enabled && bits k.sqhead 0 16 % bits k.sizes 0 16 != bits k.sqtail 0 16 % bits k.sizes 0 16
/-- How far a queue stands behind the queue of its domain from which a command was taken last, by queue number. -/
def State.behind (s : State) (q : Nat) : Nat :=
  let last := (s.queues.filter fun e => s.queueDom e.1 == s.queueDom q).foldl (fun m e => if m.2 < e.2.turn then (e.1, e.2.turn) else m)
    (65535, 0)
  (q + 65535 - last.1) % 65536
/-- The firmware can take a command of the queue: it has one, and no queue of its domain that has one comes before it
(R340, R341; log 49). -/
def State.canTake (s : State) (q : Nat) : Bool :=
  s.ready && (s.queue q).hasOne &&
    s.queues.all fun e => !(s.queueDom e.1 == s.queueDom q && e.2.hasOne) || decide (s.behind q ≤ s.behind e.1)
def State.took (s : State) (q : Nat) : State :=
  let n := s.queues.foldl (fun m e => Nat.max m e.2.turn) 0
  s.updQueue q fun k => { k with sqhead := k.sqhead + 1, turn := n + 1 }
/-- Bits of an entry outside the fields of its command (R341): `mask` lists the operand bits by word, from byte 8 on. -/
def reservedClear (cmd mask : List Word) : Bool :=
  arg cmd 1 3 == 0 && (List.range 7).all fun i => cmd.getD (i + 1) 0 &&& ~~~(mask.getD i 0) == 0
/-- A command of opcode `op` is taken: an unknown opcode, whoever takes it, and a nonzero reserved field complete BADCMD; a
command of another kind is not this one. -/
def State.command (s : State) (q : Nat) (cmd : List Word) (op : Nat) (mask : List Word) (k : State → State) : State :=
  if !s.canTake q then s
  else
    let code := arg cmd 0 1
    if code = 0 ∨ 0x0C < code then (s.took q).done q (cmdId cmd) stBadcmd []
    else if code ≠ op then s
    else if reservedClear cmd mask then k (s.took q) else (s.took q).done q (cmdId cmd) stBadcmd []

/-! ## Entries (R330) -/

/-- Pages in 64 KiB units of an entry's page. -/
def pageUnits (big : Bool) : Nat := if big then 32 else 1
/-- A frame that MAP may install in a domain: a slice of the domain, below its usable capacity (R330, R343). -/
def State.frameOk (s : State) (base f : Nat) : Bool :=
  s.inDom base (f / 98304) && decide (f % 98304 < (s.part (f / 98304)).usable)
/-- An entry's reserved fields, and the frame of a 2 MiB page (R330). -/
def entryOk (e : Word) : Bool := bits e 24 16 == 0 && (!Entry.big e || bits e 0 5 == 0)
/-- Every version number of the frame's words becomes 0 (R252). -/
def State.clearVersions (s : State) (f n : Nat) : State :=
  let inF := fun (w : Nat) => decide (f ≤ w / 8192) && decide (w / 8192 < f + n)
  s.updPart (f / 98304) fun p => { p with
    vers := p.vers.filter fun e => !inF e.1
    retained := p.retained.filter fun e => !inF e.1 }
/-- One entry is installed: what the page held before is replaced, an entry that is not valid included. -/
def State.install (s : State) (base : Nat) (e : Word) (page : Nat) : State :=
  let big := Entry.big e
  let key := if big then 2 * (page / 32 * 32) + 1 else 2 * page
  let under := fun (k : Nat) => big && k % 2 == 0 && k / 64 == page / 32
  let s := s.updDomain base fun d =>
    let m := d.entries.filter fun x => !under x.1
    { d with entries := if e.getLsbD 63 then AMap.set m key e else AMap.erase m key }
  if e.getLsbD 63 && bits e 60 2 == 1 then s.clearVersions (bits e 0 24) (pageUnits big) else s
/-- A beat whose page has come is read again when its pop does (R334). -/
def Stream.refetch (t : Stream) (found : Word → Bool) : Stream :=
  let gone := fun (b : Beat) => match b.flt with
    | some f => f.code == .xlate && f.a == 1 && found f.addr
    | none => false
  if t.fetched.any gone then { t with fetched := t.fetched.takeWhile fun b => !gone b } else t
/-- A context whose page may have come is free to try again, as are a copy and a merge that wait for theirs. -/
def State.remapped (s : State) (base : Nat) : State :=
  let found := fun (va : Word) => (findEntry (s.domain base).entries va).isSome
  let s := (s.domCores base).foldl (fun s c => (List.range 11).foldl (fun s x =>
    let s := s.unstall c x fun r => match r with
      | .held va _ => found va
      | _ => false
    s.updCtx c x fun k => { k with
      xmiss := none, streams := k.streams.map fun (e : Nat × Stream) => (e.1, e.2.refetch found) }) s) s
  let s := (s.fins.filter fun f => s.domOf f.core == base && f.page.isSome && found f.amax).foldl (fun s f => s.retryMerge f) s
  { s with jobs := s.jobs.map fun j =>
      if s.domOf j.core = base then
        match j.page with
        | some (va, _) => if found va then { j with page := none } else j
        | none => j
      else j }
/-- A frame of a range lies under an entry whose withdrawal is not yet reported: it is not offered to MAP (R335). -/
def State.leaving (s : State) (f n : Nat) : Bool :=
  s.domains.any fun d => d.2.casts.any fun b => b.frames.any fun g => decide (g.1 < f + n) && decide (f < g.1 + g.2)
/-- MAP (R330, R334, R341): entries for pages that follow one another, frames rising by one page each. A frame that is being
withdrawn keeps the command in its ring until the report (log 62). -/
def execMapPages (q : Nat) (cmd : List Word) (s0 : State) : Out :=
  .next (s0.command q cmd 0x06 [BitVec.allOnes 64, 0xFFFFFFFF, BitVec.allOnes 64] fun s =>
    let base := s.queueDom q
    let va := cmd.getD 1 0
    let n := arg cmd 16 4
    let e := cmd.getD 3 0
    let u := pageUnits (Entry.big e)
    let owner := bits e 40 12
    let frame := fun (i : Nat) => bits e 0 24 + i * u
    let page := fun (i : Nat) => pageOf va / u * u + i * u
    if !entryOk e || !s.inRange (base * 64) owner || !s.isCompute (base * 64 + owner) then s.done q (cmdId cmd) stBadcmd []
    else if bits va 57 7 ≠ 0 ∨ 2 ^ 41 < page n then s.done q (cmdId cmd) stRange []
    else if !(List.range n).all fun i => (List.range u).all fun j => s.frameOk base (frame i + j) then
      s.done q (cmdId cmd) stRange []
    else if s.leaving (frame 0) (n * u) then s0
    else
      let s := (List.range n).foldl (fun s i => s.install base (e - at_ (bits e 0 24) 0 + at_ (frame i) 0) (page i)) s
      (s.remapped base).done q (cmdId cmd) stOk [])

/-! ## Withdrawal (R335) -/

/-- An entry of a page number and size is one that a broadcast selects. -/
def Broadcast.selects (b : Broadcast) (page : Nat) (big : Bool) : Bool :=
  b.all || ((match b.size with
    | some z => z == big
    | none => true) && decide (page < b.lo + b.count) && decide (b.lo < page + pageUnits big))
/-- The next frame boundary of the launch entry after this cycle, and the completion of what commits there (R227, R240). -/
def State.nextBoundary (s : State) (base : Nat) : Nat :=
  let start := match (s.domain base).launch with
    | some l => l.start
    | none => 0
  start + 8 * ((s.now - start) / 8 + 1)
/-- The page that a context's bundle waits for. -/
def Ctx.waitsPage (k : Ctx) : Option Nat :=
  match k.st, k.stall with
  | .stalled, some (.xlate p) => some p
  | _, _ => none
/-- The contexts of a domain that wait for pages, with the pages. -/
def State.pageWaiters (s : State) (base : Nat) : List (Nat × Nat × Nat) :=
  (s.domCores base).flatMap fun c => (List.range 11).filterMap fun x => ((s.ctx c x).waitsPage).map fun p => (c, x, p)
/-- Walks begin for the pages that contexts wait for and no shared unit holds, as far as the walkers take them (R331, R333). -/
def State.startWalks (s : State) (base : Nat) : State :=
  (s.pageWaiters base).foldl (fun s w =>
    match bufFind (s.part (w.1 / 64)).shared (pageVa w.2.2) with
    | some _ => s
    | none => s.startWalk base (pageVa w.2.2)) s
/-- Entries leave the tables and the shared units, and the broadcast is issued on the launch entry. -/
def State.withdraw (s : State) (base : Nat) (b : Broadcast) : State :=
  let d := s.domain base
  let gone := d.entries.filter fun e => b.selects (e.1 / 2) (e.1 % 2 == 1)
  let b := { b with frames := gone.map (fun e => (bits e.2 0 24, pageUnits (Entry.big e.2))), doneAt := s.nextBoundary base + 160 }
  let s := s.updDomain base fun d => { d with
    entries := d.entries.filter fun e => !b.selects (e.1 / 2) (e.1 % 2 == 1)
    casts := d.casts ++ [b] }
  ((s.domParts base).foldl (fun s p => s.updPart p fun q => { q with shared := q.shared.filter fun e => !b.selects e.1 e.2.1 })
    s).startWalks base
def cast (q : Nat) (id : Word32) (lo count : Nat) (all : Bool) (size : Option Bool) : Broadcast :=
  { q := q, id := id, lo := lo, count := count, all := all, size := size, frames := [], doneAt := 0, ended := false }
/-- UNMAP (R335, R341). -/
def execUnmapPages (q : Nat) (cmd : List Word) (s : State) : Out :=
  .next (s.command q cmd 0x07 [BitVec.allOnes 64, 0x1FFFFFFFF] fun s =>
    let va := cmd.getD 1 0
    let big := (cmd.getD 2 0).getLsbD 32
    let u := pageUnits big
    let lo := pageOf va / u * u
    let n := arg cmd 16 4 * u
    if bits va 57 7 ≠ 0 ∨ 2 ^ 41 < lo + n then s.done q (cmdId cmd) stRange []
    else s.withdraw (s.queueDom q) (cast q (cmdId cmd) lo n false (some big)))
/-- TLBFLUSH (R335, R341): a range of 64 KiB pages, or the whole domain. -/
def execTlbflush (q : Nat) (cmd : List Word) (s : State) : Out :=
  .next (s.command q cmd 0x08 [BitVec.allOnes 64, 0xFFFFFFFF] fun s =>
    let va := cmd.getD 1 0
    let n := arg cmd 16 4
    if bits va 57 7 ≠ 0 ∨ 2 ^ 41 < pageOf va + n then s.done q (cmdId cmd) stRange []
    else s.withdraw (s.queueDom q) (cast q (cmdId cmd) (pageOf va) n (n == 0) none))
/-- Of some cores, loads and packets, one holds an access that was translated through one of some frames. -/
def touched (fs : List (Nat × Nat)) (cores : List Core) (loads : List LoadReq) (net : List Packet) : Bool :=
  let hit := fun (pa : Nat) => fs.any fun f => decide (f.1 ≤ pa / 65536) && decide (pa / 65536 < f.1 + f.2)
  let at_ := fun (pl : Place) => match pl with
    | .phys pa _ => hit pa
    | .pool _ => false
  cores.any (fun k => k.lanes.any (fun l => hit l.pa) || k.ctxs.any (fun k => k.2.push.any fun l => hit l.pa) ||
    k.handler.any fun r => match r with
      | .atom _ _ pl _ _ _ _ _ | .merge pl _ _ _ => at_ pl
      | _ => false) ||
  loads.any (fun l => hit l.pa) ||
  net.any fun p => match p.body with
    | .atom _ pl _ _ _ _ _ | .merge pl _ _ => at_ pl
    | _ => false
/-- An access that was translated through one of some frames has still to be performed: by the domain as it runs, or by a launch that lies in
its save areas and performs it after RESUME (R328, R335). -/
def State.touches (s : State) (base : Nat) (fs : List (Nat × Nat)) : Bool :=
  touched fs ((s.domCores base).map s.core) (s.loads.filter fun l => s.domOf l.core == base)
    (s.net.filter fun p => s.baseOf (partOfKey p.dst) == base) ||
  (s.domain base).saves.any fun v => touched fs (v.2.cores.map (·.2)) v.2.loads v.2.net
/-- One broadcast: in its completion cycle buffers drop their entries; it is reported once every access through them is done. -/
def State.castStep (s : State) (base : Nat) (b : Broadcast) : State :=
  if s.now < b.doneAt then s
  else
    let s := if b.ended then s else
      let s := (s.domCores base).foldl (fun s c => s.updCore c fun k => { k with
          tlb := k.tlb.filter fun e => !b.selects e.1 e.2.1
          ctxs := k.ctxs.map fun (t : Nat × Ctx) => (t.1, { t.2 with xhave := t.2.xhave.filter fun e => !b.selects e.1 e.2.1 }) }) s
      s.updDomain base fun d => { d with casts := d.casts.map fun x => if x = b then { x with ended := true } else x }
    if s.touches base b.frames then s
    else
      (s.updDomain base fun d => { d with casts := d.casts.filter fun x => x != b && x != { b with ended := true } }).done
        b.q b.id stOk []
/-- TRANSLATION_BROADCAST (R335). -/
def execTranslationBroadcast (dom : Nat) (s : State) : Out :=
  .next ((s.domain dom).casts.foldl (fun s b => s.castStep dom b) s)

/-! ## Fills, walks and holds (R331, R333, R334) -/

/-- An entry reaches a core's buffer for a context whose bundle waits for it: the bundle has it, whatever drives it out of the buffer before
the bundle's other pages have come (R331). -/
def State.fill (s : State) (c x page : Nat) (e : Word) : State :=
  (s.updCore c fun k => { k with tlb := bufPut 64 k.tlb (pageVa page) e }).updCtx c x
    fun k => { k with xhave := bufPut (k.xhave.length + 1) k.xhave (pageVa page) e }
/-- TRANSLATION_FILL (R331): an entry of the shared unit reaches the core's buffer. -/
def execTranslationFill (core ctx : Nat) (s : State) : Out :=
  .next (
    match (s.ctx core ctx).waitsPage with
    | some p =>
      match bufFind (s.part (core / 64)).shared (pageVa p) with
      | some e => (s.fill core ctx p e).unstall core ctx fun _ => true
      | none => s
    | none => s)
/-- A walk has found what the tables hold for a waiting context, which tries its bundle again. -/
def State.answerWalk (s : State) (base c x page : Nat) : State :=
  let va := pageVa page
  let s := match findEntry (s.domain base).entries va with
    | some e =>
      (s.updPart (c / 64) fun q => { q with shared := bufPut 4096 q.shared va e }).fill c x page e
    | none => s.updCtx c x fun k => { k with xmiss := some page }
  s.unstall c x fun _ => true
/-- WALK_COMPLETE (R333): every context that waits for a page of the region is answered; requests beyond the 256 walks that a
walker holds then begin. -/
def execWalkComplete (part region : Nat) (s : State) : Out :=
  .next (
    if !(s.part part).walks.contains region then s
    else
      let base := s.baseOf part
      let s := s.updPart part fun q => { q with walks := q.walks.erase region }
      let s := (s.pageWaiters base).foldl (fun s w => if w.2.2 / 32 = region then s.answerWalk base w.1 w.2.1 w.2.2 else s) s
      s.startWalks base)
/-- Cycles of the device clock in n microseconds (R1). -/
def microCycles (n : Nat) : Nat := 1050 * n
/-- PAGEREQ_HOLD_EXPIRY (R334): the fault is delivered as it would be without servicing; context 15 names a copy of the core, or a drain's
merge. -/
def execPagereqHoldExpiry (core ctx : Nat) (s : State) : Out :=
  .next (
    let base := s.domOf core
    let past := fun (t : Nat) => decide (t + microCycles (s.domain base).holdUs ≤ s.now)
    if ctx = 15 then
      match s.jobs.find? (fun j => j.core == core && (match j.page with
        | some (_, t) => past t
        | none => false)) with
      | some j => match j.page with
        | some (va, _) => s.copyFail j (xlateFlt base .xlate 1 va)
        | none => s
      | none =>
        let gone := fun (f : Fin) => f.core == core && (match f.page with
          | some (t, _) => past t
          | none => false)
        { s with fins := s.fins.map fun f =>
            if gone f then { f with page := none, merge := false, flt := some (xlateFlt base .xlate 1 f.amax) } else f }
    else
      match (s.ctx core ctx).st, (s.ctx core ctx).stall with
      | .stalled, some (.held va t) => if past t then (s.asIf core ctx).raise (xlateFlt base .xlate 1 va) else s
      | _, _ => s)

end Sys2Proof.Machine
end

