-- ==== Sys2Proof/Machine/Load.lean ====
section
/-! DEFINITION. The IRX container and LOAD (R48 to R51, R341, R343). -/

namespace Sys2Proof.Machine
open Sys2Proof

/-- The little-endian number in `n` bytes of a file. -/
def fileNum (f : List Byte) (at_ n : Nat) : Nat := ofBytes ((f.drop at_).take n)
/-- A section-table entry (R50). -/
structure Section where
  type : Nat
  role : Nat
  off  : Nat
  size : Nat
  load : Nat
  deriving DecidableEq, Repr
def readSection (f : List Byte) (a : Nat) : Section :=
  { type := fileNum f a 2, role := fileNum f (a + 2) 2, off := fileNum f (a + 8) 8, size := fileNum f (a + 16) 8,
    load := fileNum f (a + 24) 8 }
/-- The header of R49: magic, version, size, zero field, table and check sum. -/
def headerOk (f : List Byte) : Bool :=
  decide (64 ≤ f.length) && fileNum f 0 4 == 0x1A585249 && fileNum f 4 2 == 1 && fileNum f 48 8 == f.length &&
    fileNum f 56 4 == 0 && fileNum f 8 8 % 16 == 0 && decide (fileNum f 8 8 + 32 * fileNum f 6 2 ≤ f.length) &&
    fileNum f 60 4 == crc32 (f.take 60 ++ List.replicate 4 0 ++ f.drop 64)
/-- A section of an assigned type that lies within the file (R50). -/
def sectionOk (f : List Byte) (a : Nat) (s : Section) : Bool :=
  decide (1 ≤ s.type) && decide (s.type ≤ 9) && fileNum f (a + 4) 4 == 0 && s.off % 16 == 0 && decide (s.off + s.size ≤ f.length)
def sections (f : List Byte) : List Section :=
  (List.range (fileNum f 6 2)).map fun i => readSection f (fileNum f 8 8 + 32 * i)
def Section.bytes (s : Section) (f : List Byte) : List Byte := (f.drop s.off).take s.size
/-- The records of `n` bytes that a section is cut into. -/
def Section.records (s : Section) (f : List Byte) (n : Nat) : List (List Byte) :=
  (List.range (s.size / n)).map fun i => ((f.drop (s.off + n * i)).take n)

/-- A spec of PLACEMENT or GROUPS (R51). -/
def readSpec (b : List Byte) : Spec :=
  { role := fileNum b 0 1, kind := fileNum b 1 1, lo := fileNum b 2 2, hi := fileNum b 4 2 }
def specOk (b : List Byte) : Bool := decide (fileNum b 1 1 ≤ 3) && fileNum b 6 2 == 0
/-- The entries of a GROUPS section: group, mesh width and height, specs as bytes. -/
def readGroups : Nat → List Byte → Option (List (Nat × Nat × Nat × List (List Byte)))
  | 0, b => if b = [] then some [] else none
  | n + 1, b =>
    if b = [] then some []
    else
      let k := fileNum b 4 4
      if b.length < 8 + 8 * k then none
      else
        match readGroups n (b.drop (8 + 8 * k)) with
        | some r => some ((fileNum b 0 2, fileNum b 2 1, fileNum b 3 1,
            (List.range k).map fun i => (b.drop (8 + 8 * i)).take 8) :: r)
        | none => none
/-- A ROLE section (R50). -/
def readRole (b : List Byte) : Role :=
  { poolw := BitVec.ofNat 64 (fileNum b 32 8), entry := BitVec.ofNat 32 (fileNum b 40 4),
    rkey0 := BitVec.ofNat 32 (fileNum b 44 4), rkey1 := BitVec.ofNat 32 (fileNum b 48 4),
    resident := BitVec.ofNat 64 (fileNum b 52 8) }
/-- A role with what the sections of its index hold. -/
def roleOf (f : List Byte) (l : List Section) (i : Nat) (s : Section) : Role :=
  let mine := fun (t : Nat) => l.filter fun x => x.role == i && x.type == t
  { readRole (s.bytes f) with
    code := (mine 1).map fun x => (x.load, x.bytes f)
    data := (mine 2).map fun x => (x.load, x.bytes f)
    channels := (mine 4).flatMap fun x => (x.records f 16).map fun b =>
      (fileNum b 0 1, fileNum b 1 1, fileNum b 2 1 + 1, BitVec.ofNat 32 (fileNum b 4 4), fileNum b 8 8)
    arms := (mine 5).flatMap fun x => (x.records f 16).map fun b =>
      (fileNum b 0 2, fileNum b 4 4, BitVec.ofNat 64 (fileNum b 8 8)) }
/-- The image that a file holds (R50, R51). -/
def readImage (f : List Byte) : Image :=
  let l := sections f
  { roles := l.foldl (fun m s => if s.type = 3 then AMap.set m s.role (roleOf f l s.role s) else m) []
    places := (l.filter fun s => s.type == 6).flatMap fun s => (s.records f 8).map readSpec
    groups := (l.filter fun s => s.type == 7).flatMap fun s =>
      ((readGroups s.size (s.bytes f)).getD []).map fun (g, w, h, b) => (g, w, h, b.map readSpec)
    keep := l.any fun s => s.type == 8 && (f.getD (s.off + 1) 0).getLsbD 0 }

/-- Sections hold whole records of their types, with fields within their ranges (R49 to R51). -/
def Section.ok (s : Section) (f : List Byte) (roles : List Nat) : Bool :=
  let owned := roles.contains s.role
  let recs := fun (n : Nat) (p : List Byte → Bool) => s.size % n == 0 && (s.records f n).all p
  match s.type with
  | 1 => owned && s.load % 4 == 0
  | 2 => owned
  | 3 => s.size == 64 && fileNum (s.bytes f) 60 4 == 0
  | 4 => owned && recs 16 fun b => decide (fileNum b 0 1 ≤ 63) && decide (fileNum b 1 1 ≤ 7) && fileNum b 3 1 == 0 &&
      handlerOk (BitVec.ofNat 64 (fileNum b 4 4)) && (fileNum b 0 1 != 61 || fileNum b 4 4 == 0xFFFFFFFF)
  | 5 => owned && recs 16 fun b => decide (fileNum b 0 2 ≤ 2043) && fileNum b 2 2 == 0
  | 6 => recs 8 fun b => specOk b && roles.contains (fileNum b 0 1)
  | 7 => match readGroups s.size (s.bytes f) with
    | some l => l.all fun (g, _, _, b) => decide (g ≤ 255) && b.all fun x => specOk x && fileNum x 0 1 == 0
    | none => false
  | 8 => s.size == 16 && decide (2 ≤ fileNum (s.bytes f) 0 1) && decide (fileNum (s.bytes f) 0 1 ≤ 8) &&
      decide (fileNum (s.bytes f) 1 1 ≤ 1) && fileNum (s.bytes f) 2 14 == 0
  | _ => true

/-- The canonical pool word of `.pool rf, acc` (R24, R25). -/
def poolwOk (w : Word) : Bool :=
  let rfu := bits w 0 4
  let acc := bits w 4 8
  decide (1 ≤ rfu) && decide (rfu ≤ 11) && decide (acc ≤ 128) &&
    w == (at_ (192 - 4 * rfu - acc) 12 ||| at_ acc 4 ||| at_ rfu 0)
/-- No two areas of a list share a byte. -/
def disjoint : List (Nat × Nat) → Bool
  | [] => true
  | a :: r => r.all (fun b => decide (a.2 ≤ b.1) || decide (b.2 ≤ a.1)) && disjoint r
/-- A byte of the scratchpad that a role's data give. -/
def Role.byte (r : Role) (a : Nat) : Option Byte :=
  r.data.findSome? fun d => if d.1 ≤ a then d.2[a - d.1]? else none
/-- An arm's descriptor lies on a 32-byte boundary, and its prio is the priority of its ring channel, where the role gives both (R46, R207). -/
def Role.armOk (r : Role) (off : Nat) : Bool :=
  off % 32 == 0 && (match r.byte (off + 4), r.byte (off + 5) with
    | some ring, some prio =>
      ((fixedPrio ring.toNat).or ((r.channels.find? fun c => c.1 == ring.toNat).map fun c => c.2.1)).all (· == prio.toNat)
    | _, _ => true)
/-- The rules of R48 and R207 on a role. -/
def Role.ok (r : Role) : Bool :=
  let areas := (r.data.map fun d => (d.1, d.1 + d.2.length)) ++ r.channels.map fun (_, _, n, _, ring) => (ring, ring + 64 * n)
  poolwOk r.poolw && r.code.all (fun c => decide (c.1 + c.2.length ≤ 65536)) &&
    disjoint (areas.filter fun a => a.1 != a.2) && areas.all (fun a => decide (a.2 ≤ bits r.poolw 12 8 * 2048)) &&
    r.arms.all (fun a => r.armOk a.2.1) && decide ((r.arms.map (·.1)).Nodup) && decide ((r.channels.map (·.1)).Nodup) &&
    (r.entry == 0xFFFFFFFF || (decide (r.entry.toNat ≤ 0xFFFC) && r.entry.toNat % 4 == 0))
/-- What LOAD requires of a file (R48 to R50). -/
def imageOk (f : List Byte) : Bool :=
  headerOk f &&
    ((List.range (fileNum f 6 2)).all fun i =>
      let a := fileNum f 8 8 + 32 * i
      sectionOk f a (readSection f a)) &&
    (let roles := ((sections f).filter fun s => s.type == 3).map (·.role)
     (sections f).all (fun s => s.ok f roles) && decide (roles.Nodup)) &&
    (readImage f).roles.all (fun e => e.2.ok) && decide (((readImage f).groups.map (·.1)).Nodup)

/-- LOAD (R341): `image` is the file at the host address of the command. -/
def execLoadImage (q : Nat) (cmd : List Word) (image : List Byte) (s : State) : Out :=
  .next (
    if image.length ≠ arg cmd 16 8 then s
    else s.command q cmd 0x01 [BitVec.allOnes 64, BitVec.allOnes 64] fun s =>
      let base := s.queueDom q
      if !imageOk image then s.done q (cmdId cmd) stBadimg []
      else
        let h := (s.domain base).nextImg
        (s.updDomain base fun d => { d with images := AMap.set d.images h (readImage image), nextImg := h + 1 }).done
          q (cmdId cmd) stOk [nat64 h])

end Sys2Proof.Machine
end

