-- ==== Sys2Proof/Machine/Launch.lean ====
section
/-! DEFINITION. Launches: LAUNCH and CANCEL (R341, R344), placement and setup (R23, R47, R51, R52), the go (R238), the
sweeps that find the end (R239, R240), and the end itself. -/

namespace Sys2Proof.Machine
open Sys2Proof

/-! ## Resolving specs (R47) -/

/-- The launch-relative ids that a spec matches among the cores of a domain. -/
def State.specIds (s : State) (base : Nat) (p : Spec) : List Nat :=
  let ps := List.range (2 ^ (s.domain base).log2)
  let ids :=
    if p.kind = 0 then [p.lo]
    else if p.kind = 1 then (List.range (p.hi + 1 - p.lo)).map (p.lo + ·)
    else if p.kind = 2 then ps.flatMap fun r => (List.range (p.hi + 1 - p.lo)).filterMap fun i =>
      if p.lo + i < 64 then some (r * 64 + p.lo + i) else none
    else ps.flatMap fun r => (List.range (s.part (base + r)).compute).map (r * 64 + ·)
  ids.filter fun r => decide (r / 64 < 2 ^ (s.domain base).log2) && s.isUser (base * 64 + r)
/-- The roles whose specs match a core. -/
def State.rolesAt (s : State) (base : Nat) (img : Image) (r : Nat) : List Nat :=
  ((img.places.filter fun p => (s.specIds base p).contains r).map (·.role)).dedup
/-- A group entry as the launch resolves it (R228). -/
def State.resolveGroup (s : State) (base w h : Nat) (specs : List Spec) : Group :=
  { members := sortBy (fun a b => decide (a ≤ b)) (specs.flatMap (s.specIds base)).dedup, meshW := w, meshH := h }
def State.resolveGroups (s : State) (base : Nat) (img : Image) : AMap Group :=
  img.groups.foldl (fun m (g, w, h, l) => AMap.set m g (s.resolveGroup base w h l)) []
/-- The launch is refused (R47). -/
def State.placementBad (s : State) (base : Nat) (img : Image) : Bool :=
  let gs := s.resolveGroups base img
  let cores := (s.domCores base).map (s.rel ·)
  cores.any (fun r => decide (1 < (s.rolesAt base img r).length) ||
    decide (4 < (gs.filter fun g => g.2.members.contains r).length)) ||
  gs.any fun g => (g.2.meshW != 0 || g.2.meshH != 0) && g.2.meshW * g.2.meshH != g.2.members.length

/-! ## Setup (R23, R51, R52) -/

/-- C0's registers at launch (R23); the other contexts take the role's keys. -/
def Role.contexts (r : Role) (args : Word) (id lcount lpart sp : Nat) : AMap Ctx :=
  (List.range 11).map fun x =>
    let c : Ctx := { rkey0 := r.rkey0, rkey1 := r.rkey1 }
    (x, if x = 0 then { c with
      pc := if r.entry = 0xFFFFFFFF then 0 else r.entry.toNat
      s := [(1, args), (2, nat64 id), (3, nat64 lcount), (4, nat64 lpart), (62, localAddr sp)] } else c)
/-- A placed core is set up, its arms apart; a resident role's code is left in place (R51, R52). -/
def Core.setup (k : Core) (r : Role) (keep : Bool) (args : Word) (id lcount lpart : Nat) : Core :=
  let skip := keep && k.resident == some r.resident
  let chans := r.channels.foldl (fun m (n, prio, depth, h, ring) => AMap.set m n
    ({ bound := true, handler := h, ring := ring, depth := depth, prio := (fixedPrio n).getD prio } : Channel)) []
  { rfu := bits r.poolw 0 4, acc := bits r.poolw 4 8
    imem := if skip then k.imem else r.code.foldl (fun m e => Memory.store brkByte m e.1 e.2) []
    pool := r.data.foldl (fun m e => Memory.store zeroByte m e.1 e.2) []
    channels := chans
    ctxs := r.contexts args id lcount lpart (bits r.poolw 12 8 * 2048)
    starts := r.entry != 0xFFFFFFFF
    resident := some r.resident
    lanes := k.lanes, tlb := k.tlb, frozen := k.frozen, dbg := k.dbg, failed := k.failed }
/-- A context that nothing of a launch is left in but its registers: it is FREE (R14, R240). -/
def Ctx.idle (k : Ctx) : Ctx :=
  { k with st := .free, pending := [], outs := [], push := [], resv := none, streams := [], srep := none, nests := [], heldQ := none,
           task := none, wait := none, stall := none, deferred := none, ending := false, startOn := [], xmiss := none, xhave := [] }
/-- What pushes have still to put into the lanes stands there (R116). -/
def Core.pushAll (k : Core) : Core := (k.ctxs.flatMap fun e => e.2.push).foldl Core.entered k
def Core.idle (k : Core) : Core := { k with ctxs := k.ctxs.map fun (e : Nat × Ctx) => (e.1, e.2.idle) }
/-- A core's units are empty, and its memories, registers and `poolw` keep what they hold: R25 gives an unplaced core's `poolw` no value at
launch, so that is the model's choice (log 60). -/
def Core.blank (k : Core) : Core :=
  { ctxs := k.idle.ctxs, rfu := k.rfu, acc := k.acc, imem := k.imem, pool := k.pool, undef := k.undef, resident := k.resident,
    lanes := k.lanes, tlb := k.tlb, frozen := k.frozen, dbg := k.dbg, failed := k.failed }
/-- At launch every context has the values of R12, R122 and R238; on a core without a role its program counter, registers and keys keep
what they hold (log 60). -/
def Ctx.launched (k : Ctx) : Ctx := { pc := k.pc, s := k.s, v := k.v, p := k.p, t := k.t, rkey0 := k.rkey0, rkey1 := k.rkey1 }
/-- A core of the launch that no role is placed on (log 60). -/
def Core.unplaced (k : Core) : Core := { k.blank with ctxs := k.ctxs.map fun e => (e.1, e.2.launched) }
/-- The loader arms a counter, as CARM would at value 0 (R46, R52). -/
def State.arm (s : State) (c : Nat) (a : Nat × Nat × Word) : State :=
  let s := s.setCell c a.1 { armed := true, target := a.2.2, desc := BitVec.ofNat 23 a.2.1 }
  if a.2.2 = 0 then s.fire c a.1 else s
/-- Setting up writes every byte of a placed core's pool, and of its instruction memory where code is written (R324, R52). -/
def State.setUp (s : State) (base : Nat) (l : Launch) (img : Image) (c : Nat) : State :=
  match (s.rolesAt base img (s.rel c)).head? with
  | none => s.updCore c Core.unplaced
  | some i =>
    let r := AMap.get {} img.roles i
    let skip := img.keep && (s.core c).resident == some r.resident
    let s := s.updCore c fun k => k.setup r img.keep l.args (s.rel c) l.lcount (2 ^ (s.domain base).log2)
    let s := { s with bad := s.bad.filter fun e => match e with
      | .pool d _ => d != c
      | .imem d _ => d != c || skip
      | _ => true }
    r.arms.foldl (fun s a => s.arm c a) s

/-! ## LAUNCH, CANCEL and dispatch (R341, R344) -/

/-- LAUNCH (R341, R344). -/
def execLaunch (q : Nat) (cmd : List Word) (s : State) : Out :=
  .next (s.command q cmd 0x02 [0xFFFFFFFF0001FFFF, BitVec.allOnes 64] fun s =>
    let base := s.queueDom q
    let n := arg cmd 12 4
    let img := arg cmd 8 2
    if n ≠ 0 ∧ (n < 1024 ∨ 2 ^ 20 < n) then s.done q (cmdId cmd) stBadcmd []
    else if (AMap.find (s.domain base).images img).isNone then s.done q (cmdId cmd) stNohandle []
    else s.updDomain base fun d => { d with
      queued := d.queued ++ [(q, cmdId cmd, img, (cmd.getD 1 0).getLsbD 16, if n = 0 then 16384 else n, cmd.getD 2 0)] })
/-- CANCEL (R344): the LAUNCH's DONE comes first. -/
def execCancelLaunch (q : Nat) (cmd : List Word) (s : State) : Out :=
  .next (s.command q cmd 0x03 [0xFFFFFFFF] fun s =>
    let base := s.queueDom q
    let d := s.domain base
    let id : Word32 := BitVec.ofNat 32 (arg cmd 8 4)
    if d.queued.any (fun e => e.1 == q && e.2.1 == id) then
      let s := s.updDomain base fun d => { d with queued := d.queued.eraseP fun e => e.1 == q && e.2.1 == id }
      (s.done q id stCancelled []).done q (cmdId cmd) stOk []
    else
      let isIt := fun (l : Launch) => l.q == q && l.id == id
      if (d.launch.any isIt) || d.saves.any (fun e => isIt e.2.launch) then s.done q (cmdId cmd) stTooLate []
      else s.done q (cmdId cmd) stNotfound [])
/-- LAUNCH_DISPATCH (R238, R344): every station's setup. -/
def execLaunchDispatch (dom : Nat) (s : State) : Out :=
  .next (
    let d := s.domain dom
    match d.queued with
    | (q, id, h, det, quantum, args) :: rest =>
      if d.launch.isSome || !d.saves.isEmpty then s
      else
        let s := s.updDomain dom fun d => { d with queued := rest }
        match AMap.find d.images h with
        | none => s.done q id stNohandle []
        | some img =>
          if (s.domParts dom).any fun p => (s.part p).down then s.done q id stDown []
          else if s.placementBad dom img then s.done q id stPlacement []
          else
            let l : Launch := { q := q, id := id, image := h, det := det, quantum := quantum, args := args,
                                lcount := s.computeCount dom, groups := s.resolveGroups dom img }
            let s := s.done q id stOk []
            let s := s.updDomain dom fun d => { d with launch := some l }
            let s := (s.domParts dom).foldl (fun s p => s.updPart p fun t => { t with pm := [], tts := [], jq := [], gates := [] }) s
            (s.domCores dom).foldl (fun s c => s.setUp dom l img c) s
    | [] => s)
/-- GO (R238): it completes 160 cycles after the boundary that follows its issue, under the stations' own grid. -/
def execGo (dom : Nat) (s : State) : Out :=
  .next (
    match (s.domain dom).launch with
    | some l =>
      match l.phase with
      | .setup => s.updLaunch dom fun l => { l with phase := .going (8 * (s.now / 8 + 1) + 160) }
      | _ => s
    | none => s)
/-- Times of a core that a save holds as ages and remainders, as ticks of the resumed launch again (R215, R306, R329). -/
def Core.agesIn (k : Core) (now : Nat) : Core :=
  let again := fun (f : InFlight) => { f with again := f.again.map (now + ·) }
  { k with
    channels := k.channels.map fun (h : Nat × Channel) => (h.1, { h.2 with waitFrom := h.2.waitFrom.map fun w => (w.1, now - w.2) })
    stealWait := k.stealWait.map (now + ·), event := { k.event with flight := k.event.flight.map again } }
/-- GO_COMPLETE (R226, R238): cycle 0 of the grid; C0 of every core with an entry point becomes READY. A resumed launch goes
on where its contexts stood, and its `LDV` requests begin their limits again (R285, R329). -/
def execGoComplete (dom : Nat) (s : State) : Out :=
  .next (
    match (s.domain dom).launch with
    | some l =>
      match l.phase with
      | .going t =>
        if s.now < t then s
        else
          let u := s.updLaunch dom fun l => { l with phase := .running, start := s.now, qstart := if l.resumed then l.qstart else s.now }
          if l.resumed then
            let u := (s.domCores dom).foldl (fun u c => u.updCore c fun k => k.agesIn (u.ticks c)) u
            { u with loads := u.loads.map fun q => if u.domOf q.core = dom then { q with start := u.ticks q.core } else q }
          else (s.domCores dom).foldl (fun u c =>
            if (u.core c).starts then u.updCtx c 0 fun k => { k with st := .ready } else u) u
      | _ => s
    | none => s)

/-! ## The end (R239, R240) -/

/-- Engine commands that a core issued are outstanding. -/
def State.engineWork (s : State) (c : Nat) : Bool :=
  !(s.slot c).queue.isEmpty || !(s.core c).tileQ.isEmpty || s.fins.any (fun f => f.core == c) ||
    s.jobs.any (fun j => j.core == c) || s.net.any (fun p => p.src == c && p.body.asks)
/-- A slot that a task may take, landed in this cycle or before (R213). -/
def State.hasTask (s : State) (c : Nat) : Bool :=
  (s.core c).channels.any fun (h, ch) =>
    !(h == 0 && (c % 64 == 48 || c % 64 == 49)) && h != 61 && !ch.polled && ch.slots.any fun t => !t.2.taken
/-- A core is idle (R239). A core whose every context a record at the host halted is idle whatever its slots (R322); one that
pre-emption has stopped counts its contexts as FREE (R328). -/
def State.idleCore (s : State) (c : Nat) (stopped : Bool) : Bool :=
  let k := s.core c
  let still := (List.range 11).all fun x => (k.ctx x).st == .free || (k.ctx x).st == .halted
  let allHalted := (List.range 11).all fun x => (k.ctx x).st == .halted
  (stopped || (still && !k.frozen && (allHalted || !s.hasTask c))) && k.handler.isEmpty && !s.engineWork c && k.stealOut.isNone &&
    k.ctxs.all fun e => e.2.push.isEmpty
/-- Messages sent and sunk by a domain's partitions (R239, R338). -/
def State.traffic (s : State) (base : Nat) : Nat × Nat :=
  let sum := fun (e : Nat) => ((s.domParts base).map fun p => (AMap.get 0 (s.part p).pm e).toNat).foldl (· + ·) 0
  (sum 6, sum 7)
/-- What is left in a stopped domain beside what is saved (R328, R285): results, lanes and engine work that still run. A
deterministic launch keeps what waits for its close. -/
def State.drained (s : State) (base : Nat) (det : Bool) : Bool :=
  (s.domCores base).all fun c =>
    let k := s.core c
    let left := fun (o : Outst) => match o.kind with
      | .ldv _ _ => o.vals.isSome || o.flt.isSome || !s.loads.any fun q => q.id == o.id
      | .atomRemote | .jq | .claim _ _ => !det || o.vals.isSome || o.flt.isSome
      | _ => !(det && s.loads.any fun q => q.id == o.id && q.attr == 2)
    k.ctxs.all (fun t => !t.2.outs.any left && t.2.push.isEmpty) && (det || k.lanes.isEmpty) && !k.clearing && (det || k.handler.isEmpty) &&
      (s.slot c).queue.isEmpty && k.tileQ.isEmpty && s.fins.all (fun f => f.core != c || (det && f.merge)) &&
      s.jobs.all (fun j => j.core != c || j.page.isSome || (det && j.over)) &&
      !s.net.any fun p => p.src == c && (p.released || p.body.within)
/-- The launch runs, or pre-emption has stopped it and it drains. -/
def LPhase.sweeps : LPhase → Option Bool
  | .running => some false
  | .stopped _ _ _ => some true
  | _ => none
/-- What a sweep finds in a domain: every agent idle, messages sent and sunk. -/
def State.tapIdle (s : State) (base : Nat) (l : Launch) (stopped : Bool) : Bool :=
  if stopped && l.det then s.drained base true
  else (s.domCores base).all (fun c => s.idleCore c stopped) && (!stopped || s.drained base false)
/-- SWEEP (R240): from a frame boundary at which every tap reports idle; in deterministic mode at a quantum close. It commits at
the next boundary. -/
def execSweep (dom : Nat) (s : State) : Out :=
  .next (
    match (s.domain dom).launch with
    | some l =>
      match l.phase.sweeps with
      | some stopped =>
        let at_ := (s.now - l.start) % 8 == 0 && (!l.det || stopped || (l.qstart == s.now && l.qn != 0))
        if at_ && l.sweep.isNone && s.tapIdle dom l stopped then
          let t := s.traffic dom
          let t := if stopped && l.det then (t.1, t.1) else t
          s.updLaunch dom fun l => { l with sweep := some (s.now + 168), now := some (true, t.1, t.2) }
        else s
      | none => s
    | none => s)
/-- Fault records of a domain that are on their way when it ends go to the host, as what is delivered to a core that is down does (R178). -/
def State.recordsOut (s : State) (dom : Nat) : State :=
  s.net.foldl (fun s p => match p.body with
    | .fault _ rec _ => if s.baseOf (partOfKey p.dst) == dom then (s.count (partOfKey p.dst) 15 1).toHost (partOfKey p.dst) rec else s
    | _ => s) s
/-- A launch ends: LAUNCHEND (R342), and nothing of it issues any more. Registers and the event engine keep their final content
(R13, R127, R298), the engine unbound (R299), and stores in lanes complete on their own (R95). -/
def State.endLaunch (s : State) (dom status : Nat) : State :=
  match (s.domain dom).launch with
  | some l =>
    let s := (s.recordsOut dom).post l.q [entry 2 dom l.id.toNat status [nat64 (s.cycles dom)]]
    let inD := fun (c : Nat) => s.baseOf (partOfKey c) == dom
    let t := { s with
      net := s.net.filter fun p => !inD p.src && !inD p.dst
      loads := s.loads.filter fun q => !inD q.core
      jobs := s.jobs.filter fun j => !inD j.core
      fins := s.fins.filter fun f => !inD f.core }
    let t := t.updDomain dom fun d => { d with launch := none }
    (t.domCores dom).foldl (fun t c => t.updCore c fun k => { k.pushAll.idle with
      handler := [], tileQ := [], event := { k.event with owner := none }, stealOut := none, hheld := none, tapped := false }) t
  | none => s
/-- LAUNCH_END (R240): a sweep completes; when it agrees with the one before it, the launch ends, or a pre-empted domain is
quiet (R328). -/
def execLaunchEnd (dom : Nat) (s : State) : Out :=
  .next (
    match (s.domain dom).launch with
    | some l =>
      match l.sweep, l.now with
      | some t, some (idle, a, b) =>
        if s.now < t then s
        else if idle && a == b && l.prev == some (a, b) then
          match l.phase with
          | .stopped _ q id => s.updLaunch dom fun l => { l with phase := .quiet q id, sweep := none, now := none, prev := none }
          | _ => s.endLaunch dom stOk
        else s.updLaunch dom fun l => { l with sweep := none, now := none, prev := if idle then some (a, b) else none }
      | _, _ => s
    | none => s)

end Sys2Proof.Machine
end

