-- ==== Sys2Proof/Machine/Preempt.lean ====
section
/-! DEFINITION. Pre-emption, the context save and RESUME (R262, R263, R327 to R329). -/

namespace Sys2Proof.Machine
open Sys2Proof

/-- PREEMPT (R327, R344): the stop is issued at the next frame boundary and commits at the one after it. Before the launch runs, and while
it is being stopped, the command is not taken (log 52). -/
def execPreempt (q : Nat) (cmd : List Word) (s : State) : Out :=
  .next (
    let base := s.queueDom q
    let go := fun (s : State) => s.updLaunch base fun l => { l with phase := .stopping (s.nextBoundary base + 168) q (cmdId cmd).toNat }
    match (s.domain base).launch with
    | none => s.command q cmd 0x04 [] fun s => s.done q (cmdId cmd) stOk [0xFFFF]
    | some l =>
      if l.phase ≠ .running ∧ arg cmd 0 1 = 4 ∧ reservedClear cmd [] = true then s
      else s.command q cmd 0x04 [] go)

/-- A use has committed before the stop (R233); in deterministic mode it commits with its quantum's close (R244). -/
def Launch.useCommitted (l : Launch) (stop : Nat) (t : Group) : Bool :=
  t.whole && (if l.det then (match l.closeAt with
    | some k => decide (k < stop + 160)
    | none => false) else decide (commitAt l.start t.arrivals < stop))
/-- A wait whose use has committed before the stop is not abandoned (R233). -/
def State.committed (s : State) (l : Launch) (stop c x : Nat) (w : Wait) : Bool :=
  match (s.asIf c x).catOp w.instr with
  | some o =>
    let t := s.group c o.g
    w.arrived && t.arrivals.any (fun a => a.core == c && a.ctx == x) && l.useCommitted stop t
  | none => false
/-- A wait is abandoned (R43, R327): its instruction issues again on RESUME. An arrival, a request for a lease and a contribution
that has not been accepted are withdrawn with it. -/
def State.abandon (s : State) (c x : Nat) (w : Wait) : State :=
  let s := match w.instr with
    | .lease => s.dropLease c
    | .rdsend d _ _ => if w.arrived then s else s.dropContrib c (w.ids.headD 0) (bits ((s.asIf c x).rs d) 8 6)
    | i =>
      match (s.asIf c x).catOp i with
      | some o => s.updGroup c o.g fun t => { t with arrivals := t.arrivals.filter fun a => a.core != c || a.ctx != x }
      | none => s
  s.updCtx c x fun k => { k with st := .ready, wait := none }
/-- The waits of a domain. -/
def State.waits (s : State) (base : Nat) : List (Nat × Nat × Wait) :=
  (s.domCores base).flatMap fun c => (s.core c).ctxs.filterMap fun k =>
    match k.2.st, k.2.wait with
    | .waiting, some w => some (c, k.1, w)
    | _, _ => none
/-- PREEMPT_STOP (R327): in the stop cycle issue and dispatch end and uncommitted arrivals are withdrawn; a wait whose condition
holds in that cycle still completes, and every other is abandoned after it. -/
def execPreemptStop (dom : Nat) (s : State) : Out :=
  .next (
    match (s.domain dom).launch with
    | some l =>
      match l.phase with
      | .stopping t q id =>
        if s.now < t then s
        else
          let ws := (s.waits dom).filter fun (c, x, w) => w.arrived && ((s.asIf c x).catOp w.instr).isSome && !s.committed l t c x w
          let u := s.updLaunch dom fun l => { l with
            phase := .stopped t q id, base := l.base + (s.now - l.start), sweep := none, now := none, prev := none
            groups := l.groups.map fun (g : Nat × Group) => (g.1, if l.useCommitted t g.2 then g.2 else { g.2 with arrivals := [] })
            closeAt := match l.closeAt with
              | some k => if k < t + 160 then some k else none
              | none => none }
          ws.foldl (fun u (c, x, w) => u.updCtx c x fun k => { k with wait := some { w with arrived := false } }) u
      | .stopped t _ _ =>
        if s.now ≤ t then s
        else ((s.waits dom).filter fun (c, x, w) => !s.committed l t c x w).foldl (fun s (c, x, w) => s.abandon c x w) s
      | _ => s
    | none => s)

/-! ## The save (R262, R263, R328) -/

/-- A context as its record holds it: what it waits for by time or by buffer is tried again on RESUME, and beats fetched ahead are
fetched again (R116). -/
def Ctx.saved (k : Ctx) (s : State) (c : Nat) : Ctx :=
  let st := k.st
  let keeps := match k.stall with
    | some (.seq id) => s.loads.any (fun q => q.id == id) || (s.core c).lanes.any (fun l => l.id == id) ||
        k.outs.any (fun o => o.id == id && o.open_)
    | some .quantum => true
    | _ => false
  { k with
    st := if st = .waiting ∨ (st = .stalled ∧ !keeps) then .ready else st
    stall := if st = .stalled ∧ keeps then k.stall else none
    streams := k.streams.map fun (e : Nat × Stream) => (e.1, { e.2 with fetched := [], part := [] })
    xmiss := none, xhave := [] }
/-- Times of a core as a save holds them: how long a channel has waited (R215), and how long a steal or a resend has still to wait. -/
def Core.agesOut (k : Core) (now : Nat) : Core :=
  let again := fun (f : InFlight) => { f with again := f.again.map (· - now) }
  { k with
    channels := k.channels.map fun (h : Nat × Channel) => (h.1, { h.2 with waitFrom := h.2.waitFrom.map fun w => (w.1, now - w.2) })
    stealWait := k.stealWait.map (· - now), event := { k.event with flight := k.event.flight.map again } }
/-- A core as its save area holds it (R262); the buffers are no part of it. -/
def Core.saved (k : Core) (s : State) (c : Nat) : Core :=
  let keep := fun (e : Nat × Ctx) => (e.1, e.2.saved s c)
  { k.agesOut (s.ticks c) with ctxs := k.ctxs.map keep, tlb := [], lbuf := [], frozen := false, brkAt := none, tapped := false }
/-- A quiescent image (R263). -/
def Core.quiescent (k : Core) : Bool :=
  k.ctxs.all (fun e => e.2.st == .free) && (List.range 64).all fun i => AMap.get 0 k.lord i == AMap.get 0 k.lord 0
/-- Accumulators in the Turntables go to the pools before these are saved (R262); the arrays are idle then, and their next runs
restore what they need (R148, R149). -/
def State.spillAll (s : State) (base : Nat) : State :=
  let s := (s.domCores base).foldl (fun s c => if s.isCompute c then s.spill c else s) s
  (s.domParts base).foldl (fun s p => s.updPart p fun q =>
    { q with tts := q.tts.map fun (t : Nat × Turntable) => (t.1, { t.2 with current := none }) }) s
/-- A core's save area (R262): header, section table and eight sections, but for CONTEXTS in a quiescent image (R263). Where the sections
lie, how long they are but for COUNTERS, and how much of the area is used are free values (log 15). -/
def State.saveArea (s : State) (l : Launch) (lcore : Nat) (quiescent : Bool) : Area :=
  let types := [1, 2, 3, 4, 5, 6, 7, 8].filter fun t => !(quiescent && t == 4)
  let free := fun (i : Nat) => Config.freeWord (s.free + 18 * lcore + i)
  let lanes := if quiescent then 0 else 64
  let head := [at_ 0x31565342 0 ||| at_ 1 32 ||| at_ lanes 48 ||| at_ l.det.toNat 56, at_ lcore 0 ||| at_ types.length 16, 0, 0, 0, 0, 0, 0] ++
    types.flatMap fun t => [at_ t 0 ||| at_ (bits (free (2 * t)) 0 20) 32, if t = 2 then 49152 else nat64 (bits (free (2 * t + 1)) 0 20)]
  { head := head, used := Nat.max (8 * head.length + 49152) (bits (free 0) 0 20), draw := s.free + 18 * 4096 + 2 ^ 17 * lcore }
/-- Where the COUNTERS section of an area lies. -/
def Area.counters (e : Area) : Nat := ((List.range 8).findSome? fun i =>
  let w := e.head.getD (8 + 2 * i) 0
  if bits w 0 16 = 2 then some (bits w 32 32) else none).getD (2 ^ 20)
/-- A byte of an area as it was saved, the check apart: header and table, the cells (R184), or a free value. -/
def Area.content (e : Area) (k : Core) (o : Nat) : Byte :=
  let of := fun (w : Word) (i : Nat) => BitVec.ofNat 8 (bits w (8 * i) 8)
  let q := o - e.counters
  if o < 8 * e.head.length then of (e.head.getD (o / 8) 0) (o % 8)
  else if e.counters ≤ o ∧ q < 49152 then
    let v := k.cell (q / 24)
    of (if q % 24 < 8 then v.value else if q % 24 < 16 then v.target else v.word2) (q % 8)
  else of (Config.freeWord (e.draw + o / 8)) (o % 8)
/-- CRC-32 over the used bytes, with the check taken as zero (R49, R262). -/
def Area.sum (e : Area) (k : Core) : Nat :=
  crc32 ((List.range e.used).map fun o => if o / 8 = 7 then 0 else (AMap.find e.wrote o).getD (e.content k o))
/-- A byte of an area as it stands. -/
def Area.byte (e : Area) (k : Core) (o : Nat) : Byte :=
  match AMap.find e.wrote o with
  | some b => b
  | none => if o / 8 = 7 then (toBytes 8 (Area.sum { e with wrote := [] } k)).getD (o % 8) 0 else e.content k o
def Area.num (e : Area) (k : Core) (o n : Nat) : Nat := ofBytes ((List.range n).map fun i => e.byte k (o + i))
/-- The area's check holds: it does until something has written into the area (R263). -/
def Area.checks (e : Area) (k : Core) : Bool := e.wrote == [] || e.num k 56 8 == e.sum k
/-- The lanes byte of an area (R263). -/
def Area.lanes (e : Area) (k : Core) : Nat := e.num k 6 1
/-- Magic, version and lcore of an area's header are what RESUME looks for (R262). -/
def Area.ok (e : Area) (k : Core) (lcore : Nat) : Bool := e.num k 0 6 == 0x131565342 && e.num k 8 2 == lcore
/-- What is saved of a stopped domain. Each core is saved with its instruction memory, for which R262 has no section: the model's choice
(log 89). -/
def State.makeSave (s : State) (base : Nat) (l : Launch) : Save :=
  let mine := fun (c : Nat) => s.domOf c == base
  let cores := (s.domCores base).map fun c => (s.rel c, (s.core c).saved s c)
  { lpart := 2 ^ (s.domain base).log2
    launch := l
    cores := cores
    units := (s.domParts base).map fun p =>
      (p - base, { tts := (s.part p).tts, jq := (s.part p).jq, gates := (s.part p).gates })
    jobs := s.jobs.filter fun j => mine j.core
    loads := s.loads.filter fun q => mine q.core
    net := s.net.filter fun p => s.baseOf (partOfKey p.src) == base
    fins := s.fins.filter fun f => mine f.core
    areas := cores.map fun e => (e.1, s.saveArea l e.1 e.2.quiescent)
    crcOk := true }
/-- CONTEXT_SAVE (R262, R263, R328): after two sweeps have agreed, every core is saved and PREEMPT completes. -/
def execContextSave (dom : Nat) (s : State) : Out :=
  .next (
    match (s.domain dom).launch with
    | some l =>
      match l.phase with
      | .quiet q id =>
        if l.closeAt.isSome || !(s.waits dom).isEmpty then s
        else
          let s := s.spillAll dom
          let v := s.makeSave dom l
          let h := (s.domain dom).nextSave
          let mine := fun (c : Nat) => s.domOf c == dom
          let t := { s with
            free := s.free + (18 + 2 ^ 17) * 4096
            jobs := s.jobs.filter fun j => !mine j.core
            loads := s.loads.filter fun q => !mine q.core
            net := s.net.filter fun p => s.baseOf (partOfKey p.src) != dom
            fins := s.fins.filter fun f => !mine f.core }
          let t := (s.domCores dom).foldl (fun t c => t.updCore c fun k => { k.blank with lanes := [] }) t
          let t := (s.domParts dom).foldl (fun t p => t.updPart p fun u => { u with tts := [], jq := [], gates := [] }) t
          (t.updDomain dom fun d => { d with launch := none, saves := AMap.set d.saves h v, nextSave := h + 1 }).done
            q (BitVec.ofNat 32 id) stOk [nat64 h]
      | _ => s
    | none => s)

/-! ## RESUME (R329) -/

/-- Why a save cannot be resumed in a domain, by status. -/
def State.resumeBad (s : State) (base : Nat) (v : Save) : Option Nat :=
  let k := AMap.get {} v.cores
  if !v.crcOk || v.areas.any (fun e => !e.2.checks (k e.1) || !e.2.ok (k e.1) e.1) then some stBadsave
  else if v.areas.any (fun e => e.2.lanes (k e.1) != 0 && e.2.lanes (k e.1) != 64) then some stCtxlanes
  else if v.lpart ≠ 2 ^ (s.domain base).log2 then some stBadsave
  else if v.cores.any fun e => !s.isUser (base * 64 + e.1) then some stBadsave
  else none
/-- Every section is restored, and the launch stands at its setup, before the go; queue `q` takes its records from now on (R178). FREE contexts,
of which no section holds a record, have the registers and CSRs that they had: the model's choice (log 89). -/
def State.restoreSave (s : State) (base h q : Nat) (v : Save) : State :=
  let s := v.cores.foldl (fun s e => s.updCore (base * 64 + e.1) fun k => { e.2 with tlb := k.tlb, dbg := k.dbg, failed := k.failed }) s
  let s := v.units.foldl (fun s e => s.updPart (base + e.1) fun p => { p with tts := e.2.tts, jq := e.2.jq, gates := e.2.gates }) s
  let s := { s with
    net := s.net ++ v.net, fins := s.fins ++ v.fins, loads := s.loads ++ v.loads,
    jobs := s.jobs ++ v.jobs.map fun (j : CopyJob) => { j with page := none } }
  s.updDomain base fun d => { d with
    launch := some { v.launch with phase := .setup, resumed := true, hostq := some q, start := 0, sweep := none, now := none, prev := none }
    saves := AMap.erase d.saves h }
/-- RESUME (R329, R343). -/
def execResume (q : Nat) (cmd : List Word) (s : State) : Out :=
  .next (s.command q cmd 0x05 [0xFFFF] fun s =>
    let base := s.queueDom q
    let d := s.domain base
    let h := arg cmd 8 2
    if d.launch.isSome then s.done q (cmdId cmd) stBusy []
    else
      match AMap.find d.saves h with
      | none => s.done q (cmdId cmd) stNohandle []
      | some v =>
        if (s.domParts base).any fun p => (s.part p).down then s.done q (cmdId cmd) stDown []
        else
          match s.resumeBad base v with
          | some st => s.done q (cmdId cmd) st []
          | none => (s.restoreSave base h q v).done q (cmdId cmd) stOk [])

end Sys2Proof.Machine
end

