-- ==== Sys2Proof/Machine/Det.lean ====
section
/-! DEFINITION. Deterministic mode: taps and the quantum close (R242 to R244, R279). -/

namespace Sys2Proof.Machine
open Sys2Proof

/-- The state of an outcome that goes on; every meaning of this model goes on. -/
def next (o : Out) (s : State) : State :=
  match o with
  | .next t => t
  | _ => s

/-! ## Taps (R242, R243) -/

/-- A load that no slice serves before the close: a SEQ access, an `LDV` of a future version, and one behind its context's own reclaim
(R243, R285, R286). -/
def State.closeBound (s : State) (q : LoadReq) : Bool :=
  q.attr == 2 || (match q.want with
    | some v => (s.versionAt q.pa v).isNone || s.reclBefore q.core q.ctx q.pa q.id
    | none => false)
/-- A load that waits for the close, or behind one that does (R267). -/
def State.closeHeld (s : State) (q : LoadReq) : Bool := s.closeBound q || (s.loadsBefore q.core q.ctx q.pa q.id).any s.closeBound
/-- A core's handler thread can do no more within the quantum: it is held at a slice, or what comes next waits for a close (R243, R254). -/
def State.handlerStuck (s : State) (c : Nat) : Bool :=
  (s.core c).hheld.isSome || (match (s.core c).handler with
    | r :: _ => s.closeWork c r
    | [] => false)
/-- A result that is delivered only at a quantum start has still to come. An atomic at the core's own pool is one where the handler thread
comes to it no more (R254). -/
def State.atClose (s : State) (c : Nat) (o : Outst) : Bool :=
  o.vals.isNone && o.flt.isNone && (match o.kind with
    | .atomRemote | .jq | .claim _ _ => true
    | .atomLocal => s.handlerStuck c
    | _ => s.loads.any fun q => q.id == o.id && s.closeHeld q)
/-- A context has ended its quantum (R242). -/
def State.endedCtx (s : State) (c quantum : Nat) (k : Ctx) : Bool :=
  decide (quantum ≤ k.retiredQ) || (match k.st with
    | .free | .halted | .waiting => true
    | .parked => k.outs.any (s.atClose c)
    | .stalled => match k.stall with
      | some .window | some .quantum | some (.seq _) | some (.held _ _) => true
      | some (.fence ids) => k.outs.any fun o => ids.contains o.id && s.atClose c o
      | _ => false
    | .ready => false)
/-- The loads of a core that its quantum still serves have been served (R242, R279). -/
def State.loadsOver (s : State) (c : Nat) : Bool :=
  s.loads.all fun q => q.core != c || s.closeHeld q
/-- A merge that the core's own handler thread makes at its pool, and which it has not made (R165). -/
def State.mergesHere (s : State) (c eng : Nat) : Bool :=
  (s.core c).handler.any (fun r => match r with
    | .merge (.pool _) _ id _ => id == eng
    | _ => false) ||
  s.net.any fun p => p.dst == c && (match p.body with
    | .merge (.pool _) _ id => id == eng
    | _ => false)
/-- What a core's handler thread does within the quantum is done: the core's own atomics at its pool (R242). -/
def State.handlerOver (s : State) (c : Nat) : Bool :=
  s.handlerStuck c || (s.core c).frozen ||
    ((s.core c).handler.isEmpty && !s.net.any fun p => p.dst == c && p.src == c && p.released && p.handlerReq.isSome)
/-- Every engine command of a core has completed but for what waits for the close: merges at other cores and at slices (R243). -/
def State.enginesOver (s : State) (c : Nat) : Bool :=
  (s.slot c).queue.isEmpty && (s.core c).tileQ.isEmpty &&
    s.fins.all (fun f => f.core != c || (f.merge && (s.handlerStuck c || !s.mergesHere c f.id))) &&
    s.jobs.all (fun j => j.core != c || j.over) && !s.net.any fun p => p.src == c && p.body.within
/-- A core will still wake a context on its own: a task waits for a free helper, or a pending push has room (R185, R213, log 26). -/
def State.stirs (s : State) (c : Nat) : Bool :=
  let k := s.core c
  !k.frozen && ((k.freeHelper.isSome && s.hasTask c) ||
    k.counters.any fun e => e.2.pend && (match k.ringOf e.2.desc.toNat with
      | some r => (k.chan r).room
      | none => true))
/-- A core's tap may arrive; the contexts of a core that the debugger stops are HALTED (R326), and a `POOL` goes on until its banks are clear
(R289). -/
def State.tapReady (s : State) (c : Nat) : Bool :=
  match s.launchOf c with
  | some l => l.det && s.runs c && l.closeAt.isNone && !(s.core c).tapped && s.enginesOver c && s.loadsOver c && s.handlerOver c &&
      !s.stirs c && !(s.core c).clearing && ((s.core c).frozen || (s.core c).ctxs.all fun k => s.endedCtx c l.quantum k.2)
  | none => false
/-- QUANTUM_TAP_ARRIVAL (R243): the last arrival lets the close commit and complete under R227. -/
def execQuantumTapArrival (core : Nat) (s : State) : Out :=
  .next (
    if s.tapReady core then
      let b := s.domOf core
      let s := s.updCore core fun k => { k with tapped := true }
      if (s.domCores b).all fun c => (s.core c).tapped then s.updLaunch b fun l => { l with closeAt := some (s.nextBoundary b + 160) }
      else s
    else s)

/-! ## The close (R243) -/

/-- An access that a close performs: its core, context (15 for engines), order, and the lane entry or the load. -/
structure Commit where
  core : Nat
  ctx  : Nat
  job  : Nat
  id   : Nat
  load : Bool
  deriving DecidableEq, Repr
def Commit.le (a b : Commit) : Bool :=
  let key := fun (x : Commit) => [x.core, x.ctx, x.job, x.id]
  decide (key a ≤ key b)
/-- The stores and SEQ accesses of a quantum in their order (R243, R279). -/
def State.commits (s : State) (base : Nat) : List Commit :=
  let st := (s.domCores base).flatMap fun c => (s.core c).lanes.map fun e =>
    ({ core := c, ctx := e.ctx, job := if e.ctx = 15 then e.pc else 0, id := e.id, load := false } : Commit)
  let ld := s.loads.filterMap fun q =>
    if s.domOf q.core = base ∧ q.attr = 2 then some ({ core := q.core, ctx := q.ctx, job := 0, id := q.id, load := true } : Commit)
    else none
  sortBy Commit.le (st ++ ld)
/-- One access of a close. A store or a reclaim stays in its lane behind an earlier `LDV` of its context at the word (R267, R284, R286). -/
def State.commit (s : State) (e : Commit) : State :=
  if e.load then
    match s.loads.find? (fun q => q.id == e.id) with
    | some q => (s.serveLoad q).pushFirst [.variableLatencyResult q.id]
    | none => s
  else
    match (s.core e.core).lanes.find? (fun l => l.id == e.id) with
    | some l =>
      if (s.core e.core).laneHead l && !s.loadBefore e.core l.ctx l.pa l.id then s.tryLane e.core l else s
    | none => s
/-- Copies whose held writes are all performed complete (R279). -/
def State.finishCopies (s : State) (base : Nat) : State :=
  (s.jobs.filter fun j => s.domOf j.core == base && j.over).foldl (fun s j => if s.copyHeld j then s else s.copyDone j) s
/-- Uses whose members all arrived before this cycle complete (R244). -/
def State.closeUses (s : State) (base : Nat) (l : Launch) : State :=
  (l.groups.map (·.1)).foldl (fun s g =>
    let t := s.group (base * 64) g
    if t.whole && t.arrivals.all (fun a => decide (a.cycle < s.now)) then s.completeUse base g else s) s
/-- The order of deliveries: under the sender and its sequence, an engine's items under its issuing core's (R243). -/
def Packet.before (a b : Packet) : Bool :=
  let key := fun (p : Packet) => match p.engine with
    | some (c, n) => [c, n, p.id]
    | none => [p.src, p.id, 0]
  decide (key a ≤ key b)
def State.ofDomain (s : State) (base : Nat) (p : Packet) : Bool := s.baseOf (partOfKey p.src) == base
/-- The shared queues serve the quantum's requests in logical-core order (R169, R217, R222). A steal from a core under FREEZE stays
unserved: its handler thread is stopped (R326). -/
def State.serveShared (s : State) (base : Nat) : State :=
  let l := sortBy Packet.before (s.net.filter fun p => s.ofDomain base p && (match p.body with
    | .jq _ _ _ _ _ | .claim _ _ _ _ _ _ _ | .stealReq _ => true
    | _ => false))
  l.foldl (fun s p =>
    match p.body with
    | .jq _ _ _ _ out =>
      let open_ := fun (q : Packet) => if q.id == p.id then { q with released := true } else q
      (next (execJqnextServe p.id { s with net := s.net.map open_ }) s).pushFirst [.variableLatencyResult out]
    | .claim name total least k m ctx out => (s.serveClaim p name total least k m ctx out).pushFirst [.variableLatencyResult out]
    | .stealReq ring => if s.handlerHeld p.dst then s else (s.sink p).serveSteal p.dst p.src ring
    | _ => s) s
/-- The event that takes a packet at its destination. -/
def Packet.event (p : Packet) : List Instr :=
  let station := decide (p.dst < 4096) && p.dst % 64 == 63
  let refused := fun (k : Nat) => if k = 0x02 then Instr.refusedReply p.id else if k = 0x0D then .refusedHalted p.id
    else if k = 0x0E then .refusedUnbound p.id else .refusedNocore p.id
  match p.body with
  | .words h _ =>
    let k := hKind h
    if 4096 ≤ p.dst ∨ isEnvelope p h then [.outboundEnvelope p.id]
    else if k = 1 then [.replyArrival p.id]
    else if station then (if isReport p h then [.hostReport p.id] else [.stationMessage p.id])
    else if k = 0 then [.msgArrival p.id]
    else if k = 3 then [.taggedArrival p.id]
    else if k = 8 then [.rddata p.id]
    else if k = 0x0A then [.timedArrival p.id]
    else if k = 0x0B then [.cancelArrival p.id]
    else [refused k]
  | .atom _ _ _ _ _ _ _ => if station then [.stationMessage p.id] else [.atomRequest p.id, .atomPerform p.dst]
  | .merge _ _ _ => [.atomRequest p.id, .drainMerge p.dst]
  | .rdreq _ _ _ => if station then [.stationMessage p.id] else [.rdreq p.id, .rdreqPerform p.dst]
  | .atomr _ out _ _ => [.atomr p.id, .variableLatencyResult out]
  | .refusedAtom _ out _ => [.refusedHalted p.id, .variableLatencyResult out]
  | .cadd _ _ _ _ _ => if 4096 ≤ p.dst then [.outboundEnvelope p.id] else if station then [.stationMessage p.id] else [.caddm p.id]
  | .contrib _ _ _ _ _ _ _ _ _ => [.contrib p.id]
  | .diePart _ _ _ _ _ _ _ _ => [.diePartial p.id]
  | .fault _ _ _ => [.faultRecord p.id]
  | .release _ _ => [.releaseArrival p.id]
  | .refusedTimed k _ _ _ => [refused k]
  | .request h _ =>
    let k := hKind h
    if k = 0x21 then [.put p.id] else if k = 0x22 then [.gcopy p.id] else if k < 0x40 then [.get p.id]
    else if k = 0x41 then [.haloRequest p.id] else if k < 0x60 then [.move p.id] else [.putx p.id]
  | .stealReq _ => [.stealRequest p.id, .stealServe p.dst]
  | .stealAns _ _ _ => [.stealAnswer p.id]
  | .faultSet _ => if 4096 ≤ p.dst then [.outboundEnvelope p.id] else [.engineFaultSetting p.id]
  | .claim _ _ _ _ _ _ out => [.claimServe p.id, .variableLatencyResult out]
  | .jq _ _ _ _ out => [.jqnextServe p.id, .variableLatencyResult out]
  | .putIn h r off bytes cnt => [.inboundPutx p.src p.dst off (bytesOf [h, r] ++ bytes) cnt]
  | .heldIn _ _ _ => [.outboundEnvelope p.id]
/-- What the handler threads of a domain still hold of earlier deliveries, which they perform before those of this close. -/
def State.leftovers (s : State) (base : Nat) : List Instr :=
  (s.domCores base).flatMap fun c =>
    (s.core c).handler.flatMap fun _ => [.atomPerform c, .drainMerge c, .rdreqPerform c, .stealServe c]
/-- Everything sent in the quantum is delivered, in order (R243): the network holds it in that order from now on, behind what an
earlier close has delivered and nothing has taken. -/
def State.deliverAll (s : State) (base : Nat) : State :=
  let mine := s.net.filter (s.ofDomain base)
  let l := mine.filter (fun p => p.released) ++ sortBy Packet.before (mine.filter fun p => !p.released)
  let rest := s.net.filter fun p => !s.ofDomain base p
  { s with net := rest ++ l.map fun (p : Packet) => { p with released := true } }.pushFirst (s.leftovers base ++ l.flatMap Packet.event)
/-- The next quantum begins (R243, R279). Its first bundles issue in the cycle after the close: they follow its deliveries, and a `CARM`,
`CSET` or `CFLT` acts before the adds of its own cycle (R198; log 6). -/
def State.nextQuantum (s : State) (base : Nat) : State :=
  let s := s.updLaunch base fun l => { l with qstart := s.now, closeAt := none }
  let go := fun (t : Ctx) => match t.st, t.stall with
    | .stalled, some .quantum => { t with st := .ready, retiredQ := 0 }
    | _, _ => { t with retiredQ := 0 }
  (s.domCores base).foldl (fun s c => s.updCore c fun k =>
    { k with tapped := false, busy := Nat.max k.busy (s.now + 1), lbuf := [], ctxs := k.ctxs.map fun (e : Nat × Ctx) => (e.1, go e.2) }) s
/-- QUANTUM_CLOSE (R243). The close is a tick (R42), and what it does stands in that tick. -/
def execQuantumClose (dom : Nat) (s : State) : Out :=
  .next (
    match (s.domain dom).launch with
    | some l =>
      match l.closeAt with
      | some t =>
        if s.now < t then s
        else
          let s := s.updLaunch dom fun l => { l with qn := l.qn + 1 }
          let s := (s.commits dom).foldl State.commit s
          let s := s.finishCopies dom
          let s := s.closeUses dom l
          let s := (s.serveShared dom).grantLeases (s.domCores dom)
          (s.nextQuantum dom).deliverAll dom
      | none => s
    | none => s)

end Sys2Proof.Machine
end

