-- ==== Sys2Proof/Machine/Link.lean ====
section
/-! DEFINITION. The Flazar ports (R349 to R351): outbound envelopes, what comes from other packages, PUTX, and links that go
down. -/

namespace Sys2Proof.Machine
open Sys2Proof

/-- A port's link is up. -/
def State.linkUp (s : State) (part port : Nat) : Bool := AMap.get true (s.part part).portUp port
/-- Words leave through a port; the route word follows the header (R349). -/
def State.flazarOut (s : State) (part port : Nat) (ws : List Word) : State := { s with flazar := s.flazar ++ [(part, port, ws)] }
/-- A port cannot send something on: an ENGINE record goes to its sender, into its reserved slot where it has one (R349). -/
def State.portFault (s : State) (part port : Nat) (p : Packet) (chan : Nat) (reserved : Bool) : State :=
  if p.src < 4096 then
    s.sendHw (agent part (2 + port)) p.src (.fault chan (s.record p.src 15 0xFFFF clsEngine { code := .engine }) reserved)
  else s
/-- The envelope word of R349. -/
def envelopeOk (e : Word) : Bool := bits e 0 22 == 0 && (bits e 22 8 == 0 || bits e 22 8 == 3)
def envelopeHeader (h e : Word) : Word :=
  header (bits e 36 12) (bits e 30 6) (hRcore h) (hRchan h) (bits e 22 8) (hWords h - 1) (hTag h)
/-- A counter add, or an engine's fault setting of a counter, as it leaves for another package (R152, R350): the kind of a CADDM, the
adder in rcore and tag, the cell's name, and the amount of an add (log 21). -/
def State.outName (s : State) (name : Word) (who : Nat) (ctx : Nat) (ws : List Word) : List Word :=
  header (bits name 20 12) 0 who 0 0x06 (1 + ws.length) ctx :: s.route (bits name 32 16) :: name :: ws
/-- A fault record for a sender in another package leaves through a port (R178, R328, R351). -/
def State.recordOut (s : State) (part port : Nat) (hdr route : Word) (chan c : Nat) (f : Flt) : State :=
  s.flazarOut part port (header (hRcore hdr) chan (s.rel c) 0 0x0C 0 (hTag hdr) :: s.route (routeFrom route) ::
    s.record c 15 0xFFFF clsEngine f)
/-- A message taken at once at its core; an add takes its place among the cycle's (R185). -/
def State.takeNow (s : State) (p : Packet) : State :=
  match p.event with
  | .msgArrival i :: _ => next (execMsgArrival i s) s
  | .taggedArrival i :: _ => next (execTaggedArrival i s) s
  | .replyArrival i :: _ => next (execReplyArrival i s) s
  | .refusedReply i :: _ => next (execRefusedReply i s) s
  | .refusedUnbound i :: _ => next (execRefusedUnbound i s) s
  | .refusedNocore i :: _ => next (execRefusedNocore i s) s
  | .refusedHalted i :: _ => next (execRefusedHalted i s) s
  | .releaseArrival i :: _ => next (execReleaseArrival i s) s
  | .hostReport i :: _ => next (execHostReport i s) s
  | .stationMessage i :: _ => next (execStationMessage i s) s
  | .caddm i :: _ => if s.addsToCome then s else next (execCaddm i s) s
  | .faultRecord i :: _ => next (execFaultRecord i s) s
  | .engineFaultSetting i :: _ => next (execEngineFaultSetting i s) s
  | _ => s
/-- The domain's launch lies in its save areas (R328). -/
def State.savedDomain (s : State) (base : Nat) : Bool := (s.domain base).launch.isNone && !(s.domain base).saves.isEmpty
/-- A pool range of a core that a leaf may write (R257). -/
def State.leafWrites (s : State) (c off n : Nat) : Bool :=
  s.isUser c && off % 8 == 0 && n % 8 == 0 && decide (8 ≤ n) && decide (n ≤ 65536) && decide (off + n ≤ (s.core c).spSize)
/-- The cell that a PUTX names at its leaf: one of the leaf's domain, or one in another package (R190, R351). -/
def State.putCell (s : State) (part : Nat) (cnt : Word) : CName :=
  if bits cnt 32 16 = s.package.toNat then .far (s.baseOf part * 64 + bits cnt 20 12) (bits cnt 0 11)
  else .xpkg (bits cnt 32 16) (bits cnt 20 12) (bits cnt 0 11)
/-- A cell that a leaf's hardware may reach in its domain. -/
def State.cellHere (s : State) (part c : Nat) : Bool :=
  s.inRange (s.baseOf part * 64) (c - s.baseOf part * 64) && s.isUser c && !s.savedDomain (s.baseOf part)
/-- A PUTX that fails at its leaf: the record goes through its header's reply fields, and the fault bit of its counter is set (R259, R351). -/
def State.putFail (s : State) (part port : Nat) (hdr route : Word) (core off : Nat) (cnt : Word) (code : FCode) : State :=
  let s := s.recordOut part port hdr route (hRchan hdr) core { code := code, obj := 0x60, a := localAddr off, addr := localAddr off }
  if cnt = 0 then s
  else
    match s.putCell part cnt with
    | .far c n => if s.cellHere part c then s.setCell c n { s.cell c n with fault := true, cause := 0x19 } else s
    | _ => s.flazarOut part (core % 2) (s.outName cnt (s.rel core) 15 [])
/-- The leaf writes a PUTX in ascending order and then adds 1 to the counter it names (R351); which agent the add names is a free value
(log 73). A cell that no core has is answered as R198 answers an add. -/
def State.putIn (s : State) (part port : Nat) (hdr route : Word) (core off : Nat) (bytes : List Byte) (cnt : Word) : State :=
  if s.baseOf part ≠ s.domOf core ∨ !s.leafWrites core off bytes.length then s.putFail part port hdr route core off cnt .pool
  else
    let s := s.putLocal core off bytes
    if cnt = 0 then s
    else
      let who := ((Config.freeWord s.free).setWidth 12).toNat
      let s := { s with free := s.free + 1 }
      match s.putCell part cnt with
      | .far c n =>
        if s.cellHere part c then s.addHere c n 1 who 15 .sys
        else s.recordOut part port hdr route (hRchan hdr) core { code := .perm, obj := nat64 n, a := 20, b := cnt, d0 := 1 }
      | _ => s.flazarOut part (core % 2) (s.outName cnt who 15 [1])
/-- What an inbound message of a kind brings to its core (R176). -/
def inboundBody (hdr route : Word) (payload : List Word) : Body :=
  let k := hKind hdr
  let name := payload.getD 0 0
  if k = 0x10 then .release (hDchan hdr) none
  else if k = 0x0C then .fault (hDchan hdr) payload false
  else if k = 0x06 then
    if hWords hdr = 1 then .faultSet (bits name 0 11)
    else .cadd (bits name 0 11) (payload.getD 1 0) (BitVec.ofNat 12 (hRcore hdr)) (BitVec.ofNat 4 (hTag hdr)) name
  else .words hdr (payload ++ [route])
/-- Kinds that a port takes from another package, with their payloads. -/
def inboundOk (hdr : Word) (payload : List Word) : Bool :=
  let k := hKind hdr
  if k = 0x0C then payload.length == 8
  else payload.length == hWords hdr &&
    (if k = 0x06 then payload.length == 1 || payload.length == 2
     else decide (payload.length ≤ 6) && (decide (k ≤ 3) || k == 0x10 || (decide (0x0D ≤ k) && decide (k ≤ 0x0F))))
/-- An inbound message at the leaf of a saved domain (R328): a request is refused, a record goes to the host, and what else comes is
discarded, with a record to ch63 of its sender. -/
def State.inboundSaved (s : State) (part port : Nat) (hdr route : Word) (payload : List Word) : State :=
  let base := s.baseOf part
  let k := hKind hdr
  if k = 0 ∨ k = 3 then s.refuse (base * 64) (agent part (2 + port)) 0x0D hdr (payload ++ [route])
  else if k = 0x0C then s.toHost part payload
  else s.recordOut part port hdr route 63 (base * 64 + hDest hdr) { code := .engine }
/-- No core of the domain takes an inbound message, or the add that it brings. -/
def State.inboundBad (s : State) (base : Nat) (hdr : Word) : Bool :=
  !s.inRange (base * 64) (hDest hdr) || (hKind hdr == 0x06 && !s.isUser (base * 64 + hDest hdr))
/-- What an inbound message does in a domain that is not saved: it enters the network towards its core. A counter name that no core
takes is answered by R198's record. -/
def State.inboundMsg (s : State) (part port : Nat) (hdr route : Word) (payload : List Word) : State :=
  let base := s.baseOf part
  let src := agent part (2 + port)
  let k := hKind hdr
  let c := base * 64 + hDest hdr
  if k = 0x06 ∧ s.inboundBad base hdr then
    s.recordOut part port hdr route 63 c
      { code := .perm, obj := nat64 (bits (payload.getD 0 0) 0 11), a := 20, b := payload.getD 0 0, d0 := payload.getD 1 0 }
  else if !s.inRange (base * 64) (hDest hdr) then
    if k = 0 ∨ k = 3 then s.refuse (base * 64) src 0x0F hdr (payload ++ [route])
    else if k = 0x0C then s.toHost part payload else s
  else
    let t := s.transmit src 15 c (inboundBody hdr route payload) [] .sys false
    if s.det c then t
    else
      match t.net.getLast? with
      | some p => t.takeNow p
      | none => t
/-- OUTBOUND_ENVELOPE (R349, R350): the port of a link junction core takes an envelope from its channel 0; a REPLY, its
receiver's RELEASE or refusal, and a counter add or setting to another package leave by their ports. The route word follows the
header (R175). What no core takes of another package's traffic, held for a quantum's start in deterministic mode, is answered here. -/
def execOutboundEnvelope (id : Nat) (s : State) : Out :=
  .next (
    match s.deliverable id with
    | none => s
    | some p =>
      let part := partOfKey p.dst
      match portOf p.dst with
      | some port =>
        let up := s.linkUp part port
        match p.body with
        | .words h ws =>
          if up then (s.sink p).flazarOut part port (h :: ws.getD (hWords h) (s.route 0) :: ws.take (hWords h)) else (s.sink p).portFault part port p (hRchan h) false
        | .cadd _ x who ctx name =>
          if up then (s.sink p).flazarOut part port (s.outName name who.toNat ctx.toNat [x])
          else (s.sink p).portFault part port p 63 false
        | .faultSet n =>
          if up then (s.sink p).flazarOut part port (s.outName (BitVec.ofNat 64 n) (s.rel p.src % 4096) 15 [])
          else (s.sink p).portFault part port p 63 false
        | _ => s
      | none =>
        match p.body with
        | .words h ws =>
          if !isEnvelope p h then s
          else
            let port := p.dst % 64 - 48
            match ws with
            | e :: rest =>
              if envelopeOk e && s.linkUp part port then
                (s.sink p).flazarOut part port (envelopeHeader h e :: s.route (bits e 48 16) :: rest)
              else (s.sink p).portFault part port p (hRchan h) true
            | [] => (s.sink p).portFault part port p (hRchan h) true
        | .heldIn h r l => (s.sink p).inboundMsg (partOfKey p.src) ((portOf p.src).getD 0) h r l
        | _ => s)

/-- A PUTX from another package at its leaf (R328, R351): it is written, at the next quantum start in deterministic mode (R350) and when
`POOL` has cleared the core's banks (R289), or its failure is answered. -/
def State.putAt (s : State) (part port : Nat) (hdr route : Word) (core off : Nat) (bytes : List Byte) (cnt : Word) : State :=
  if s.savedDomain (s.baseOf part) then s.putFail part port hdr route core off cnt .engine
  else if s.det (part * 64) || (s.core core).clearing then
    s.transmit (agent part (2 + port)) 15 core (.putIn hdr route off bytes cnt) [] .sys false
  else s.putIn part port hdr route core off bytes cnt
/-- The words of a PUTX as a port takes them (log 73). -/
def State.inboundPut (s : State) (part port : Nat) (hdr route : Word) (payload : List Word) : State :=
  let base := s.baseOf part
  let dst := payload.getD 0 0
  let n := (payload.getD 1 0).toNat
  let c := base * 64 + bits dst 36 12
  let off := bits dst 0 20
  let cnt := payload.getD 2 0
  let bs := (bytesOf (payload.drop 3)).take n
  if s.savedDomain base = false ∧ (s.inRange (base * 64) (bits dst 36 12) = false ∨ bs.length ≠ n) then
    if s.det (part * 64) then s.putAt part port hdr route c off [] cnt else s.putFail part port hdr route c off cnt .pool
  else s.putAt part port hdr route c off bs cnt
/-- INBOUND_MESSAGE (R350): what another package sends through a port enters the network at the leaf with its route word, and is
delivered; in deterministic mode at the next quantum start, the answer to what no core takes with it. Of what comes for a partition that is down a fault record alone is kept, for the
host (R178). -/
def execInboundMessage (part port : Nat) (hdr route : Word) (payload : List Word) (s : State) : Out :=
  .next (
    if !s.linkUp part port || decide (1 < port) then s
    else if (s.part part).down then (if hKind hdr = 0x0C && inboundOk hdr payload then s.toHost part payload else s)
    else if hKind hdr = 0x60 then s.inboundPut part port hdr route payload
    else if !inboundOk hdr payload then s
    else if s.savedDomain (s.baseOf part) then s.inboundSaved part port hdr route payload
    else if s.det (part * 64) && s.inboundBad (s.baseOf part) hdr then
      s.transmit (agent part (2 + port)) 15 (s.baseOf part * 64) (.heldIn hdr route payload) [] .sys false
    else s.inboundMsg part port hdr route payload)

/-- INBOUND_PUTX (R351): the leaf's write of a PUTX, or of one that the leaf has held till now (R289, R350). The bytes come behind the header
and the route word (R175). -/
def execInboundPutx (key core off : Nat) (msg : List Byte) (cnt : Word) (s : State) : Out :=
  .next (
    let part := partOfKey key
    let hdr := (wordsOf 2 msg).getD 0 0
    let route := (wordsOf 2 msg).getD 1 0
    let bytes := msg.drop 16
    let mine := fun (p : Packet) => p.released && p.dst == core && p.src == key && p.body == .putIn hdr route off bytes cnt
    match portOf key with
    | none => s
    | some port =>
      match s.net.find? mine with
      | some p => if (s.core core).clearing then s else (s.sink p).putIn part port hdr route core off bytes cnt
      | none => if s.baseOf part ≠ s.domOf core then s else s.putAt part port hdr route core off bytes cnt)

/-- What is wrong with a PUTX at its port: pool name, destination, length, counter name, link (R351). -/
def State.putxBad (s : State) (j : CopyJob) (w2 : Word) (port : Nat) : Option Flt :=
  let c := j.core
  let n := w2.toNat
  let off := bits j.src 0 20
  if !isLocal j.src || poolNameBad j.src || poolCore j.src != s.rel c then some (memPerm 69 j.src)
  else if bits j.dst 20 16 ≠ 0 then some (memPerm 69 j.dst)
  else if n < 8 ∨ 65536 < n ∨ n % 8 ≠ 0 then some (memPerm 69 w2)
  else if off % 8 ≠ 0 then some (memFlt .align j.src)
  else if bits j.dst 0 20 % 8 ≠ 0 then some (memFlt .align j.dst)
  else if (s.core c).spSize < off + n then some (memFlt .pool j.src)
  else
    let cntBad : Option Flt := if j.cnt = 0 then none else match s.counterName c j.cnt with
      | .ok (.xpkg _ _ _) => none
      | .ok _ => some (memPerm 66 j.cnt)
      | .error f => some { f with addr := j.cnt }
    match cntBad with
    | some f => some f
    | none =>
      if !s.linkUp (c / 64) port then some { code := .engine, addr := j.dst }
      else (s.badIn c off n).map fun w => eccFlt (localAddr w)
/-- PUTX (R351); another kind of the port fails (R259). -/
def execPutx (id : Nat) (s : State) : Out :=
  .next (s.requestAt id (fun k => decide (0x60 ≤ k)) fun s j ws =>
    let port := j.core % 2
    if j.kind ≠ 0x60 then s.badKind j
    else
      match s.putxBad j (ws.getD 2 0) port with
      | some f => s.copyFail j f
      | none =>
        let n := (ws.getD 2 0).toNat
        s.flazarOut (j.core / 64) port
          (j.hdr :: s.route (bits j.dst 48 16) :: j.dst :: nat64 n :: j.cnt :: wordsOf (n / 8) ((List.range n).map fun i => s.engineByte j.id j.core (bits j.src 0 20 + i))))
/-- LINK_DOWN (R349). -/
def execLinkDown (part port : Nat) (s : State) : Out :=
  .next (s.updPart part fun p => { p with portUp := AMap.set p.portUp port false })

end Sys2Proof.Machine
end

