-- ==== Sys2Proof/Machine/Power.lean ====
section
/-! DEFINITION. Bring-up and harvesting (R2, R28, R353), RESET and PARTCFG (R345, R348), and the module's limits (R352). -/

namespace Sys2Proof.Machine
open Sys2Proof

/-! ## Bring-up of a partition -/

/-- The compute positions of a partition that work, in position order (R28). -/
def Part.working (p : Part) : List Nat := (List.range 50).filter fun i => !p.lost.contains i
/-- The physical position of a logical index: a working compute position, or a junction position 50 to 52 (R28). -/
def Part.position (p : Part) (i : Nat) : Nat := if i < 48 then p.working.getD i 49 else i + 2
/-- The harvest record with the partition's failed cores marked (R348). -/
def State.harvest (s : State) (p : Nat) : List Nat :=
  let t := s.part p
  let failed := (List.range 51).filter fun i => (s.core (p * 64 + i)).failed
  (t.lost ++ failed.map t.position).dedup
/-- A partition after its bring-up: the remap of R28, pools, counters and reserved regions clear, links trained (R353). -/
def Part.fresh (t : Part) (lost : List Nat) : Part :=
  { usable := t.usable, advised := t.advised, vlogN := t.vlogN, vlog := t.vlog, lost := lost
    compute := Nat.min 48 (50 - (lost.filter (· < 50)).length), down := lost.any (50 ≤ ·) }
/-- Both spares are used, or a junction core has failed (R28, R347). -/
def Part.wearsOut (t : Part) : Bool := decide (2 ≤ (t.lost.filter (· < 50)).length) || t.lost.any (50 ≤ ·)
/-- A byte of HBM lies in the reserved region of a partition's slice (R248, R330). -/
def State.reserved (s : State) (p a : Nat) : Bool := sliceOf a == p && decide ((s.part p).usable ≤ a / 65536 % 98304)
/-- The bring-up of a partition (R348, R353): its reserved regions are cleared, and with them the tables that its slice holds. -/
def State.bringUp (s : State) (p : Nat) : State :=
  let base := s.baseOf p
  let m := 2 ^ (s.domain base).log2
  let lost := s.harvest p
  let s := s.updPart p fun t => t.fresh lost
  let s := s.updDomain base fun d => { d with entries := d.entries.filter fun e => base + e.1 / 64 % m != p }
  let s := { s with
    cores := s.cores.filter fun e => e.1 / 64 != p
    mem := s.mem.filter fun e => !s.reserved p e.1
    bad := s.bad.filter fun e => match e with
      | .hbm a => !s.reserved p a
      | .imem c _ | .pool c _ | .counter c _ | .ownState c => c / 64 != p
      | _ => true }
  if (s.part p).wearsOut then s.advise p else s
/-- POWER_GOOD (R353): every partition is brought up and forms a domain of its own, and every queue is disabled. What the fuses
and the harvest records hold is kept. -/
def execPowerGood (s : State) : Out :=
  .next (
    let keep := fun (e : Nat × Part) =>
      (e.1, { Part.fresh { usable := e.2.usable } (s.harvest e.1) with advised := (Part.fresh {} (s.harvest e.1)).wearsOut })
    { State.reset with now := s.now, parts := s.parts.map keep, uid := s.uid, free := s.free, work := s.work, inputs := s.inputs })

/-! ## RESET and PARTCFG -/

/-- RESET (R341, R348): the launch ends DOWN, save areas are discarded, the partition is brought up; its DONE follows. -/
def execReset (q : Nat) (cmd : List Word) (s : State) : Out :=
  .next (s.command q cmd 0x0C [0xFF] fun s =>
    let base := s.queueDom q
    let p := arg cmd 8 1
    if 64 ≤ p ∨ !s.inDom base p then s.done q (cmdId cmd) stPerm []
    else
      let s := s.endLaunch base stDown
      let s := (s.updDomain base fun d => { d with saves := [] }).bringUp p
      s.done q (cmdId cmd) (if (s.part p).down then stDown else stOk) [])
/-- A domain with no launch running, none saved and none queued (R344, R345). -/
def Domain.idle (d : Domain) : Bool := d.launch.isNone && d.saves.isEmpty && d.queued.isEmpty
/-- The domains that meet a range of partitions. -/
def State.domainsIn (s : State) (b n : Nat) : List (Nat × Domain) :=
  s.domains.filter fun d => decide (d.1 < b + n) && decide (b < d.1 + 2 ^ d.2.log2)
/-- A new domain takes the place of those it covers: it starts with nothing, and no core translates by what was (R345). -/
def State.form (s : State) (b k : Nat) (d : Domain) : State :=
  let ps := partsOf b k
  let s := ps.foldl (fun s p => s.updPart p fun t => { t with pm := [], shared := [], walks := [] }) s
  let s := { s with
    domains := AMap.set (s.domains.filter fun e => !(decide (b ≤ e.1) && decide (e.1 < b + 2 ^ k))) b d
    cores := s.cores.map fun e => if ps.contains (e.1 / 64) then (e.1, { e.2 with tlb := [] }) else e }
  s
/-- PARTCFG (R341, R345). -/
def execPartcfg (q : Nat) (cmd : List Word) (s : State) : Out :=
  .next (s.command q cmd 0x0B [0xFFFFFFFF0001FFFF] fun s =>
    let b := arg cmd 8 1
    let k := arg cmd 9 1
    let hold := arg cmd 12 4
    if 6 < k ∨ b % 2 ^ k ≠ 0 ∨ 64 < b + 2 ^ k ∨ hold = 0 ∨ 10 ^ 6 < hold then s.done q (cmdId cmd) stBadcmd []
    else
      let old := s.domainsIn b (2 ^ k)
      if (partsOf b k).any fun p => (s.part p).down then s.done q (cmdId cmd) stDown []
      else if !old.all fun d => d.2.idle && decide (b ≤ d.1) && decide (d.1 + 2 ^ d.2.log2 ≤ b + 2 ^ k) then
        s.done q (cmdId cmd) stBusy []
      else
        (s.form b k { log2 := k, serving := (cmd.getD 1 0).getLsbD 16, holdUs := hold }).done q (cmdId cmd) stOk [])

/-! ## The module's limits (R352) -/

/-- OVERTEMP (R352): every launch ends DOWN and every partition is held in reset. -/
def execOvertemp (s : State) : Out :=
  .next (
    let s := (s.domains.map (·.1)).foldl (fun s b => s.endLaunch b stDown) s
    (List.range 64).foldl (fun s p => s.updPart p fun t => { t with down := true }) s)
/-- COOLANT_LIMIT_DERATE (R4, R352): the cap in watts at a coolant temperature in tenths of a degree. -/
def capAt (deciC : Nat) : Nat := if deciC ≤ 400 then 3400 else if 450 ≤ deciC then 2400 else 3400 - 20 * (deciC - 400)
def execCoolantLimitDerate (deciC : Nat) (s : State) : Out := .next { s with cap := capAt deciC }

end Sys2Proof.Machine
end

