-- ==== Sys2Proof/Machine/Host.lean ====
section
/-! DEFINITION. What the host reads and writes: QUERY and PMREAD (R248, R338, R341), the doorbell and status pages (R339, R340,
R342, R347), and the BAR4 window (R339). -/

namespace Sys2Proof.Machine
open Sys2Proof

/-! ## QUERY and PMREAD -/

/-- Free words (log 17). -/
def State.freeWords (s : State) (n : Nat) : List Word := (List.range n).map fun i => Config.freeWord (s.free + i)
/-- A QUERY of a selector; one above 3 completes BADCMD. -/
def State.query (s : State) (q : Nat) (cmd : List Word) (sel : Nat) (k : State → State) : State :=
  let n := arg cmd 8 1
  if n ≠ sel ∧ n ≤ 3 then s
  else s.command q cmd 0x09 [0xFF] fun s => if n = sel then k s else s.done q (cmdId cmd) stBadcmd []
/-- A QUERY whose words the spec does not lay out. -/
def State.queryFree (s : State) (q : Nat) (cmd : List Word) : State :=
  { s.done q (cmdId cmd) stOk (s.freeWords 6) with free := s.free + 6 }
/-- QUERY of the domain state (R341). -/
def execQueryDomainState (q : Nat) (cmd : List Word) (s : State) : Out := .next (s.query q cmd 0 fun s => s.queryFree q cmd)
/-- QUERY of the slice capacities (R248): the usable frames of the domain's slices, as many as the entry holds. -/
def execQuerySliceCapacities (q : Nat) (cmd : List Word) (s : State) : Out :=
  .next (s.query q cmd 1 fun s =>
    s.done q (cmdId cmd) stOk (((s.domParts (s.queueDom q)).take 6).map fun p => nat64 (s.part p).usable))
/-- QUERY of the harvest state (R341). -/
def execQueryHarvestState (q : Nat) (cmd : List Word) (s : State) : Out := .next (s.query q cmd 2 fun s => s.queryFree q cmd)
/-- QUERY of the package figures (R341). -/
def execQueryPackageFigures (q : Nat) (cmd : List Word) (s : State) : Out := .next (s.query q cmd 3 fun s => s.queryFree q cmd)
/-- PMREAD (R338, R341). -/
def execPmread (q : Nat) (cmd : List Word) (s : State) : Out :=
  .next (s.command q cmd 0x0A [0xFFFF] fun s =>
    let e := arg cmd 8 1
    let p := arg cmd 9 1
    let base := s.queueDom q
    if 63 < e then s.done q (cmdId cmd) stBadcmd []
    else if 2 ^ (s.domain base).log2 ≤ p then s.done q (cmdId cmd) stPerm []
    else s.done q (cmdId cmd) stOk [AMap.get 0 (s.part (base + p)).pm e])

/-! ## Registers -/

/-- A new completion head: what the host has read makes room for what is held (R342). The head of a full ring that is read whole comes
back to where it stood (log 56). -/
def Queue.read (k : Queue) (value : Word) : Queue :=
  let on := if k.cap = 0 then 0 else (value.toNat % k.cap + k.cap - k.cqhead.toNat % k.cap) % k.cap
  let n := if on = 0 ∧ k.ring.length = k.cap then k.cap else on
  Queue.flush k.held.length { k with cqhead := value, ring := k.ring.drop n }
/-- CQHEAD (R340, R342). -/
def execCqhead (q : Nat) (value : Word) (s : State) : Out := .next (s.updQueue q fun k => k.read value)
/-- Ring sizes that R340 allows. -/
def sizesOk (v : Word) : Bool :=
  let ok := fun (n : Nat) => decide (16 ≤ n) && decide (n ≤ 4096) && n == 2 ^ Nat.log2 n
  ok (bits v 0 16) && ok (bits v 16 16)
/-- A register of a doorbell page (R340): a configuration register of an enabled queue ignores the write, and bit 1 of STATE
sets; so do SIZES outside its range, and STATE where it would configure an enabled queue anew or enable one without sizes (log 56). -/
def Queue.write (k : Queue) (off : Nat) (v : Word) : Queue :=
  let config := fun (t : Queue) => if k.enabled then { k with ignored := true } else t
  if off = 0x000 then { k with sqtail := v }
  else if off = 0x008 then k.read v
  else if off = 0x100 then config { k with sqbase := v }
  else if off = 0x108 then config { k with cqbase := v }
  else if off = 0x110 then config (if sizesOk v then { k with sizes := v } else { k with ignored := true })
  else if off = 0x118 then config { k with tailaddr := v }
  else if off = 0x120 then
    if v.getLsbD 0 && (k.enabled || !sizesOk k.sizes) then { k with ignored := true }
    else { k with enabled := v.getLsbD 0, ignored := v.getLsbD 1, vector := (v >>> 8).setWidth 8 }
  else k
/-- STATE of a queue (R340). -/
def Queue.state (k : Queue) : Word := at_ k.enabled.toNat 0 ||| at_ k.ignored.toNat 1 ||| at_ k.vector.toNat 8
/-- The status page's state word (R347). -/
def State.stateWord (s : State) : Word :=
  at_ s.ready.toNat 0 ||| at_ (s.parts.any fun e => e.2.advised).toNat 1 ||| at_ (s.parts.filter fun e => e.2.down).length 8
/-- The words of a partition's violation log (R346): the count of its writes, the ring, in which write number k stands at entry k mod 64, and
zeros. -/
def Part.vlogWords (p : Part) : List Word :=
  let at0 := p.vlogN - p.vlog.length
  let entry := fun (j : Nat) => match (List.range p.vlog.length).find? fun i => (at0 + i) % 64 == j with
    | some i => p.vlog.getD i []
    | none => List.replicate 4 0
  nat64 (p.vlogN % 2 ^ 32) :: List.replicate 3 0 ++ (List.range 64).flatMap entry ++ List.replicate 252 0
/-- The word of BAR2 at an offset (R339): the status page, the mailbox pages, the violation logs. -/
def State.bar2 (s : State) (off : Nat) : Word :=
  let w := off % 4096 / 8
  if off < 0x1000 then [s.stateWord, s.advisory, s.package.setWidth 64, s.window].getD w 0
  else if off < 0x41000 then AMap.get 0 (s.part (off / 4096 - 1)).mailbox w
  else if off < 0x81000 then (s.part (off / 4096 - 0x41)).vlogWords.getD w 0
  else 0
/-- REGISTER_WRITE (R339, R340, R347): pages 0 to 65,535 are the doorbell pages, page 65,536 is the status page, and the mailbox pages of the
partitions follow. PKGNUM and the window base are written only while no domain runs a launch. What the firmware does on a mailbox write is the
steps of R326. -/
def execRegisterWrite (page off : Nat) (value : Word) (s : State) : Out :=
  .next (
    if page < 65536 then s.updQueue page fun k => k.write off value
    else if 65536 < page ∧ page ≤ 65600 then
      s.updPart (page - 65537) fun p => { p with mailbox := AMap.set p.mailbox (off % 4096 / 8) value }
    else if page ≠ 65536 ∨ s.domains.any (fun d => d.2.launch.isSome) then s
    else if off = 16 then { s with package := value.setWidth 16 }
    else if off = 24 then { s with window := value }
    else s)

/-! ## BAR4 (R339) -/

/-- The physical address of an access of at most 8 bytes within the window and within one word of HBM. -/
def State.windowAddr (s : State) (off n : Nat) : Option Nat :=
  let pa := s.window.toNat + off
  if 1 ≤ n ∧ n ≤ 8 ∧ off + n ≤ 2 ^ s.bar4Log ∧ pa % 8 + n ≤ 8 ∧ pa + n ≤ 64 * 98304 * 65536 then some pa else none
/-- An address in the reserved region at the top of its slice, where the hardware keeps its tables and save areas (R248, R262). -/
def State.reservedPa (s : State) (pa : Nat) : Bool := decide ((s.part (sliceOf pa)).usable ≤ pa / 65536 % 98304)
/-- Where the 1 MiB area of a core lies: in the reserved region of its partition's slice (R262). -/
def State.areaBase (s : State) (core handle : Nat) : Nat :=
  let u := (s.part (core / 64)).usable
  (core / 64 * 98304 + u) * 65536 + Config.areaAt (core / 64) handle % Nat.max 1 ((98304 - u) * 65536 - 2 ^ 26) + 2 ^ 20 * (core % 64)
/-- The save area that a physical address lies in, of the latest save that has it: domain, handle, launch-relative core and offset. -/
def State.areaAt (s : State) (pa : Nat) : Option (Nat × Nat × Nat × Nat) :=
  s.domains.findSome? fun d => d.2.saves.reverse.findSome? fun v => v.2.areas.findSome? fun e =>
    let a := s.areaBase (d.1 * 64 + e.1) v.1
    if a ≤ pa ∧ pa < a + 2 ^ 20 then some (d.1, v.1, e.1, pa - a) else none
/-- Bytes of a save area as they stand. -/
def State.areaRead (s : State) (pa n : Nat) : Option Nat :=
  (s.areaAt pa).bind fun (b, h, c, o) => (AMap.find (s.domain b).saves h).bind fun v =>
    (AMap.find v.areas c).map fun e => e.num (AMap.get {} v.cores c) o n
/-- The host writes into a save area, which RESUME then refuses unless its check is mended too (R263, log 15). -/
def State.areaWrite (s : State) (pa : Nat) (bs : List Byte) : State :=
  match s.areaAt pa with
  | some (b, h, c, o) =>
    let put := fun (e : Area) => { e with wrote := bs.zipIdx.foldl (fun m x => AMap.set m (o + x.2) x.1) e.wrote }
    s.updDomain b fun d => { d with saves := d.saves.map fun (v : Nat × Save) =>
      if v.1 = h then (v.1, { v.2 with areas := v.2.areas.map fun e => if e.1 = c then (e.1, put e.2) else e }) else v }
  | none => s
/-- BAR4_READ (R339): a word in error reads as a free value, as do the other tables that the hardware keeps in reserved HBM (log 15). -/
def execBar4Read (off n : Nat) (s : State) : Out :=
  .next (
    match s.windowAddr off n with
    | some pa =>
      let s := s.count (sliceOf pa) 4 n
      if (s.badHbm pa n).isSome || (s.reservedPa pa && (s.areaRead pa n).isNone) then { s with bar4 := Config.freeWord s.free, free := s.free + 1 }
      else { s with bar4 := nat64 (if s.reservedPa pa then (s.areaRead pa n).getD 0 else s.hbmNum pa n) }
    | none => s)
/-- BAR4_WRITE (R339): a write narrower than a word in error has no effect (R324). -/
def execBar4Write (off n : Nat) (value : Word) (s : State) : Out :=
  .next (
    match s.windowAddr off n with
    | some pa =>
      if s.narrowBad pa n then s
      else
        let t := s.performWrite pa (toBytes n value.toNat) false
        if s.reservedPa pa then t.areaWrite pa (toBytes n value.toNat) else t
    | none => s)

end Sys2Proof.Machine
end

