-- ==== Sys2Proof/Machine/Dispatch.lean ====
section
/-! DEFINITION. Every instruction and step to its meaning. -/

namespace Sys2Proof.Machine
open Sys2Proof

def exec (i : Instr) (s : State) : Host.Outcome State Fault Refusal :=
  match i with
  | .add d a b => Sys2Proof.Machine.execAdd d a b s
  | .sub d a b => Sys2Proof.Machine.execSub d a b s
  | .and d a b => Sys2Proof.Machine.execAnd d a b s
  | .or d a b => Sys2Proof.Machine.execOr d a b s
  | .xor d a b => Sys2Proof.Machine.execXor d a b s
  | .andn d a b => Sys2Proof.Machine.execAndn d a b s
  | .shl d a b => Sys2Proof.Machine.execShl d a b s
  | .shr d a b => Sys2Proof.Machine.execShr d a b s
  | .sar d a b => Sys2Proof.Machine.execSar d a b s
  | .rol d a b => Sys2Proof.Machine.execRol d a b s
  | .min d a b => Sys2Proof.Machine.execMin d a b s
  | .max d a b => Sys2Proof.Machine.execMax d a b s
  | .minu d a b => Sys2Proof.Machine.execMinu d a b s
  | .maxu d a b => Sys2Proof.Machine.execMaxu d a b s
  | .slt d a b => Sys2Proof.Machine.execSlt d a b s
  | .sltu d a b => Sys2Proof.Machine.execSltu d a b s
  | .seq d a b => Sys2Proof.Machine.execSeq d a b s
  | .clz d a => Sys2Proof.Machine.execClz d a s
  | .popc d a => Sys2Proof.Machine.execPopc d a s
  | .mul d a b => Sys2Proof.Machine.execMul d a b s
  | .mulh d a b => Sys2Proof.Machine.execMulh d a b s
  | .mulhu d a b => Sys2Proof.Machine.execMulhu d a b s
  | .div d a b => Sys2Proof.Machine.execDiv d a b s
  | .divu d a b => Sys2Proof.Machine.execDivu d a b s
  | .rem d a b => Sys2Proof.Machine.execRem d a b s
  | .remu d a b => Sys2Proof.Machine.execRemu d a b s
  | .addi d a imm => Sys2Proof.Machine.execAddi d a imm s
  | .andi d a imm => Sys2Proof.Machine.execAndi d a imm s
  | .ori d a imm => Sys2Proof.Machine.execOri d a imm s
  | .xori d a imm => Sys2Proof.Machine.execXori d a imm s
  | .shli d a sh => Sys2Proof.Machine.execShli d a sh s
  | .shri d a sh => Sys2Proof.Machine.execShri d a sh s
  | .sari d a sh => Sys2Proof.Machine.execSari d a sh s
  | .slti d a imm => Sys2Proof.Machine.execSlti d a imm s
  | .li d imm => Sys2Proof.Machine.execLi d imm s
  | .lih d imm => Sys2Proof.Machine.execLih d imm s
  | .sel d a b => Sys2Proof.Machine.execSel d a b s
  | .b c a b disp => Sys2Proof.Machine.execB c a b disp s
  | .j imm => Sys2Proof.Machine.execJ imm s
  | .jal imm => Sys2Proof.Machine.execJal imm s
  | .jalr d a off => Sys2Proof.Machine.execJalr d a off s
  | .start d a b => Sys2Proof.Machine.execStart d a b s
  | .endt => Sys2Proof.Machine.execEndt s
  | .nop => Sys2Proof.Machine.execNop s
  | .ld d a sz off => Sys2Proof.Machine.execLd d a sz off s
  | .st d a sz off => Sys2Proof.Machine.execSt d a sz off s
  | .ldv d a off => Sys2Proof.Machine.execLdv d a off s
  | .recl a b => Sys2Proof.Machine.execRecl a b s
  | .fence sc => Sys2Proof.Machine.execFence sc s
  | .pool a => Sys2Proof.Machine.execPool a s
  | .copy d a b => Sys2Proof.Machine.execCopy d a b s
  | .copyc d a b => Sys2Proof.Machine.execCopyc d a b s
  | .halo d a b => Sys2Proof.Machine.execHalo d a b s
  | .wmark d a b n => Sys2Proof.Machine.execWmark d a b n s
  | .send a b => Sys2Proof.Machine.execSend a b s
  | .reply a b => Sys2Proof.Machine.execReply a b s
  | .recvp a b => Sys2Proof.Machine.execRecvp a b s
  | .recvpCancel a => Sys2Proof.Machine.execRecvpCancel a s
  | .atomAdd d a b => Sys2Proof.Machine.execAtomAdd d a b s
  | .atomMax d a b => Sys2Proof.Machine.execAtomMax d a b s
  | .atomMin d a b => Sys2Proof.Machine.execAtomMin d a b s
  | .atomMaxu d a b => Sys2Proof.Machine.execAtomMaxu d a b s
  | .atomMinu d a b => Sys2Proof.Machine.execAtomMinu d a b s
  | .atomSwap d a b => Sys2Proof.Machine.execAtomSwap d a b s
  | .atomCas d a b => Sys2Proof.Machine.execAtomCas d a b s
  | .atomOr d a b => Sys2Proof.Machine.execAtomOr d a b s
  | .atomAnd d a b => Sys2Proof.Machine.execAtomAnd d a b s
  | .atomXor d a b => Sys2Proof.Machine.execAtomXor d a b s
  | .atomFmax32 d a b => Sys2Proof.Machine.execAtomFmax32 d a b s
  | .cadd a b => Sys2Proof.Machine.execCadd a b s
  | .cread d a => Sys2Proof.Machine.execCread d a s
  | .carm d a b => Sys2Proof.Machine.execCarm d a b s
  | .cset a b => Sys2Proof.Machine.execCset a b s
  | .cflt d a => Sys2Proof.Machine.execCflt d a s
  | .cwait a b w => Sys2Proof.Machine.execCwait a b w s
  | .qwait d a w => Sys2Proof.Machine.execQwait d a w s
  | .chbind d a b => Sys2Proof.Machine.execChbind d a b s
  | .chset d a b => Sys2Proof.Machine.execChset d a b s
  | .chq d a b => Sys2Proof.Machine.execChq d a b s
  | .rdrem d a b => Sys2Proof.Machine.execRdrem d a b s
  | .rdsend d a b => Sys2Proof.Machine.execRdsend d a b s
  | .thdr t a => Sys2Proof.Machine.execThdr t a s
  | .tsth t a => Sys2Proof.Machine.execTsth t a s
  | .tmake t a b => Sys2Proof.Machine.execTmake t a b s
  | .tset t a b => Sys2Proof.Machine.execTset t a b s
  | .tget d t => Sys2Proof.Machine.execTget d t s
  | .lease => Sys2Proof.Machine.execLease s
  | .mrel => Sys2Proof.Machine.execMrel s
  | .mstat d => Sys2Proof.Machine.execMstat d s
  | .mma tc ta tb => Sys2Proof.Machine.execMma tc ta tb s
  | .mmag tc ta tb k => Sys2Proof.Machine.execMmag tc ta tb k s
  | .mzero tc => Sys2Proof.Machine.execMzero tc s
  | .mdrain tc a => Sys2Proof.Machine.execMdrain tc a s
  | .tcvt td ts => Sys2Proof.Machine.execTcvt td ts s
  | .aqadd td ta tb => Sys2Proof.Machine.execAqadd td ta tb s
  | .jqnext d a => Sys2Proof.Machine.execJqnext d a s
  | .ptcfg a b => Sys2Proof.Machine.execPtcfg a b s
  | .pset a b => Sys2Proof.Machine.execPset a b s
  | .pget d a b => Sys2Proof.Machine.execPget d a b s
  | .psum d a => Sys2Proof.Machine.execPsum d a s
  | .nextev d w => Sys2Proof.Machine.execNextev d w s
  | .evsend a b => Sys2Proof.Machine.execEvsend a b s
  | .snap => Sys2Proof.Machine.execSnap s
  | .rollb a => Sys2Proof.Machine.execRollb a s
  | .slog a b => Sys2Proof.Machine.execSlog a b s
  | .fossil a => Sys2Proof.Machine.execFossil a s
  | .horiz a b => Sys2Proof.Machine.execHoriz a b s
  | .rkey a b => Sys2Proof.Machine.execRkey a b s
  | .rtab a b => Sys2Proof.Machine.execRtab a b s
  | .rdraw d => Sys2Proof.Machine.execRdraw d s
  | .ready a => Sys2Proof.Machine.execReady a s
  | .nest a b => Sys2Proof.Machine.execNest a b s
  | .nexti d a => Sys2Proof.Machine.execNexti d a s
  | .phase d a b => Sys2Proof.Machine.execPhase d a b s
  | .cbar a => Sys2Proof.Machine.execCbar a s
  | .cbarx a => Sys2Proof.Machine.execCbarx a s
  | .cbcast d a b => Sys2Proof.Machine.execCbcast d a b s
  | .credAdd d a b => Sys2Proof.Machine.execCredAdd d a b s
  | .credMin d a b => Sys2Proof.Machine.execCredMin d a b s
  | .credMax d a b => Sys2Proof.Machine.execCredMax d a b s
  | .credOr d a b => Sys2Proof.Machine.execCredOr d a b s
  | .credAnd d a b => Sys2Proof.Machine.execCredAnd d a b s
  | .gmem d a => Sys2Proof.Machine.execGmem d a s
  | .sbind v a => Sys2Proof.Machine.execSbind v a s
  | .sfree v => Sys2Proof.Machine.execSfree v s
  | .spos d v => Sys2Proof.Machine.execSpos d v s
  | .srep n => Sys2Proof.Machine.execSrep n s
  | .vbcast v a => Sys2Proof.Machine.execVbcast v a s
  | .vext d v b => Sys2Proof.Machine.execVext d v b s
  | .vins v a b => Sys2Proof.Machine.execVins v a b s
  | .trap a => Sys2Proof.Machine.execTrap a s
  | .brk => Sys2Proof.Machine.execBrk s
  | .halt => Sys2Proof.Machine.execHalt s
  | .csrr d csr => Sys2Proof.Machine.execCsrr d csr s
  | .csrw csr b => Sys2Proof.Machine.execCsrw csr b s
  | .pmrd d a => Sys2Proof.Machine.execPmrd d a s
  | .vadd ty d a b => Sys2Proof.Machine.execVadd ty d a b s
  | .vsub ty d a b => Sys2Proof.Machine.execVsub ty d a b s
  | .vmul ty d a b => Sys2Proof.Machine.execVmul ty d a b s
  | .vfma ty d a b => Sys2Proof.Machine.execVfma ty d a b s
  | .vfms ty d a b => Sys2Proof.Machine.execVfms ty d a b s
  | .vnfma ty d a b => Sys2Proof.Machine.execVnfma ty d a b s
  | .vmin ty d a b => Sys2Proof.Machine.execVmin ty d a b s
  | .vmax ty d a b => Sys2Proof.Machine.execVmax ty d a b s
  | .vabs ty d a => Sys2Proof.Machine.execVabs ty d a s
  | .vneg ty d a => Sys2Proof.Machine.execVneg ty d a s
  | .vcmp c ty p a b => Sys2Proof.Machine.execVcmp c ty p a b s
  | .vsel ty d a p => Sys2Proof.Machine.execVsel ty d a p s
  | .vcvt c d a => Sys2Proof.Machine.execVcvt c d a s
  | .vmov ty d a => Sys2Proof.Machine.execVmov ty d a s
  | .vidx d => Sys2Proof.Machine.execVidx d s
  | .vdiv ty d a b => Sys2Proof.Machine.execVdiv ty d a b s
  | .vand ty d a b => Sys2Proof.Machine.execVand ty d a b s
  | .vor ty d a b => Sys2Proof.Machine.execVor ty d a b s
  | .vxor ty d a b => Sys2Proof.Machine.execVxor ty d a b s
  | .vnot ty d a => Sys2Proof.Machine.execVnot ty d a s
  | .vshl ty d a b => Sys2Proof.Machine.execVshl ty d a b s
  | .vshr ty d a b => Sys2Proof.Machine.execVshr ty d a b s
  | .vsar ty d a b => Sys2Proof.Machine.execVsar ty d a b s
  | .vmulh ty d a b => Sys2Proof.Machine.execVmulh ty d a b s
  | .vexp2 d a => Sys2Proof.Machine.execVexp2 d a s
  | .vlog2 d a => Sys2Proof.Machine.execVlog2 d a s
  | .vrcp d a => Sys2Proof.Machine.execVrcp d a s
  | .vrsq d a => Sys2Proof.Machine.execVrsq d a s
  | .vsqrt d a => Sys2Proof.Machine.execVsqrt d a s
  | .vperm d a b => Sys2Proof.Machine.execVperm d a b s
  | .vred op ty d a => Sys2Proof.Machine.execVred op ty d a s
  | .vscan op ty d a => Sys2Proof.Machine.execVscan op ty d a s
  | .vrnd d => Sys2Proof.Machine.execVrnd d s
  | .vrndu d => Sys2Proof.Machine.execVrndu d s
  | .pand d a b => Sys2Proof.Machine.execPand d a b s
  | .por d a b => Sys2Proof.Machine.execPor d a b s
  | .pxor d a b => Sys2Proof.Machine.execPxor d a b s
  | .pnot d a => Sys2Proof.Machine.execPnot d a s
  | .pcnt d p => Sys2Proof.Machine.execPcnt d p s
  | .pfirst d p => Sys2Proof.Machine.execPfirst d p s
  | .pmask p => Sys2Proof.Machine.execPmask p s
  | .anop => Sys2Proof.Machine.execAnop s
  | .variableLatencyResult id => Sys2Proof.Machine.execVariableLatencyResult id s
  | .taskEnd core ctx => Sys2Proof.Machine.execTaskEnd core ctx s
  | .deferredFault core ctx => Sys2Proof.Machine.execDeferredFault core ctx s
  | .waitExpiry core ctx => Sys2Proof.Machine.execWaitExpiry core ctx s
  | .catenaryArrival core ctx => Sys2Proof.Machine.execCatenaryArrival core ctx s
  | .catenaryWithdrawal core ctx => Sys2Proof.Machine.execCatenaryWithdrawal core ctx s
  | .catenaryCompletion dom g => Sys2Proof.Machine.execCatenaryCompletion dom g s
  | .taskDispatch core => Sys2Proof.Machine.execTaskDispatch core s
  | .starve core ch => Sys2Proof.Machine.execStarve core ch s
  | .stealBackoffExpiry core => Sys2Proof.Machine.execStealBackoffExpiry core s
  | .stealRequest id => Sys2Proof.Machine.execStealRequest id s
  | .stealServe core => Sys2Proof.Machine.execStealServe core s
  | .stealAnswer id => Sys2Proof.Machine.execStealAnswer id s
  | .msgArrival id => Sys2Proof.Machine.execMsgArrival id s
  | .replyArrival id => Sys2Proof.Machine.execReplyArrival id s
  | .refusedReply id => Sys2Proof.Machine.execRefusedReply id s
  | .refusedHalted id => Sys2Proof.Machine.execRefusedHalted id s
  | .refusedUnbound id => Sys2Proof.Machine.execRefusedUnbound id s
  | .refusedNocore id => Sys2Proof.Machine.execRefusedNocore id s
  | .taggedArrival id => Sys2Proof.Machine.execTaggedArrival id s
  | .atomRequest id => Sys2Proof.Machine.execAtomRequest id s
  | .atomPerform core => Sys2Proof.Machine.execAtomPerform core s
  | .atomr id => Sys2Proof.Machine.execAtomr id s
  | .drainMerge core => Sys2Proof.Machine.execDrainMerge core s
  | .caddm id => Sys2Proof.Machine.execCaddm id s
  | .counterPendingPush core n => Sys2Proof.Machine.execCounterPendingPush core n s
  | .engineFaultSetting id => Sys2Proof.Machine.execEngineFaultSetting id s
  | .rdreq id => Sys2Proof.Machine.execRdreq id s
  | .rdreqPerform core => Sys2Proof.Machine.execRdreqPerform core s
  | .rddata id => Sys2Proof.Machine.execRddata id s
  | .contrib id => Sys2Proof.Machine.execContrib id s
  | .diePartial id => Sys2Proof.Machine.execDiePartial id s
  | .timedArrival id => Sys2Proof.Machine.execTimedArrival id s
  | .cancelArrival id => Sys2Proof.Machine.execCancelArrival id s
  | .faultRecord id => Sys2Proof.Machine.execFaultRecord id s
  | .releaseArrival id => Sys2Proof.Machine.execReleaseArrival id s
  | .hostReport id => Sys2Proof.Machine.execHostReport id s
  | .stationMessage id => Sys2Proof.Machine.execStationMessage id s
  | .get id => Sys2Proof.Machine.execGet id s
  | .put id => Sys2Proof.Machine.execPut id s
  | .gcopy id => Sys2Proof.Machine.execGcopy id s
  | .move id => Sys2Proof.Machine.execMove id s
  | .haloRequest id => Sys2Proof.Machine.execHaloRequest id s
  | .putx id => Sys2Proof.Machine.execPutx id s
  | .outboundEnvelope id => Sys2Proof.Machine.execOutboundEnvelope id s
  | .jqnextServe id => Sys2Proof.Machine.execJqnextServe id s
  | .claimServe id => Sys2Proof.Machine.execClaimServe id s
  | .versionHoldExpiry core id => Sys2Proof.Machine.execVersionHoldExpiry core id s
  | .ldvHoldExpiry id => Sys2Proof.Machine.execLdvHoldExpiry id s
  | .watermarkStallExpiry core ctx => Sys2Proof.Machine.execWatermarkStallExpiry core ctx s
  | .rdsendExpiry core ctx => Sys2Proof.Machine.execRdsendExpiry core ctx s
  | .leaseExpiry core ctx => Sys2Proof.Machine.execLeaseExpiry core ctx s
  | .pagereqHoldExpiry core ctx => Sys2Proof.Machine.execPagereqHoldExpiry core ctx s
  | .goComplete dom => Sys2Proof.Machine.execGoComplete dom s
  | .sweep dom => Sys2Proof.Machine.execSweep dom s
  | .launchEnd dom => Sys2Proof.Machine.execLaunchEnd dom s
  | .quantumTapArrival core => Sys2Proof.Machine.execQuantumTapArrival core s
  | .quantumClose dom => Sys2Proof.Machine.execQuantumClose dom s
  | .preemptStop dom => Sys2Proof.Machine.execPreemptStop dom s
  | .translationBroadcast dom => Sys2Proof.Machine.execTranslationBroadcast dom s
  | .undecodableWord w check second => Sys2Proof.Machine.execUndecodableWord w check second s
  | .inboundPutx port core off bytes cnt => Sys2Proof.Machine.execInboundPutx port core off bytes cnt s
  | .stealAttempt core => Sys2Proof.Machine.execStealAttempt core s
  | .contribAccept part g => Sys2Proof.Machine.execContribAccept part g s
  | .timedResend core => Sys2Proof.Machine.execTimedResend core s
  | .cancelSend core => Sys2Proof.Machine.execCancelSend core s
  | .copyBeat job => Sys2Proof.Machine.execCopyBeat job s
  | .inboundMessage part port hdr route payload => Sys2Proof.Machine.execInboundMessage part port hdr route payload s
  | .linkDown part port => Sys2Proof.Machine.execLinkDown part port s
  | .turntableRunEnd part k => Sys2Proof.Machine.execTurntableRunEnd part k s
  | .mzeroRun part k => Sys2Proof.Machine.execMzeroRun part k s
  | .mmaRun part k => Sys2Proof.Machine.execMmaRun part k s
  | .mdrainRun part k => Sys2Proof.Machine.execMdrainRun part k s
  | .tileUnitRun core => Sys2Proof.Machine.execTileUnitRun core s
  | .engineCommandComplete id => Sys2Proof.Machine.execEngineCommandComplete id s
  | .storeLanePerform core id => Sys2Proof.Machine.execStoreLanePerform core id s
  | .sliceLoadServe id => Sys2Proof.Machine.execSliceLoadServe id s
  | .heldWritePerform core id => Sys2Proof.Machine.execHeldWritePerform core id s
  | .lineEviction core line => Sys2Proof.Machine.execLineEviction core line s
  | .translationFill core ctx => Sys2Proof.Machine.execTranslationFill core ctx s
  | .walkComplete part region => Sys2Proof.Machine.execWalkComplete part region s
  | .poolClearDone core => Sys2Proof.Machine.execPoolClearDone core s
  | .softErrorCorrected part => Sys2Proof.Machine.execSoftErrorCorrected part s
  | .uncorrectableError site => Sys2Proof.Machine.execUncorrectableError site s
  | .launchDispatch dom => Sys2Proof.Machine.execLaunchDispatch dom s
  | .go dom => Sys2Proof.Machine.execGo dom s
  | .contextSave dom => Sys2Proof.Machine.execContextSave dom s
  | .loadImage q cmd image => Sys2Proof.Machine.execLoadImage q cmd image s
  | .launch q cmd => Sys2Proof.Machine.execLaunch q cmd s
  | .cancelLaunch q cmd => Sys2Proof.Machine.execCancelLaunch q cmd s
  | .preempt q cmd => Sys2Proof.Machine.execPreempt q cmd s
  | .resume q cmd => Sys2Proof.Machine.execResume q cmd s
  | .mapPages q cmd => Sys2Proof.Machine.execMapPages q cmd s
  | .unmapPages q cmd => Sys2Proof.Machine.execUnmapPages q cmd s
  | .tlbflush q cmd => Sys2Proof.Machine.execTlbflush q cmd s
  | .queryDomainState q cmd => Sys2Proof.Machine.execQueryDomainState q cmd s
  | .querySliceCapacities q cmd => Sys2Proof.Machine.execQuerySliceCapacities q cmd s
  | .queryHarvestState q cmd => Sys2Proof.Machine.execQueryHarvestState q cmd s
  | .queryPackageFigures q cmd => Sys2Proof.Machine.execQueryPackageFigures q cmd s
  | .pmread q cmd => Sys2Proof.Machine.execPmread q cmd s
  | .partcfg q cmd => Sys2Proof.Machine.execPartcfg q cmd s
  | .reset q cmd => Sys2Proof.Machine.execReset q cmd s
  | .cqhead q value => Sys2Proof.Machine.execCqhead q value s
  | .registerWrite page off value => Sys2Proof.Machine.execRegisterWrite page off value s
  | .bar4Read off n => Sys2Proof.Machine.execBar4Read off n s
  | .bar4Write off n value => Sys2Proof.Machine.execBar4Write off n value s
  | .freeze core => Sys2Proof.Machine.execFreeze core s
  | .thaw core => Sys2Proof.Machine.execThaw core s
  | .debugEnable core => Sys2Proof.Machine.execDebugEnable core s
  | .powerGood => Sys2Proof.Machine.execPowerGood s
  | .overtemp => Sys2Proof.Machine.execOvertemp s
  | .streamBeatArrival core ctx v => Sys2Proof.Machine.execStreamBeatArrival core ctx v s
  | .coolantLimitDerate deciC => Sys2Proof.Machine.execCoolantLimitDerate deciC s

end Sys2Proof.Machine
end

