-- ==== Sys2Proof/Machine/Fetch.lean ====
section
/-! DEFINITION. Bundles: how they are fetched and checked (R33 to R36), how one or two words take effect (R35, R54), and which
context of a core issues (R17). -/

namespace Sys2Proof.Machine
open Sys2Proof

/-! ## Forming a bundle (R34) -/

/-- IMem[a]. Past 0xFFFC, which no rule gives a PC but falling through, it reads as the empty memory does, BRK (log 63). -/
def Core.fetch (k : Core) (a : Nat) : Word32 := BitVec.ofNat 32 (Memory.num brkByte k.imem a 4)
/-- What stands at a program counter: one word, two words, or words that form no bundle. -/
inductive Formed
  | one (w : Word32)
  | two (w0 w1 : Word32)
  | none_ (w0 w1 : Word32)
  deriving DecidableEq, Repr
def Core.form (k : Core) (pc : Nat) : Formed :=
  let w0 := k.fetch pc
  if wL w0 = 1 then .one w0
  else if pc % 8 = 4 ∨ wK w0 = 1 then .none_ w0 0
  else
    let w1 := k.fetch (pc + 4)
    if wL w1 = 1 ∨ wK w1 = 0 ∨ wS w1 = 1 then .none_ w0 w1 else .two w0 w1
/-- PAIR of R34 and R35: the bundle's address and its words. -/
def pairFlt (pc : Nat) (w0 w1 : Word32) : Flt := flt .pair (nat64 pc) (w0.setWidth 64) (w1.setWidth 64)
/-- Two words that may not stand in one bundle (R35). -/
def pairBad (i0 i1 : Instr) : Bool :=
  isWaiting i0 || (match cWritesV i0 with
    | some v => (aWritesV i1).contains v
    | none => false)

/-! ## Issue -/

/-- The issuing bundle of a context, wherever its PC stands (log 63). -/
def State.begin (s : State) (c x : Nat) : State :=
  let pc := (s.ctx c x).pc
  { s with cur := { core := c, ctx := x, pc := pc, wpc := pc, size := 4, next := pc + 4 } }
/-- A bundle retires with its words; a bundle of a body goes on with the repetition (R114). `was` is the repetition state that
it issued under. -/
def State.retireBundle (s : State) (words : Nat) (was : Option Srep) : State :=
  let c := s.cur.core
  let x := s.cur.ctx
  let s := s.retire c x s.cur.next words
  (s.updCtx c x fun k => if k.st = .ready then { k with stall := none } else k).repeats c x was
/-- The bundle has taken effect, or has fared otherwise. -/
def State.finish (s : State) (words : Nat) (was : Option Srep) : State :=
  match s.cur.fate with
  | .retire => s.retireBundle words was
  | _ => s
/-- One word (R54). -/
def State.runOne (s : State) (i : Instr) : State := next (exec i s) s
/-- The binding that the C word of a pair leaves stands, after what its A word popped and pushed (R35, R95, R111, R113). -/
def State.rebind (s s1 : State) (i0 : Instr) : State :=
  let put := fun (v : BitVec 3) (l : List (Nat × Stream)) => match AMap.find s1.me.streams v.toNat with
    | some t => AMap.set l v.toNat t
    | none => AMap.erase l v.toNat
  let keep := fun (v : BitVec 3) => s.updMe fun k => { k with streams := put v k.streams }
  match i0 with
  | .sbind v _ => keep v
  | .sfree v => keep v
  | .endt => s.updMe fun k => { k with streams := [] }
  | _ => s
/-- Two words as one bundle (R35): both read their operands first; if either fares otherwise than by retiring, neither takes
effect, the first word first. A draw beside `RKEY` takes the ordinals that stood before it (R121). -/
def State.runTwo (s : State) (i0 i1 : Instr) : State :=
  let s := { s with cur := { s.cur with size := 8, next := s.cur.pc + 8 } }
  let s1 := s.runOne i0
  match s1.cur.fate with
  | .retire =>
    let sA := { s with cur := { s.cur with wpc := s.cur.pc + 4 } }.runOne i1
    match sA.cur.fate with
    | .retire =>
      let s2 := match i0 with
        | .rkey _ _ => { sA with cur := { sA.cur with snap := some s.me, wpc := s.cur.pc } }.runOne i0
        | _ => { s1 with cur := { s1.cur with snap := some s.me, wpc := s.cur.pc + 4 } }.runOne i1
      match s2.cur.fate with
      | .retire => { s2.rebind s1 i0 with cur := { s2.cur with snap := none } }
      | .park => s.parkMe s2.me.upTo
      | f => s.suffer f
    | _ => sA
  | _ => s1

/-- The registers of a bundle that stand in Pending (R36). -/
def State.hazard (s : State) (is : List Instr) : Option Nat :=
  let regs := (is.flatMap sRegs).map fun r => 64 + r.toNat
  regs.find? fun r => s.me.pending.contains r
/-- The marker (R34, R36), HAZARD, the body rule of R114, and the effect. -/
def State.check_ (s : State) (marked : Bool) (is : List Instr) (run : State → State) : State :=
  if marked && s.me.outstanding != 0 then s.parkMe
  else
    let s := if marked then s.updMe fun k => { k with pending := [] } else s
    match s.hazard is with
    | some r => s.raise (flt .hazard (nat64 r) 0 0)
    | none =>
      let was := s.me.srep
      match was with
      | some r => if is.any bodyForbids then s.raise (streamFlt 0 5 r.n) else (run s).finish is.length was
      | none => (run s).finish is.length was
/-- A fetch meets an uncorrectable error (R324). -/
def State.fetchBad (s : State) (c pc : Nat) : Bool := s.bad.any fun e => match e with
  | .imem k a => k == c && a / 8 == pc / 8
  | _ => false
/-- A context forms its bundle and issues it, or meets the fault that R34 to R36 name first. R35's own check of the two words
has no place in R34's order: the model makes it after both words have decoded and before the marker parks (log 64). -/
def State.issueCtx (s : State) (c x : Nat) : State :=
  let s := s.begin c x
  let pc := s.cur.pc
  if s.fetchBad c pc then s.raise { code := .ecc, addr := nat64 pc }
  else
    match (s.core c).form pc with
    | .none_ w0 w1 => s.raise (pairFlt pc w0 w1)
    | .one w =>
      match decodeWord w with
      | .error e => s.runOne (.undecodableWord w e.code false)
      | .ok i => s.check_ (wS w = 1) [i] fun s => s.runOne i
    | .two w0 w1 =>
      match decodeWord w0, decodeWord w1 with
      | .error e, _ => s.runOne (.undecodableWord w0 e.code false)
      | _, .error e => s.runOne (.undecodableWord w1 e.code true)
      | .ok i0, .ok i1 =>
        if pairBad i0 i1 then s.raise (pairFlt pc w0 w1)
        else s.check_ (wS w0 = 1) [i0, i1] fun s => s.runTwo i0 i1

/-! ## The issue slot (R17, R99) -/

/-- A context that may issue in this cycle. -/
def State.mayIssue (s : State) (c x : Nat) : Bool :=
  let k := s.ctx c x
  k.st == .ready && k.deferred.isNone && !s.pendingIds c k.startOn && (match s.launchOf c with
    | some l => !l.det || decide (k.retiredQ < l.quantum)
    | none => false)
/-- A bundle that waits unissued leaves the slot to another context (R17, R18). -/
def Fate.takesSlot : Fate → Bool
  | .stall _ | .park => false
  | _ => true
/-- The cycles that the bundle at a program counter holds the slot for. -/
def Core.slotCycles (k : Core) (pc : Nat) : Nat :=
  let of := fun (w : Word32) => match decodeWord w with
    | .ok i => issueCycles i
    | .error _ => 1
  match k.form pc with
  | .one w => of w
  | .two w0 w1 => Nat.max (of w0) (of w1)
  | .none_ _ _ => 1
/-- A `CWAIT` that succeeded at issue counts what its cell is yet to gain in this cycle too (R275). -/
def State.noteWait (s t : State) (c x : Nat) : State :=
  match t.cur.fate, (s.core c).form (s.ctx c x).pc with
  | .retire, .one w =>
    match decodeWord w with
    | .ok (.cwait a _ _) =>
      match s.localCounter c ((s.asIf c x).rs a) with
      | .ok n => t.updCore c fun k => { k with won := some (n, t.now) }
      | .error _ => t
    | _ => t
  | _, _ => t
/-- The scan of R17 over what is left of the contexts. -/
def State.issueScan (s : State) (c : Nat) : List Nat → State
  | [] => s
  | x :: r =>
    if s.mayIssue c x then
      let n := (s.core c).slotCycles (s.ctx c x).pc
      let t := s.issueCtx c x
      if t.cur.fate.takesSlot then
        (s.noteWait t c x).updCore c fun k => { k with last := x, busy := s.now + (if t.cur.fate = .retire then n else 1) }
      else t.issueScan c r
    else s.issueScan c r
/-- The issue slot of a core in this cycle. -/
def State.issue (s : State) (c : Nat) : State :=
  let k := s.core c
  if !s.runs c || k.frozen || k.tapped || decide (s.now < k.busy) then s
  else s.issueScan c ((List.range 11).map fun i => (k.last + 1 + i) % 11)

end Sys2Proof.Machine
end

