-- ==== Sys2Proof/Machine/Cycle.lean ====
section
/-! DEFINITION. A cycle: what falls due in it, and in which order its parts are taken (log 6). -/

namespace Sys2Proof.Machine
open Sys2Proof

/-! ## Waking (R16, R18) -/

/-- The reason a context is STALLED for has gone, where nothing else wakes it. -/
def State.cleared (s : State) (c x : Nat) : Stall → Bool
  | .queue => decide (s.ttBusy c < 16)
  | .tileUnit => decide (s.tileBusy c < 16)
  | .window => decide ((s.core c).awaiting < (s.core c).window)
  | .lanes => (s.core c).lanesOpen x && (s.ctx c x).push.isEmpty
  | .fence ids => !s.pendingIds c ids && !s.net.any fun p => ids.contains p.id
  | .seq id => !(s.core c).lanes.any (fun l => l.id == id) && !s.loads.any (fun q => q.id == id) &&
    !(s.ctx c x).outs.any fun o => o.id == id && o.open_
  | .xlate p => (bufFind (s.core c).tlb (pageVa p)).isSome || (bufFind (s.ctx c x).xhave (pageVa p)).isSome || (s.ctx c x).xmiss == some p
  | .pool => !(s.core c).clearing
  | .watermark _ _ _ | .held _ _ | .beat _ | .quantum => false
/-- Contexts whose interlock has cleared or whose last result has been written are READY. -/
def State.wake (s : State) (c : Nat) : State :=
  if (s.core c).frozen then s
  else
    (s.core c).ctxs.foldl (fun s e =>
      match e.2.st, e.2.stall with
      | .stalled, some r => if s.cleared c e.1 r then s.updCtx c e.1 fun k => { k with st := .ready } else s
      | .parked, _ => s.updCore c fun k => k.unpark e.1
      | _, _ => s) s
/-- Domains with a launch. -/
def State.launches (s : State) : List (Nat × Launch) := s.domains.filterMap fun d => d.2.launch.map fun l => (d.1, l)
/-- Cores that hold something, in a domain whose launch is in one of some phases. -/
def State.coresWhere (s : State) (p : LPhase → Bool) : List Nat :=
  (s.cores.map (·.1)).filter fun c => match s.launchOf c with
    | some l => p l.phase
    | none => false
def LPhase.runs : LPhase → Bool
  | .running | .stopping _ _ _ => true
  | _ => false
/-- A wait of a launch in this phase may end by its condition (R327). -/
def LPhase.polls (now : Nat) : LPhase → Bool
  | .stopped t _ _ => t == now
  | p => p.runs
/-- The slots that came free in the cycle before accept again (R211). -/
def Core.unfreed (k : Core) : Core :=
  if k.channels.any fun h => !h.2.freed.isEmpty then
    { k with channels := k.channels.map fun (h : Nat × Channel) => (h.1, { h.2 with freed := [] }) }
  else k
/-- A new cycle begins: freed slots accept again, engine threads write on and may read, and the cycles in which a launch runs are counted
(R211, R274, R338). -/
def State.newCycle (s : State) : State :=
  let s := { s with now := s.now + 1, cores := s.cores.map fun (e : Nat × Core) => (e.1, e.2.unfreed) }
  let s := s.writeOn.remember
  s.launches.foldl (fun s l =>
    if l.2.phase.runs then (s.domParts l.1).foldl (fun s p => s.count p 0 1) s else s) s

/-! ## What is due -/

/-- Writes that wait for version-store room: each is performed as soon as there is some, and else its limit is looked at (R254). Which of
several gets an entry is not said: the model takes the lanes and handlers in the order of the cores, then the copies (log 86). -/
def State.heldWrites (s : State) : List Work :=
  (s.cores.flatMap fun c =>
    (c.2.lanes.filter (fun l => l.held.isSome)).flatMap (fun l =>
      [.room c.1 l.id, .ev (.versionHoldExpiry c.1 l.id)]) ++
    (match c.2.hheld, c.2.handler with
      | some _, .atom _ _ _ _ _ _ _ out :: _ => [.ev (.atomPerform c.1), .ev (.versionHoldExpiry c.1 out)]
      | some _, .merge _ _ eng _ :: _ => [.ev (.drainMerge c.1), .ev (.versionHoldExpiry c.1 eng)]
      | _, _ => [])) ++
  (s.jobs.filter fun j => j.held.isSome).flatMap fun j =>
    [.room j.core j.id, .ev (.versionHoldExpiry j.core j.id)]
/-- What falls due at the start of a cycle: pending pushes, what a leaf held while `POOL` cleared its core's banks or a station while its host
ring was full, completions on the Catenary, deferred faults, holds. -/
def State.due (s : State) : List Instr :=
  (s.cores.flatMap fun c => (c.2.counters.filter fun n => n.2.pend).map fun n => Instr.counterPendingPush c.1 n.1) ++
  (s.launches.flatMap fun (b, l) =>
    (match l.phase with
      | .going _ => [Instr.goComplete b]
      | .stopping _ _ _ | .stopped _ _ _ => [Instr.preemptStop b]
      | _ => []) ++
    ((l.groups.filter fun g => g.2.whole).map fun g => Instr.catenaryCompletion b g.1) ++
    (if l.closeAt.isSome then [Instr.quantumClose b] else []) ++
    (if l.sweep.isSome then [Instr.launchEnd b] else [])) ++
  ((s.net.filter fun p => p.released && !(s.core p.dst).clearing).flatMap fun p => match p.body with
    | .putIn _ _ _ _ _ => p.event
    | _ => []) ++
  (sortBy (fun a b => decide (a.came.getD 0 ≤ b.came.getD 0)) (s.net.filter fun p => p.came.isSome)).flatMap Packet.event ++
  (s.domains.filter fun d => !d.2.casts.isEmpty).map (fun d => Instr.translationBroadcast d.1) ++
  ((s.coresWhere LPhase.runs).flatMap fun c =>
    ((s.core c).ctxs.filter fun k => k.2.deferred.isSome).map fun k => Instr.deferredFault c k.1)
/-- Contexts of a core in a wait, with the wait. -/
def Core.waiters (k : Core) : List (Nat × Wait) :=
  k.ctxs.filterMap fun e => match e.2.st, e.2.wait with
    | .waiting, some w => some (e.1, w)
    | _, _ => none
/-- Waits are looked at: a Catenary wait arrives where it can, another ends where its condition holds. In deterministic mode too they are
looked at in every cycle: R192 speaks of quantum closes and R242 of the cycle in which the condition holds (log 83). -/
def State.pollsOf (s : State) (c : Nat) : List Work :=
  if (s.core c).tapped || (s.core c).frozen then []
  else (s.core c).waiters.map fun (x, w) =>
    if ((s.asIf c x).catOp w.instr).isSome then .ev (.catenaryArrival c x) else .poll c x
/-- The step that ends a wait whose limit has been reached (R43). -/
def State.expiryOf (s : State) (c x : Nat) (w : Wait) : Instr :=
  match w.instr with
  | .lease => .leaseExpiry c x
  | .rdsend _ _ _ => .rdsendExpiry c x
  | i => if ((s.asIf c x).catOp i).isSome then .catenaryWithdrawal c x else .waitExpiry c x
/-- A wait is past its limit: under FREEZE an arrival is withdrawn all the same, and everything else waits for THAW (log 70). -/
def State.pastLimit (s : State) (c x : Nat) (w : Wait) : Option Wait :=
  if ((s.asIf c x).catOp w.instr).isSome then s.limitOver c x else s.expired c x
/-- Limits that may have been reached. -/
def State.expiries (s : State) : List Instr :=
  let run := s.coresWhere LPhase.runs
  (run.flatMap fun c =>
    let k := s.core c
    (if k.tapped then [] else
      (k.waiters.filter fun e => (s.pastLimit c e.1 e.2).isSome).map fun (x, w) => s.expiryOf c x w) ++
    (if k.frozen then [] else k.ctxs.filterMap fun e => match e.2.st, e.2.stall with
      | .stalled, some (.watermark _ _ _) => some (.watermarkStallExpiry c e.1)
      | .stalled, some (.held _ _) => some (.pagereqHoldExpiry c e.1)
      | _, _ => none) ++
    (k.channels.filter fun h => h.2.waitFrom.isSome).map (fun h => Instr.starve c h.1) ++
    (if k.stealWait.isSome then [.stealBackoffExpiry c] else []) ++
    (k.event.flight.filter (k.event.mayResend (s.ticks c))).map (fun _ => Instr.timedResend c)) ++
  (s.loads.filter fun q => q.want.isSome && run.contains q.core).map (fun q => Instr.ldvHoldExpiry q.id) ++
  (s.jobs.filter fun j => j.page.isSome).map (fun j => Instr.pagereqHoldExpiry j.core 15) ++
  (s.fins.filter fun f => f.page.isSome).map fun f => Instr.pagereqHoldExpiry f.core 15
/-- Tasks whose last result has returned end (R211, R212). -/
def State.taskEnds (s : State) : List Instr :=
  (s.coresWhere fun _ => true).flatMap fun c =>
    ((s.core c).ctxs.filter fun e => e.2.ending && e.2.outs.isEmpty && e.2.push.isEmpty).map fun e => Instr.taskEnd c e.1
/-- Taps that may arrive, and sweeps at a frame boundary (R240, R243). -/
def State.taps (s : State) : List Instr :=
  s.launches.flatMap fun (b, l) =>
    (if l.det then (s.domCores b).filter s.tapReady |>.map .quantumTapArrival else []) ++
    (if l.phase.sweeps.isSome && l.sweep.isNone && (s.now - l.start) % 8 == 0 then [.sweep b] else [])

/-! ## The order of a cycle -/

def evs (l : List Instr) : List Work := l.map .ev
/-- Steps that have their own place in a cycle. -/
def placedStep : Instr → Bool
  | .taskDispatch _ | .taskEnd _ _ | .counterPendingPush _ _ | .deferredFault _ _ | .catenaryArrival _ _ => true
  | _ => false
/-- A steal of a deterministic launch is tried in the first cycle of a quantum alone, and by itself (R216). -/
def State.ownSteal (s : State) : Instr → Bool
  | .stealAttempt c => s.det c
  | _ => false
/-- The counter adds that reach their cells in this cycle: those that `inputs` names, and, as soon as their releases are complete, a
core's own and what a port has taken from another package (R275, R350). They follow the issue slots, so that a `CARM`, `CSET` or `CFLT` acts
before every add that reaches its cell in its cycle (R198). -/
def State.adds (s : State) : List Instr :=
  s.net.filterMap fun p => match p.body with
    | .cadd _ _ _ _ _ =>
      if (s.inputs.headD []).contains (.caddm p.id) || (p.released && (p.src == p.dst || (portOf p.src).isSome)) then some (.caddm p.id)
      else none
    | _ => none
def State.packet (s : State) (id : Nat) : Option Packet := s.net.find? fun p => p.id == id
/-- The rank of a step that writes at a slice or adds to a counter: its issuing core and context, engines as context 15 (R185,
R266). -/
def State.stepRank (s : State) : Instr → Option (Nat × Nat)
  | .storeLanePerform c id | .heldWritePerform c id =>
    ((s.core c).lanes.find? fun l => l.id == id).map fun (l : LaneEntry) => (s.rel c, l.ctx)
  | .atomPerform c => match (s.core c).handler with
    | .atom src _ _ _ _ _ ctx _ :: _ => some (s.rel src, ctx)
    | _ => none
  | .drainMerge c => match (s.core c).handler with
    | .merge _ _ _ src :: _ => some (s.rel src, 15)
    | _ => none
  | .copyBeat id => (s.jobs.find? fun j => j.id == id).map fun (j : CopyJob) => (s.rel j.core, 15)
  | .engineCommandComplete id => (s.fins.find? fun f => f.id == id).map fun (f : Fin) => (s.rel f.core, 15)
  | .caddm id => match s.packet id with
    | some { body := .cadd _ _ who ctx _, .. } => some (who.toNat, ctx.toNat)
    | _ => none
  | .claimServe id => match s.packet id with
    | some { body := .claim _ _ _ _ _ ctx _, src, .. } => some (s.rel src, ctx)
    | _ => none
  | _ => none
def rankLe (a b : Nat × Nat) : Bool := decide (a.1 < b.1) || (a.1 == b.1 && decide (a.2 ≤ b.2))
/-- Some elements of a list take each other's places in an order; the others keep theirs. -/
def regroup {α : Type} (sel : α → Bool) : List α → List α → List α
  | [], _ => []
  | x :: r, ys =>
    if sel x then
      match ys with
      | y :: ys => y :: regroup sel r ys
      | [] => x :: regroup sel r []
    else x :: regroup sel r ys
/-- Steps of one cycle, with those that write at slices or add to counters in the order of their ranks. -/
def State.ranked (s : State) (l : List Instr) : List Instr :=
  let rank := fun i => (s.stepRank i).getD (0, 0)
  let sel := fun i => (s.stepRank i).isSome
  regroup sel l (sortBy (fun a b => rankLe (rank a) (rank b)) (l.filter sel))
/-- Whether a step of open timing comes after the issue slots: the completion of an engine's command, and a claim's add (R185, R222). -/
def lateStep : Instr → Bool
  | .engineCommandComplete _ | .claimServe _ => true
  | _ => false
/-- The dispatch of a domain's LAUNCH comes before a CANCEL in the same firmware cycle: it wins (R344). -/
def dispatchFirst (l : List Instr) : List Instr :=
  let first := fun (i : Instr) => match i with
    | .launchDispatch _ => true
    | _ => false
  let either := fun (i : Instr) => match i with
    | .launchDispatch _ | .cancelLaunch _ _ => true
    | _ => false
  regroup either l (l.filter first ++ l.filter fun i => either i && !first i)
/-- A step that brings a request to where it is served. -/
def landsRequest : Instr → Bool
  | .atomRequest _ | .get _ | .put _ | .gcopy _ | .move _ | .haloRequest _ => true
  | _ => false
/-- The steps of open timing that fall in this cycle, before the issue slots or after them: requests land first, so that what they write in
this cycle takes its rank (R266). -/
def State.arrivals (s : State) (late : Bool) : List Instr :=
  let l := (s.inputs.headD []).filter fun i => !placedStep i && !s.ownSteal i && lateStep i == late && (match i with
    | .caddm _ => false
    | _ => true)
  let l := dispatchFirst l
  l.filter landsRequest ++ l.filter (fun i => !landsRequest i) ++ if late then s.adds else []
/-- A `CWAIT` that succeeded at issue acquires the releases of all adds that its cell has counted by the cycle's end (R275). -/
def State.lateAcquire (s : State) : State :=
  s.cores.foldl (fun s e => match e.2.won with
    | some (n, t) => if t = s.now then s.acquire e.1 (s.cell e.1 n).acq else s
    | none => s) s
/-- The work of a stage: what is due; what arrives and runs at open times; the issue slots, of the contexts that have woken; what
comes after them; dispatch; the waits; the limits; the ends of tasks; taps and sweeps. -/
def State.stage (s : State) (n : Nat) : State :=
  match n with
  | 0 => { s with work := evs s.due ++ s.heldWrites ++ s.work }
  | 1 => { s with work := .steps (s.arrivals false) :: s.work }
  | 2 =>
    let t := (s.coresWhere LPhase.runs).foldl (fun s c => s.wake c) s
    { t with work := (t.coresWhere LPhase.runs).map .issue ++ t.work }
  | 3 => { s with work := .steps (s.arrivals true) :: s.work, inputs := s.inputs.tail }
  | 4 =>
    let t := s.lateAcquire
    let cs := (t.coresWhere LPhase.runs).filter fun c => !(t.core c).channels.isEmpty
    let steals := cs.filter fun c => (match t.launchOf c with
      | some l => l.det && l.qstart == t.now
      | none => false)
    { t with work := evs (steals.map .stealAttempt ++ cs.map .taskDispatch) ++ t.work }
  | 5 => { s with work := (s.coresWhere (LPhase.polls s.now)).flatMap s.pollsOf ++ s.work }
  | 6 => { s with work := evs s.expiries ++ s.work }
  | 7 => { s with work := evs s.taskEnds ++ s.work }
  | _ => { s with work := evs s.taps ++ s.work }
/-- The wait of a context is looked at: its instruction retires, faults, waits on, or issues again where a draw meets a watermark
(R43, R294). The rollbacks that a waiting `NEXTEV` makes stay done (R314). -/
def State.pollCtx (s : State) (c x : Nat) : State :=
  match (s.ctx c x).st, (s.ctx c x).wait with
  | .waiting, some w =>
    let t := (s.asIf c x).runOne w.instr
    match t.cur.fate with
    | .retire => t.leaveWait c x
    | .fault _ => t
    | .stall _ => t.updCtx c x fun k => { k with wait := none }
    | .wait _ => match w.instr with
      | .nextev _ _ => t
      | _ => s
    | _ => s
  | _, _ => s
/-- An asynchronous step; an instruction word is none. -/
def State.event (s : State) (i : Instr) : State :=
  match i with
  | .undecodableWord _ _ _ => s
  | i => if isWord i then s else s.runOne i
/-- An entry that a step has freed in a version store goes to the writes held for one, at once (R254). -/
def State.offerRoom (t s : State) : State :=
  if t.parts.any fun p => decide (p.2.retained.length < (s.part p.1).retained.length) then
    { t with work := t.heldWrites.filter (fun w => match w with
        | .room _ _ | .ev (.atomPerform _) | .ev (.drainMerge _) => true
        | _ => false) ++ t.work }
  else t
/-- One piece of a cycle's work. -/
def State.doWork (s : State) : Work → State
  | .stage n => s.stage n
  | .ev i => (s.event i).offerRoom s
  | .steps l => match s.ranked l with
    | i :: r => { s with work := .ev i :: .steps r :: s.work }
    | [] => s
  | .issue c => s.issue c
  | .poll c x => s.pollCtx c x
  | .room c id => (next (execHeldWritePerform c id s) s).offerRoom s
/-- One step: the next piece of this cycle's work, or the beginning of the next cycle. -/
def State.advance (s : State) : State :=
  match s.work with
  | [] => { s.newCycle with work := (List.range 9).map .stage }
  | w :: r => { s with work := r }.doWork w

/-! ## An instruction placed to be fetched next -/

/-- The words of a lone instruction, or of the pair in which an L = 0 word stands with a NOP or ANOP beside it (R34). -/
def placed (w : Word32) : List Byte :=
  if wL w = 1 then toBytes 4 w.toNat
  else if wK w = 0 then toBytes 4 w.toNat ++ toBytes 4 0x37800000
  else toBytes 4 0x0B000000 ++ toBytes 4 w.toNat
/-- Core 0's C0 is READY at PC 0 in a running launch, and its issue slot is the next piece of work. -/
def State.readyAt0 (s : State) (code : List Byte) : State :=
  let s := s.updCore 0 fun k =>
    { k.setCtx 0 { k.ctx 0 with st := .ready, pc := 0, stall := none, wait := none, deferred := none, startOn := [], srep := none,
                                retiredQ := 0 } with
      imem := Memory.store brkByte k.imem 0 code, frozen := false, tapped := false, busy := 0, last := 10 }
  let l : Launch := ((s.domain (s.domOf 0)).launch).getD
    { q := 0, id := 0, image := 0, det := false, quantum := 16384, args := 0, lcount := 48 }
  let s := s.updDomain (s.domOf 0) fun d => { d with launch := some { l with phase := .running, quantum := Nat.max l.quantum 1 } }
  { s with
    bad := s.bad.filter fun e => match e with
      | .imem k a => !(k == 0 && decide (a < 8))
      | _ => true
    work := [.issue 0] }

end Sys2Proof.Machine
end

