-- ==== Sys2Proof/Machine/Step.lean ====
section
/-! DEFINITION. One step of the machine. -/

namespace Sys2Proof.Machine
open Sys2Proof

/-- One step (log 6): the next piece of the cycle's work, or the beginning of a cycle. -/
def step (s : State) : Host.Outcome State Fault Refusal := .next s.advance

/-- `s` with an instruction of the opcode table stored where the next step fetches: a word in core 0's instruction memory at
PC 0 (log 5). -/
def State.withFetchWord (s : State) (nbits w : Nat) : State := s.readyAt0 (placed (BitVec.ofNat 32 (w % 2 ^ nbits)))

end Sys2Proof.Machine
end

