-- ==== Sys2Proof/Safety.lean ====
section
/-! DEFINITION. The terms claims use: registers and lanes as a program reads them, what a next state leaves as it was, and
the canonical form of every memory. -/

namespace Sys2Proof.Machine
open Sys2Proof

/-! ## What a program reads -/

/-- Scalar register n of a context (R20, R21). -/
def State.sreg (s : State) (c x : Nat) (n : BitVec 6) : Word :=
  if n = 0 then 0 else if n = 63 then s.identity c x else AMap.get 0 (s.ctx c x).s n.toNat
/-- Scalar register n of the issuing context. -/
def State.mine (s : State) (n : BitVec 6) : Word := s.sreg s.cur.core s.cur.ctx n
/-- Lane l of the v operand at v, of a 64-bit type or not (R22, R97). -/
def State.lane (s : State) (wide : Bool) (v : BitVec 5) (l : Nat) : Word :=
  if wide then (s.src.vr (v.toNat + 1)).getD l 0 ++ (s.src.vr v.toNat).getD l 0 else ((s.src.vr v.toNat).getD l 0).setWidth 64
/-- No register of a list is bound to a stream (R112). -/
def State.unboundV (s : State) (vs : List Nat) : Bool :=
  vs.all fun v => (AMap.find s.src.streams v).isNone && (AMap.find s.me.streams v).isNone

/-! ## What a next state leaves -/

/-- Nothing but core c has changed. -/
def OnlyCore (s t : State) (c : Nat) : Prop :=
  t = { s with cores := t.cores } ∧ ∀ d, d ≠ c → t.core d = s.core d
/-- Nothing but the issuing context has changed: every memory, counter, channel and CSR outside it is as it was. -/
def OnlyMe (s t : State) : Prop :=
  OnlyCore s t s.cur.core ∧ t.myCore = { s.myCore with ctxs := t.myCore.ctxs } ∧
    ∀ y, y ≠ s.cur.ctx → t.ctx s.cur.core y = s.ctx s.cur.core y
/-- Nothing but some scalar registers of the issuing context has changed: no flag, v, p or t register, CSR or program
counter. -/
def OnlyRegs (s t : State) (ds : List (BitVec 6)) : Prop :=
  OnlyMe s t ∧ t.me = { s.me with s := t.me.s } ∧ ∀ n, n ∉ ds → t.mine n = s.mine n
/-- sd holds v and nothing else has changed; a write to s0 is discarded, and s63 is no destination (R20, R21). -/
def Writes (s t : State) (d : BitVec 6) (v : Word) : Prop :=
  OnlyRegs s t [d] ∧ (d ≠ 0 → d ≠ 63 → t.mine d = v)
/-- The bytes of core c's pool outside [off, off + n) read as before. -/
def PoolKept (s t : State) (c off n : Nat) : Prop :=
  ∀ a, a < off ∨ off + n ≤ a → (t.core c).byte a = (s.core c).byte a
/-- The bytes of HBM outside [pa, pa + n) read as before. -/
def HbmKept (s t : State) (pa n : Nat) : Prop :=
  ∀ a, a < pa ∨ pa + n ≤ a → Memory.read zeroByte t.mem a = Memory.read zeroByte s.mem a
/-- A fault record of core c stands in its ch63, or, where that has no room, waits for the host as two completion entries (R178, R342). -/
def PostsRecord (s t : State) (c : Nat) (words : List Word) : Prop :=
  let ch := (s.core c).chan 63; let q := s.hostQueue (c / 64)
  let home := (s.core c).frozen = false ∧ (s.part (c / 64)).down = false ∧ ch.bound = true ∧ ch.room = true
  (home → ∀ i, ch.free = some i → (AMap.find ((t.core c).chan 63).slots i).map (·.kind) = some .fault ∧
    ∀ j, j < 8 → (t.core c).word (ch.slotAddr i + 8 * j) = words.getD j 0) ∧
  (¬home → ∃ e, (t.queue q).ring ++ (t.queue q).held = (s.queue q).ring ++ (s.queue q).held ++ [e, words] ∧ bits (e.headD 0) 0 8 = 3)
/-- A core's pool as it stands, or stood at a moment at which the engine thread of a number may have read it (R274). -/
def PoolSeen (s : State) (id c : Nat) (k : Core) : Prop :=
  k = s.core c ∨ ∃ m ∈ s.past, id < m.uid ∧ id ∉ m.held ∧
    k = { pool := (AMap.get ([], []) m.pools c).1, undef := (AMap.get ([], []) m.pools c).2 }
/-- HBM as it stands, or stood at such a moment. -/
def HbmSeen (s : State) (id : Nat) (mem : Memory) : Prop :=
  mem = s.mem ∨ ∃ m ∈ s.past, id < m.uid ∧ id ∉ m.held ∧ mem = m.mem
/-- A lane value as the registers of a v operand hold it: one word, or low and high (R22). -/
def laneWords (wide : Bool) (w : Word) : List Word32 := if wide then [w.setWidth 32, (w >>> 32).setWidth 32] else [w.setWidth 32]
/-- Lanes of the v operand at d receive f l where the mask lets them, and raise its flags; the others keep what they held and
raise nothing; every other register of the issuing context and everything outside it is as it was (R98). -/
def LaneWrites (s t : State) (wide : Bool) (d : BitVec 5) (f : Nat → Word × Bits6) : Prop :=
  (∀ l, l < 64 → (vregs wide d).map (fun v => (t.me.vr v).getD l 0) =
    if s.src.amask.getLsbD l then laneWords wide (f l).1 else (vregs wide d).map (fun v => (s.src.vr v).getD l 0)) ∧
  (∀ i, i < 6 → (t.me.flags.getLsbD i ↔ s.me.flags.getLsbD i ∨
    ∃ l, l < 64 ∧ s.src.amask.getLsbD l ∧ (f l).2.getLsbD i)) ∧
  (∀ v, v ∉ vregs wide d → t.me.vr v = s.me.vr v) ∧
  t.me = { s.me with v := t.me.v, flags := t.me.flags } ∧
  t = { s with cores := t.cores, cur := { s.cur with raised := t.cur.raised } } ∧
  t.myCore = { s.myCore with ctxs := t.myCore.ctxs } ∧ (∀ d, d ≠ s.cur.core → t.core d = s.core d) ∧
  ∀ y, y ≠ s.cur.ctx → t.ctx s.cur.core y = s.ctx s.cur.core y

/-- A mask register of the issuing context holds m and nothing else has changed. -/
def WritesP (s t : State) (p : BitVec 3) (m : Word) : Prop :=
  OnlyMe s t ∧ t.me = { s.me with p := t.me.p } ∧ t.me.pr p.toNat = m ∧ ∀ q, q ≠ p.toNat → t.me.pr q = s.me.pr q
/-- The lanes of one v register of the issuing context are f l, whatever the mask, and nothing else has changed (R109). -/
def WritesV (s t : State) (v : BitVec 5) (f : Nat → Word32) : Prop :=
  OnlyMe s t ∧ t.me = { s.me with v := t.me.v } ∧ (∀ l, l < 64 → (t.me.vr v.toNat).getD l 0 = f l) ∧
    ∀ w, w ≠ v.toNat → t.me.vr w = s.me.vr w
/-- What a typed lane operation gives: an IEEE result in an F type, else an integer that the lane's width wraps (R97, R101). -/
def byType (t : VType) (f : Fmt → Nat × Bits6) (i : Int) : Word × Bits6 :=
  match t with
  | .f32 => (BitVec.ofNat 64 (f fmt32).1, (f fmt32).2)
  | .f64 => (BitVec.ofNat 64 (f fmt64).1, (f fmt64).2)
  | _ => (BitVec.ofInt 64 i, 0)

/-- An instruction answers a next state, of which P holds. -/
def Answers (i : Instr) (s : State) (P : State → Prop) : Prop := ∃ t, exec i s = .next t ∧ P t
/-- A jump leaves everything but where the next bundle stands (R15). -/
def GoesTo (s t : State) (a : Nat) : Prop := t = { s with cur := { s.cur with next := a } }

/-- The issuing context asks for n results of variable latency and goes on: nothing else of it changes, and the registers that
wait for them, but s0, enter Pending (R36). -/
def Asks (s t : State) (kind : OutKind) (ds : List (BitVec 6)) (n : Nat) : Prop :=
  let o : Outst := { id := s.uid, kind := kind, dests := ds.map fun d => 64 + d.toNat, size := n, vals := none, flt := none, pc := s.cur.pc }
  t.me = { s.me with outs := s.me.outs ++ [o], pending := s.me.pending ++ (ds.filter (· ≠ 0)).map fun d => 64 + d.toNat } ∧
  t.myCore = { s.myCore with ctxs := t.myCore.ctxs } ∧ (∀ d, d ≠ s.cur.core → t.core d = s.core d) ∧
  (∀ y, y ≠ s.cur.ctx → t.ctx s.cur.core y = s.ctx s.cur.core y) ∧ t.mem = s.mem ∧ t.cur = s.cur

/-! ## Host commands -/

/-- A queue has a command of this opcode to take, with its reserved fields zero (R340, R341). -/
def Takes (s : State) (q : Nat) (cmd : List Word) (op : Nat) (mask : List Word) : Prop :=
  s.canTake q = true ∧ arg cmd 0 1 = op ∧ reservedClear cmd mask = true
/-- A DONE entry (R342). -/
def doneEntry (q : Nat) (id : Word32) (status : Nat) (ws : List Word) : List Word :=
  [1#64 ||| BitVec.ofNat 64 (q / 1024) <<< 16 ||| BitVec.ofNat 64 id.toNat <<< 32, BitVec.ofNat 64 status] ++ (ws ++ List.replicate 6 0).take 6
/-- The queue's command has been taken, and these entries have followed its completions. -/
def Completes (s t : State) (q : Nat) (es : List (List Word)) : Prop :=
  (t.queue q).sqhead = (s.queue q).sqhead + 1 ∧
    (t.queue q).ring ++ (t.queue q).held = (s.queue q).ring ++ (s.queue q).held ++ es
/-- One DONE completes the queue's command. -/
def Done (s t : State) (q : Nat) (cmd : List Word) (status : Nat) (ws : List Word) : Prop :=
  Completes s t q [doneEntry q (cmdId cmd) status ws]
/-- The command completes and changes nothing but its queue. -/
def OnlyDone (s t : State) (q : Nat) (cmd : List Word) (status : Nat) (ws : List Word) : Prop :=
  Done s t q cmd status ws ∧ t = { s with queues := t.queues } ∧ ∀ p, p ≠ q → t.queue p = s.queue p

/-! ## The canonical form of memories -/

/-- A core's memories are in canonical form. -/
def Core.memWf (k : Core) : Bool := Memory.wf zeroByte k.pool && Memory.wf brkByte k.imem
/-- Every memory of the module is in canonical form: HBM, the pools and instruction memories of the cores, and those that a
saved launch holds. -/
def State.memWf (s : State) : Bool :=
  Memory.wf zeroByte s.mem && s.cores.all (fun e => e.2.memWf) &&
    s.domains.all fun d => d.2.saves.all fun v => v.2.cores.all fun e => e.2.memWf

end Sys2Proof.Machine
end

