-- ==== Sys2Proof/Certificates/Slice0/Obligations.lean ====
section
/-! DEFINITION. The statements about this model: what the rules of the spec say an instruction, a step of the machine or the
host's commands do. -/

open Sys2Proof Sys2Proof.Machine
/-! ## Scalar and control instructions -/

/-- R83, R84: the reg-reg integer operations. Each writes sd from sa and sb, wrapping at 64 bits and shifting by sb[5:0], and
changes nothing else. -/
def Sys2Proof.IntegerOperationsWriteOnlyTheirResult : Prop :=
  ∀ (s : State) (d a b : BitVec 6), let x := s.rs a; let y := s.rs b; let n := y.toNat % 64
    Answers (.add d a b) s (Writes s · d (x + y)) ∧
    Answers (.sub d a b) s (Writes s · d (x - y)) ∧
    Answers (.and d a b) s (Writes s · d (x &&& y)) ∧
    Answers (.or d a b) s (Writes s · d (x ||| y)) ∧
    Answers (.xor d a b) s (Writes s · d (x ^^^ y)) ∧
    Answers (.andn d a b) s (Writes s · d (x &&& ~~~y)) ∧
    Answers (.shl d a b) s (Writes s · d (BitVec.ofNat 64 (x.toNat * 2 ^ n))) ∧
    Answers (.shr d a b) s (Writes s · d (BitVec.ofNat 64 (x.toNat / 2 ^ n))) ∧
    Answers (.sar d a b) s (Writes s · d (BitVec.ofInt 64 (x.toInt / 2 ^ n))) ∧
    Answers (.rol d a b) s (Writes s · d (x <<< n ||| x >>> (64 - n))) ∧
    Answers (.min d a b) s (Writes s · d (BitVec.ofInt 64 (Min.min x.toInt y.toInt))) ∧
    Answers (.max d a b) s (Writes s · d (BitVec.ofInt 64 (Max.max x.toInt y.toInt))) ∧
    Answers (.minu d a b) s (Writes s · d (BitVec.ofNat 64 (Min.min x.toNat y.toNat))) ∧
    Answers (.maxu d a b) s (Writes s · d (BitVec.ofNat 64 (Max.max x.toNat y.toNat))) ∧
    Answers (.slt d a b) s (Writes s · d (if x.toInt < y.toInt then 1 else 0)) ∧
    Answers (.sltu d a b) s (Writes s · d (if x.toNat < y.toNat then 1 else 0)) ∧
    Answers (.seq d a b) s (Writes s · d (if x = y then 1 else 0)) ∧
    Answers (.mul d a b) s (Writes s · d (BitVec.ofNat 64 (x.toNat * y.toNat))) ∧
    Answers (.mulh d a b) s (Writes s · d ((x.signExtend 128 * y.signExtend 128).extractLsb' 64 64)) ∧
    Answers (.mulhu d a b) s (Writes s · d ((x.setWidth 128 * y.setWidth 128).extractLsb' 64 64))

/-- R84: `CLZ` writes how many bits of sa stand clear above the highest set one, 64 for zero, and `POPC` how many are set. -/
def Sys2Proof.BitCountsAreExact : Prop :=
  ∀ (s : State) (d a : BitVec 6), let x := s.rs a
    (∃ n : Nat, n ≤ 64 ∧ (∀ i, i < n → x.getLsbD (63 - i) = false) ∧ (n < 64 → x.getLsbD (63 - n) = true) ∧
      Answers (.clz d a) s (Writes s · d (BitVec.ofNat 64 n))) ∧
    Answers (.popc d a) s (Writes s · d (BitVec.ofNat 64 (Finset.univ.filter fun i : Fin 64 => x.getLsbD i).card))

/-- R83, R85: the four divisions. A zero divisor gives all ones and sets DZ; the one overflow raises nothing; every other
operand gives the truncated quotient or its remainder. They write DZ and no other flag. -/
def Obligations.DivisionsTruncateAndRaiseOnlyDz : Prop :=
  ∀ (s : State) (d a b : BitVec 6), let x := s.rs a; let y := s.rs b
    let res := fun (v : Word) (t : State) => Writes s t d v
    let dz := fun (t : State) => ∃ u, Writes s u d (BitVec.allOnes 64) ∧ t = u.raiseFlags fDZ
    let ok := fun (v : Word) (t : State) => ∃ u, res v u ∧ t = u.raiseFlags 0
    (y = 0 → Answers (.div d a b) s dz ∧ Answers (.divu d a b) s dz ∧ Answers (.rem d a b) s dz ∧ Answers (.remu d a b) s dz) ∧
    (x = BitVec.intMin 64 ∧ y = BitVec.allOnes 64 → Answers (.div d a b) s (ok x) ∧ Answers (.rem d a b) s (ok 0)) ∧
    (y ≠ 0 → ¬(x = BitVec.intMin 64 ∧ y = BitVec.allOnes 64) →
      Answers (.div d a b) s (ok (BitVec.ofInt 64 (x.toInt.tdiv y.toInt))) ∧
      Answers (.rem d a b) s (ok (BitVec.ofInt 64 (x.toInt.tmod y.toInt)))) ∧
    (y ≠ 0 → Answers (.divu d a b) s (ok (x / y)) ∧ Answers (.remu d a b) s (ok (x % y)))

/-- R86 to R88: immediates are sign-extended, but for `LIH`'s; `SEL` copies sa where sb is not zero and changes nothing where it
is. -/
def Sys2Proof.ImmediatesAndSelectWriteOnlyTheirResult : Prop :=
  ∀ (s : State) (d a b : BitVec 6) (i : BitVec 11) (h : BitVec 6) (w : BitVec 17), let x := s.rs a
    Answers (.addi d a i) s (Writes s · d (x + i.signExtend 64)) ∧
    Answers (.andi d a i) s (Writes s · d (x &&& i.signExtend 64)) ∧
    Answers (.ori d a i) s (Writes s · d (x ||| i.signExtend 64)) ∧
    Answers (.xori d a i) s (Writes s · d (x ^^^ i.signExtend 64)) ∧
    Answers (.shli d a h) s (Writes s · d (BitVec.ofNat 64 (x.toNat * 2 ^ h.toNat))) ∧
    Answers (.shri d a h) s (Writes s · d (BitVec.ofNat 64 (x.toNat / 2 ^ h.toNat))) ∧
    Answers (.sari d a h) s (Writes s · d (BitVec.ofInt 64 (x.toInt / 2 ^ h.toNat))) ∧
    Answers (.slti d a i) s (Writes s · d (if x.toInt < i.toInt then 1 else 0)) ∧
    Answers (.li d w) s (Writes s · d (BitVec.ofInt 64 w.toInt)) ∧
    Answers (.lih d w) s (Writes s · d (BitVec.ofNat 64 ((s.rs d).toNat * 2 ^ 17 + w.toNat))) ∧
    (s.rs b ≠ 0 → Answers (.sel d a b) s (Writes s · d x)) ∧
    (s.rs b = 0 → Answers (.sel d a b) s (· = s))

/-- R89 to R91: a branch whose condition fails changes nothing; a transfer to a word of instruction memory only moves the
program counter, `JAL` and `JALR` writing their link; any other target faults ALIGN with nothing written. -/
def Obligations.TransfersGoWhereTheRulesSay : Prop :=
  ∀ (s : State) (c : BCond) (d a b : BitVec 6) (e : BitVec 8) (i : BitVec 23) (o : BitVec 11), let x := s.rs a; let y := s.rs b
    let pc : Int := s.cur.wpc
    let link := BitVec.ofNat 64 (s.cur.wpc + s.cur.size)
    let inMem := fun (t : Int) => 0 ≤ t ∧ t ≤ 0xFFFC
    let holds := match c with
      | .eq => x = y | .ne => x ≠ y | .lt => x.toInt < y.toInt | .ge => y.toInt ≤ x.toInt
      | .ltu => x.toNat < y.toNat | .geu => y.toNat ≤ x.toNat
    let bad := fun (t : Int) (u : State) => u = s.raise { code := .align, a := BitVec.ofInt 64 t }
    let T := s.rs a + BitVec.ofInt 64 (4 * o.toInt)
    (¬holds → Answers (.b c a b e) s (· = s)) ∧
    (holds → inMem (pc + 4 * e.toInt) → Answers (.b c a b e) s (GoesTo s · (pc + 4 * e.toInt).toNat)) ∧
    (holds → ¬inMem (pc + 4 * e.toInt) → Answers (.b c a b e) s (bad (pc + 4 * e.toInt))) ∧
    (inMem (pc + 4 * i.toInt) → Answers (.j i) s (GoesTo s · (pc + 4 * i.toInt).toNat) ∧
      Answers (.jal i) s fun t => ∃ u, Writes s u 61 link ∧ GoesTo u t (pc + 4 * i.toInt).toNat) ∧
    (¬inMem (pc + 4 * i.toInt) → Answers (.j i) s (bad (pc + 4 * i.toInt)) ∧ Answers (.jal i) s (bad (pc + 4 * i.toInt))) ∧
    (T.toNat ≤ 0xFFFC → T.toNat % 4 = 0 → Answers (.jalr d a o) s fun t => ∃ u, Writes s u d link ∧ GoesTo u t T.toNat) ∧
    (0xFFFC < T.toNat ∨ T.toNat % 4 ≠ 0 → Answers (.jalr d a o) s (· = s.raise { code := .align, a := T }))

/-- R92 to R94, R23: `START` with a target that is no word of instruction memory faults ALIGN; with no FREE helper it writes 0;
else the lowest FREE helper becomes READY at the target with `msg` set, every other s register and every v, p and t register zero, and
`frm`, `flags`, `ccnt`, `wlim`, `leaserun` and the mask as at launch (R12); its keys, ordinal and `rsid` are kept, and sd receives its
number. Its first bundle waits for the loads and atomics that the issuer made before (R94). -/
def Sys2Proof.StartTakesTheLowestFreeHelper : Prop :=
  ∀ (s : State) (d a b : BitVec 6), let T := s.rs a; let c := s.cur.core
    let free := fun (n : Nat) => 1 ≤ n ∧ n < s.myCore.rfu ∧ (s.ctx c n).st = .free
    (0xFFFC < T.toNat ∨ T.toNat % 4 ≠ 0 → Answers (.start d a b) s (· = s.raise { code := .align, a := T })) ∧
    (T.toNat ≤ 0xFFFC → T.toNat % 4 = 0 → (∀ n, ¬free n) → Answers (.start d a b) s (Writes s · d 0)) ∧
    (T.toNat ≤ 0xFFFC → T.toNat % 4 = 0 → s.me.st ≠ .free → ∀ n, free n → (∀ m, m < n → ¬free m) →
      Answers (.start d a b) s fun t =>
        OnlyCore s t c ∧ (∀ y, y ≠ n → y ≠ s.cur.ctx → t.ctx c y = s.ctx c y) ∧
        (d ≠ 0 → d ≠ 63 → t.mine d = BitVec.ofNat 64 n) ∧
        (t.ctx c n).st = .ready ∧ (t.ctx c n).pc = T.toNat ∧ t.sreg c n 60 = s.rs b ∧
        (∀ r, r ≠ 60 → r ≠ 63 → t.sreg c n r = 0) ∧ (∀ v, (t.ctx c n).vr v = zeroLanes) ∧ (∀ p, (t.ctx c n).pr p = 0) ∧
        (∀ r, (t.ctx c n).tr r = { w0 := 0, w1 := 0, addr := 0 }) ∧
        (t.ctx c n).amask = BitVec.allOnes 64 ∧ (t.ctx c n).flags = 0 ∧ (t.ctx c n).frm = 0 ∧ (t.ctx c n).ccnt = 0 ∧
        (t.ctx c n).wlim = 20 ∧ (t.ctx c n).leaserun = 16 ∧ (t.ctx c n).rkey0 = (s.ctx c n).rkey0 ∧
        (t.ctx c n).rkey1 = (s.ctx c n).rkey1 ∧ (t.ctx c n).rord = (s.ctx c n).rord ∧ (t.ctx c n).rsid = (s.ctx c n).rsid ∧
        (s.det c = false → ∀ o ∈ s.me.outs, o.open_ = true → o.id ∈ (t.ctx c n).startOn)) ∧
    ∀ n y o, o ∈ (s.ctx c y).outs → o.open_ = true → o.id ∈ (s.ctx c n).startOn → s.mayIssue c n = false

/-- R95, R211, R212: `ENDT` parks its context with its results outstanding, else ends the task; `TASK_END` then frees the
context and its channel's slot, and only once nothing is outstanding and what its last bundle pushed stands in the store lanes (R116). `NOP` changes nothing (R96). -/
def Sys2Proof.EndtEndsTheTaskOnceNothingIsOutstanding : Prop :=
  ∀ (s : State) (c x : Nat),
    Answers .nop s (· = s) ∧
    (s.me.outstanding ≠ 0 → Answers .endt s (· = s.parkMe)) ∧
    (s.me.outstanding = 0 → Answers .endt s fun t =>
      OnlyMe s t ∧ t.me = { s.me with st := .parked, ending := true, streams := [] }) ∧
    ((s.ctx c x).ending = false ∨ (s.ctx c x).outs ≠ [] ∨ (s.ctx c x).push ≠ [] → Answers (.taskEnd c x) s (· = s)) ∧
    ((s.ctx c x).ending = true → (s.ctx c x).outs = [] → (s.ctx c x).push = [] → Answers (.taskEnd c x) s fun t =>
      (t.ctx c x).st = .free ∧ (t.ctx c x).ending = false ∧ (t.ctx c x).task = none ∧ (t.ctx c x).heldQ = none ∧
      (∀ h i, (s.ctx c x).task = some (h, i) → AMap.find ((t.core c).chan h).slots i = none) ∧
      (∀ a, (t.core c).byte a = (s.core c).byte a) ∧ t.mem = s.mem)

/-! ## CSRs, system instructions and faults -/

/-- R336, R337: what `CSRR` reads from each CSR. -/
def Sys2Proof.CsrrReadsEachCsr : Prop :=
  ∀ (s : State) (d n : BitVec 6), let k := s.src
    let is := fun (v : Word) => Answers (.csrr d n) s (Writes s · d v)
    let l := s.launchOf s.cur.core
    (n = 0x00 → is (BitVec.ofNat 64 (s.cycles (s.domOf s.cur.core)))) ∧
    (n = 0x01 → is k.retired) ∧ (n = 0x02 → is (k.flags.setWidth 64)) ∧ (n = 0x03 → is (k.frm.setWidth 64)) ∧
    (n = 0x04 → is k.ccnt) ∧ (n = 0x05 → is (k.wlim.setWidth 64)) ∧
    (n = 0x06 → is (k.rkey0.setWidth 64)) ∧ (n = 0x07 → is (k.rkey1.setWidth 64)) ∧ (n = 0x08 → is (k.rord.setWidth 64)) ∧
    (∀ m, l = some m → n = 0x09 → is (BitVec.ofNat 64 m.quantum)) ∧
    (∀ m, l = some m → n = 0x0A → is (if m.det then 1 else 0)) ∧
    (n = 0x0B → is (BitVec.ofNat 64 (s.rel s.cur.core))) ∧
    (∀ m, l = some m → n = 0x0C → is (BitVec.ofNat 64 m.lcount)) ∧
    (n = 0x0D → is (BitVec.ofNat 64 (2 ^ (s.domain (s.domOf s.cur.core)).log2))) ∧
    (n = 0x0E → is (BitVec.ofNat 64 s.myCore.spb <<< 12 ||| BitVec.ofNat 64 s.myCore.acc <<< 4 ||| BitVec.ofNat 64 s.myCore.rfu)) ∧
    (n = 0x0F → is (k.leaserun.setWidth 64)) ∧ (n = 0x10 → is 64) ∧ (n = 0x11 → is (k.rsid.setWidth 64))

/-- R336, R337: `CSRW` changes the CSR it names and nothing else; flags that the bundle raises are ORed in after the write; a
value out of a CSR's range faults PERM, reason FIELD (69). -/
def Sys2Proof.CsrwWritesOnlyItsCsr : Prop :=
  ∀ (s : State) (n b : BitVec 6), let v := s.rs b
    let mine := fun (k : Ctx) => Answers (.csrw n b) s fun t => OnlyMe s t ∧ t.me = k
    let bad := Answers (.csrw n b) s (· = s.raise { code := .perm, a := 69, b := v })
    (n = 0x02 → mine { s.me with flags := v.setWidth 6 ||| s.cur.raised }) ∧
    (n = 0x03 → mine { s.me with frm := v.setWidth 2 }) ∧
    (n = 0x04 → mine { s.me with ccnt := v }) ∧
    (n = 0x05 → 1 ≤ v.toNat → v.toNat ≤ 31 → mine { s.me with wlim := v.setWidth 5 }) ∧
    (n = 0x05 → v = 0 ∨ 31 < v.toNat → bad) ∧
    (n = 0x06 → mine { s.me with rkey0 := v.setWidth 32 }) ∧
    (n = 0x07 → mine { s.me with rkey1 := v.setWidth 32 }) ∧
    (n = 0x08 → mine { s.me with rord := v.setWidth 46 }) ∧
    (n = 0x0F → 1 ≤ v.toNat → v.toNat ≤ 16 → mine { s.me with leaserun := v.setWidth 5 }) ∧
    (n = 0x0F → v = 0 ∨ 16 < v.toNat → bad) ∧
    (n = 0x11 → mine { s.me with rsid := v.setWidth 17 })

/-- R338, R36: `PMRD` of an event of a partition of the domain asks for one result, which enters Pending; a bad selector faults
PERM, reason FIELD. R325: `TRAP` and `BRK` take their faults, with the debugger's bit clear; `HALT` parks while results are
outstanding and else halts its context. -/
def Sys2Proof.PmrdTrapBrkAndHalt : Prop :=
  ∀ (s : State) (d a : BitVec 6), let v := s.rs a; let base := s.domOf s.cur.core; let p := bits v 6 6
    let good := v.toNat < 4096 ∧ p < 2 ^ (s.domain base).log2
    (good → s.me.outstanding < 32 → Answers (.pmrd d a) s (Asks s · (.pm (v.toNat % 64) (base + p)) [d] 1)) ∧
    (good → 32 ≤ s.me.outstanding → Answers (.pmrd d a) s (· = s.parkMe 31)) ∧
    (¬good → Answers (.pmrd d a) s (· = s.raise { code := .perm, a := 69, b := v })) ∧
    Answers (.trap a) s (· = s.raise { code := .trap, a := v }) ∧
    (s.myCore.dbg = false → Answers .brk s (· = s.raise { code := .brk })) ∧
    (s.myCore.dbg = true → Answers .brk s fun t => (t.core s.cur.core).frozen = true ∧
      (t.core s.cur.core).brkAt = some (s.cur.ctx, s.cur.pc + s.cur.size) ∧
      ∀ x, (s.ctx s.cur.core x).st ≠ .free → t.stateOf s.cur.core x = .halted) ∧
    (s.me.outstanding = 0 → Answers .halt s fun t => OnlyMe s t ∧ t.me = { s.me with st := .halted }) ∧
    (s.me.outstanding ≠ 0 → Answers .halt s (· = s.parkMe))

/-- R54, R178, R319, R322: a precise fault. Where ch63 is bound with room, and the core neither frozen nor its partition down,
the record's eight words stand in ch63's next free slot; C0 is then HALTED, and a helper's task ends. Elsewhere the record goes to the
host as two completion entries, and every context of the core is HALTED. A helper that is FREE or HALTED already has no task to end. -/
def Obligations.AFaultDeliversItsRecordAndStopsItsContext : Prop :=
  ∀ (s : State) (f : Flt), let c := s.cur.core; let x := s.cur.ctx; let t := s.raise f
    let ch := s.myCore.chan 63
    let w0 := BitVec.ofNat 64 s.cur.pc <<< 48 ||| BitVec.ofNat 64 s.package.toNat <<< 32 |||
      BitVec.ofNat 64 (s.rel c % 4096) <<< 20 ||| BitVec.ofNat 64 x <<< 16 ||| BitVec.ofNat 64 1 <<< 8 ||| BitVec.ofNat 64 f.code.code
    let words := [w0, f.addr, f.obj, f.a, f.b, f.d0, f.d1, f.d2]
    let home := s.myCore.frozen = false ∧ (s.part (c / 64)).down = false ∧ ch.bound = true ∧ ch.room = true
    t.cur.fate = .fault f ∧ t.mem = s.mem ∧ (∀ d, d ≠ c → t.core d = s.core d) ∧
    (home → ∀ i, ch.free = some i →
      (∀ j, j < 8 → (t.core c).word (ch.slotAddr i + 8 * j) = words.getD j 0) ∧
      (AMap.find ((t.core c).chan 63).slots i).map (·.kind) = some .fault ∧
      PoolKept s t c (ch.slotAddr i) 64) ∧
    (home → x = 0 → (t.ctx c 0).st = .halted ∧ ∀ y, y ≠ 0 → t.ctx c y = s.ctx c y) ∧
    (home → x ≠ 0 → (s.me.st ≠ .free → s.me.st ≠ .halted → (t.ctx c x).st = .parked ∧ (t.ctx c x).ending = true) ∧
      ∀ y, y ≠ x → t.ctx c y = s.ctx c y) ∧
    (¬home → (∀ y, y < 11 → (t.ctx c y).st = .halted) ∧
      ∃ e, (t.queue (s.hostQueue (c / 64))).ring ++ (t.queue (s.hostQueue (c / 64))).held =
        (s.queue (s.hostQueue (c / 64))).ring ++ (s.queue (s.hostQueue (c / 64))).held ++ [e, words] ∧ bits (e.headD 0) 0 8 = 3)

/-- R186, R326: `FREEZE` stops every context of a core that holds a task and its handler thread, in whose queue no atomic and no
block read then stands, and `THAW` gives each context the state that `FREEZE` found; past a `BRK` that froze the core the breaking
context goes on at its next bundle. `DEBUG_ENABLE` sets the enable bit and nothing else. -/
def Sys2Proof.FreezeAndThawReturnEveryContext : Prop :=
  ∀ (s : State) (c : Nat),
    ((s.core c).frozen = true → Answers (.freeze c) s (· = s)) ∧
    ((s.core c).frozen = false → Answers (.freeze c) s fun t => (t.core c).frozen = true ∧ (∀ d, d ≠ c → t.core d = s.core d) ∧
      t.mem = s.mem ∧ (∀ x, t.ctx c x = s.ctx c x ∧ ((s.ctx c x).st ≠ .free → t.stateOf c x = .halted)) ∧
      ((s.core c).handler = [] → OnlyCore s t c) ∧
      ∀ r ∈ (t.core c).handler, r ∈ (s.core c).handler ∧ match r with
        | .atom _ _ _ _ _ _ _ _ | .rdreq _ _ _ _ => False
        | _ => True) ∧
    ((s.core c).frozen = false → Answers (.thaw c) s (· = s)) ∧
    ((s.core c).frozen = true → (s.core c).brkAt = none → Answers (.thaw c) s fun t => OnlyCore s t c ∧ (t.core c).frozen = false ∧
      ∀ x, t.ctx c x = s.ctx c x ∧ t.stateOf c x = (s.ctx c x).st) ∧
    (∀ x next, (s.core c).frozen = true → (s.core c).brkAt = some (x, next) →
      Answers (.thaw c) s fun t => (t.core c).frozen = false ∧ (t.core c).brkAt = none ∧
        (∀ y, (t.ctx c y).st = (s.ctx c y).st ∧ (y ≠ x → t.ctx c y = s.ctx c y)) ∧
        ((s.ctx c x).srep = none → (t.ctx c x).pc = next)) ∧
    Answers (.debugEnable c) s fun t => OnlyCore s t c ∧ t.core c = { s.core c with dbg := true }

/-! ## Vector instructions -/

/-- R98, R101 to R104: the element arithmetic on registers that no stream is bound to. -/
def Obligations.VectorArithmeticWritesLanesUnderTheMask : Prop :=
  ∀ (s : State) (t : VType) (d a b : BitVec 5),
    s.unboundV (vregs t.wide d ++ vregs t.wide a ++ vregs t.wide b) = true →
    let A := s.lane t.wide a; let B := s.lane t.wide b; let D := s.lane t.wide d
    let n := fun l => (A l).toNat; let m := fun l => (B l).toNat; let k := fun l => (D l).toNat
    let i := fun l => laneInt t (A l); let j := fun l => laneInt t (B l)
    let is := fun (u : Instr) (f : Nat → Word × Bits6) => Answers u s (LaneWrites s · t.wide d f)
    is (.vadd t d a b) (fun l => byType t (fun f => f.addB s.rm (n l) (m l)) (i l + j l)) ∧
    is (.vsub t d a b) (fun l => byType t (fun f => f.subB s.rm (n l) (m l)) (i l - j l)) ∧
    is (.vmul t d a b) (fun l => byType t (fun f => f.mulB s.rm (n l) (m l)) (i l * j l)) ∧
    is (.vmin t d a b) (fun l => byType t (fun f => (f.minmaxB false (n l) (m l), 0)) (Min.min (i l) (j l))) ∧
    is (.vmax t d a b) (fun l => byType t (fun f => (f.minmaxB true (n l) (m l), 0)) (Max.max (i l) (j l))) ∧
    (t.isF = true →
      is (.vfma t d a b) (fun l => byType t (fun f => f.fmaB s.rm false false (n l) (m l) (k l)) 0) ∧
      is (.vfms t d a b) (fun l => byType t (fun f => f.fmaB s.rm false true (n l) (m l) (k l)) 0) ∧
      is (.vnfma t d a b) (fun l => byType t (fun f => f.fmaB s.rm true false (n l) (m l) (k l)) 0)) ∧
    (t.divides = true → is (.vdiv t d a b) fun l =>
      if t.isF = false ∧ j l = 0 then (BitVec.allOnes 64, fDZ)
      else byType t (fun f => f.divB s.rm (n l) (m l)) ((i l).tdiv (j l))) ∧
    (t.isF = false → is (.vmulh t d a b) fun l => (BitVec.ofInt 64 (i l * j l / 2 ^ (if t.wide then 64 else 32)), 0)) ∧
    (t.signed = true →
      is (.vabs t d a) (fun l => byType t (fun f => (if (f.read (n l)).isNaN then f.nan else n l % f.signBit, 0)) (i l).natAbs) ∧
      is (.vneg t d a) (fun l => byType t (fun f => (if (f.read (n l)).isNaN then f.nan else f.negB (n l), 0)) (-i l)))

/-- R98, R101: logic, shifts by the low bits of the count, moves, selection by a mask register, and lane numbers. They raise no
flag. -/
def Sys2Proof.VectorLogicWritesLanesUnderTheMask : Prop :=
  ∀ (s : State) (t : VType) (d a b : BitVec 5) (p : BitVec 3),
    s.unboundV (vregs t.wide d ++ vregs t.wide a ++ vregs t.wide b) = true →
    let A := s.lane t.wide a; let B := s.lane t.wide b
    let n := if t.wide then 64 else 32
    let is := fun (u : Instr) (f : Nat → Word) => Answers u s (LaneWrites s · t.wide d fun l => (f l, 0))
    is (.vand t d a b) (fun l => A l &&& B l) ∧ is (.vor t d a b) (fun l => A l ||| B l) ∧
    is (.vxor t d a b) (fun l => A l ^^^ B l) ∧ is (.vnot t d a) (fun l => ~~~A l) ∧
    is (.vshl t d a b) (fun l => A l <<< ((B l).toNat % n)) ∧ is (.vshr t d a b) (fun l => A l >>> ((B l).toNat % n)) ∧
    is (.vsar t d a b) (fun l => BitVec.ofInt 64 (sintN n (A l).toNat / 2 ^ ((B l).toNat % n))) ∧
    is (.vmov t d a) A ∧
    is (.vsel t d a p) (fun l => if (s.src.pr p.toNat).getLsbD l then A l else s.lane t.wide d l) ∧
    (t.wide = false → is (.vidx d) fun l => BitVec.ofNat 64 l)

/-- R78, R105, R60: the FP32 functions and the conversions; a stochastic conversion takes one draw of each lane in the mask. -/
def Sys2Proof.VectorFunctionsAndConversionsWriteLanesUnderTheMask : Prop :=
  ∀ (s : State) (d a : BitVec 5) (c : Cvt),
    (s.unboundV [d.toNat, a.toNat] = true →
      let is := fun (u : Instr) (f : Nat → Nat × Bits6) => Answers u s
        (LaneWrites s · false d fun l => (BitVec.ofNat 64 (f (s.lane false a l).toNat).1, (f (s.lane false a l).toNat).2))
      is (.vexp2 d a) exp2B ∧ is (.vlog2 d a) log2B ∧ is (.vrcp d a) fmt32.rcpB ∧ is (.vrsq d a) fmt32.rsqB ∧
      is (.vsqrt d a) fmt32.sqrtB) ∧
    (s.unboundV (vregs c.wideD d ++ vregs c.wideA a) = true →
      (isSr c = false → Answers (.vcvt c d a) s (LaneWrites s · c.wideD d fun l => convLane c s.rm 0 (s.lane c.wideA a l))) ∧
      (isSr c = true → Answers (.vcvt c d a) s fun t => ∃ u,
        LaneWrites s u c.wideD d (fun l => convLane c s.rm (s.laneDraw l).toNat (s.lane c.wideA a l)) ∧
        t = u.advanceLanes s.src.amask))

/-- R81, R82, R107: a reduction gives every lane of the mask the tree's result, and a scan gives each its prefix; a lane outside the
mask enters as the operation's identity, and a later beat of a repetition goes on from lane 0, or lane 63, of vd. -/
def Sys2Proof.ReductionsAndScansFollowTheirTrees : Prop :=
  ∀ (s : State) (o : RedOp) (t : VType) (d a : BitVec 5),
    s.unboundV (vregs t.wide a ++ vregs t.wide d) = true →
    let f := redOp o t s.rm
    let A := (List.range 64).map fun l => if s.src.amask.getLsbD l then s.lane t.wide a l else redIdent o t
    let tree := treeRed f 6 A
    let red := if 0 < s.beta then f (s.lane t.wide d 0) tree.1 else (tree.1, 0)
    let pre := scanSteps f [1, 2, 4, 8, 16, 32] A
    let at_ := fun l => if 0 < s.beta then f (s.lane t.wide d 63) (pre.1.getD l 0) else (pre.1.getD l 0, 0)
    (Answers (.vred o t d a) s fun u => ∃ v, LaneWrites s v t.wide d (fun _ => (red.1, 0)) ∧ u = v.raiseFlags (tree.2 ||| red.2)) ∧
    Answers (.vscan o t d a) s fun u => ∃ v, LaneWrites s v t.wide d (fun l => ((at_ l).1, 0)) ∧
      u = v.raiseFlags (pre.2 ||| (List.range 64).foldr (fun l g => (at_ l).2 ||| g) 0)

/-- R81: over integers the tree of an addition is the sum of the lanes, and of a minimum or maximum their least or greatest. -/
def Sys2Proof.IntegerReductionsAreOrderFree : Prop :=
  ∀ (t : VType) (rm : Rm) (l : List Word), t.isF = false → l.length = 64 → (∀ x ∈ l, x.toNat < 2 ^ tyBits t) →
    (laneInt t (treeRed (redOp .add t rm) 6 l).1 - (l.map (laneInt t)).sum) % 2 ^ tyBits t = 0 ∧
    (∀ x ∈ l, laneInt t (treeRed (redOp .min t rm) 6 l).1 ≤ laneInt t x ∧ laneInt t x ≤ laneInt t (treeRed (redOp .max t rm) 6 l).1) ∧
    (treeRed (redOp .min t rm) 6 l).1 ∈ l ∧ (treeRed (redOp .max t rm) 6 l).1 ∈ l

/-- R103, R108: comparisons and the mask registers. A lane outside the mask compares as 0; `PMASK` sets the active mask; `ANOP`
changes nothing. -/
def Obligations.ComparisonsAndMasks : Prop :=
  ∀ (s : State) (c : VCond) (t : VType) (p q r : BitVec 3) (d a b : BitVec 5),
    (s.unboundV (vregs t.wide a ++ vregs t.wide b) = true → ∃ m : Word, Answers (.vcmp c t p a b) s (WritesP s · p m) ∧
      ∀ l, l < 64 → (m.getLsbD l ↔ s.src.amask.getLsbD l ∧ cmpLane c t (s.lane t.wide a l) (s.lane t.wide b l))) ∧
    Answers (.pand p q r) s (WritesP s · p (s.src.pr q.toNat &&& s.src.pr r.toNat)) ∧
    Answers (.por p q r) s (WritesP s · p (s.src.pr q.toNat ||| s.src.pr r.toNat)) ∧
    Answers (.pxor p q r) s (WritesP s · p (s.src.pr q.toNat ^^^ s.src.pr r.toNat)) ∧
    Answers (.pnot p q) s (WritesP s · p (~~~s.src.pr q.toNat)) ∧
    (s.unboundV [d.toNat] = true →
      Answers (.pcnt d q) s (LaneWrites s · false d fun _ =>
        (BitVec.ofNat 64 (Finset.univ.filter fun i : Fin 64 => (s.src.pr q.toNat).getLsbD i).card, 0)) ∧
      ∃ n, n ≤ 64 ∧ (∀ i, i < n → (s.src.pr q.toNat).getLsbD i = false) ∧ (n < 64 → (s.src.pr q.toNat).getLsbD n = true) ∧
        Answers (.pfirst d q) s (LaneWrites s · false d fun _ => (BitVec.ofNat 64 n, 0))) ∧
    (Answers (.pmask q) s fun u => OnlyMe s u ∧ u.me = { s.me with amask := s.src.pr q.toNat }) ∧
    Answers .anop s (· = s) ∧ (∀ w : BitVec 23, w ≠ 0 → decodeWord (5#3 ++ 0x2F#6 ++ w) ≠ .ok .anop)

/-- R106, R109: `VPERM` reads every lane of va; `VBCAST`, `VINS` and `VEXT` take no mask; a C word that names a bound v register faults
STREAM, reason DIR (4), and one whose v field is above 31 does not decode, its register check failing. -/
def Obligations.LaneTransfers : Prop :=
  ∀ (s : State) (v a b : BitVec 5) (d x y : BitVec 6),
    (s.unboundV [v.toNat, a.toNat, b.toNat] = true → Answers (.vperm v a b) s (LaneWrites s · false v fun l =>
      (s.lane false a ((s.lane false b l).toNat % 64), 0))) ∧
    (AMap.find s.src.streams v.toNat = none →
      Answers (.vbcast v x) s (WritesV s · v fun _ => (s.rs x).setWidth 32) ∧
      Answers (.vext d v y) s (Writes s · d (((s.src.vr v.toNat).getD ((s.rs y).toNat % 64) 0).setWidth 64)) ∧
      Answers (.vins v x y) s (WritesV s · v fun l =>
        if l = (s.rs y).toNat % 64 then (s.rs x).setWidth 32 else (s.src.vr v.toNat).getD l 0)) ∧
    (∀ t, AMap.find s.src.streams v.toNat = some t →
      let bad := s.raise { code := .stream, obj := BitVec.ofNat 64 v.toNat, a := 4, b := BitVec.ofNat 64 t.pos }
      Answers (.vbcast v x) s (· = bad) ∧ Answers (.vext d v y) s (· = bad) ∧ Answers (.vins v x y) s (· = bad)) ∧
    (32 ≤ d.toNat → decodeWord (fRRR 1 0 0 0x3A d x 0 0) = .error .reg ∧ decodeWord (fRRR 1 0 0 0x3A x d y 1) = .error .reg ∧
      decodeWord (fRRR 1 0 0 0x3A d x y 2) = .error .reg)

/-! ## Random draws and streams -/

/-- R117 to R123: `RKEY` sets the context's keys and the ordinals of the core's 64 lanes; a draw of a lane takes that lane's ordinal
and moves it on by one, and only in the mask; `RDRAW` takes the scalar stream's draw, or the table's word, and moves `rord` on; past
the table's end it faults TABEND. R294: a table word under a watermark stalls it. That `RDRAW` reads the word at its offset even where `POOL`
has left the table beyond the scratchpad is the model's choice (log 82). -/
def Obligations.DrawsAdvanceTheirOrdinals : Prop :=
  ∀ (s : State) (d : BitVec 5) (a b r : BitVec 6), let c := s.cur.core; let k := s.src
    (Answers (.rkey a b) s fun t => OnlyCore s t c ∧ t.me = { s.me with rkey0 := (s.rs a).setWidth 32, rkey1 := ((s.rs a) >>> 32).setWidth 32 } ∧
      (∀ l, l < 64 → AMap.get 0 t.myCore.lord l = (s.rs b).setWidth 46)) ∧
    (s.unboundV [d.toNat] = true →
      let moved := fun (u t : State) => OnlyCore u t c ∧ t.me = u.me ∧ ∀ l, l < 64 → AMap.get 0 t.myCore.lord l =
        AMap.get 0 s.myCore.lord l + (if k.amask.getLsbD l then 1 else 0)
      (Answers (.vrndu d) s fun t => ∃ u, LaneWrites s u false d (fun l => ((s.laneDraw l).setWidth 64, 0)) ∧ moved u t) ∧
      Answers (.vrnd d) s fun t => ∃ u, LaneWrites s u false d (fun l => ((uniform (s.laneDraw l)).setWidth 64, 0)) ∧ moved u t) ∧
    (k.rtab = none → Answers (.rdraw r) s fun t => ∃ u,
      Writes s u r ((uniform (chervil k.rkey0 k.rkey1 s.scalarSigma k.rord.toNat)).setWidth 64) ∧ OnlyMe u t ∧
      t.me = { u.me with rord := s.me.rord + 1 }) ∧
    (∀ base n, k.rtab = some (base, n) → n.toNat ≤ k.rord.toNat → Answers (.rdraw r) s
      (· = s.raise { code := .tabend, obj := base, a := BitVec.ofNat 64 k.rord.toNat, b := n })) ∧
    (∀ base n, k.rtab = some (base, n) → k.rord.toNat < n.toNat → let off := offOf base + 4 * k.rord.toNat
      (∀ h, s.ownAtoms off 4 = [] → s.myCore.marked off 4 = some h → Answers (.rdraw r) s (· = s.stallMe (.watermark h s.wmStart (localAddr off)))) ∧
      (s.ownAtoms off 4 = [] → s.myCore.marked off 4 = none → s.badIn c off 4 = none →
        Answers (.rdraw r) s fun t => ∃ u, Writes s u r (BitVec.ofNat 64 (s.myCore.num off 4)) ∧ OnlyMe u t ∧
          t.me = { u.me with rord := s.me.rord + 1 })) ∧
    (s.rs b = 0 → Answers (.rtab a b) s fun t => OnlyMe s t ∧ t.me = { s.me with rtab := none }) ∧
    (s.rs b ≠ 0 → (s.rs a).toNat % 4 = 0 → inScratch s.myCore (s.rs a) (4 * (s.rs b).toNat) = true →
      Answers (.rtab a b) s fun t => OnlyMe s t ∧ t.me = { s.me with rtab := some (s.rs a, s.rs b) }) ∧
    (s.rs b ≠ 0 → (s.rs a).toNat % 4 ≠ 0 → Answers (.rtab a b) s (· = s.raise { code := .align, a := s.rs a })) ∧
    (s.rs b ≠ 0 → (s.rs a).toNat % 4 = 0 → inScratch s.myCore (s.rs a) (4 * (s.rs b).toNat) = false →
      Answers (.rtab a b) s (· = s.raise { code := .pool, a := s.rs a }))

/-- R110 to R114: `SBIND` binds a stream from a descriptor that its checks accept, at position 0; a descriptor they reject faults STREAM
with the reason, and b = 0 by the model's choice (log 66), and one under a watermark stalls (R294); `SFREE` unbinds; `SPOS` reads the position, at most the length, and all ones where nothing is bound; `SREP` starts
as many repetitions as there are beats left on the shortest bound stream, and skips its body where none is left. -/
def Sys2Proof.StreamInstructionsActOnTheirStream : Prop :=
  ∀ (s : State) (v : BitVec 3) (a d : BitVec 6) (n : BitVec 17), let x := s.rs a
    let ok := x.toNat % 64 = 0 ∧ inScratch s.myCore x 64 = true ∧ s.ownAtoms (offOf x) 64 = [] ∧ s.myCore.marked (offOf x) 64 = none ∧
      s.badIn s.cur.core (offOf x) 64 = none
    let desc := readDesc (wordsOf 8 (s.myCore.bytes (offOf x) 64))
    let left := fun (t : Stream) => (t.len - t.pos + 63) / 64
    (ok → ∀ t, desc = .ok t → t.pos = 0 ∧ Answers (.sbind v a) s fun u => ∃ w,
      OnlyMe s w ∧ w.me = { s.me with streams := AMap.set s.me.streams v.toNat { t with bound := s.uid } } ∧ u = w.fresh) ∧
    (ok → ∀ r, desc = .error r → Answers (.sbind v a) s (· = s.raise { code := .stream, obj := BitVec.ofNat 64 v.toNat, a := BitVec.ofNat 64 r })) ∧
    (x.toNat % 64 = 0 → inScratch s.myCore x 64 = true → s.ownAtoms (offOf x) 64 = [] → ∀ h, s.myCore.marked (offOf x) 64 = some h →
      Answers (.sbind v a) s (· = s.stallMe (.watermark h s.wmStart (localAddr (offOf x))))) ∧
    (x.toNat % 64 ≠ 0 → Answers (.sbind v a) s (· = s.raise { code := .align, a := x })) ∧
    (x.toNat % 64 = 0 → inScratch s.myCore x 64 = false → Answers (.sbind v a) s (· = s.raise { code := .pool, a := x })) ∧
    (Answers (.sfree v) s fun u => OnlyMe s u ∧ u.me = { s.me with streams := u.me.streams } ∧
      AMap.find u.me.streams v.toNat = none ∧ ∀ w, w ≠ v.toNat → AMap.find u.me.streams w = AMap.find s.me.streams w) ∧
    (∀ t, AMap.find s.src.streams v.toNat = some t → Answers (.spos d v) s (Writes s · d (BitVec.ofNat 64 (Min.min t.pos t.len)))) ∧
    (AMap.find s.src.streams v.toNat = none → Answers (.spos d v) s (Writes s · d (BitVec.allOnes 64))) ∧
    (1 ≤ n.toNat → n.toNat ≤ 256 → ∀ e ∈ s.src.streams, (∀ f ∈ s.src.streams, left e.2 ≤ left f.2) → 0 < left e.2 →
      Answers (.srep n) s fun u => OnlyMe s u ∧
        u.me = { s.me with srep := some { body := s.cur.next, n := n.toNat, idx := 0, beta := 0, nrep := left e.2 } }) ∧
    (1 ≤ n.toNat → n.toNat ≤ 256 → (∃ e ∈ s.src.streams, left e.2 = 0) →
      Answers (.srep n) s (GoesTo s · (skipBundles s.myCore.imem s.cur.next n.toNat))) ∧
    (n.toNat = 0 ∨ 256 < n.toNat ∨ s.src.streams = [] →
      Answers (.srep n) s (· = s.raise { code := .stream, a := 5, b := BitVec.ofNat 64 n.toNat }))

/-- R34, R114: a bundle of a repeated body that retires is followed by the next one of the body, and the last by the first where a
repetition is left: so the body runs once per repetition, and the program goes on behind it. A word that a body may not hold faults
STREAM, reason 5. -/
def Sys2Proof.ABodyRunsOncePerRepetition : Prop :=
  ∀ (s : State) (c x words : Nat) (r : Srep) (w : Word32) (i : Instr) (t : State),
    (s.cur.fate = .retire → let k := (s.finish words (some r)).me
      (r.idx + 1 < r.n → k.srep = some { r with idx := r.idx + 1 } ∧ k.pc = s.cur.next) ∧
      (r.n ≤ r.idx + 1 → r.beta + 1 < r.nrep → k.srep = some { r with idx := 0, beta := r.beta + 1 } ∧ k.pc = r.body) ∧
      (r.n ≤ r.idx + 1 → r.nrep ≤ r.beta + 1 → k.srep = none ∧ k.pc = s.cur.next)) ∧
    (s.fetchBad c (s.ctx c x).pc = false → (s.core c).form (s.ctx c x).pc = .one w → decodeWord w = .ok i → (s.ctx c x).srep = some r →
      let b := s.begin c x
      let e := if wS w = 1 then b.updMe (fun m => { m with pending := [] }) else b
      (wS w = 1 → (s.ctx c x).outstanding = 0) → e.hazard [i] = none →
        (bodyForbids i = true → s.issueCtx c x = e.raise { code := .stream, a := 5, b := BitVec.ofNat 64 r.n }) ∧
        (bodyForbids i = false → exec i e = .next t → s.issueCtx c x = t.finish 1 (some r)))

/-- R112: a word that reads bound registers takes the beat at each one's position, which moves on by 64 elements; lanes past a stream's
end keep what they held. A beat of local elements is read by the pop itself. A pop past the end faults STREAM, reason 3; a
pop whose beat has not arrived leaves the bundle unissued; a register bound the other way, or read and written at once, faults reason 4.
Stated of `VMOV` in each of its types. -/
def Sys2Proof.AReadOfABoundRegisterPopsOneBeat : Prop :=
  ∀ (s : State) (ty : VType) (d a : BitVec 5), s.cur.snap = none →
    let find := fun (v : Nat) => AMap.find s.me.streams v
    let D := vregs ty.wide d; let A := vregs ty.wide a
    let flt := fun (v r : Nat) (T : Stream) =>
      ({ code := .stream, obj := BitVec.ofNat 64 v, a := BitVec.ofNat 64 r, b := BitVec.ofNat 64 T.pos } : Flt)
    ((∃ v ∈ A, find v ≠ none) → Answers (.vmov ty a a) s fun t => ∃ v ∈ A, ∃ T, find v = some T ∧ t = s.raise (flt v 4 T)) ∧
    ((∀ v ∈ D, find v = none) →
      (∀ v ∈ A, ∀ T, find v = some T → T.write = true →
        Answers (.vmov ty d a) s fun t => ∃ w ∈ A, ∃ U, find w = some U ∧ t = s.raise (flt w 4 U)) ∧
      ((∀ v ∈ A, v ∉ D) → (∀ v ∈ A, ∀ T, find v = some T → T.write = false ∧ T.pos < T.len ∧ ∃ b q, T.fetched = b :: q ∧ b.flt = none) →
        let val := fun (v l : Nat) => match find v with
          | some T => (T.fetched.flatMap (·.lanes)).getD l 0
          | none => (s.me.vr v).getD l 0
        (∀ v ∈ A, ∀ T, find v = some T → ∀ b ∈ T.fetched, b.lanes.length = 64) →
        Answers (.vmov ty d a) s fun t =>
          (∀ v ∈ A, ∀ T, find v = some T → AMap.find t.me.streams v = some { T with pos := T.pos + 64, fetched := T.fetched.tail }) ∧
          (∀ j l, j < A.length → l < 64 → (t.me.vr (D.getD j 0)).getD l 0 =
            if s.me.amask.getLsbD l ∧ ∀ v ∈ A, ∀ T, find v = some T → l < T.len - 64 * (T.pos / 64) then val (A.getD j 0) l
            else (s.me.vr (D.getD j 0)).getD l 0) ∧
          t.myCore = { s.myCore with ctxs := t.myCore.ctxs } ∧ t.me.flags = s.me.flags)) ∧
    (∀ T, ty.wide = false → d ≠ a → find d.toNat = none → find a.toNat = some T →
      let n := etSize T.et
      let near := fun (e : Nat) => inScratch s.myCore (T.addr e) n = true ∧ s.myCore.marked (offOf (T.addr e)) n = none ∧
        s.badIn s.cur.core (offOf (T.addr e)) n = none ∧ s.atomsAt s.cur.core s.cur.ctx (.pool (offOf (T.addr e))) = []
      (T.write = false → T.pos < T.len → T.pos % 64 = 0 → T.fetched = [] → T.part = [] → (∀ e ∈ T.beatElems (T.pos / 64), near e) →
        Answers (.vmov ty d a) s fun t =>
          AMap.find t.me.streams a.toNat = some { T with pos := T.pos + 64 } ∧
          (∀ l, l < 64 → (t.me.vr d.toNat).getD l 0 =
            if s.me.amask.getLsbD l ∧ T.pos + l < T.len then etRead T.et (s.myCore.num (offOf (T.addr (T.pos + l))) n)
            else (s.me.vr d.toNat).getD l 0) ∧
          t.myCore = { s.myCore with ctxs := t.myCore.ctxs } ∧ t.me.flags = s.me.flags) ∧
      (∀ b r f, T.write = false → T.pos < T.len → T.fetched = b :: r → b.flt = some f →
        Answers (.vmov ty d a) s (· = s.xlateFault f)) ∧
      (T.write = false → T.pos < T.len → (∃ e ∈ T.beatElems (T.pos / 64), isLocal (T.addr e) = false) → T.fetched = [] →
        Answers (.vmov ty d a) s (· = s.stallMe (.beat a.toNat))) ∧
      (T.write = false → T.len ≤ T.pos → Answers (.vmov ty d a) s (· = s.raise (flt a.toNat 3 T))))

/-- R112: a word that writes bound registers pushes one beat of each: its position moves on by 64 elements, every byte of the pool outside the
elements stored keeps its value, and so does every element whose lane is not in the mask or lies past an end. Global elements enter the
store lanes in element order (R116). Stated of `VMOV` in each of its types. -/
def Sys2Proof.AWriteOfABoundRegisterPushesOneBeat : Prop :=
  ∀ (s : State) (ty : VType) (d a : BitVec 5), s.cur.snap = none →
    let find := fun (v : Nat) => AMap.find s.me.streams v
    let D := vregs ty.wide d; let A := vregs ty.wide a
    (∀ v ∈ A, find v = none) →
    let in_ := fun (l : Nat) => l < 64 ∧ s.me.amask.getLsbD l ∧ ∀ v ∈ D, ∀ T, find v = some T → T.pos + l < T.len
    let has := fun (T : Stream) (l p : Nat) => offOf (T.addr (T.pos + l)) ≤ p ∧ p < offOf (T.addr (T.pos + l)) + etSize T.et
    (∀ v ∈ D, ∀ T, find v = some T → T.write = false →
      Answers (.vmov ty d a) s fun t => ∃ w ∈ D, ∃ U, find w = some U ∧
        t = s.raise { code := .stream, obj := BitVec.ofNat 64 w, a := 4, b := BitVec.ofNat 64 U.pos }) ∧
    ((∃ v ∈ D, find v ≠ none) → (∀ v ∈ D, ∀ T, find v = some T → T.write = true ∧ T.pos < T.len ∧ T.pos % 64 = 0 ∧
        ∀ e ∈ T.beatElems (T.pos / 64), inScratch s.myCore (T.addr e) (etSize T.et) = true ∧
          s.myCore.marked (offOf (T.addr e)) (etSize T.et) = none ∧ s.storeEcc s.cur.core (offOf (T.addr e)) (etSize T.et) = none ∧
          s.atomsAt s.cur.core s.cur.ctx (.pool (offOf (T.addr e))) = []) →
      Answers (.vmov ty d a) s fun t =>
        (∀ v ∈ D, ∀ T, find v = some T → AMap.find t.me.streams v = some { T with pos := T.pos + 64 }) ∧
        (∀ p, (∀ v ∈ D, ∀ T l, find v = some T → in_ l → ¬has T l p) →
          (t.core s.cur.core).byte p = (s.core s.cur.core).byte p) ∧
        (∀ j T l p, j < D.length → find (D.getD j 0) = some T → in_ l → has T l p →
          (∀ i U m, i < D.length → find (D.getD i 0) = some U → in_ m → j < i ∨ (j = i ∧ l < m) → ¬has U m p) →
          (t.core s.cur.core).byte p =
            (((s.me.vr (A.getD j 0)).getD l 0) >>> (8 * (p - offOf (T.addr (T.pos + l))))).setWidth 8)) ∧
    (∀ T, ty.wide = false → find d.toNat = some T → T.write = true →
      (T.len ≤ T.pos → T.pos % 64 = 0 → Answers (.vmov ty d a) s
        (· = s.raise { code := .stream, obj := BitVec.ofNat 64 d.toNat, a := 3, b := BitVec.ofNat 64 T.pos })) ∧
      ∀ (pa : Nat → Nat) (at_ : BitVec 2) (ent : Word) (page : Nat), T.pos < T.len → T.pos % 64 = 0 → at_ ≠ 2 →
        let L := T.stored (s.me.amask &&& T.tail (T.pos / 64))
        (∀ e ∈ L, isLocal (T.addr e) = false ∧ pageOf (T.addr e) = page ∧ s.lookup (T.addr e) ⟨false, true⟩ = .ok (pa e) at_ ent ∧
          s.atomsAt s.cur.core s.cur.ctx (.phys (pa e) false) = []) →
        s.me.push = [] → s.myCore.laneCount s.cur.ctx + L.length ≤ 64 → s.myCore.laneCount s.cur.ctx < 64 →
        Answers (.vmov ty d a) s fun t =>
          AMap.find t.me.streams d.toNat = some { T with pos := T.pos + 64 } ∧ t.mem = s.mem ∧
          (∀ p, (t.core s.cur.core).byte p = (s.core s.cur.core).byte p) ∧
          ∃ E, t.myCore.lanes = s.myCore.lanes ++ E ∧
            E.map (fun e => (e.ctx, e.va, e.pa, e.n, e.data, e.versioned, e.recl)) = L.map fun e =>
              (s.cur.ctx, T.addr e, pa e, etSize T.et, ((s.me.vr a.toNat).getD (e - T.pos) 0).setWidth 64, at_ == 1, false))

/-- R112: a beat is fetched ahead of its pop, at most four at a time, and a pop that stalled on it may then issue. An element that
cannot be read yet stops the beat behind the lanes before it, which stay read; a fault reaches the pop that waits. An element whose word
a load issued before the `SBIND` has still to read is not read (R116, R267). -/
def Sys2Proof.BeatsArriveAheadOfTheirPops : Prop :=
  ∀ (s : State) (c x v : Nat) (T : Stream), AMap.find (s.ctx c x).streams v = some T →
    let b := T.pos / 64 + T.fetched.length
    let F := (s.asIf c x).fetchBeat v T b
    let waits := (s.ctx c x).st = .stalled ∧ (s.ctx c x).stall = some (.beat v)
    (T.write = false → T.fetched.length < 4 → 64 * b < T.len →
      (F.2.1 = none → Answers (.streamBeatArrival c x v) s fun t => t.mem = s.mem ∧ (∀ d, d ≠ c → t.core d = s.core d) ∧
        (∀ a, (t.core c).byte a = (s.core c).byte a) ∧
        AMap.find (t.ctx c x).streams v = some { T with fetched := T.fetched ++ [beatOf F.1], part := [] } ∧
        (waits → (t.ctx c x).st = .ready)) ∧
      (∀ f, F.2.1 = some f → ¬waits → Answers (.streamBeatArrival c x v) s fun t => t.mem = s.mem ∧
        AMap.find (t.ctx c x).streams v = some { T with part := F.1 } ∧ (t.ctx c x).st = (s.ctx c x).st) ∧
      (∀ f, F.2.1 = some (.fault f) → waits → Answers (.streamBeatArrival c x v) s fun t => t.mem = s.mem ∧ (t.ctx c x).st = .ready ∧
        AMap.find (t.ctx c x).streams v = some { T with fetched := [{ beatOf F.1 with flt := some f }], part := [] })) ∧
    (T.write = true ∨ 4 ≤ T.fetched.length ∨ T.len ≤ 64 * b → Answers (.streamBeatArrival c x v) s (· = s)) ∧
    ∀ p e, isLocal (T.addr e) = false →
      (∀ pa at_ ent, ((s.asIf c x).prefill (T.addr e)).lookup (T.addr e) ⟨true, false⟩ = .ok pa at_ ent → s.loadsBefore c x pa T.bound ≠ []) →
      ∃ f, (s.asIf c x).elemRead v T p e = .error f

/-! ## Memory instructions -/

/-- R26, R280, R282: a load from the scratchpad or the accumulator window writes the little-endian bytes, zero-extended, and a load of
8 bytes from the counter window a counter's value; nothing else changes. A misaligned address faults ALIGN, a wrong access of a window
PERM, reason 76 (WINDOW), and an address in no window POOL. -/
def Sys2Proof.LocalLoadsWriteTheBytesTheyName : Prop :=
  ∀ (s : State) (d a : BitVec 6) (z : Size) (o : BitVec 9), let n := sizeBytes z
    let x := s.rs a + BitVec.ofInt 64 (o.toInt * n); let off := offOf x; let k := s.myCore; let c := s.cur.core
    let fails := fun (code : FCode) (i : Word) (b : Word) => Answers (.ld d a z o) s (· = s.raise { code := code, a := i, b := b, addr := x })
    let inAcc := accBase ≤ off ∧ off + n ≤ accBase + k.accSize
    let clear := s.atomsAt c s.cur.ctx (.pool off) = [] ∧ k.marked off n = none ∧ s.badIn c off n = none
    (x.toNat % n ≠ 0 → fails .align x 0) ∧
    (x.toNat % n = 0 → isLocal x = true →
      (off + n ≤ k.spSize ∨ inAcc → clear → Answers (.ld d a z o) s (Writes s · d (BitVec.ofNat 64 (k.num off n)))) ∧
      (k.spSize < off + n → ¬inAcc → ctrBase ≤ off → off < ctrBase + 0x4000 → z = .d →
        Answers (.ld d a z o) s (Writes s · d (s.cell c ((off - ctrBase) / 8)).value)) ∧
      (k.spSize < off + n → ¬inAcc → ctrBase ≤ off → off < ctrBase + 0x4000 → z ≠ .d → fails .perm 76 x) ∧
      (k.spSize < off + n → ¬inAcc → ¬(ctrBase ≤ off ∧ off < ctrBase + 0x4000) → fails .pool x 0))

/-- R26, R280, R282: a store to the scratchpad changes exactly its bytes, and no register; the accumulator and counter windows take no
store (PERM, reason 76). -/
def Sys2Proof.LocalStoresChangeOnlyTheirBytes : Prop :=
  ∀ (s : State) (d a : BitVec 6) (z : Size) (o : BitVec 9), let n := sizeBytes z
    let x := s.rs a + BitVec.ofInt 64 (o.toInt * n); let off := offOf x; let k := s.myCore; let c := s.cur.core
    let fails := fun (code : FCode) (i : Word) (b : Word) => Answers (.st d a z o) s (· = s.raise { code := code, a := i, b := b, addr := x })
    let inAcc := accBase ≤ off ∧ off + n ≤ accBase + k.accSize
    let inCtr := ctrBase ≤ off ∧ off < ctrBase + 0x4000
    (x.toNat % n ≠ 0 → fails .align x 0) ∧
    (x.toNat % n = 0 → isLocal x = true →
      (off + n ≤ k.spSize → s.atomsAt c s.cur.ctx (.pool off) = [] → k.marked off n = none → s.storeEcc c off n = none →
        Answers (.st d a z o) s fun t =>
          t = { s with cores := t.cores, bad := t.bad } ∧ (∀ e, e ≠ c → t.core e = s.core e) ∧
          t.core c = { k with pool := (t.core c).pool, undef := (t.core c).undef } ∧ PoolKept s t c off n ∧
          ∀ i, i < n → (t.core c).byte (off + i) = ((s.rs d) >>> (8 * i)).setWidth 8) ∧
      (k.spSize < off + n → inAcc ∨ inCtr → fails .perm 76 x) ∧
      (k.spSize < off + n → ¬inAcc → ¬inCtr → fails .pool x 0))

/-- R249, R251, R264 to R267, R282, R331: a global load whose translation is at hand asks for one result. It is read from the core's
own stores where they cover the word, once the context's earlier loads of the word are performed, with ECC where what they leave of it stands in a
word in error (R324); from the buffered line, or not, as the machine chooses; and else a request goes to the slice. A SEQ access goes to the slice always, and its context issues nothing until
it has been performed. HBM does not change. A page that is not at hand stalls the bundle. -/
def Obligations.GlobalLoadsReadTheCoresView : Prop :=
  ∀ (s : State) (d a : BitVec 6) (z : Size) (o : BitVec 9) (pa : Nat) (attr : BitVec 2) (e : Word), let n := sizeBytes z
    let x := s.rs a + BitVec.ofInt 64 (o.toInt * n); let c := s.cur.core; let k := s.myCore
    x.toNat % n = 0 → isLocal x = false →
    let own := k.view.any fun l => l.pa / 8 == pa / 8
    let line := AMap.find k.lbuf (pa / 64)
    let first := s.loadsBefore c s.cur.ctx pa s.uid
    let asks := fun (t : State) => OnlyCore { s with loads := t.loads, uid := t.uid, free := t.free } t c ∧ t.me.outstanding = s.me.outstanding + 1 ∧
      t.me.pending = s.me.pending ++ (if d = 0 then [] else [64 + d.toNat])
    let now := fun (v : Nat) (t : State) => asks t ∧ t.loads = s.loads ∧ t.me.st = s.me.st ∧
      ∃ r, t.me.outs.getLast? = some r ∧ r.dests = [64 + d.toNat] ∧ r.vals = some [BitVec.ofNat 64 v]
    let slice := fun (t : State) => asks t ∧ ∃ q, t.loads = s.loads ++ [q] ∧ q.id = s.uid ∧ q.core = c ∧ q.ctx = s.cur.ctx ∧
      q.pa = pa ∧ q.n = n ∧ q.attr = attr ∧ q.want = none
    (s.lookup x ⟨true, false⟩ = .ok pa attr e → s.atomsAt c s.cur.ctx (.phys pa false) = [] → s.me.outstanding < 32 →
      (attr = 2 → s.cur.fate = .retire → Answers (.ld d a z o) s fun t => slice t ∧ t.me.st = .stalled ∧ t.me.stall = some (.seq s.uid)) ∧
      (attr ≠ 2 → own = true → first = [] → s.viewBad c pa n = false → Answers (.ld d a z o) s (now (s.viewNum c pa n))) ∧
      (attr ≠ 2 → own = true → first = [] → s.viewBad c pa n = true → Answers (.ld d a z o) s fun t => asks t ∧ t.loads = s.loads ∧
        ∃ r, t.me.outs.getLast? = some r ∧ r.dests = [64 + d.toNat] ∧ r.vals = none ∧ r.flt = some { code := .ecc, addr := x }) ∧
      (attr ≠ 2 → own = true → first ≠ [] → Answers (.ld d a z o) s fun t => t.me.st = .stalled ∧
        t.me.stall = some (.fence (first.map (·.id))) ∧ t.me.outs = s.me.outs ∧ t.loads = s.loads ∧ t.mem = s.mem) ∧
      (attr = 0 → own = false → first = [] → ∀ b, line = some b → Answers (.ld d a z o) s fun t =>
        (s.coin = true → now (ofBytes ((b.drop (pa % 64)).take n)) t) ∧ (s.coin = false → slice t)) ∧
      (attr ≠ 2 → own = false → (attr = 0 → first = [] → line = none) → Answers (.ld d a z o) s slice)) ∧
    (s.lookup x ⟨true, false⟩ = .miss → Answers (.ld d a z o) s (· = s.xmissStall x)) ∧
    (∀ f, s.lookup x ⟨true, false⟩ = .flt f → Answers (.ld d a z o) s (· = s.xlateFault f))

/-- R249, R251, R266, R282, R283: a global store whose translation is at hand enters the store lane of its slice behind the core's
earlier entries, with the bytes of sd, where there is room, and else stays unissued; HBM does not change before the lane performs it. A
SEQ store holds its context until then. -/
def Sys2Proof.GlobalStoresEnterTheirLane : Prop :=
  ∀ (s : State) (d a : BitVec 6) (z : Size) (o : BitVec 9) (pa : Nat) (attr : BitVec 2) (e : Word), let n := sizeBytes z
    let x := s.rs a + BitVec.ofInt 64 (o.toInt * n); let c := s.cur.core
    x.toNat % n = 0 → isLocal x = false →
    let entry : LaneEntry := ⟨s.uid, s.cur.ctx, sliceOf pa, x, pa, n, s.rs d, attr == 1, false, s.cur.pc, none, false⟩
    let enters := fun (t : State) => OnlyCore { s with uid := s.uid + 1 } t c ∧
      (t.core c).lanes = (s.core c).lanes ++ [entry] ∧ (∀ p, (t.core c).byte p = (s.core c).byte p)
    (s.lookup x ⟨false, true⟩ = .ok pa attr e → s.atomsAt c s.cur.ctx (.phys pa false) = [] →
      (attr ≠ 2 → s.laneRoom 1 = none → Answers (.st d a z o) s fun t => enters t ∧ ∀ y, t.ctx c y = s.ctx c y) ∧
      (∀ r, s.laneRoom 1 = some r → Answers (.st d a z o) s fun t => (t.core c).lanes = (s.core c).lanes ∧ t.me.st = .stalled ∧
        t.me.stall = some r ∧ t.mem = s.mem) ∧
      (attr = 2 → s.laneRoom 1 = none → s.cur.fate = .retire → Answers (.st d a z o) s fun t =>
        enters t ∧ t.me.st = .stalled ∧ t.me.stall = some (.seq s.uid))) ∧
    (s.lookup x ⟨false, true⟩ = .miss → Answers (.st d a z o) s (· = s.xmissStall x)) ∧
    (∀ f, s.lookup x ⟨false, true⟩ = .flt f → Answers (.st d a z o) s (· = s.xlateFault f))

/-- R284, R286: `LDV` asks the slice for the version of a VERSIONED word that sd names, and `RECL` enters the store lane as a reclaim up to
the version in sb; an address that is local or not VERSIONED faults PERM, reason 74. -/
def Sys2Proof.LdvAndReclNeedAVersionedWord : Prop :=
  ∀ (s : State) (d a b : BitVec 6) (o : BitVec 9) (pa : Nat) (attr : BitVec 2) (e : Word), let c := s.cur.core
    let x := s.rs a + BitVec.ofInt 64 (o.toInt * 8); let y := s.rs a
    let bad := fun (w : Word) => ({ code := .perm, a := 74, b := w, addr := w } : Flt)
    (x.toNat % 8 = 0 → isLocal x = false → s.lookup x ⟨true, false⟩ = .ok pa 1 e → s.atomsAt c s.cur.ctx (.phys pa true) = [] →
      s.me.outstanding < 32 → Answers (.ldv d a o) s fun t =>
        ∃ q, t.loads = s.loads ++ [q] ∧ q.pa = pa ∧ q.n = 8 ∧ q.want = some ((s.rs d).setWidth 16) ∧ q.core = c ∧ q.ctx = s.cur.ctx ∧
          t.me.outstanding = s.me.outstanding + 1 ∧ t.mem = s.mem) ∧
    (y.toNat % 8 = 0 → isLocal y = false → s.lookup y ⟨false, true⟩ = .ok pa 1 e → s.atomsAt c s.cur.ctx (.phys pa true) = [] →
      Answers (.recl a b) s fun t => ∃ l, (t.core c).lanes = (s.core c).lanes ++ [l] ∧ l.recl = true ∧ l.pa = pa ∧
        l.data = BitVec.ofNat 64 ((s.rs b).toNat % 65536) ∧ t.mem = s.mem ∧ ∀ z, t.ctx c z = s.ctx c z) ∧
    (x.toNat % 8 = 0 → isLocal x = true → Answers (.ldv d a o) s (· = s.raise (bad x))) ∧
    (y.toNat % 8 = 0 → isLocal y = true → Answers (.recl a b) s (· = s.raise (bad y))) ∧
    (x.toNat % 8 = 0 → isLocal x = false → attr ≠ 1 → s.lookup x ⟨true, false⟩ = .ok pa attr e →
      Answers (.ldv d a o) s (· = s.raise (bad x))) ∧
    (y.toNat % 8 = 0 → isLocal y = false → attr ≠ 1 → s.lookup y ⟨false, true⟩ = .ok pa attr e →
      Answers (.recl a b) s (· = s.raise (bad y))) ∧
    (x.toNat % 8 ≠ 0 → Answers (.ldv d a o) s (· = s.raise { code := .align, a := x, addr := x })) ∧
    (y.toNat % 8 ≠ 0 → Answers (.recl a b) s (· = s.raise { code := .align, a := y, addr := y }))

/-- R268 to R272, R287: a fence whose scope covers nothing that still stands retires; at partition scope or wider it drops every
buffered line of its core. One that waits leaves the bundle unissued. What stands are the context's loads and atomics not yet performed; at
partition scope or wider its stores not yet at their slice, a reclaim being none; at system scope its requests that no port has accepted. In
deterministic mode a release is complete at issue (R279). -/
def Sys2Proof.FencesWaitForWhatTheyCover : Prop :=
  ∀ (s : State) (sc : Scope), let c := s.cur.core
    let l := s.ownOpen c s.cur.ctx sc ++ (if sc = .sys then s.atPorts c s.cur.ctx else [])
    (∀ i, i ∈ l ↔ s.det c = false ∧ ((∃ o ∈ s.me.outs, o.open_ = true ∧ o.id = i) ∨
      (sc ∈ [Scope.part, .pkg, .sys] ∧ ∃ e ∈ s.myCore.lanes, e.ctx = s.cur.ctx ∧ e.recl = false ∧ e.id = i) ∨
      (sc = .sys ∧ ∃ p ∈ s.net, p.id = i ∧ p.src = c ∧ p.srcCtx = s.cur.ctx ∧
        ((portOf p.dst).isSome = true ∨ ∃ h ws, p.body = .words h ws ∧ isEnvelope p h = true)))) ∧
    (l = [] → sc = .ctx ∨ sc = .core → Answers (.fence sc) s (· = s)) ∧
    (l = [] → sc = .part ∨ sc = .pkg ∨ sc = .sys → Answers (.fence sc) s fun t => OnlyCore s t c ∧
      t.core c = { s.myCore with lbuf := [] }) ∧
    (l ≠ [] → Answers (.fence sc) s fun t => t = s.stallMe (.fence l) ∧ t.me.st = .stalled)

/-- R288, R289: `POOL` re-divides the pool of a core that is quiescent: the banks whose layout changes read as zero, the others as
before, and the issuer stays STALLED until they are clear; a ring, armed descriptor, watermark window or table of C0 that ends beyond the new
scratchpad faults POOL with its offset. A core that is not quiescent faults POOLBUSY with the first reason that holds, and a word
out of range PERM, reason FIELD. That a window's offset is its channel's base is the model's choice (log 92). -/
def Sys2Proof.PoolRedividesAQuiescentCore : Prop :=
  ∀ (s : State) (a : BitVec 6) (c : Nat), let w := s.rs a; let k := s.myCore; let me := s.cur.core
    let rfu := w.toNat % 16; let acc := w.toNat / 16 % 256
    let good := w.toNat / 2 ^ 20 = 0 ∧ 1 ≤ rfu ∧ rfu ≤ 11 ∧ acc ≤ 128
    let sameS := 4 * rfu + acc = 4 * k.rfu + k.acc; let sameA := rfu = k.rfu ∧ acc = k.acc
    (good → s.poolReason = none → (∀ e ∈ k.areas, e.2 ≤ (192 - 4 * rfu - acc) * 2048) → Answers (.pool a) s fun t =>
      (t.core me).rfu = rfu ∧ (t.core me).acc = acc ∧ t.mem = s.mem ∧ (∀ d, d ≠ me → t.core d = s.core d) ∧
      (∀ p, (t.core me).byte p = if (if p < accBase then sameS else sameA) then (s.core me).byte p else 0) ∧
      (sameA → t.me.st = s.me.st) ∧ (¬(sameS ∧ sameA) → t.me.st = .stalled ∧ (t.core me).clearing = true)) ∧
    (good → s.poolReason = none → (∃ e ∈ k.areas, (192 - 4 * rfu - acc) * 2048 < e.2) → Answers (.pool a) s fun t =>
      ∃ e ∈ k.areas, (192 - 4 * rfu - acc) * 2048 < e.2 ∧
        t = s.raise { code := .pool, a := BitVec.ofNat 64 e.1, b := BitVec.ofNat 64 ((192 - 4 * rfu - acc) * 2048) }) ∧
    (good → ∀ r, s.poolReason = some r → Answers (.pool a) s
      (· = s.raise { code := .poolbusy, obj := BitVec.ofNat 64 s.cur.ctx, a := BitVec.ofNat 64 r.1, b := BitVec.ofNat 64 r.2 })) ∧
    (∀ e, e ∈ k.areas ↔ (∃ h ch, (h, ch) ∈ k.channels ∧ ch.bound = true ∧ e = (ch.ring, ch.ring + 64 * ch.depth)) ∨
      (∃ n v, (n, v) ∈ k.counters ∧ v.armed = true ∧ e = (v.desc.toNat, v.desc.toNat + 32)) ∨ (∃ n w, (n, w) ∈ k.wmarks ∧ e = (w.base, w.limit)) ∨
      ∃ b n, (k.ctx 0).rtab = some (b, n) ∧ e = (offOf b, offOf b + 4 * n.toNat)) ∧
    (¬good → Answers (.pool a) s (· = s.raise { code := .perm, a := 69, b := w })) ∧
    ((s.core c).clearing = true → Answers (.poolClearDone c) s fun t => (t.core c).clearing = false ∧ OnlyCore s t c ∧
      ((s.ctx c 0).st = .stalled → (s.ctx c 0).stall = some .pool → (t.ctx c 0).st = .ready) ∧ ∀ p, (t.core c).byte p = (s.core c).byte p) ∧
    ((s.core c).clearing = false → Answers (.poolClearDone c) s (· = s))

/-- R288: the reasons for which a core is not quiescent, each where none before it holds, with its detail. -/
def Sys2Proof.PoolFindsTheFirstReason : Prop :=
  ∀ s : State, let k := s.myCore; let me := s.cur.core; let x := s.cur.ctx; let q := s.slot me
    let helper := x ≠ 0 ∨ ∃ y, 1 ≤ y ∧ y ≤ 10 ∧ (k.ctx y).st ≠ .free
    let outst := s.me.outstanding ≠ 0 ∨ ∃ l ∈ k.lanes, l.ctx = x ∧ l.recl = false
    let lease := q.holds = true ∨ q.queue ≠ []
    let engine := s.engineBusy me ≠ 0
    let chan := (∃ e ∈ k.channels, e.2.used ≠ 0) ∨ k.posted ≠ [] ∨ k.overflow ≠ []
    (helper → ∃ y, s.poolReason = some (1, y) ∧ ((1 ≤ y ∧ y ≤ 10 ∧ (k.ctx y).st ≠ .free) ∨ y = x) ∧ ∀ z, 1 ≤ z → z < y → z ≤ 10 → (k.ctx z).st = .free) ∧
    (¬helper → outst → s.poolReason = some (2, 0)) ∧
    (¬helper → ¬outst → lease → s.poolReason = some (3, 0)) ∧
    (¬helper → ¬outst → ¬lease → engine → s.poolReason = some (4, s.engineBusy me)) ∧
    (¬helper → ¬outst → ¬lease → ¬engine → chan → ∃ h, s.poolReason = some (5, h) ∧
      ((∀ e ∈ k.channels, e.2.used = 0) → h = 64) ∧ ((∃ e ∈ k.channels, e.2.used ≠ 0) → (∃ ch, (h, ch) ∈ k.channels ∧ ch.used ≠ 0) ∧
        (k.channels.Pairwise (fun e f => e.1 < f.1) → ∀ e ∈ k.channels, e.2.used ≠ 0 → h ≤ e.1))) ∧
    (¬helper → ¬outst → ¬lease → ¬engine → ¬chan → s.me.streams ≠ [] → s.poolReason = some (6, 0)) ∧
    (¬helper → ¬outst → ¬lease → ¬engine → ¬chan → s.me.streams = [] → s.poolReason = none)

/-- R260, R293, R294: `WMARK` arms a watermark channel, on which the beats that reached it in the same cycle count, and the accesses
stalled under a mark are tried again; an access that has been stalled for its limit faults WAIT. -/
def Sys2Proof.WatermarksArmAndExpire : Prop :=
  ∀ (s : State) (d a b : BitVec 6) (n : BitVec 3) (c x h t0 : Nat) (p : Word),
    let base := (s.rs d).toNat; let limit := (s.rs a).toNat; let mark := (s.rs b).toNat; let me := s.cur.core
    let beats := (AMap.get {} s.myCore.wmarks n.toNat).beatsAt s.now
    (base < 2 ^ 23 → limit < 2 ^ 23 → mark < 2 ^ 23 → base % 8 = 0 → limit % 8 = 0 → mark % 8 = 0 →
      base ≤ limit → limit - base ≤ 65536 → base ≤ mark → mark ≤ limit → limit ≤ s.myCore.spSize →
      Answers (.wmark d a b n) s fun t => OnlyCore s t me ∧
        (∃ w, AMap.find (t.core me).wmarks n.toNat = some w ∧ w.base = base ∧ w.limit = limit ∧ w.parts = beats ∧ mark ≤ w.mark ∧
          (beats = [] → w.mark = mark)) ∧
        (∀ m, m ≠ n.toNat → AMap.find (t.core me).wmarks m = AMap.find (s.core me).wmarks m) ∧
        (∀ q, (t.core me).byte q = (s.core me).byte q) ∧
        ∀ y, y < 11 → (s.ctx me y).st = .stalled → (∃ i j k, (s.ctx me y).stall = some (.watermark i j k)) → (t.ctx me y).st = .ready) ∧
    ((s.ctx c x).st = .stalled → (s.ctx c x).stall = some (.watermark h t0 p) →
      (t0 + 2 ^ (s.ctx c x).wlim.toNat ≤ s.ticks c → Answers (.watermarkStallExpiry c x) s
        (· = (s.asIf c x).raise { code := .wait, obj := BitVec.ofNat 64 h, a := BitVec.ofNat 64 (AMap.get {} (s.core c).wmarks h).mark, b := p, addr := p })) ∧
      (s.ticks c < t0 + 2 ^ (s.ctx c x).wlim.toNat → Answers (.watermarkStallExpiry c x) s (· = s)))

/-! ## Slices, results and copies -/

/-- R248, R252 to R254, R266: the head of a store lane is performed at its slice: its bytes reach HBM and no other byte changes; a
VERSIONED word gains a version and what it held is retained under the old one; a reclaim changes no byte. Deterministic mode, an
earlier entry, an earlier load of the word, or a full version store keeps it in its lane. Stores that waited for the lane's room enter
behind what stands in it, once the oldest has been performed (R283). -/
def Sys2Proof.StoreLanesPerformInOrder : Prop :=
  ∀ (s : State) (c id : Nat) (e : LaneEntry), (s.core c).lanes.find? (fun l => l.id == id) = some e →
    let may := s.det c = false ∧ (s.core c).laneHead e = true ∧ s.loadBefore c e.ctx e.pa e.id = false ∧ e.held = none
    let room := s.roomFor e.pa (if e.both then 16 else 8)
    let left := fun (t : State) => ∃ m, (t.core c).lanes = (s.core c).lanes.filter (fun l => l.id != e.id) ++ (s.ctx c e.ctx).push.take m
    (may → e.recl = false → e.n ≤ 8 → s.narrowBad e.pa e.n = false → (e.versioned = false ∨ room = true) →
      Answers (.storeLanePerform c id) s fun t => HbmKept s t e.pa e.n ∧
        (∀ i, i < e.n → Memory.read zeroByte t.mem (e.pa + i) = (e.data >>> (8 * i)).setWidth 8) ∧
        left t ∧
        (e.versioned = true → t.ver e.pa = s.ver e.pa + 1 ∧
          (e.pa / 8, s.ver e.pa, BitVec.ofNat 64 (s.hbmNum (e.pa / 8 * 8) 8)) ∈ (t.part (sliceOf e.pa)).retained) ∧
        (e.versioned = false → ∀ w, t.ver w = s.ver w)) ∧
    (may → e.recl = true → e.ctx ≠ 15 → Answers (.storeLanePerform c id) s fun t => t.mem = s.mem ∧ left t ∧
      ∀ r, r ∈ (t.part (sliceOf e.pa)).retained ↔ r ∈ (s.part (sliceOf e.pa)).retained ∧
        ¬(r.1 = e.pa / 8 ∧ 1 ≤ (e.data.setWidth 16 - r.2.1).toNat ∧ (e.data.setWidth 16 - r.2.1).toNat < 2 ^ 15)) ∧
    (may → e.recl = false → e.versioned = true → room = false → Answers (.storeLanePerform c id) s fun t =>
      t.mem = s.mem ∧ ∃ l ∈ (t.core c).lanes, l.id = id ∧ l.held = some (s.ticks c)) ∧
    (¬may → Answers (.storeLanePerform c id) s (· = s))

/-- R249, R252, R267, R268, R284: a slice serves a load with the bytes of HBM under the core's own earlier stores, or a SEQ access
with HBM's alone, and a PLAIN line with no word in error enters the core's buffer; an `LDV` of the current or a retained version is given it, one of a version
that is gone faults VGONE, and one of a future version waits. In deterministic mode a SEQ access waits for the close, and an `LDV`
waits for no store of its core (R285), but for a reclaim that its context issued before (R286). An eviction drops one line. -/
def Sys2Proof.SlicesServeLoads : Prop :=
  ∀ (s : State) (id c n : Nat) (q : LoadReq), s.loads.find? (fun q => q.id == id) = some q →
    let may := ¬(s.det q.core = true ∧ q.attr = 2) ∧ s.loadBefore q.core q.ctx q.pa q.id = false ∧
      (s.det q.core = false → (q.want ≠ none ∨ q.attr = 2) → s.laneBefore q.core q.ctx q.pa q.id = false) ∧
      (s.det q.core = true → q.want ≠ none → ∀ l ∈ (s.core q.core).lanes, ¬(l.recl = true ∧ l.ctx = q.ctx ∧ l.pa / 8 = q.pa / 8 ∧ l.id < q.id))
    let gone := fun (t : State) => t.mem = s.mem ∧ t.loads = s.loads.filter fun o => o.id != q.id
    let gets := fun (v : Option (List Word)) (f : Option Flt) (t : State) => gone t ∧
      ∀ o ∈ (t.ctx q.core q.ctx).outs, o.id = q.id → o.vals = v ∧ o.flt = f
    let under := if q.attr = 2 then [] else (s.core q.core).view.filter fun l => decide (l.id < q.id)
    let wanted := fun (v : BitVec 16) => (s.part (sliceOf q.pa)).retained.find? fun e => e.1 == q.pa / 8 && e.2.1 == v
    (may → s.badHbm q.pa q.n = none →
      (q.want = none → Answers (.sliceLoadServe id) s fun t => gets (some [BitVec.ofNat 64 (s.numUnder under q.pa q.n)]) none t ∧
        (q.attr = 0 → s.badHbm (q.pa / 64 * 64) 64 = none → (AMap.find (t.core q.core).lbuf (q.pa / 64)).isSome = true)) ∧
      (∀ v, q.want = some v → v = s.ver q.pa → Answers (.sliceLoadServe id) s (gets (some [BitVec.ofNat 64 (s.hbmNum q.pa 8)]) none)) ∧
      (∀ v, q.want = some v → (v - s.ver q.pa).toNat ≥ 2 ^ 15 → ∀ e, wanted v = some e →
        Answers (.sliceLoadServe id) s (gets (some [e.2.2]) none)) ∧
      (∀ v, q.want = some v → (v - s.ver q.pa).toNat ≥ 2 ^ 15 → wanted v = none → Answers (.sliceLoadServe id) s
        (gets none (some { code := .vgone, obj := BitVec.ofNat 64 (sliceOf q.pa), a := (s.ver q.pa).setWidth 64, b := v.setWidth 64, d0 := BitVec.ofNat 64 q.pc }))) ∧
      (∀ v, q.want = some v → 0 < (v - s.ver q.pa).toNat → (v - s.ver q.pa).toNat < 2 ^ 15 → Answers (.sliceLoadServe id) s (· = s) ∧
        (q.start + q.limit ≤ s.ticks q.core → Answers (.ldvHoldExpiry id) s
          (gets none (some { code := .wait, obj := BitVec.ofNat 64 (sliceOf q.pa), a := (s.ver q.pa).setWidth 64, b := v.setWidth 64, d0 := BitVec.ofNat 64 q.pc }))) ∧
        (s.ticks q.core < q.start + q.limit → Answers (.ldvHoldExpiry id) s (· = s)))) ∧
    (may → ∀ w, s.badHbm q.pa q.n = some w → Answers (.sliceLoadServe id) s (gets none (some { code := .ecc, addr := q.va }))) ∧
    (¬may → Answers (.sliceLoadServe id) s (· = s)) ∧
    Answers (.lineEviction c n) s fun t => OnlyCore s t c ∧ AMap.find (t.core c).lbuf n = none ∧
      ∀ m, m ≠ n → AMap.find (t.core c).lbuf m = AMap.find (s.core c).lbuf m

/-- R254: a write that waits for version-store room is performed once an entry is free, a copy's as well as a store's, and stops its
context with VFULL at its limit, with the store not performed. -/
def Sys2Proof.HeldWritesWaitForRoom : Prop :=
  ∀ (s : State) (c id t0 : Nat) (e : LaneEntry), (s.core c).lanes.find? (fun l => l.id == id) = some e → e.held = some t0 →
    (s.det c = false → (s.core c).laneHead e = true → s.hasRoom e.pa = true → e.recl = false → e.n ≤ 8 → s.narrowBad e.pa e.n = false →
      Answers (.heldWritePerform c id) s fun t => HbmKept s t e.pa e.n ∧
        (∀ i, i < e.n → Memory.read zeroByte t.mem (e.pa + i) = (e.data >>> (8 * i)).setWidth 8) ∧
        ∃ m, (t.core c).lanes = (s.core c).lanes.filter (fun l => l.id != e.id) ++ (s.ctx c e.ctx).push.take m) ∧
    (s.det c = true ∨ (s.core c).laneHead e = false ∨ s.hasRoom e.pa = false → Answers (.heldWritePerform c id) s (· = s)) ∧
    (e.ctx ≠ 15 → s.ticks c < t0 + 2 ^ (s.ctx c e.ctx).wlim.toNat → Answers (.versionHoldExpiry c id) s (· = s)) ∧
    (e.ctx ≠ 15 → s.det c = false → s.hasRoom e.pa = true → Answers (.versionHoldExpiry c id) s (· = s)) ∧
    (e.ctx ≠ 15 → t0 + 2 ^ (s.ctx c e.ctx).wlim.toNat ≤ s.ticks c → s.det c = true ∨ s.hasRoom e.pa = false →
      (s.ctx c e.ctx).st ≠ .free → (s.ctx c e.ctx).st ≠ .halted →
      (s.ctx c e.ctx).ending = false → (s.ctx c e.ctx).deferred = none → (∀ l ∈ (s.ctx c e.ctx).push, l.id ≠ id) →
      Answers (.versionHoldExpiry c id) s fun t => t.mem = s.mem ∧ (∀ l ∈ (t.core c).lanes, l.id ≠ id) ∧
        ∃ d, (t.ctx c e.ctx).deferred = some d ∧ d.flt.code = .vfull ∧ d.flt.a = e.va &&& ~~~7#64 ∧
          d.flt.b = (s.ver e.pa + 1).setWidth 64 ∧ d.flt.d0 = BitVec.ofNat 64 e.pc) ∧
    ∀ j P r pa, s.jobs.find? (fun k => k.id == j.id && k.core == c) = some j → (∀ l ∈ (s.core c).lanes, l.id ≠ j.id) → j.held ≠ none →
      j.pieces = P :: r → P.whole = false → s.copyXlate c P.dst ⟨false, true⟩ = .ok (pa, true) →
      (s.roomFor pa 8 = true → Answers (.heldWritePerform c j.id) s (· = s.copyOn { j with held := none })) ∧
      (s.roomFor pa 8 = false → Answers (.heldWritePerform c j.id) s (· = s))

/-- R36 to R38, R320, R323: a result that has returned is written to its registers, s0 excepted, and leaves Outstanding; one that returned a
failure stops its context before its next bundle, and the deferred fault is then taken as a record of class 2, once its core is not
frozen. A result that has not returned writes nothing. -/
def Obligations.ResultsReturnToTheirContext : Prop :=
  ∀ (s : State) (c x id : Nat) (o : Outst), s.findOut id = some (c, x, o) → (∀ e p, o.kind ≠ .pm e p) →
    let k := s.ctx c x; let live := k.st ≠ .free ∧ k.st ≠ .halted
    let left := fun (t : State) => (t.ctx c x).outs = k.outs.filter fun q => q.id != id
    (o.vals = none → o.flt = none → Answers (.variableLatencyResult id) s (· = s)) ∧
    (∀ d v, o.flt = none → live → k.ending = false → o.dests = [64 + d] → o.vals = some [v] → d ≠ 0 → d ≠ 63 →
      Answers (.variableLatencyResult id) s fun t => OnlyCore s t c ∧ left t ∧ AMap.get 0 (t.ctx c x).s d = v ∧
        (∀ r, r ≠ d → AMap.get 0 (t.ctx c x).s r = AMap.get 0 k.s r) ∧ ∀ y, y ≠ x → t.ctx c y = s.ctx c y) ∧
    (∀ v, o.flt = none → live → o.dests = [64] → o.vals = some [v] → Answers (.variableLatencyResult id) s fun t =>
      OnlyCore s t c ∧ left t ∧ (t.ctx c x).s = k.s) ∧
    (∀ f, o.flt = some f → live → k.ending = false → k.deferred = none → Answers (.variableLatencyResult id) s fun t =>
      OnlyCore s t c ∧ left t ∧ (t.ctx c x).deferred = some ⟨f⟩ ∧ (t.ctx c x).s = k.s) ∧
    (∀ f, k.deferred = some ⟨f⟩ → (s.core c).frozen = false → Answers (.deferredFault c x) s
      (· = s.takeFault c x (if k.st = .waiting then k.pc + 4 else k.pc) 2 f)) ∧
    (k.deferred = none ∨ (s.core c).frozen = true → Answers (.deferredFault c x) s (· = s))

/-- R255, R290, R291: `COPY` makes a GET, PUT or GCOPY request by the forms of its addresses, and `COPYC` a MOVE request to the cluster
streamer of the partition that both pool names name; each goes to its streamer with the completion counter in its payload. A
form that no kind takes faults PERM, reason 75 (KIND). -/
def Sys2Proof.CopyRequestsGoToTheirStreamer : Prop :=
  ∀ (s : State) (d a b : BitVec 6), let src := s.rs d; let dst := s.rs a; let ctl := s.rs b; let c := s.cur.core
    let good := ctlBad ctl = false ∧ poolNameBad src = false ∧ poolNameBad dst = false
    let fine := good ∧ src.toNat % 8 = 0 ∧ dst.toNat % 8 = 0 ∧ s.ccntOk = .ok () ∧ s.inRange c (s.rel c) = true ∧ s.rel c < 4096
    let sends := fun (kind dest : Nat) (t : State) => ∃ p, t.net = s.net ++ [p] ∧ p.src = c ∧ p.srcCtx = s.cur.ctx ∧ t.cores = s.cores ∧ t.mem = s.mem ∧
      p.dst = agent (s.phys c (dest / 64 * 64) / 64) (if kind < 0x40 then 0 else 1) ∧
      p.body = .request (header (dest / 64 * 64) 0 (s.rel c) (bits ctl 56 6) kind 4 0) [src, dst, setField ctl 56 6 0, s.src.ccnt]
    let bad := fun (w : Word) => s.raise { code := .perm, a := 75, b := w }
    (fine → isLocal src = false → isLocal dst = true → Answers (.copy d a b) s (sends 0x20 (s.rel c))) ∧
    (fine → isLocal src = true → isLocal dst = false → Answers (.copy d a b) s (sends 0x21 (s.rel c))) ∧
    (fine → isLocal src = false → isLocal dst = false → src ≠ dst → Answers (.copy d a b) s (sends 0x22 (s.rel c))) ∧
    (good → isLocal src = isLocal dst → (isLocal src = false → src = dst) → Answers (.copy d a b) s (· = bad dst)) ∧
    (fine → isLocal src = true → isLocal dst = true → poolCore src / 64 = poolCore dst / 64 → s.inRange c (poolCore src) = true →
      Answers (.copyc d a b) s (sends 0x40 (poolCore src))) ∧
    (good → isLocal src = false → Answers (.copyc d a b) s (· = bad src)) ∧
    (good → isLocal src = true → isLocal dst = false ∨ poolCore src / 64 ≠ poolCore dst / 64 → Answers (.copyc d a b) s (· = bad dst)) ∧
    (ctlBad ctl = true → Answers (.copy d a b) s (· = s.raise { code := .perm, a := 69, b := ctl }))

/-- R229, R261, R291: `HALO` of a member of a group with a mesh, whose block lies in its scratchpad, sends a HALO request to its cluster
streamer, which then has, for each mesh neighbour, the runs of that side; with no neighbour the copy is done at once. Row 0 goes to the N
neighbour's row H, row H - 1 to the S neighbour's row -1, the first ew bytes of each row behind the W neighbour's, the last ew bytes before the E
neighbour's, and the last run of a direction adds to the receiver's halo counter of the facing side. That a row below ew is sent from its start is
the model's choice (log 85). -/
def Obligations.HaloSendsBordersToMeshNeighbours : Prop :=
  ∀ (s : State) (d a b : BitVec 6) (id : Nat) (p : Packet) (h : Word) (ws : List Word), let c := s.cur.core
    let B := s.rs d; let w1 := s.rs a; let e := s.rs b; let k := readBlock w1
    let ew := e.toNat % 65536
    (bits e 16 40 = 0 → bits e 62 2 = 0 → B.toNat < 2 ^ 20 → bits w1 60 4 = 0 → k.bad ew = false → B.toNat % 8 = 0 →
      s.isMember c k.g = true → (s.group c k.g).meshW ≠ 0 → (s.group c k.g).meshH ≠ 0 →
      B.toNat + (k.H - 1) * k.P + k.R ≤ s.myCore.spSize → s.ccntOk = .ok () → s.inRange c (s.rel c) = true → s.rel c < 4096 →
      Answers (.halo d a b) s fun t => ∃ q, t.net = s.net ++ [q] ∧ t.cores = s.cores ∧ t.mem = s.mem ∧ q.dst = agent (s.phys c (s.rel c / 64 * 64) / 64) 1 ∧
        q.body = .request (header (s.rel c / 64 * 64) 0 (s.rel c) (bits e 56 6) 0x41 4 0)
          [1#64 <<< 63 ||| BitVec.ofNat 64 (s.rel c) <<< 40 ||| B, w1, BitVec.ofNat 64 ew, s.src.ccnt]) ∧
    (s.deliverable id = some p → p.body = .request h ws → hKind h = 0x41 → ws.length = 4 →
      let j : CopyJob := { id := p.id, kind := 0x41, core := p.src, ctx := p.srcCtx, hdr := h, cnt := ws.getD 3 0, src := ws.getD 0 0, dst := ws.getD 1 0, tile := false, wm := none }
      let u := s.sink p; let m := readBlock (ws.getD 1 0)
      u.haloBad j m (ws.getD 1 0) (ws.getD 2 0) = none →
      let runs := u.haloPieces j m (bits (ws.getD 2 0) 0 16)
      let G := u.group j.core m.g; let me := u.rel j.core; let nb := G.neighbour me; let rank := fun (x : Nat) => (G.members.filter fun y => decide (y < x)).length
      (G.members.Nodup → 0 < G.meshW → me ∈ G.members → ∀ side e, side < 4 → (nb side = some e ↔ e ∈ G.members ∧ (side = 0 → rank e + G.meshW = rank me) ∧
        (side = 1 → rank me % G.meshW + 1 < G.meshW ∧ rank e = rank me + 1) ∧ (side = 2 → rank me / G.meshW + 1 < G.meshH ∧ rank e = rank me + G.meshW) ∧
        (side = 3 → 0 < rank me % G.meshW ∧ rank e + 1 = rank me))) ∧
      (let B : Int := (bits j.src 0 20 : Nat); let ew := bits (ws.getD 2 0) 0 16
        let run := fun (src dst : Int) (e len : Nat) (cell : Option Nat) => ({ src := 1#64 <<< 63 ||| BitVec.ofNat 64 me <<< 40 ||| BitVec.ofInt 64 src, dst := 1#64 <<< 63 ||| BitVec.ofNat 64 e <<< 40 ||| BitVec.ofInt 64 (dst % 2 ^ 20), len := len, halo := cell.map fun n => (u.phys j.core e, n) } : Piece)
        ∀ P, P ∈ runs ↔ ∃ e, (nb 0 = some e ∧ P = run B (B + m.H * m.P) e m.R (some 2046)) ∨
          (nb 2 = some e ∧ P = run (B + (m.H - 1 : Nat) * m.P) (B - m.P) e m.R (some 2044)) ∨
          (ew ≠ 0 ∧ ∃ r, r < m.H ∧
            ((nb 3 = some e ∧ P = run (B + r * m.P) (B + r * m.P + m.R) e ew (if r + 1 = m.H then some 2045 else none)) ∨
             (nb 1 = some e ∧ P = run (B + r * m.P + (m.R - ew : Nat)) (B + r * m.P - ew) e ew (if r + 1 = m.H then some 2047 else none))))) ∧
      (runs ≠ [] → Answers (.haloRequest id) s fun t => t.jobs = s.jobs ++ [{ j with dst := 0, pieces := runs }] ∧ t.cores = s.cores) ∧
      (runs = [] → Answers (.haloRequest id) s (· = u.copyDone { j with dst := 0 })))

/-- R255 to R258: a GET, PUT, GCOPY or MOVE request whose checks pass becomes a copy at its streamer, with one run of bytes still to
move (none yet for a tile) and, where source and destination meet, the source read ahead. -/
def Sys2Proof.StreamersTakeCopyRequests : Prop :=
  ∀ (s : State) (id : Nat) (p : Packet) (h : Word) (ws : List Word), s.deliverable id = some p → p.body = .request h ws → ws.length = 4 →
    let w2 := ws.getD 2 0; let len := bits w2 0 40; let u := s.sink p
    let j : CopyJob := { id := p.id, kind := hKind h, core := p.src, ctx := p.srcCtx, hdr := h, cnt := ws.getD 3 0, src := ws.getD 0 0, dst := ws.getD 1 0, tile := w2.getLsbD 55, wm := if w2.getLsbD 51 then some (bits w2 52 3) else none }
    u.copyBad j w2 = none →
    let starts := fun (t : State) => ∃ l, t.jobs = s.jobs ++ [l] ∧ t.mem = s.mem ∧ t.cores = s.cores ∧ t.net = s.net.filter (fun q => q.id != p.id) ∧
      l = { j with pieces := l.pieces, snap := l.snap } ∧
      (j.tile = false → l.pieces = [{ src := j.src, dst := j.dst, len := len }] ∧
        l.snap = if u.meet j.core j.src j.dst len then u.readAhead j j.src (len / 8) else []) ∧
      (j.tile = true → l.pieces = [] ∧ l.snap = [])
    (hKind h = 0x20 → Answers (.get id) s starts) ∧ (hKind h = 0x21 → Answers (.put id) s starts) ∧
    (hKind h = 0x22 → Answers (.gcopy id) s starts) ∧ (hKind h = 0x40 → Answers (.move id) s starts)

/-- R257, R260, R274: a run of one word. What a copy reads are the bytes of a pool or of HBM, as they stand or as they stood at a moment since
its fork; what it writes in free mode changes those bytes of a
pool or of HBM and no other (in deterministic mode it reads what the close left of HBM, under its core's own earlier stores: R140, R279);
the watermark channel that the request names advances past a write to a scratchpad; and the copy ends with
its counter add where nothing is left. A run that meets its source reads ahead what is mapped of it before each write (R258). -/
def Sys2Proof.ABeatMovesTheBytesOfItsRun : Prop :=
  ∀ (s : State) (j : CopyJob) (P : Piece) (bs : List Byte), let e := s.phys j.core (poolCore P.dst); let b := bits P.dst 0 20
    (isLocal P.src = true → P.src.toNat % 8 = 0 → s.badIn (s.phys j.core (poolCore P.src)) (bits P.src 0 20) 8 = none →
      ∃ k, PoolSeen s j.id (s.phys j.core (poolCore P.src)) k ∧ s.copyRead j P.src 8 = .ok (k.bytes (bits P.src 0 20) 8)) ∧
    (∀ pa v, isLocal P.src = false → s.copyXlate j.core P.src ⟨true, false⟩ = .ok (pa, v) → s.badHbm pa 8 = none →
      (s.det j.core = true → s.copyRead j P.src 8 = .ok (toBytes 8 (s.numUnder (s.forked j) pa 8))) ∧
      (s.det j.core = false → ∃ m, HbmSeen s j.id m ∧ s.copyRead j P.src 8 = .ok (toBytes 8 (Memory.num zeroByte m pa 8)))) ∧
    (isLocal P.dst = true → s.storeEcc e b bs.length = none → ∃ u, s.copyWrite j P.dst bs = .ok u ∧ PoolKept s u e b bs.length ∧
      (∀ i, i < bs.length → (u.core e).byte (b + i) = bs.getD i 0) ∧ u.mem = s.mem ∧ ∀ d, d ≠ e → u.core d = s.core d) ∧
    (∀ pa v, isLocal P.dst = false → s.copyXlate j.core P.dst ⟨false, true⟩ = .ok (pa, v) → s.narrowBad pa bs.length = false → s.det j.core = false →
      (v = false ∨ s.roomFor pa bs.length = true) → ∃ u, s.copyWrite j P.dst bs = .ok u ∧ HbmKept s u pa bs.length ∧
      (∀ i, i < bs.length → Memory.read zeroByte u.mem (pa + i) = bs.getD i 0) ∧ u.cores = s.cores) ∧
    (∀ u, s.jobs.find? (fun k => k.id == j.id) = some j → j.pieces = [P] → P.len = 8 → P.dst.toNat % 8 = 0 → P.halo = none → j.held = none →
      j.page = none → j.snap = [] → j.part = 0 → (j.tile = false ∨ j.done ≠ 0) → (j.tile = true ∨ s.meet j.core P.src P.dst 8 = false) → (isLocal P.dst = true → (s.core e).clearing = false) →
      s.copyRead j P.src 8 = .ok bs → bs.length = 8 → s.copyWrite j P.dst bs = .ok u →
      let v := match (if isLocal P.src then none else (s.copyXlate j.core P.src ⟨true, false⟩).toOption) with
        | some (pa, _) => u.count (sliceOf pa) 4 8
        | none => u
      let w := match j.wm with
        | some n => if isLocal P.dst ∧ b < accBase then v.advanceMark e n b 8 else v
        | none => v
      (w.copyHeld j = false → Answers (.copyBeat j.id) s (· = w.copyDone { j with done := j.done + 8, pieces := [] })) ∧
      (w.copyHeld j = true → Answers (.copyBeat j.id) s (· = w.setJob { j with done := j.done + 8, pieces := [] })))

/-! ## Messages, answers and atomics -/

/-- R29, R174, R177, R189, R192, R193: `SEND` of a MSG or TAGGED transmits its header and the payload words in the scratchpad, waits for
what its release covers, and reserves a slot of its reply channel; a full window stalls it, the slot staying reserved for it until it
issues again; a full ring faults WAIT. A request to a
streamer or a Flazar port reserves nothing. Other kinds, more than seven words and an index out of range fault PERM. -/
def Obligations.SendTransmitsItsMessage : Prop :=
  ∀ (s : State) (a b : BitVec 6), let h := s.rs a; let x := s.rs b; let c := s.cur.core; let k := hKind h; let n := hWords h
    let ch := s.myCore.chan (hRchan h); let dst := s.phys c (hDest h)
    let payload := n = 0 ∨ (x.toNat % 8 = 0 ∧ inScratch s.myCore x (8 * n) = true ∧ s.ownAtoms (offOf x) (8 * n) = [] ∧ s.myCore.marked (offOf x) (8 * n) = none ∧
      s.badIn c (offOf x) (8 * n) = none)
    let good := s.inRange c (hDest h) = true ∧ n ≤ 7 ∧ payload
    let words := fun (ws : List Word) => ws.length = n ∧ ∀ i, i < n → ws.getD i 0 = s.myCore.word (offOf x + 8 * i)
    let carries := fun (t : State) (p : Packet) => t.net = s.net ++ [p] ∧ p.src = c ∧ p.srcCtx = s.cur.ctx ∧ p.scope = scopeTo c p.dst ∧
      p.waits = s.covered c s.cur.ctx p.scope ∧ t.mem = s.mem
    let has := s.me.resv = some (hRchan h); let new := if s.me.resv = some (hRchan h) then 0 else 1
    let bad := fun (i v : Nat) => Answers (.send a b) s (· = s.raise { code := .perm, a := BitVec.ofNat 64 i, b := BitVec.ofNat 64 v })
    (k = 0 ∨ k = 3 → good → hRcore h = s.rel c →
      (has ∨ ch.used < ch.depth → s.myCore.awaiting < s.myCore.window → Answers (.send a b) s fun t =>
        (∃ p ws, carries t p ∧ p.dst = dst ∧ p.body = .words h ws ∧ words ws) ∧ (∀ d, d ≠ c → t.core d = s.core d) ∧
        t.core c = { s.myCore with channels := (t.core c).channels, ctxs := (t.core c).ctxs, awaiting := s.myCore.awaiting + 1 } ∧
        t.me = { s.me with resv := none } ∧ (∀ y, y ≠ s.cur.ctx → t.ctx c y = s.ctx c y) ∧
        (t.core c).chan (hRchan h) = { ch with reserved := ch.reserved + new } ∧
        ∀ g, g ≠ hRchan h → (t.core c).chan g = s.myCore.chan g) ∧
      (has ∨ ch.used < ch.depth → s.myCore.window ≤ s.myCore.awaiting → Answers (.send a b) s fun t => t.me.st = .stalled ∧
        t.me.stall = some .window ∧ t.me.resv = some (hRchan h) ∧ t.net = s.net ∧ t.mem = s.mem ∧
        (t.core c).chan (hRchan h) = { ch with reserved := ch.reserved + new }) ∧
      (¬has → ch.depth ≤ ch.used → Answers (.send a b) s (· = s.raise { code := .wait, obj := BitVec.ofNat 64 (hRchan h), a := BitVec.ofNat 64 ch.used, b := BitVec.ofNat 64 ch.depth }))) ∧
    (0x20 ≤ k → k ≤ 0x5F → good → hDest h % 64 = 0 → s.inRange c (hRcore h) = true → Answers (.send a b) s fun t => t.cores = s.cores ∧
      ∃ p ws, carries t p ∧ p.dst = agent (dst / 64) (if k < 0x40 then 0 else 1) ∧ p.body = .request h ws ∧ words ws) ∧
    (0x60 ≤ k → k ≤ 0x6F → good → c % 64 = 48 ∨ c % 64 = 49 → hDest h = s.rel c → s.inRange c (hRcore h) = true →
      Answers (.send a b) s fun t => t.cores = s.cores ∧
        ∃ p ws, carries t p ∧ p.dst = agent (c / 64) (c % 64 - 46) ∧ p.body = .request h ws ∧ words ws) ∧
    (s.inRange c (hDest h) = false → bad 52 (hDest h)) ∧
    (s.inRange c (hDest h) = true → ¬(k = 0 ∨ k = 3 ∨ (0x20 ≤ k ∧ k ≤ 0x6F)) → bad 20 k) ∧
    (s.inRange c (hDest h) = true → k = 0 ∨ k = 3 → 7 < n → bad 16 n) ∧
    (k = 0 ∨ k = 3 → good → hRcore h ≠ s.rel c → bad 34 (hRcore h))

/-- R170, R175, R179, R181: a MSG of the same package that reaches a bound channel with room enters its next free slot, header first; else
it is answered: no such core, channel not bound, or ring full, in that order. A slot freed in the same cycle takes none (R211). -/
def Sys2Proof.MessagesEnterTheirRing : Prop :=
  ∀ (s : State) (id : Nat) (p : Packet) (h : Word) (ws : List Word), s.arrivingWords id = some (p, h, ws) →
    hKind h = 0 → p.dst < 4096 → p.dst % 64 ≠ 63 → isEnvelope p h = false → portOf p.src = none → ws.length ≤ 7 →
    let c := p.dst; let g := hDchan h; let ch := (s.core c).chan g
    let refused := fun (kind : Nat) => Answers (.msgArrival id) s fun t => t.cores = s.cores ∧ t.mem = s.mem ∧
      ∃ r, t.net = s.net.filter (fun q => q.id != id) ++ [r] ∧ r.src = c ∧ r.dst = p.src ∧
        r.body = .words (header (hRcore h) (hRchan h) (s.rel c) g kind 1 (hTag h)) [h]
    (s.absent c = true → refused 0x0F) ∧
    (s.absent c = false → ch.bound = false → refused 0x0E) ∧
    (s.absent c = false → ch.bound = true → ch.room = false → refused 0x02) ∧
    (s.absent c = false → ch.bound = true → ch.room = true → ∀ i, ch.free = some i → Answers (.msgArrival id) s fun t =>
      t.net = s.net.filter (fun q => q.id != id) ∧ t.mem = s.mem ∧ (∀ d, d ≠ c → t.core d = s.core d) ∧
      (∀ j, j < ws.length + 1 → (t.core c).word (ch.slotAddr i + 8 * j) = (h :: ws).getD j 0) ∧ PoolKept s t c (ch.slotAddr i) 64 ∧
      (∃ e, AMap.find ((t.core c).chan g).slots i = some e ∧ e.kind = .msg ∧ e.taken = false ∧ e.hdr = h ∧ e.scope = p.scope) ∧
      ((t.core c).chan g).wr = (i + 1) % ch.depth ∧ ∀ m, m ≠ g → (t.core c).chan m = (s.core c).chan m)

/-- R170, R177, R181, R186, R189, R204: a reply, the data of a block read and every refusal enter the slot that their request reserved, and the
request leaves the window; a refused atomic's register receives all ones. -/
def Sys2Proof.RepliesTakeTheirReservedSlot : Prop :=
  ∀ (s : State) (id : Nat) (p : Packet),
    let c := p.dst
    (∀ h ws i, s.arrivingWords id = some (p, h, ws) → c < 4096 → c % 64 ≠ 63 → s.absent c = false → portOf p.src = none → ws.length ≤ 7 →
      let g := hDchan h; let ch := (s.core c).chan g
      ch.free = some i → 1 ≤ ch.reserved → 1 ≤ (s.core c).awaiting →
      let enters := fun (kind : SlotKind) (t : State) => t.net = s.net.filter (fun q => q.id != id) ∧ (∀ d, d ≠ c → t.core d = s.core d) ∧
        (∀ j, j < ws.length + 1 → (t.core c).word (ch.slotAddr i + 8 * j) = (h :: ws).getD j 0) ∧ PoolKept s t c (ch.slotAddr i) 64 ∧
        (∃ e, AMap.find ((t.core c).chan g).slots i = some e ∧ e.kind = kind ∧ e.taken = false) ∧
        ((t.core c).chan g).reserved + 1 = ch.reserved ∧ (t.core c).awaiting + 1 = (s.core c).awaiting
      (hKind h = 0x01 → Answers (.replyArrival id) s (enters .reply)) ∧ (hKind h = 0x08 → Answers (.rddata id) s (enters .reply)) ∧
      (hKind h = 0x02 → Answers (.refusedReply id) s (enters .refusal)) ∧ (hKind h = 0x0D → Answers (.refusedHalted id) s (enters .refusal)) ∧
      (hKind h = 0x0E → Answers (.refusedUnbound id) s (enters .refusal)) ∧ (hKind h = 0x0F → Answers (.refusedNocore id) s (enters .refusal))) ∧
    (∀ x out h, s.arriving id = some p → p.body = .refusedAtom x out h → Answers (.refusedHalted id) s fun t =>
      t.net = s.net.filter (fun q => q.id != p.id) ∧ t.mem = s.mem ∧
      ∀ o ∈ (t.ctx c x).outs, o.id = out → o.vals = some [BitVec.allOnes 64] ∧ o.flt = none)

/-- R29, R174, R194: `REPLY` answers the MSG whose slot it names, once: it transmits a REPLY of one word to the channel that the message
named, under its tag, and marks the slot. The answer to a message of another package leaves by the port that the message came by, with its
route word behind the payload and a release at system scope (R175, R192, R269). A slot that holds no unanswered message faults PERM, reason 71. -/
def Sys2Proof.RepliesAnswerTheirMessage : Prop :=
  ∀ (s : State) (a b : BitVec 6) (h i : Nat) (e : Slot), let x := s.rs a; let c := s.cur.core; let q := s.myCore.word (offOf x)
    let bad := s.raise { code := .perm, a := 71, b := x }
    (x.toNat % 64 = 0 → isLocal x = true → s.myCore.slotAt (offOf x) = some (h, i, e) → e.kind = .msg → e.answered = false → e.port = none →
      s.ownAtoms (offOf x) 8 = [] → s.myCore.marked (offOf x) 8 = none → s.badIn c (offOf x) 8 = none → s.inRange c (hRcore q) = true → s.rel c < 4096 →
      Answers (.reply a b) s fun t => t.mem = s.mem ∧ (∀ d, d ≠ c → t.core d = s.core d) ∧ (∀ p, (t.core c).byte p = (s.core c).byte p) ∧
        AMap.find ((t.core c).chan h).slots i = some { e with answered := true } ∧
        ∃ p, t.net = s.net ++ [p] ∧ p.src = c ∧ p.srcCtx = s.cur.ctx ∧ p.dst = s.phys c (hRcore q) ∧
          p.waits = s.covered c s.cur.ctx (scopeTo c p.dst) ∧ p.body = .words (header (hRcore q) (hRchan q) (s.rel c) (hDchan q) 0x01 1 (hTag q)) [s.rs b]) ∧
    (∀ g, x.toNat % 64 = 0 → isLocal x = true → s.myCore.slotAt (offOf x) = some (h, i, e) → e.kind = .msg → e.answered = false → e.port = some g →
      s.ownAtoms (offOf x) 8 = [] → s.myCore.marked (offOf x) 8 = none → s.badIn c (offOf x) 8 = none → s.rel c < 4096 →
      Answers (.reply a b) s fun t => t.mem = s.mem ∧ (∀ d, d ≠ c → t.core d = s.core d) ∧
        AMap.find ((t.core c).chan h).slots i = some { e with answered := true } ∧
        ∃ p, t.net = s.net ++ [p] ∧ p.src = c ∧ p.srcCtx = s.cur.ctx ∧ p.dst = g ∧ p.scope = .sys ∧
          p.waits = s.covered c s.cur.ctx .sys ++ s.atPorts c s.cur.ctx ∧
          p.body = .words (header (hRcore q) (hRchan q) (s.rel c) (hDchan q) 0x01 1 (hTag q)) [s.rs b, s.route e.pkg]) ∧
    (x.toNat % 64 ≠ 0 → Answers (.reply a b) s (· = s.raise { code := .align, a := x })) ∧
    (x.toNat % 64 = 0 → isLocal x = false ∨ s.myCore.slotAt (offOf x) = none → Answers (.reply a b) s (· = bad)) ∧
    (x.toNat % 64 = 0 → isLocal x = true → s.myCore.slotAt (offOf x) = some (h, i, e) → e.kind ≠ .msg ∨ e.answered = true →
      Answers (.reply a b) s (· = bad))

/-- R182, R185, R195: a TAGGED message lands in the first posted buffer that takes its sender and tag, with a counter add, which takes its place among the adds of the cycle where these
are still to come and no quantum begins in it, and a RELEASE; with none it
waits in the overflow queue, and is refused once 32 wait. `RECVP` takes the first waiting message that it matches, or posts its
buffer; its cancel removes one posted receive. That a `RECVP` of a wrong form faults PERM before its ALIGN and POOL checks is the model's choice
(log 28). -/
def Obligations.TaggedMessagesMeetPostedReceives : Prop :=
  ∀ (s : State) (id : Nat) (p : Packet) (h : Word) (ws : List Word) (a b : BitVec 6),
    let quiet := fun (c n : Nat) => (s.cell c n).armed = false ∧ (s.cell c n).value ≠ BitVec.allOnes 64
    let lands := fun (c : Nat) (r : Posted) (from_ : Nat) (h : Word) (ws : List Word) (t : State) =>
      (∀ j, j < ws.length + 1 → (t.core c).word (r.buf + 8 * j) = (h :: ws).getD j 0) ∧ PoolKept s t c r.buf 64 ∧
      (s.quantumStart c = true ∨ .stage 3 ∉ s.work → (t.cell c r.cnt).value = (s.cell c r.cnt).value + 1) ∧
      (s.quantumStart c = false → .stage 3 ∈ s.work → t.cell c r.cnt = s.cell c r.cnt ∧ ∃ q ∈ t.net, q.src = c ∧ q.dst = c ∧ q.released = true ∧
        q.waits = [] ∧ ∃ x, q.body = .cadd r.cnt 1 (BitVec.ofNat 12 from_) x 0) ∧
      ∃ q ∈ t.net, q.src = c ∧ q.dst = s.phys c (hRcore h) ∧ q.body = .release (hRchan h) none
    (s.arrivingWords id = some (p, h, ws) → hKind h = 3 → p.dst % 64 ≠ 63 → p.dst < 4096 → isEnvelope p h = false → portOf p.src = none →
      ws.length ≤ 7 → hWords h = ws.length → s.absent p.dst = false → let c := p.dst; let k := s.core c
      (∀ r, k.posted.find? (fun r => r.takes (s.rel p.src) (hTag h)) = some r → quiet c r.cnt → Answers (.taggedArrival id) s fun t =>
        lands c r (s.rel p.src) h ws t ∧ (t.core c).posted = k.posted.erase r) ∧
      (k.posted.find? (fun r => r.takes (s.rel p.src) (hTag h)) = none → k.overflow.length < 32 → Answers (.taggedArrival id) s fun t =>
        OnlyCore { s with net := t.net, parts := t.parts } t c ∧ t.core c = { k with overflow := k.overflow ++ [p] }) ∧
      (k.posted.find? (fun r => r.takes (s.rel p.src) (hTag h)) = none → 32 ≤ k.overflow.length → Answers (.taggedArrival id) s fun t =>
        (t.core c).overflow = k.overflow ∧ ∃ q ∈ t.net, q.dst = p.src ∧
          q.body = .words (header (hRcore h) (hRchan h) (s.rel c) (hDchan h) 0x02 1 (hTag h)) [h])) ∧
    (let x := s.rs a; let w := s.rs b; let c := s.cur.core; let k := s.myCore
      let r : Posted := ⟨offOf x, bits w 32 11, w.getLsbD 31, w.getLsbD 30, BitVec.ofNat 12 (bits w 16 12), BitVec.ofNat 16 (bits w 0 16)⟩
      let mine := fun (q : Packet) => match q.body with
        | .words h _ => r.takes (s.sender q h) (hTag h)
        | _ => false
      let form := bits w 43 21 = 0 ∧ bits w 28 2 = 0 ∧ bits w 32 11 ≤ 2043
      let good := form ∧ x.toNat % 64 = 0 ∧ inScratch k x 64 = true
      (good → k.posted.length < 64 → k.overflow.find? mine = none → Answers (.recvp a b) s fun t =>
        OnlyCore s t c ∧ t.core c = { k with posted := k.posted ++ [r] }) ∧
      (good → k.posted.length < 64 → ∀ q g us, k.overflow.find? mine = some q → q.body = .words g us → portOf q.src = none → us.length ≤ 7 →
        hWords g = us.length → quiet c r.cnt → Answers (.recvp a b) s fun t => lands c r (s.rel q.src) g us t ∧
          (t.core c).posted = k.posted ∧ (t.core c).overflow = k.overflow.filter fun o => o.id != q.id) ∧
      (good → 64 ≤ k.posted.length → Answers (.recvp a b) s (· = s.raise { code := .wait, obj := 64, a := 64, b := 64 })) ∧
      (¬form → Answers (.recvp a b) s (· = s.raise { code := .perm, a := 69, b := w })) ∧
      (form → x.toNat % 64 ≠ 0 → Answers (.recvp a b) s (· = s.raise { code := .align, a := x })) ∧
      (form → x.toNat % 64 = 0 → inScratch k x 64 = false → Answers (.recvp a b) s (· = s.raise { code := .pool, a := x })) ∧
      Answers (.recvpCancel a) s fun t => OnlyCore s t c ∧
        t.core c = { k with posted := k.posted.eraseP fun q => isLocal x && q.buf == offOf x })

/-- R177, R178, R180, R246, R296, R354: a fault record enters the channel that it names; RELEASE ends a reservation and takes its request
out of the window; the station core answers a MSG that is no host report with REFUSED_UNBOUND; a host report, and a REPLY on its
ch60, become one completion entry each, in the order in which they came, and the station holds one that comes while the ring is full; the RELEASE of a report goes
back the way the report came. The layout of the entry of a REPLY on ch60 is the model's choice (log 69), and so is that a ring is full by the
entries that CQHEAD has not passed (log 25). -/
def Sys2Proof.RecordsReleasesAndHostReports : Prop :=
  ∀ (s : State) (id : Nat) (p : Packet), let c := p.dst
    (∀ g r i, s.arriving id = some p → p.body = .fault g r false → r.length = 8 → let ch := (s.core c).chan g
      (s.core c).frozen = false → (s.part (c / 64)).down = false → ch.bound = true → ch.room = true → ch.free = some i →
      Answers (.faultRecord id) s fun t => t.net = s.net.filter (fun q => q.id != p.id) ∧ PoolKept s t c (ch.slotAddr i) 64 ∧
        (∀ j, j < 8 → (t.core c).word (ch.slotAddr i + 8 * j) = r.getD j 0) ∧
        ∃ e, AMap.find ((t.core c).chan g).slots i = some e ∧ e.kind = .fault) ∧
    (∀ g, s.arriving id = some p → p.body = .release g none → 1 ≤ ((s.core c).chan g).reserved → 1 ≤ (s.core c).awaiting →
      Answers (.releaseArrival id) s fun t => OnlyCore { s with net := t.net, parts := t.parts, free := t.free } t c ∧
        ((t.core c).chan g).reserved + 1 = ((s.core c).chan g).reserved ∧ (t.core c).awaiting + 1 = (s.core c).awaiting ∧
        (∀ m, m ≠ g → (t.core c).chan m = (s.core c).chan m) ∧ ∀ x, t.ctx c x = s.ctx c x) ∧
    (∀ h ws l, s.arrivingWords id = some (p, h, ws) → isReport p h = true → s.launchOf c = some l → let q := s.queue l.q
      let e := [5#64 ||| BitVec.ofNat 64 (s.sender p h / 64) <<< 16, h] ++ (ws.take (hWords h) ++ List.replicate 6 0).take 6
      let first := s.reportBefore p = false
      (q.held = [] → q.ring.length < q.cap → first → Answers (.hostReport id) s fun t => t.mem = s.mem ∧
        (t.queue l.q).ring = q.ring ++ [e] ∧ (t.queue l.q).held = [] ∧ t.cores = s.cores ∧
        (portOf p.src = none → ∃ r ∈ t.net, r.dst = s.phys c (hRcore h) ∧ r.body = .release (hRchan h) none) ∧
        (portOf p.src ≠ none → ∃ r ∈ t.net, r.dst = p.src ∧ ∃ w, r.body = .words (header (hRcore h) (hRchan h) (s.rel c) (hDchan h) 0x10 0 (hTag h)) [w])) ∧
      (¬(q.held = [] ∧ q.ring.length < q.cap ∧ first) → Answers (.hostReport id) s fun t => t.cores = s.cores ∧ t.mem = s.mem ∧ t.queues = s.queues ∧
        (p.came ≠ none → t = s) ∧ (p.came = none → t.net = s.net.map (fun y => if y.id = p.id then { y with came := some s.uid } else y) ∧ s.uid < t.uid))) ∧
    (s.reportBefore p = true ↔ ∃ y ∈ s.net, y.dst = p.dst ∧ ∃ u, y.came = some u ∧ ∀ v, p.came = some v → u < v) ∧
    (∀ h ws, s.arriving id = some p → p.body = .words h ws → c % 64 = 63 → c < 4096 → hKind h = 0 ∨ hKind h = 3 →
      isReport p h = false → Answers (.stationMessage id) s fun t => t.cores = s.cores ∧ t.mem = s.mem ∧
        ∃ r ∈ t.net, r.dst = p.src ∧ r.body = .words (header (hRcore h) (hRchan h) (s.rel c) (hDchan h) 0x0E 1 (hTag h))
          (h :: if portOf p.src = none then [] else [s.route (routeFrom (ws.getD (hWords h) 0))])) ∧
    (∀ h ws, s.arrivingWords id = some (p, h, ws) → c % 64 = 63 → c < 4096 → hKind h = 1 → hRchan h = 60 → let n := s.hostQueue (c / 64)
      let q := s.queue n
      q.held = [] → q.ring.length < q.cap → s.reportBefore p = false → Answers (.replyArrival id) s fun t => t.cores = s.cores ∧ t.mem = s.mem ∧
        (t.queue n).ring = q.ring ++ [[5#64 ||| BitVec.ofNat 64 (s.rel p.src / 64) <<< 16, h] ++ (ws.take (hWords h) ++ List.replicate 6 0).take 6])

/-- What an atomic makes of the old value x, with sb = b and sd = d (R196). -/
def Sys2Proof.atomResult (i : Nat) (x b d : Word) : Word :=
  match i with
  | 0 => x + b
  | 1 => if x.toInt < b.toInt then b else x
  | 2 => if b.toInt < x.toInt then b else x
  | 3 => if x.toNat < b.toNat then b else x
  | 4 => if b.toNat < x.toNat then b else x
  | 5 => b
  | 6 => if x = d then b else x
  | 7 => x ||| b
  | 8 => x &&& b
  | 9 => x ^^^ b
  | _ => BitVec.ofNat 64 (fmt32.minmaxB true (x.toNat % 2 ^ 32) (b.toNat % 2 ^ 32))

/-- R36, R192, R196: every atomic on an aligned word of the scratchpad, or of a page it may read and write, asks the owner of the word for one
result and goes on, or, on a SEQ page, waits until it has been performed (R251); a full window stalls it, and the 32nd result parks it. -/
def Sys2Proof.AtomicsAskTheOwnerOfTheWord : Prop :=
  ∀ (s : State) (d a b : BitVec 6) (i : Nat) (o : Instr), let x := s.rs a; let c := s.cur.core; let off := offOf x
    [(0, Instr.atomAdd d a b), (1, .atomMax d a b), (2, .atomMin d a b), (3, .atomMaxu d a b), (4, .atomMinu d a b), (5, .atomSwap d a b),
      (6, .atomCas d a b), (7, .atomOr d a b), (8, .atomAnd d a b), (9, .atomXor d a b), (10, .atomFmax32 d a b)].contains (i, o) = true →
    let n := if i = 10 then 4 else 8
    let free := s.myCore.awaiting < s.myCore.window ∧ s.me.outstanding < 32
    let asks := fun (own : Nat) (pl : Place) (t : State) => (∀ e, e ≠ c → t.core e = s.core e) ∧ t.mem = s.mem ∧
      t.me.outstanding = s.me.outstanding + 1 ∧ t.me.pending = s.me.pending ++ (if d = 0 then [] else [64 + d.toNat]) ∧ t.me.s = s.me.s ∧
      (t.core c).awaiting = s.myCore.awaiting + 1 ∧ ∃ p, t.net = s.net ++ [p] ∧ p.src = c ∧ p.dst = own ∧
        p.waits = s.covered c s.cur.ctx (scopeTo c own) ∧ p.body = .atom i pl n (s.rs b) (s.rs d) s.cur.ctx s.uid
    (x.toNat % n ≠ 0 → Answers o s (· = s.raise { code := .align, a := x })) ∧
    (x.toNat % n = 0 → isLocal x = true → ¬(ctrBase ≤ off ∧ off < ctrBase + 0x4000) → ¬(accBase ≤ off ∧ off < 0xC0000) →
      (off + n ≤ s.myCore.spSize → free → Answers o s (asks c (.pool off))) ∧
      (off + n ≤ s.myCore.spSize → s.myCore.window ≤ s.myCore.awaiting → Answers o s (· = s.stallMe .window)) ∧
      (off + n ≤ s.myCore.spSize → s.myCore.awaiting < s.myCore.window → 32 ≤ s.me.outstanding → Answers o s (· = s.parkMe 31)) ∧
      (s.myCore.spSize < off + n → Answers o s (· = s.raise { code := .pool, a := x }))) ∧
    (x.toNat % n = 0 → isLocal x = true → (ctrBase ≤ off ∧ off < ctrBase + 0x4000) ∨ (accBase ≤ off ∧ off < 0xC0000) →
      Answers o s (· = s.raise { code := .perm, a := 76, b := x })) ∧
    (∀ pa attr e, x.toNat % n = 0 → isLocal x = false → s.lookup x ⟨true, true⟩ = .ok pa attr e → free →
      Answers o s fun t => asks (s.phys c (bits e 40 12)) (.phys pa (attr == 1)) t ∧
        (attr = 2 → s.cur.fate = .retire → t.me.st = .stalled ∧ t.me.stall = some (.seq s.uid)))

/-- R183, R186, R196, R243, R248, R254: a handler thread takes at most 64 items of work, and under FREEZE refuses an atomic; it performs the atomic at its head as one read and one write of the word,
and sends the old value back, which the context then receives; a maximum merges into its word the same way. In deterministic mode it does what
other cores ask, and what it does at slices, at a close alone. -/
def Sys2Proof.HandlersPerformAtomicsInOrder : Prop :=
  ∀ (s : State) (c id : Nat) (p : Packet) (i n off pa x out src eng : Nat) (v b d : Word) (vs : Bool) (rest : List HReq),
    let k := s.core c
    (s.arriving id = some p → p.body = .atom i (.pool off) n b d x out → p.dst % 64 ≠ 63 → let e := s.core p.dst
      (e.handler.length < 64 → e.frozen = false → Answers (.atomRequest id) s fun t => t.net = s.net.filter (fun q => q.id != p.id) ∧
        t.core p.dst = { e with handler := e.handler ++ [.atom p.src i (.pool off) n b d x out] }) ∧
      (64 ≤ e.handler.length → e.frozen = false → Answers (.atomRequest id) s (· = s)) ∧
      (e.frozen = true → Answers (.atomRequest id) s fun t => t.cores = s.cores ∧ t.mem = s.mem ∧
        ∃ q g, t.net = s.net.filter (fun q => q.id != p.id) ++ [q] ∧ q.dst = p.src ∧ q.body = .refusedAtom x out g)) ∧
    let closes := fun (r : HReq) => s.closeWork c r = false
    (k.handler = .atom src i (.pool off) n b d x out :: rest → s.handlerHeld c = false → closes (.atom src i (.pool off) n b d x out) →
      s.badIn c off n = none → n = 4 ∨ n = 8 →
      let old := BitVec.ofNat 64 (k.num off n)
      Answers (.atomPerform c) s fun t => (t.core c).handler = rest ∧ PoolKept s t c off n ∧ t.mem = s.mem ∧
        (∀ j, j < n → (t.core c).byte (off + j) = ((atomResult i old b d) >>> (8 * j)).setWidth 8) ∧
        ∃ q, t.net = s.net ++ [q] ∧ q.src = c ∧ q.dst = src ∧ q.body = .atomr x out old none) ∧
    (k.handler = .atom src i (.phys pa vs) n b d x out :: rest → s.handlerHeld c = false → closes (.atom src i (.phys pa vs) n b d x out) →
      s.badHbm pa n = none → n = 4 ∨ n = 8 →
      s.laneBefore src x pa out = false → vs = false ∨ s.hasRoom pa = true → let old := BitVec.ofNat 64 (s.hbmNum pa n)
      Answers (.atomPerform c) s fun t => (t.core c).handler = rest ∧ HbmKept s t pa n ∧
        (∀ j, j < n → Memory.read zeroByte t.mem (pa + j) = ((atomResult i old b d) >>> (8 * j)).setWidth 8) ∧
        t.ver pa = (if vs then s.ver pa + 1 else s.ver pa) ∧ ∃ q, t.net = s.net ++ [q] ∧ q.dst = src ∧ q.body = .atomr x out old none) ∧
    (s.arriving id = some p → p.body = .atomr x out v none → Answers (.atomr id) s fun t => t.net = s.net.filter (fun q => q.id != p.id) ∧
      t.mem = s.mem ∧ ∀ o ∈ (t.ctx p.dst x).outs, o.id = out → o.vals = some [v] ∧ o.flt = none) ∧
    (k.handler = .merge (.pool off) v eng src :: rest → s.handlerHeld c = false → closes (.merge (.pool off) v eng src) →
      s.badIn c off 4 = none → Answers (.drainMerge c) s fun t =>
      (t.core c).handler = rest ∧ PoolKept s t c off 4 ∧ t.mem = s.mem ∧
      (∀ j, j < 4 → (t.core c).byte (off + j) = BitVec.ofNat 8 (Nat.max (k.num off 4) v.toNat / 256 ^ j)) ∧
      ∀ f ∈ t.fins, f.id = eng → f.merge = false) ∧
    (s.handlerHeld c = true → Answers (.atomPerform c) s (· = s) ∧ Answers (.drainMerge c) s (· = s)) ∧
    (∀ r l, k.handler = r :: rest → s.launchOf c = some l → l.det = true → l.qstart ≠ s.now →
      (∀ i o n b d x out, r ≠ .atom c i (.pool o) n b d x out) → (∀ o v e, r ≠ .merge (.pool o) v e c) →
      Answers (.atomPerform c) s (· = s) ∧ Answers (.drainMerge c) s (· = s))

/-- R204: `RDREM` asks a core for up to seven words of its scratchpad; its handler thread answers with them as one RDDATA, or with a fault
record for a range outside the scratchpad. -/
def Sys2Proof.BlockReadsReturnTheirWords : Prop :=
  ∀ (s : State) (d a b : BitVec 6) (id c src off n : Nat) (p : Packet) (g : Word) (rest : List HReq),
    let h := s.rs d; let me := s.cur.core; let x := s.rs a; let m := (s.rs b).toNat; let ch := s.myCore.chan (hRchan h)
    let fits := s.inRange me (hDest h) = true ∧ hRcore h = s.rel me
    let size := m % 8 = 0 ∧ 8 ≤ m ∧ m ≤ 56
    (fits → x.toNat % 8 = 0 → size → s.me.resv = some (hRchan h) ∨ ch.used < ch.depth → s.myCore.awaiting < s.myCore.window →
      Answers (.rdrem d a b) s fun t => t.me = { s.me with resv := none } ∧
      t.core me = { s.myCore with channels := (t.core me).channels, ctxs := (t.core me).ctxs, awaiting := s.myCore.awaiting + 1 } ∧
      ((t.core me).chan (hRchan h)).reserved = ch.reserved + (if s.me.resv = some (hRchan h) then 0 else 1) ∧ ∃ q, t.net = s.net ++ [q] ∧ q.src = me ∧ q.dst = s.phys me (hDest h) ∧
        q.body = .rdreq (header (hDest h) (hDchan h) (hRcore h) (hRchan h) 0x07 0 (hTag h)) (offOf x) m) ∧
    (fits → x.toNat % 8 = 0 → ¬size → Answers (.rdrem d a b) s (· = s.raise { code := .perm, a := 69, b := s.rs b })) ∧
    (fits → x.toNat % 8 ≠ 0 → Answers (.rdrem d a b) s (· = s.raise { code := .align, a := x })) ∧
    (s.arriving id = some p → p.body = .rdreq g off n → s.absent p.dst = false → p.dst % 64 ≠ 63 → let e := s.core p.dst
      (e.handler.length < 64 → e.frozen = false → Answers (.rdreq id) s fun t => t.net = s.net.filter (fun q => q.id != p.id) ∧
        t.core p.dst = { e with handler := e.handler ++ [.rdreq p.src g off n] })) ∧
    ((s.core c).handler = .rdreq src g off n :: rest → s.handlerHeld c = false → s.closeWork c (.rdreq src g off n) = false →
      (off + n ≤ (s.core c).spSize → s.badIn c off n = none → n % 8 = 0 → Answers (.rdreqPerform c) s fun t => (t.core c).handler = rest ∧
        ∃ q ws, t.net = s.net ++ [q] ∧ q.dst = src ∧ ws.length = n / 8 ∧ (∀ j, j < n / 8 → ws.getD j 0 = (s.core c).word (off + 8 * j)) ∧
          q.body = .words (header (hRcore g) (hRchan g) (s.rel c) (hDchan g) 0x08 (n / 8) (hTag g)) ws) ∧
      ((s.core c).spSize < off + n → Answers (.rdreqPerform c) s fun t => (t.core c).handler = rest ∧
        ∃ q r, t.net = s.net ++ [q] ∧ q.dst = src ∧ q.body = .fault (hRchan g) r true ∧ bits (r.headD 0) 0 8 = 0x07))

/-! ## Counters, channels and waits -/

/-- R185, R190, R198: an add to a counter, by `CADD` of a local name whose release covers nothing and by the arrival of one from another
core. In free mode a `CADD` of the core's own counter takes its place among the adds of the cycle where these are still to come. Below the target only the value and the adder change; at the target the cell fires and its descriptor enters its ring, or waits
for room there; above it, or past 2^64 - 1, the cell's fault bit is set and the value saturates; adding 0 does nothing. `CADD` of
another core's counter sends the add there. (Where other counters have pushed into the ring in the same cycle, R208 orders the pushes.) -/
def Sys2Proof.CounterAddsFireAtTheirTarget : Prop :=
  ∀ (s : State) (a b : BitVec 6) (id n d : Nat) (p : Packet) (x name : Word) (who : BitVec 12) (ctx : BitVec 4), let c := s.cur.core
    let adds := fun (o : Instr) (c : Nat) (x : Word) (who ctx : Nat) => let k := s.cell c n; let v := k.value.toNat + x.toNat
      let upto := fun (w : Nat) (t : State) => (t.cell c n).value = BitVec.ofNat 64 w ∧ (t.cell c n).lastcore = BitVec.ofNat 12 who ∧
        (t.cell c n).lastctx = BitVec.ofNat 4 ctx ∧ (t.cell c n).target = k.target ∧ (t.cell c n).armed = k.armed ∧
        (t.cell c n).desc = k.desc ∧ (∀ m, m ≠ n → t.cell c m = s.cell c m) ∧ t.mem = s.mem ∧ ∀ e, e ≠ c → t.core e = s.core e
      (x = 0 → Answers o s fun t => t.cores = s.cores ∧ t.mem = s.mem) ∧
      (x ≠ 0 → v < 2 ^ 64 → k.armed = false ∨ (k.fired = false ∧ v < k.target.toNat) → Answers o s fun t => upto v t ∧
        (t.cell c n).fired = k.fired ∧ (t.cell c n).fault = k.fault ∧ ∀ q, (t.core c).byte q = (s.core c).byte q) ∧
      (x ≠ 0 → k.armed = true → k.fired = false → v = k.target.toNat → s.badIn c (k.desc.toNat + 4) 1 = none →
        ∀ r, (s.core c).ringOf k.desc.toNat = some r → let ch := (s.core c).chan r
        ch.pushed s.now = [] →
        (ch.room = true → ∀ i, ch.free = some i → Answers o s fun t => upto v t ∧ (t.cell c n).fired = true ∧ (t.cell c n).pend = false ∧
          ∃ e, AMap.find ((t.core c).chan r).slots i = some e ∧ e.kind = .desc k.desc.toNat false ∧ e.taken = false) ∧
        (ch.room = false → Answers o s fun t => upto v t ∧ (t.cell c n).fired = true ∧ (t.cell c n).pend = true ∧
          (t.core c).channels = (s.core c).channels)) ∧
      (x ≠ 0 → 2 ^ 64 ≤ v ∨ (k.armed = true ∧ (k.fired = true ∨ k.target.toNat < v)) → Answers o s fun t => upto (min v (2 ^ 64 - 1)) t ∧
        (t.cell c n).fault = true ∧ (t.cell c n).cause = 0x0A)
    (s.counterName c (s.rs a) = .ok (.loc n) → s.covered c s.cur.ctx .core = [] → s.det c = true ∨ .stage 3 ∉ s.work →
      adds (.cadd a b) c (s.rs b) (s.rel c) s.cur.ctx) ∧
    (s.counterName c (s.rs a) = .ok (.loc n) → s.det c = false → .stage 3 ∈ s.work → Answers (.cadd a b) s fun t => t.cores = s.cores ∧ t.mem = s.mem ∧
      ∃ q, t.net = s.net ++ [q] ∧ q.src = c ∧ q.dst = c ∧ q.released = true ∧ q.waits = s.covered c s.cur.ctx .core ∧
        q.body = .cadd n (s.rs b) (BitVec.ofNat 12 (s.rel c)) (BitVec.ofNat 4 s.cur.ctx) (s.rs a)) ∧
    (s.arriving id = some p → p.body = .cadd n x who ctx name → p.dst < 4096 → p.dst % 64 ≠ 63 → s.absent p.dst = false →
      adds (.caddm id) p.dst x who.toNat ctx.toNat) ∧
    (s.counterName c (s.rs a) = .ok (.far d n) → Answers (.cadd a b) s fun t => t.cores = s.cores ∧ t.mem = s.mem ∧
      ∃ q, t.net = s.net ++ [q] ∧ q.src = c ∧ q.dst = d ∧ q.waits = s.covered c s.cur.ctx (scopeTo c d) ∧
        q.body = .cadd n (s.rs b) (BitVec.ofNat 12 (s.rel c)) (BitVec.ofNat 4 s.cur.ctx) (s.rs a)) ∧
    (∀ f, s.counterName c (s.rs a) = .error f → Answers (.cadd a b) s (· = s.raise f))

/-- R184, R185, R197, R198: `CREAD`, `CSET`, `CFLT` and `CARM` act on one local counter and change no other: they read its value; set it and
clear its bits; read word 2 and clear the fault; and disarm it (sb = 0), or arm it for a target above, at or below its value. A name that is
no local counter faults. A pending cell pushes its descriptor once its ring has room, lowest index first; an engine's fault sets the fault
bit with cause 0x19. -/
def Sys2Proof.CounterInstructionsActOnOneCell : Prop :=
  ∀ (s : State) (d a b : BitVec 6) (n id g m : Nat) (p : Packet), let c := s.cur.core; let v := s.cell c n; let w := s.rs b; let t0 := s.rs d
    let only := fun (k : Cell) (t : State) => t.cell c n = k ∧ (∀ m, m ≠ n → t.cell c m = s.cell c m) ∧ t.mem = s.mem ∧
      (∀ e, e ≠ c → t.core e = s.core e) ∧ ∀ q, (t.core c).byte q = (s.core c).byte q
    (s.localCounter c (s.rs a) = .ok n →
      Answers (.cread d a) s (Writes s · d v.value) ∧
      (Answers (.cset a b) s fun t => (∀ x, t.ctx c x = s.ctx c x) ∧
        only { v with value := w, fired := false, pend := false, fault := false, cause := 0, lastcore := BitVec.ofNat 12 (s.rel c), lastctx := BitVec.ofNat 4 s.cur.ctx } t) ∧
      (Answers (.cflt d a) s fun t => only { v with fault := false, cause := 0 } t ∧ (d ≠ 0 → d ≠ 63 → t.mine d =
          BitVec.ofNat 64 v.lastcore.toNat <<< 52 ||| BitVec.ofNat 64 v.lastctx.toNat <<< 48 ||| BitVec.ofNat 64 v.cause.toNat <<< 40 |||
          BitVec.ofNat 64 v.pend.toNat <<< 35 ||| BitVec.ofNat 64 v.fault.toNat <<< 34 ||| BitVec.ofNat 64 v.fired.toNat <<< 33 |||
          BitVec.ofNat 64 v.armed.toNat <<< 32 ||| BitVec.ofNat 64 v.desc.toNat) ∧ ∀ r, r ≠ d → t.mine r = s.mine r) ∧
      (w = 0 → Answers (.carm d a b) s (only { v with armed := false, fired := false, pend := false })) ∧
      (w ≠ 0 → w.toNat % 32 = 0 → inScratch s.myCore w 32 = true → n < 2044 →
        let k : Cell := { v with target := t0, desc := BitVec.ofNat 23 (offOf w), armed := true, fired := false, pend := false }
        (v.value.toNat < t0.toNat → Answers (.carm d a b) s (only k)) ∧
        (v.value = t0 → s.badIn c ((BitVec.ofNat 23 (offOf w)).toNat + 4) 1 = none →
          ∀ r, s.myCore.ringOf (BitVec.ofNat 23 (offOf w)).toNat = some r → (s.myCore.chan r).room = true →
          Answers (.carm d a b) s fun t => t.cell c n = { k with fired := true }) ∧
        (t0.toNat < v.value.toNat → Answers (.carm d a b) s fun t => t.cell c n = { k with fault := true, cause := 0x0A })) ∧
      (w ≠ 0 → w.toNat % 32 ≠ 0 → Answers (.carm d a b) s (· = s.raise { code := .align, a := w })) ∧
      (w ≠ 0 → w.toNat % 32 = 0 → inScratch s.myCore w 32 = true → 2044 ≤ n → Answers (.carm d a b) s
        (· = s.raise { code := .perm, a := 68, b := BitVec.ofNat 64 n }))) ∧
    (∀ f, s.localCounter c (s.rs a) = .error f → Answers (.cread d a) s (· = s.raise f) ∧ Answers (.cset a b) s (· = s.raise f) ∧
      Answers (.cflt d a) s (· = s.raise f) ∧ Answers (.carm d a b) s (· = s.raise f)) ∧
    (let k := s.core g; let u := s.cell g m
      (u.pend = false → Answers (.counterPendingPush g m) s (· = s)) ∧
      (∀ r i, u.pend = true → s.badIn g (u.desc.toNat + 4) 1 = none → k.ringOf u.desc.toNat = some r → (k.chan r).room = true →
        (k.chan r).pushed s.now = [] → (k.chan r).free = some i →
        (∀ e ∈ k.counters, e.1 < m → e.2.pend = true → k.ringOf e.2.desc.toNat ≠ some r) → Answers (.counterPendingPush g m) s fun t =>
          t.cell g m = { u with fired := true, pend := false } ∧ t.mem = s.mem ∧
          (AMap.find ((t.core g).chan r).slots i).map (·.kind) = some (.desc u.desc.toNat false))) ∧
    (s.arriving id = some p → p.body = .faultSet m → p.dst < 4096 → Answers (.engineFaultSetting id) s fun t =>
      t.net = s.net.filter (fun q => q.id != p.id) ∧ t.cell p.dst m = { s.cell p.dst m with fault := true, cause := 0x19 } ∧
      ∀ j, j ≠ m → t.cell p.dst j = s.cell p.dst j)

/-- R42, R43, R57, R199, R200, R271: `CWAIT` ends at once on a counter that has reached its threshold, acquiring the releases it counted, and
faults with the cell's cause on a faulted one; `QWAIT` takes the first message of a polled channel, freeing the slot it held. Else the
context waits for 2^w ticks, and at its limit faults WAIT with the object as it then stands. That in deterministic mode too they end at once
and not at a close (R192, R242) is the model's choice (log 83). -/
def Obligations.WaitsEndOrExpire : Prop :=
  ∀ (s : State) (d a b : BitVec 6) (w : BitVec 5) (n x y : Nat) (W : Wait), let c := s.cur.core; let v := s.cell c n; let h := bits (s.rs a) 0 6
    let ch := s.myCore.chan h; let T := s.rs b
    let limit := 2 ^ (if w = 0 then s.me.wlim.toNat else w.toNat)
    let waits := fun (i : Instr) (t : State) => (∀ e, e ≠ c → t.core e = s.core e) ∧ t.mem = s.mem ∧ t.net = s.net ∧
      (t.core c).channels = s.myCore.channels ∧ (t.core c).counters = s.myCore.counters ∧
      t.me = { s.me with st := .waiting, wait := some { instr := i, start := s.ticks c, limit := limit } }
    let code := fun (k : Byte) => if k = 0x06 then FCode.perm else if k = 0x0A then .cntovr else if k = 0x1A then .ecc else .engine
    (s.localCounter c (s.rs a) = .ok n →
      (v.fault = true → Answers (.cwait a b w) s (· = s.raise { code := code v.cause, obj := BitVec.ofNat 64 n, a := v.value, b := T, d0 := v.word2 })) ∧
      (v.fault = false → T.toNat ≤ v.value.toNat → Answers (.cwait a b w) s fun t =>
        t = if v.acq = .ctx ∨ v.acq = .core then s else s.setCore c { s.myCore with lbuf := [] }) ∧
      (v.fault = false → v.value.toNat < T.toNat → s.cur.again = false → Answers (.cwait a b w) s (waits (.cwait a b w)))) ∧
    (h ≠ 61 → ch.handler = 0xFFFFFFFF →
      (∀ i, s.me.heldQ = none → ch.first (fun _ => true) = some i → Answers (.qwait d a w) s fun t =>
        (d ≠ 0 → d ≠ 63 → t.mine d = BitVec.ofNat 64 (2 ^ 63 + ch.ring + 64 * i)) ∧ (∀ r, r ≠ d → t.mine r = s.mine r) ∧
        t.me.heldQ = some (h, i) ∧ (AMap.find ((t.core c).chan h).slots i).map (·.taken) = some true ∧
        ((t.core c).chan h).head = (i + 1) % ch.depth ∧ ∀ q, (t.core c).byte q = (s.core c).byte q) ∧
      (∀ i g j, s.me.heldQ = some (g, j) → g ≠ h → ch.first (fun _ => true) = some i → Answers (.qwait d a w) s fun t =>
        AMap.find ((t.core c).chan g).slots j = none ∧ t.me.heldQ = some (h, i)) ∧
      (ch.first (fun _ => true) = none → s.cur.again = false → Answers (.qwait d a w) s (waits (.qwait d a w)))) ∧
    (h = 61 ∨ ch.handler ≠ 0xFFFFFFFF → Answers (.qwait d a w) s (· = s.raise { code := .perm, a := 69, b := s.rs a })) ∧
    (s.expired x y = none → Answers (.waitExpiry x y) s (· = s)) ∧
    (s.expired x y = some W → let u := s.asIf x y
      (∀ m, W.instr = .cwait a b w → s.localCounter x (u.rs a) = .ok m → Answers (.waitExpiry x y) s
        (· = u.raise { code := .wait, obj := BitVec.ofNat 64 m, a := (s.cell x m).value, b := u.rs b })) ∧
      (W.instr = .qwait d a w → let k := (s.core x).chan (bits (u.rs a) 0 6)
        Answers (.waitExpiry x y) s (· = u.raise { code := .wait, obj := BitVec.ofNat 64 (bits (u.rs a) 0 6), a := BitVec.ofNat 64 k.headNow, b := BitVec.ofNat 64 k.tail })))

/-- R179, R180, R201 to R203: `CHBIND` binds an empty channel to a ring of the scratchpad; `CHSET` sets the bound bit, handler, priority or share
bit and nothing else, the decision of the cycle still seeing the handler and priority that stood before (R214); `CHQ` reads the status word, the handler and the ring address. The fixed channels keep their priority and polling, and a
ring that is not empty is not bound again. -/
def Obligations.ChannelsBindSetAndAnswer : Prop :=
  ∀ (s : State) (d a b : BitVec 6), let c := s.cur.core; let h := bits (s.rs d) 0 6; let f := s.rs a; let v := s.rs b; let ch := s.myCore.chan h
    let q := s.myCore.chan (bits f 0 6)
    let sets := fun (o : Instr) (k : Channel) => Answers o s fun t => OnlyCore s t c ∧ (t.core c).chan h = k ∧
      (∀ g, g ≠ h → (t.core c).chan g = s.myCore.chan g) ∧ t.core c = { s.myCore with channels := (t.core c).channels }
    let fault := fun (o : Instr) (e : Flt) => Answers o s (· = s.raise e)
    let ring := v.toNat % 2 ^ 23; let depth := v.toNat / 2 ^ 24 % 256 + 1; let prio := v.toNat / 2 ^ 32 % 8
    let was := some ((ch.seen s.now).handler, (ch.seen s.now).prio, s.now)
    let pcOk := fun (w : Word) => w = 0xFFFFFFFF ∨ (w.toNat ≤ 0xFFFC ∧ w.toNat % 4 = 0)
    let fixed := fun (p : Nat) => (h = 60 → p = 6) ∧ (h = 61 → p = 0) ∧ (h = 62 → p = 4) ∧ (h = 63 → p = 7)
    let form := v.toNat / 2 ^ 36 = 0 ∧ v.toNat / 2 ^ 23 % 2 = 0
    let may := fixed prio ∧ (h = 61 → f = 0xFFFFFFFF) ∧ ¬(h = 0 ∧ (c % 64 = 48 ∨ c % 64 = 49))
    (form → may → pcOk f → ring % 64 = 0 → ring + 64 * depth ≤ s.myCore.spSize → ch.used = 0 → sets (.chbind d a b)
      { bound := true, handler := f.setWidth 32, ring := ring, depth := depth, prio := prio, share := v.getLsbD 35 }) ∧
    (form → may → pcOk f → ring % 64 = 0 → ring + 64 * depth ≤ s.myCore.spSize → ch.used ≠ 0 → fault (.chbind d a b)
      { code := .perm, a := 64, b := BitVec.ofNat 64 h }) ∧
    (form → may → pcOk f → ring % 64 = 0 → s.myCore.spSize < ring + 64 * depth → fault (.chbind d a b) { code := .pool, a := localAddr ring }) ∧
    (form → ¬may → fault (.chbind d a b) { code := .perm, a := 65, b := BitVec.ofNat 64 h }) ∧
    (¬form → fault (.chbind d a b) { code := .perm, a := 69, b := v }) ∧
    (f = 0 → v.toNat ≤ 1 → sets (.chset d a b) { ch with bound := v == 1 }) ∧
    (f = 1 → pcOk v → (h = 61 → v = 0xFFFFFFFF) → sets (.chset d a b) { ch with handler := v.setWidth 32, was := was }) ∧
    (f = 2 → v.toNat ≤ 7 → fixed v.toNat → sets (.chset d a b) { ch with prio := v.toNat, was := was }) ∧
    (f = 3 → v.toNat ≤ 1 → sets (.chset d a b) { ch with share := v == 1 }) ∧
    (3 < f.toNat → fault (.chset d a b) { code := .perm, a := 69, b := f }) ∧
    (v = 0 → Answers (.chq d a b) s (Writes s · d (BitVec.ofNat 64 q.headNow <<< 33 ||| BitVec.ofNat 64 q.share.toNat <<< 32 |||
      BitVec.ofNat 64 q.polled.toNat <<< 31 ||| BitVec.ofNat 64 q.bound.toNat <<< 30 ||| BitVec.ofNat 64 q.prio <<< 27 |||
      BitVec.ofNat 64 q.depth <<< 18 ||| BitVec.ofNat 64 q.reserved <<< 9 ||| BitVec.ofNat 64 q.slots.length))) ∧
    (v = 1 → Answers (.chq d a b) s (Writes s · d (q.handler.setWidth 64))) ∧
    (v = 2 → Answers (.chq d a b) s (Writes s · d (BitVec.ofNat 64 (2 ^ 63 + q.ring)))) ∧
    (2 < v.toNat → fault (.chq d a b) { code := .perm, a := 69, b := v })

/-- R205, R206: `RDSEND` of a group's member sends its word to the gateway of its die and waits. A gateway whose use is open accepts it: the sender
gets a RELEASE and may go on; one of a later use is held, and accepted once the earlier use is over. When the last die's partial reaches the
root, every contributor's result word holds the combination in die order; a partial of a use whose mismatch every member has been told of is dropped. A contribution not accepted by its limit is withdrawn, and
its context faults GRPBUSY. A core's k-th `RDSEND` of a group has use k: the lowest that no `RDSEND` of its own has, retired or waiting. A
`ccnt` that `CADD` would not take faults PERM, reason 70; that it is looked at last is the model's choice (log 28). -/
def Obligations.ReductionsGatherAtTheirGateways : Prop :=
  ∀ (s : State) (d a b : BitVec 6) (id part g block op rchan use result ctx die : Nat) (v cnt : Word) (p : Packet) (W : Wait) (all : List Contrib),
    let w := s.rs d; let x := s.rs b; let c := s.cur.core; let G := bits w 0 8; let ch := s.myCore.chan (bits w 8 6)
    let k : Contrib := { core := p.src, ctx := ctx, value := v, result := result, cnt := cnt, rchan := rchan }
    let C : Body := .contrib g block op rchan use v result cnt ctx
    let gw := p.dst / 64; let t0 := s.gate gw g
    let accepted := fun (gw : Nat) (t0 : Gate) (t : State) => (t.gate gw g).use = use ∧ (t.gate gw g).inflight = t0.inflight + 1 ∧
      (t.gate gw g).got = (if t0.inflight = 0 then [k] else t0.got ++ [k]) ∧ t.mem = s.mem ∧
      (∃ q ∈ t.net, q.src = gateCore gw ∧ q.dst = p.src ∧ q.body = .release rchan none) ∧
      ∀ u, (s.ctx p.src ctx).wait = some u → u.ids = [p.id] → (t.ctx p.src ctx).wait = some { u with arrived := true }
    let here := fun (gw : Nat) => (s.group (gateCore gw) g).members.filter fun r => s.phys (gateCore gw) r / 512 == gw / 8
    let more := fun (gw : Nat) (got : List Contrib) => ∃ r ∈ here gw, s.phys (gateCore gw) r ≠ p.src ∧ (∀ e ∈ got, e.core ≠ s.phys (gateCore gw) r) ∧
      ∀ q ∈ s.domParts (s.baseOf gw), q ≠ gw → ∀ e ∈ (s.gate q g).got, e.core ≠ s.phys (gateCore gw) r
    (bits w 19 13 = 0 → bits w 14 2 = 0 → bits w 16 3 ≠ 7 → s.isMember c G = true → x.toNat % 8 = 0 → inScratch s.myCore x 8 = true →
      s.src.ccnt ≠ 0 → s.ccntOk = .ok () → s.me.resv ≠ some (bits w 8 6) → ch.used < ch.depth → s.myCore.awaiting < s.myCore.window →
      s.cur.again = false →
      Answers (.rdsend d a b) s fun t => t.me.st = .waiting ∧ (t.core c).awaiting = s.myCore.awaiting + 1 ∧
        ((t.core c).chan (bits w 8 6)).reserved = ch.reserved + 1 ∧ ∃ q, t.net = s.net ++ [q] ∧ q.src = c ∧
        q.dst = gateCore (s.gateway (c / 64) (bits w 32 32)) ∧
        q.body = .contrib G (bits w 32 32) (bits w 16 3) (bits w 8 6) (s.nextUse c G) (s.rs a) (offOf x) s.src.ccnt s.cur.ctx) ∧
    (let taken := fun (u : Nat) => u ∈ AMap.get [] s.myCore.rdsends G ∨ ∃ y W e f g, y < 11 ∧ (s.ctx c y).wait = some W ∧
        W.instr = .rdsend e f g ∧ bits ((s.asIf c y).rs e) 0 8 = G ∧ W.use = u;
      1 ≤ s.nextUse c G ∧ ¬taken (s.nextUse c G) ∧ ∀ u, 1 ≤ u → u < s.nextUse c G → taken u) ∧
    (s.cur.again = true → s.me.wait = some W → W.arrived = true → Answers (.rdsend d a b) s fun t => OnlyCore s t c ∧
      AMap.get [] (t.core c).rdsends G = AMap.get [] s.myCore.rdsends G ++ [W.use]) ∧
    (bits w 19 13 = 0 → bits w 14 2 = 0 → bits w 16 3 ≠ 7 → s.isMember c G = true → x.toNat % 8 = 0 → inScratch s.myCore x 8 = true →
      s.cur.again = false → s.src.ccnt = 0 ∨ (∃ f, s.counterName c s.src.ccnt = .error f) →
      Answers (.rdsend d a b) s (· = s.raise { code := .perm, a := 70 })) ∧
    (s.arriving id = some p → p.body = C →
      (t0.inflight = 0 ∨ t0.use = use → more gw (if t0.inflight = 0 then [] else t0.got) →
        Answers (.contrib id) s (accepted gw t0)) ∧
      (t0.inflight ≠ 0 → t0.use ≠ use → Answers (.contrib id) s fun t => t.cores = s.cores ∧ (t.gate gw g).waiting = t0.waiting ++ [p] ∧
        (t.gate gw g).got = t0.got)) ∧
    (p.body = C → (s.gate part g).waiting = [p] → (s.gate part g).inflight = 0 → more part [] →
      Answers (.contribAccept part g) s fun t => accepted part (s.gate part g) t ∧ (t.gate part g).waiting = []) ∧
    (s.arriving id = some p → p.body = .diePart g block op use die v all none → t0.allBad = none → use ∉ t0.past → (∀ e ∈ t0.parts, e.2.2.1 = op ∧ e.2.2.2.1 = block) →
      let parts := t0.parts ++ [(die, use, op, block, v)]; let whole := ∀ y ∈ memberDies s gw g, ∃ e ∈ parts, e.1 = y
      (¬whole → Answers (.diePartial id) s fun t => t.cores = s.cores ∧ (t.gate gw g).parts = parts ∧ (t.gate gw g).all = t0.all ++ all) ∧
      (whole → ((t0.all ++ all).map (·.core)).Nodup → (∀ e ∈ t0.all ++ all, e.core ≠ gateCore gw) → Answers (.diePartial id) s fun t =>
        (∀ e ∈ t0.all ++ all, (t.core e.core).word e.result =
          rdAll op ((List.range 8).flatMap fun y => (parts.filter fun e => e.1 == y).map fun e => e.2.2.2.2)) ∧ t.mem = s.mem)) ∧
    (∀ bad, s.arriving id = some p → p.body = .diePart g block op use die v all bad → use ∈ t0.past → Answers (.diePartial id) s fun t =>
      t.cores = s.cores ∧ t.mem = s.mem ∧ t.gate gw g = t0) ∧
    (s.expired part ctx = some W → W.instr = .rdsend d a b → W.arrived = false → Answers (.rdsendExpiry part ctx) s fun t =>
      (∀ q ∈ t.net, q.id ≠ W.ids.headD 0) ∧
      ∃ f, t.cur.fate = .fault f ∧ f.code = .grpbusy ∧ f.obj = BitVec.ofNat 64 (bits ((s.asIf part ctx).rs d) 0 8)) ∧
    (s.expired part ctx = none → Answers (.rdsendExpiry part ctx) s (· = s))

/-! ## The Catenary and tasks -/

/-- R228, R230, R235, R237: a Catenary instruction or `PHASE` of a member waits, and arrives at once where its release covers nothing and no
other context of its core is at the group; with its release outstanding it waits without having arrived, and `CATENARY_ARRIVAL` then
makes the arrival. A group above 255 and a root that is no member fault PERM, reason FIELD, a core outside the group NOTMEM. `GMEM` reads
the group's entry. -/
def Obligations.MembersArriveAtTheirGroup : Prop :=
  ∀ (s : State) (d a b : BitVec 6) (o : Instr) (fn : Nat) (x : Word) (root ns cc cx gg : Nat), let c := s.cur.core; let g := (s.rs a).toNat; let w := s.rs b
    let G := s.group c g; let me := s.rel c
    [(Instr.cbar a, 0, 0#64, 0, 0), (.cbarx a, 1, 0, 0, 0), (.cbcast d a b, 2, s.rs d, w.toNat, 0), (.credAdd d a b, 3, w, 0, 0),
      (.credMin d a b, 4, w, 0, 0), (.credMax d a b, 5, w, 0, 0), (.credOr d a b, 6, w, 0, 0), (.credAnd d a b, 7, w, 0, 0),
      (.phase d a b, 16, s.phaseCost g, 0, w.toNat + 1)].contains (o, fn, x, root, ns) = true →
    let covers := if fn = 1 ∨ fn = 16 then [] else s.covered c s.cur.ctx (groupScope G.members)
    let formOk := (fn = 16 → w.toNat ≤ 3) ∧ (fn = 2 → w.toNat ≤ 4095 ∧ G.members.contains w.toNat = true)
    let W := fun (arrived : Bool) => ({ instr := o, start := s.ticks c, limit := 2 ^ s.me.wlim.toNat, use := s.uid, arrived := arrived, ids := covers } : Wait)
    (g ≤ 255 → s.isMember c g = true → formOk → s.cur.again = false → s.cur.snap = none →
      (s.pendingIds c covers = false → (∀ y, y < 11 → (s.ctx c y).st ≠ .waiting) → (∀ e ∈ G.arrivals, e.core ≠ c) → s.cur.ctx < 11 →
        Answers o s fun t => t.me.st = .waiting ∧ t.me.wait = some (W true) ∧ t.me.s = s.me.s ∧ t.mem = s.mem ∧ t.net = s.net ∧
          (t.group c g).arrivals = G.arrivals ++ [⟨c, s.cur.ctx, fn, root, x, ns, s.now⟩] ∧ (t.group c g).members = G.members) ∧
      (s.pendingIds c covers = true → Answers o s fun t => t.me.st = .waiting ∧ t.me.wait = some (W false) ∧ t.mem = s.mem ∧
        (t.group c g).arrivals = G.arrivals)) ∧
    (255 < g → Answers o s (· = s.raise { code := .perm, a := 69, b := s.rs a })) ∧
    (g ≤ 255 → (fn = 16 → w.toNat ≤ 3) → s.isMember c g = false → Answers o s (· = s.raise { code := .notmem, obj := BitVec.ofNat 64 g, a := BitVec.ofNat 64 me, b := BitVec.ofNat 64 G.members.length })) ∧
    (g ≤ 255 → s.isMember c g = true → fn = 2 → ¬formOk → Answers o s (· = s.raise { code := .perm, a := 69, b := w })) ∧
    (g ≤ 255 → fn = 16 → 3 < w.toNat → Answers o s (· = s.raise { code := .perm, a := 69, b := w })) ∧
    (g ≤ 255 → Answers (.gmem d a) s (Writes s · d (let r := (G.members.filter fun m => decide (m < me)).length; let isIn := G.members.contains me
      BitVec.ofNat 64 isIn.toNat <<< 63 ||| BitVec.ofNat 64 (if G.members = [] then 0 else G.members.foldl Nat.min 4095) <<< 48 |||
      BitVec.ofNat 64 (if isIn then r else 0xFFF) <<< 36 ||| BitVec.ofNat 64 G.members.length <<< 24 ||| BitVec.ofNat 64 G.meshW <<< 12 |||
      BitVec.ofNat 64 G.meshH))) ∧
    (255 < g → Answers (.gmem d a) s (· = s.raise { code := .perm, a := 69, b := s.rs a })) ∧
    ((s.ctx cc cx).st ≠ .waiting → Answers (.catenaryArrival cc cx) s (· = s)) ∧
    (∀ v p, cx < 11 → s.unarrived cc cx gg = some (v, p) → s.ticks cc < v.start + v.limit → (∀ y, y < 11 → y ≠ cx → (s.ctx cc y).st ≠ .waiting) → s.pendingIds cc v.ids = false →
      (∀ e ∈ (s.group cc gg).arrivals, e.core ≠ cc) → s.isMember cc gg = true → Answers (.catenaryArrival cc cx) s fun t =>
        (t.group cc gg).arrivals = (s.group cc gg).arrivals ++ [⟨cc, cx, p.fn, p.root, p.x, p.ns, s.now⟩] ∧
        (t.ctx cc cx).wait = some { v with arrived := true } ∧ t.mem = s.mem)

/-- R224, R226, R227, R231: once every member has arrived, and 160 cycles after the first boundary of eight cycles past the last arrival, the use completes: every
participant goes on at its next word, `CRED` and `CBCAST` with the same value in sd for all, whatever the order of arrival, `PHASE` with the
schedule selected: once the greatest cost of the finished phase is noted for the schedule it ran under, the lowest that has not been tried,
and else the lowest of least cost. Where the arrivals differ in operation or root, every participant faults PERM with a = 72 and b the fn and root of
the lowest member's, and no result is written. A use that is not whole, or not yet due, and one of a deterministic
launch, stays. -/
def Sys2Proof.UsesCompleteForEveryMember : Prop :=
  ∀ (s : State) (dom g fn : Nat) (l : Launch), let G := s.group (dom * 64) g; let xs := G.arrivals
    (s.domain dom).launch = some l → s.baseOf dom = dom → (∀ e ∈ xs, s.domOf e.core = dom) →
    let due := l.det = false ∧ G.members ≠ [] ∧ xs.length = G.members.length ∧
      ∃ last, (∀ e ∈ xs, e.cycle ≤ last) ∧ (∃ e ∈ xs, e.cycle = last) ∧ l.start + 8 * ((last - l.start) / 8 + 1) + 160 ≤ s.now
    let early := ∃ last, (∀ e ∈ xs, e.cycle ≤ last) ∧ (∃ e ∈ xs, e.cycle = last) ∧ s.now < l.start + 8 * ((last - l.start) / 8 + 1) + 160
    let waits := fun (e : Arrival) => (s.ctx e.core e.ctx).st = .waiting ∧ e.ctx < 11 ∧ ∃ w p, (s.ctx e.core e.ctx).wait = some w ∧ w.arrived = true ∧
      (s.asIf e.core e.ctx).catOp w.instr = some p ∧ p.g = g
    let goesOn := fun (t : State) (e : Arrival) => (t.ctx e.core e.ctx).st = .ready ∧ (t.ctx e.core e.ctx).wait = none ∧
      (t.ctx e.core e.ctx).pc = (s.ctx e.core e.ctx).pc + 4
    let gets := fun (t : State) (e : Arrival) (v : Word) => ∀ w p, (s.ctx e.core e.ctx).wait = some w → (s.asIf e.core e.ctx).catOp w.instr = some p →
      p.dest ≠ 0 → p.dest ≠ 63 → t.sreg e.core e.ctx p.dest = v
    let values := xs.map (·.x)
    (due → (xs.map (·.core)).Nodup → (∀ e ∈ xs, waits e ∧ e.fn = fn) →
      (fn ≤ 1 → Answers (.catenaryCompletion dom g) s fun t => ∀ e ∈ xs, goesOn t e ∧ (t.ctx e.core e.ctx).s = (s.ctx e.core e.ctx).s) ∧
      (fn = 2 → ∀ r, r ∈ xs → (∀ e ∈ xs, e.root = s.rel r.core) → (∀ e ∈ xs, s.rel e.core = s.rel r.core → e = r) → Answers (.catenaryCompletion dom g) s fun t =>
        ∀ e ∈ xs, goesOn t e ∧ gets t e r.x) ∧
      (fn = 3 → Answers (.catenaryCompletion dom g) s fun t => ∀ e ∈ xs, goesOn t e ∧ gets t e (values.foldl (· + ·) 0)) ∧
      (fn = 4 → Answers (.catenaryCompletion dom g) s fun t => ∃ v ∈ values, (∀ y ∈ values, v.toInt ≤ y.toInt) ∧ ∀ e ∈ xs, goesOn t e ∧ gets t e v) ∧
      (fn = 5 → Answers (.catenaryCompletion dom g) s fun t => ∃ v ∈ values, (∀ y ∈ values, y.toInt ≤ v.toInt) ∧ ∀ e ∈ xs, goesOn t e ∧ gets t e v) ∧
      (fn = 6 → Answers (.catenaryCompletion dom g) s fun t => ∀ e ∈ xs, goesOn t e ∧ gets t e (values.foldl (· ||| ·) 0)) ∧
      (fn = 7 → Answers (.catenaryCompletion dom g) s fun t => ∀ e ∈ xs, goesOn t e ∧ gets t e (values.foldl (· &&& ·) (BitVec.allOnes 64))) ∧
      (∀ n M, fn = 16 → 1 ≤ n → (∀ e ∈ xs, e.ns = n) → M ∈ values → (∀ y ∈ values, y.toNat ≤ M.toNat) →
        let tried := fun (j : Nat) => (G.phases ≠ 0 ∧ j = G.cur) ∨ AMap.get false G.tried j = true
        let cost := fun (j : Nat) => if G.phases ≠ 0 ∧ j = G.cur then M else AMap.get 0 G.cost j
        Answers (.catenaryCompletion dom g) s fun t => ∃ j, j < n ∧
          ((∃ i, i < n ∧ ¬tried i) → ¬tried j ∧ ∀ i, i < j → tried i) ∧
          ((∀ i, i < n → tried i) → (∀ i, i < n → (cost j).toNat ≤ (cost i).toNat) ∧ ∀ i, i < j → (cost j).toNat < (cost i).toNat) ∧
          (t.group (dom * 64) g).cur = j ∧ (t.group (dom * 64) g).phases = G.phases + 1 ∧
          (∀ i, AMap.get 0 (t.group (dom * 64) g).cost i = cost i ∧ (AMap.get false (t.group (dom * 64) g).tried i = true ↔ tried i)) ∧
          ∀ e ∈ xs, goesOn t e ∧ gets t e (BitVec.ofNat 64 j))) ∧
    (∀ low ∈ xs, due → (xs.map (·.core)).Nodup → (∀ e ∈ xs, waits e ∧ (e.fn ≠ 2 → e.root = 0)) → (∀ e ∈ xs, low.core ≤ e.core) →
      (∃ e ∈ xs, e.fn ≠ low.fn ∨ e.root ≠ low.root) → Answers (.catenaryCompletion dom g) s fun t =>
        ∀ e ∈ xs, (t.ctx e.core e.ctx).st ≠ .waiting ∧ (t.ctx e.core e.ctx).s = (s.ctx e.core e.ctx).s ∧
          let ch := (s.core e.core).chan 63; let hq := s.hostQueue (e.core / 64)
          let mixed := fun (r : List Word) => bits (r.headD 0) 0 8 = FCode.perm.code ∧ r.getD 3 0 = 72 ∧ r.getD 4 0 = BitVec.ofNat 64 (low.fn * 4096 + low.root)
          let home := (s.core e.core).frozen = false ∧ (s.part (e.core / 64)).down = false ∧ ch.bound = true ∧ ch.room = true
          (home → ∀ i, ch.free = some i → mixed ((List.range 8).map fun j => (t.core e.core).word (ch.slotAddr i + 8 * j))) ∧
          (¬home → ∃ r ∈ (t.queue hq).ring ++ (t.queue hq).held, mixed r)) ∧
    (l.det = true ∨ xs.length ≠ G.members.length ∨ G.members = [] ∨ early → Answers (.catenaryCompletion dom g) s (· = s))

/-- R232: a Catenary wait that reaches its limit before the commit boundary of a whole use withdraws its arrival and faults WAIT with the number that
remain, which is none where it had still to arrive behind an earlier operation of its core; past that boundary it waits on. Under `FREEZE` the
arrival is withdrawn at the limit all the same, and the fault follows at `THAW`, by the model's choice (log 70). -/
def Sys2Proof.AnArrivalIsWithdrawnAtItsLimit : Prop :=
  ∀ (s : State) (c x : Nat) (w : Wait) (l : Launch) (o : CatOp), let G := s.group c o.g
    let rest := G.arrivals.filter fun a => a.core != c || a.ctx != x
    let later := w.arrived = false ∧ ((∃ e ∈ rest, e.core = c) ∨ s.waitsBefore c o.g w.use = true)
    let withdrawn := fun (n : Nat) => Answers (.catenaryWithdrawal c x) s fun t => (t.group c o.g).arrivals = rest ∧ t.mem = s.mem ∧
      (t.ctx c x).st ≠ .waiting ∧
      t.cur.fate = .fault { code := .wait, obj := BitVec.ofNat 64 o.g, a := BitVec.ofNat 64 n, b := BitVec.ofNat 64 G.members.length }
    (s.limitOver c x = none → Answers (.catenaryWithdrawal c x) s (· = s)) ∧
    (s.limitOver c x = some w → s.launchOf c = some l → (s.asIf c x).catOp w.instr = some o →
      let due := w.arrived = true ∧ G.whole = true ∧ l.det = false ∧ commitAt l.start G.arrivals ≤ s.now
      (due → Answers (.catenaryWithdrawal c x) s (· = s)) ∧
      (¬due → (s.core c).frozen = false → (¬later → withdrawn rest.length) ∧ (later → withdrawn 0)) ∧
      (¬due → (s.core c).frozen = true → Answers (.catenaryWithdrawal c x) s fun t => (t.group c o.g).arrivals = rest ∧ t.mem = s.mem ∧
        t.ctx c x = { s.ctx c x with wait := some { w with arrived := false } }))

/-- R185, R218 to R222: `READY` pushes a descriptor that names a bound ring and its priority, whose task then waits for what the issuer's
release covers (R270); `NEST` loads a nest slot from a valid
descriptor; `NEXTI` gives the next index of the slot's chunk at once, else asks the counter's core for a chunk. A served claim takes between one and
all of what is left, adds it to the counter and gives its first index, by the nest that it was made for; a slot loaded anew since keeps
its new nest. At the end of the loop it gives 0 and adds nothing. That `NEXTI` counts five results is the model's choice (log 12), as are that a full
ring makes `READY` fault WAIT (log 37) and what a claim gets of a counter that no core of the domain has (log 78). -/
def Obligations.LoopsAreHandedOutInChunks : Prop :=
  ∀ (s : State) (d a b : BitVec 6) (id n total least k m ctx out : Nat) (name : Word) (p : Packet) (z : Nest), let x := s.rs a; let c := s.cur.core; let off := offOf x
    let here := isLocal x = true ∧ x.toNat % 32 = 0 ∧ off + 32 ≤ s.myCore.spSize ∧ s.ownAtoms off 32 = [] ∧ s.myCore.marked off 32 = none ∧ s.badIn c off 32 = none
    let ring := (s.myCore.byte (off + 4)).toNat; let ch := s.myCore.chan ring
    let fault := fun (o : Instr) (f : Flt) => Answers o s (· = s.raise f)
    let named := ring ≤ 63 ∧ (s.myCore.byte (off + 5)).toNat = ch.prio ∧ ch.bound = true
    let seen := isLocal x = true ∧ x.toNat % 32 = 0 ∧ off + 32 ≤ s.myCore.spSize ∧ s.ownAtoms (off + 4) 2 = [] ∧ s.myCore.marked (off + 4) 2 = none ∧
      s.badIn c (off + 4) 2 = none
    let asks := fun (t : State) => t.me.outstanding = s.me.outstanding + 5 ∧ t.me.s = s.me.s ∧ t.mem = s.mem ∧
      t.me.pending = s.me.pending ++ (([d, 56, 57, 58, 59] : List (BitVec 6)).filter (· ≠ 0)).map fun r => 64 + r.toNat
    let idx := fun (e : Nat) (cs : List Nat) => (1 : Word) :: unpackIndex e cs 4
    let left := total - (s.cell p.dst n).value.toNat; let size := min left (max least ((left + k * m - 1) / (k * m)))
    (seen → named → ch.used < ch.depth → ∀ i, ch.free = some i → Answers (.ready a) s fun t =>
      OnlyCore { s with free := t.free } t c ∧ (AMap.find ((t.core c).chan ring).slots i).map (fun e => (e.kind, e.waits)) = some (.desc off false, s.covered c s.cur.ctx .core) ∧
      (∀ y, t.ctx c y = s.ctx c y) ∧ PoolKept s t c (ch.slotAddr i) 64) ∧
    (seen → named → ch.depth ≤ ch.used → fault (.ready a) { code := .wait, obj := BitVec.ofNat 64 ring, a := BitVec.ofNat 64 ch.used, b := BitVec.ofNat 64 ch.depth }) ∧
    (seen → ¬named → fault (.ready a) { code := .perm, a := 69, b := x }) ∧
    (isLocal x = false ∨ x.toNat % 32 ≠ 0 → fault (.ready a) { code := .align, a := x } ∧ fault (.nest a b) { code := .align, a := x }) ∧
    (isLocal x = true → x.toNat % 32 = 0 → s.myCore.spSize < off + 32 → fault (.ready a) { code := .pool, a := x } ∧ fault (.nest a b) { code := .pool, a := x }) ∧
    (here → ∀ slot g y, readNest (s.myCore.bytes off 32) = some (slot, g, y) →
      (∀ nm, s.isMember c g = true → s.counterName c (s.rs b) = .ok nm → Answers (.nest a b) s fun t =>
        OnlyMe { s with uid := s.uid + 1 } t ∧ t.me = { s.me with nests := t.me.nests } ∧
        AMap.find t.me.nests slot = some { y with m := (s.group c g).members.length, name := s.rs b, gen := s.uid } ∧
        ∀ j, j ≠ slot → AMap.find t.me.nests j = AMap.find s.me.nests j) ∧
      (∀ f, s.isMember c g = true → s.counterName c (s.rs b) = .error f → fault (.nest a b) f) ∧
      (s.isMember c g = false → fault (.nest a b) (s.notMem c g))) ∧
    (here → readNest (s.myCore.bytes off 32) = none → fault (.nest a b) { code := .perm, a := 69, b := x }) ∧
    (x.toNat < 4 → AMap.find s.src.nests x.toNat = some z → s.me.outstanding + 5 ≤ 32 →
      (z.lo < z.hi → Answers (.nexti d a) s fun t => asks t ∧ OnlyCore { s with uid := s.uid + 1 } t c ∧
        AMap.find t.me.nests x.toNat = some { z with lo := z.lo + 1 } ∧
        ((∀ o ∈ s.me.outs, o.id ≠ s.uid) → ∃ o, t.me.outs = s.me.outs ++ [o] ∧ o.vals = some (idx z.lo z.counts))) ∧
      (∀ e, z.hi ≤ z.lo → s.counterName c z.name = .ok (.far e n) → Answers (.nexti d a) s fun t => asks t ∧
        ∃ q, t.net = s.net ++ [q] ∧ q.dst = e ∧ q.body = .claim z.name z.total z.least z.k z.m s.cur.ctx s.uid) ∧
      (z.hi ≤ z.lo → s.counterName c z.name = .ok (.loc n) → Answers (.nexti d a) s fun t => asks t ∧
        ∃ q, t.net = s.net ++ [q] ∧ q.dst = c ∧ q.body = .claim z.name z.total z.least z.k z.m s.cur.ctx s.uid)) ∧
    (x.toNat < 4 → AMap.find s.src.nests x.toNat = some z → 32 < s.me.outstanding + 5 → Answers (.nexti d a) s (· = s.parkMe 27)) ∧
    (3 < x.toNat ∨ AMap.find s.src.nests x.toNat = none → fault (.nexti d a) { code := .perm, a := 69, b := x }) ∧
    (s.arriving id = some p → p.body = .claim name total least k m ctx out → s.absent p.dst = false → p.dst % 64 ≠ 63 →
      n = (if isLocal name then (offOf name - ctrBase) / 8 else bits name 0 11) → (s.cell p.dst n).armed = false →
      (left = 0 → Answers (.claimServe id) s fun t => (t.cell p.dst n).value = (s.cell p.dst n).value ∧ t.mem = s.mem ∧
        ∀ o ∈ (t.ctx p.src ctx).outs, o.id = out → o.vals = some [0]) ∧
      (∀ q j y, 0 < size → total < 2 ^ 64 → (s.ctx p.src ctx).outs.find? (fun o => o.id == out) = some q → q.kind = .claim j z →
        AMap.find (s.ctx p.src ctx).nests j = some y → Answers (.claimServe id) s fun t =>
          (t.cell p.dst n).value.toNat = (s.cell p.dst n).value.toNat + size ∧ t.mem = s.mem ∧
          (y.gen = z.gen → AMap.find (t.ctx p.src ctx).nests j =
            some { y with lo := (s.cell p.dst n).value.toNat + 1, hi := (s.cell p.dst n).value.toNat + size }) ∧
          (y.gen ≠ z.gen → AMap.find (t.ctx p.src ctx).nests j = some y) ∧
          ∀ o ∈ (t.ctx p.src ctx).outs, o.id = out → o.vals = some (idx (s.cell p.dst n).value.toNat z.counts)))

/-- R211 to R215: in a running launch the picker gives the first message or descriptor of a channel of the highest priority to the lowest FREE
helper, with its registers clear but `msg` (R23); a message or descriptor that landed in this cycle, or whose release still waits, is not
picked. A descriptor whose entry is no word of instruction memory is dropped with an ALIGN record, and one that cannot be read (R324) with an
ECC record, by the model's choice (log 71). With no
free helper or nothing to pick, no context changes. A channel that has waited 2^20 ticks posts a STARVE record, which names the channel, its
priority and the highest priority dispatched meanwhile. -/
def Obligations.TasksAreDispatchedByPriority : Prop :=
  ∀ (s : State) (c h x i g t0 : Nat) (ch : Channel) (e : Slot), let k := s.core c
    let kept := fun (t : State) => t.mem = s.mem ∧ ∀ d, d ≠ c → t.core d = s.core d
    let entry := match e.kind with
      | .desc off _ => k.num off 4
      | _ => ch.handler.toNat
    let msg := match e.kind with
      | .desc off _ => BitVec.ofNat 64 (2 ^ 63 + off)
      | _ => BitVec.ofNat 64 (2 ^ 63 + (ch.ring + 64 * i))
    let posts := fun (t : State) (cls : Nat) (f : Flt) => PostsRecord s t c (s.record c 15 0xFFFF cls f)
    (s.pick c = some (h, ch, i) → (∀ q ∈ s.pickable c, q.2.1.prio ≤ ch.prio) ∧
      ∃ u, AMap.find ch.slots i = some u ∧ u.taken = false ∧ u.landed < s.now ∧ s.pendingIds c u.waits = false) ∧
    (s.runs c = true → k.frozen = false → k.freeHelper = some x → s.pick c = some (h, ch, i) → (k.chan h).seen s.now = ch → AMap.find ch.slots i = some e →
      (entry ≤ 0xFFFC → entry % 4 = 0 → (∀ off f, e.kind = .desc off f → s.badIn c off 4 = none) → Answers (.taskDispatch c) s fun t => kept t ∧ (t.ctx c x).st = .ready ∧ (t.ctx c x).pc = entry ∧
        (t.ctx c x).task = some (h, i) ∧ t.sreg c x 60 = msg ∧ (∀ r, r ≠ 60 → r ≠ 63 → t.sreg c x r = 0) ∧
        (∀ v, (t.ctx c x).vr v = zeroLanes) ∧ (∀ p, (t.ctx c x).pr p = 0) ∧ (∀ r, (t.ctx c x).tr r = { w0 := 0, w1 := 0, addr := 0 }) ∧
        (t.ctx c x).amask = BitVec.allOnes 64 ∧ (t.ctx c x).flags = 0 ∧ (t.ctx c x).frm = 0 ∧ (t.ctx c x).ccnt = 0 ∧
        (t.ctx c x).wlim = 20 ∧ (t.ctx c x).leaserun = 16 ∧ (∀ y, y ≠ x → t.ctx c y = s.ctx c y) ∧
        (∀ m, m < x → 1 ≤ m → (s.ctx c m).st ≠ .free) ∧ (AMap.find ((t.core c).chan h).slots i).map (·.taken) = some true ∧
        ((t.core c).chan h).head = (i + 1) % ch.depth) ∧
      (∀ off f o, e.kind = .desc off f → s.badIn c off 4 = some o → Answers (.taskDispatch c) s fun t => (∀ y, t.ctx c y = s.ctx c y) ∧ t.mem = s.mem ∧
        (h ≠ 63 → AMap.find ((t.core c).chan h).slots i = none ∧ posts t 3 { code := .ecc, addr := localAddr o })) ∧
      (0xFFFC < entry ∨ entry % 4 ≠ 0 → (∀ off f, e.kind = .desc off f → s.badIn c off 4 = none) →
        Answers (.taskDispatch c) s fun t => (∀ y, t.ctx c y = s.ctx c y) ∧ t.mem = s.mem ∧
        (h ≠ 63 → AMap.find ((t.core c).chan h).slots i = none ∧
          posts t 3 { code := .align, obj := BitVec.ofNat 64 h, a := BitVec.ofNat 64 entry }))) ∧
    (s.runs c = true → k.frozen = true ∨ k.freeHelper = none ∨ s.pick c = none → Answers (.taskDispatch c) s fun t => kept t ∧
      (∀ y, t.ctx c y = s.ctx c y) ∧ ∀ q, (t.core c).byte q = (s.core c).byte q) ∧
    (s.runs c = false → Answers (.taskDispatch c) s (· = s)) ∧
    ((k.chan g).waitFrom = some (i, t0) → t0 + 2 ^ 20 ≤ s.ticks c → Answers (.starve c g) s fun t => kept t ∧
      ((t.core c).chan g).waitFrom = some (i, s.ticks c) ∧ (∀ y, t.ctx c y = s.ctx c y) ∧ posts t 0
        { code := .starve, obj := BitVec.ofNat 64 g, a := BitVec.ofNat 64 (k.chan g).prio, b := BitVec.ofNat 64 (k.chan g).waitMax }) ∧
    ((k.chan g).waitFrom = none ∨ (∃ j u, (k.chan g).waitFrom = some (j, u) ∧ s.ticks c < u + 2 ^ 20) → Answers (.starve c g) s (· = s))

/-- R216, R217: an idle core with a shared ring asks the next core of its groups for a descriptor, one request at a time; the victim's handler
gives the first descriptor of the ring that no task has taken, freeing its slot, or NONE (in deterministic mode at a close alone, R243); the descriptor lands in the thief's reserved
slot, and after NONE from the last victim the thief backs off for 256 ticks. That the order of victims starts anew after a
steal is the model's choice (log 77). -/
def Obligations.IdleCoresStealDescriptors : Prop :=
  ∀ (s : State) (c r v id src ring i off t0 : Nat) (f : Bool) (p : Packet) (sc : Scope) (bs : List Byte) (rest : List HReq), let k := s.core c
    let e := s.core p.dst; let ch := e.chan ring; let vch := k.chan ring
    let idle := k.frozen = false ∧ k.freeHelper ≠ none ∧ s.pickable c = [] ∧ k.stealOut = none ∧ k.stealWait = none
    (k.stealRing = some r → (s.victims c)[k.stealNext]? = some v → s.runs c = true → s.det c = false → idle → Answers (.stealAttempt c) s fun t =>
      (t.core c).stealOut = some (r, v) ∧ ((t.core c).chan r).reserved = (k.chan r).reserved + 1 ∧ t.mem = s.mem ∧
      (∀ d, d ≠ c → t.core d = s.core d) ∧ ∃ q, t.net = s.net ++ [q] ∧ q.src = c ∧ q.dst = v ∧ q.body = .stealReq r) ∧
    (k.stealOut ≠ none ∨ (∃ u, k.stealWait = some u ∧ s.ticks c < u) ∨ k.frozen = true ∨ s.runs c = false → Answers (.stealAttempt c) s (· = s)) ∧
    (s.arriving id = some p → p.body = .stealReq ring → p.dst % 64 ≠ 63 → e.handler.length < 64 → e.frozen = false → Answers (.stealRequest id) s fun t =>
      t.core p.dst = { e with handler := e.handler ++ [.steal p.src ring] } ∧ t.net = s.net.filter fun q => q.id != p.id) ∧
    (k.handler = .steal src ring :: rest → s.handlerHeld c = false → s.closeWork c (.steal src ring) = false → vch.bound = true → vch.share = true → s.badIn c off 32 = none →
      vch.first (fun t => match t.kind with | .desc _ _ => true | _ => false) = some i →
      (AMap.find vch.slots i).map (·.kind) = some (.desc off f) → Answers (.stealServe c) s fun t => (t.core c).handler = rest ∧ t.mem = s.mem ∧
        AMap.find ((t.core c).chan ring).slots i = none ∧ (∀ y, t.ctx c y = s.ctx c y) ∧
        ∃ q, t.net = s.net ++ [q] ∧ q.src = c ∧ q.dst = src ∧ q.body = .stealAns ring (some (k.bytes off 32)) (scopeTo c src)) ∧
    (k.handler = .steal src ring :: rest → s.handlerHeld c = false → s.closeWork c (.steal src ring) = false →
      vch.bound = false ∨ vch.share = false → Answers (.stealServe c) s fun t =>
      (t.core c).handler = rest ∧ (t.core c).channels = k.channels ∧ ∃ q, t.net = s.net ++ [q] ∧ q.dst = src ∧ q.body = .stealAns ring none (scopeTo c src)) ∧
    (s.arriving id = some p → p.body = .stealAns ring (some bs) sc → bs.length = 32 → ch.free = some i → 1 ≤ ch.reserved → Answers (.stealAnswer id) s fun t =>
      (t.core p.dst).stealOut = none ∧ ((t.core p.dst).chan ring).reserved + 1 = ch.reserved ∧
      (AMap.find ((t.core p.dst).chan ring).slots i).map (·.kind) = some (.desc (ch.slotAddr i) true) ∧
      (t.core p.dst).bytes (ch.slotAddr i) 32 = bs ∧ PoolKept s t p.dst (ch.slotAddr i) 64) ∧
    (s.arriving id = some p → p.body = .stealAns ring none sc → Answers (.stealAnswer id) s fun t => (t.core p.dst).stealOut = none ∧
      (e.stealNext + 1 < (s.victims p.dst).length → (t.core p.dst).stealNext = e.stealNext + 1 ∧ (t.core p.dst).stealWait = e.stealWait) ∧
      ((s.victims p.dst).length ≤ e.stealNext + 1 → (t.core p.dst).stealNext = 0 ∧ (t.core p.dst).stealWait = some (s.ticks p.dst + 256))) ∧
    (k.stealWait = some t0 → t0 ≤ s.ticks c → Answers (.stealBackoffExpiry c) s fun t => OnlyCore s t c ∧ t.core c = { k with stealWait := none }) ∧
    (k.stealWait = none ∨ (∃ u, k.stealWait = some u ∧ s.ticks c < u) → Answers (.stealBackoffExpiry c) s (· = s))

/-! ## The event engine -/

/-- R296, R299 to R302, R311 to R313: `PTCFG` gives the engine to its context with a tree of n zero leaves, or frees it; `PSET` sets one leaf, logged
while a snapshot stands, and refuses a rate below zero, or one that makes a node of its path infinite; `PGET` reads a node, and
`PSUM` the total, the clock, GVT, H, E and the region bound, the least time of what is unprocessed. Any other context faults PERM, reason 77. -/
def Sys2Proof.TheTreeHoldsTheRates : Prop :=
  ∀ (s : State) (d a b : BitVec 6), let c := s.cur.core; let e := s.myCore.event; let x := s.rs a; let y := s.rs b; let ch := s.myCore.chan 61
    let mine := s.isCompute c = true ∧ e.owner = some s.cur.ctx
    let fault := fun (o : Instr) (f : Flt) => Answers o s (· = s.raise f)
    let no := ({ code := .perm, a := 77, b := BitVec.ofNat 64 s.cur.ctx } : Flt)
    let field := fun (w : Word) => ({ code := .perm, a := 69, b := w } : Flt)
    let engine := fun (t : State) => (t.core c).event
    let only := fun (t : State) => OnlyCore s t c ∧ t.core c = { s.myCore with event := engine t }
    let leaf : Word32 := if y = 0x80000000 then 0 else y.setWidth 32
    let leaves := AMap.set e.leaves x.toNat leaf
    let bad := 2 ^ 31 ≤ leaf.toNat ∨ 0x7F800000 ≤ leaf.toNat % 2 ^ 31 ∨ ∃ k, k < levels e.n ∧ node leaves (k + 1) (x.toNat / 2 ^ (k + 1)) = 0x7F800000
    (s.isCompute c = true → e.owner = none ∨ e.owner = some s.cur.ctx → y.toNat < 0x7FF0000000000000 →
      (x.toNat ≤ 4096 → x ≠ 0 → ch.bound = true → ch.polled = true → Answers (.ptcfg a b) s fun t => only t ∧ (engine t).owner = some s.cur.ctx ∧
        (engine t).n = x.toNat ∧ (∀ i, AMap.get 0 (engine t).leaves i = 0) ∧ (engine t).clock = y ∧ (engine t).gvt = y ∧
        (engine t).h = 0x7FF0000000000000 ∧ (engine t).e = 0x7FF0000000000000 ∧ (engine t).seq = 0 ∧ (engine t).snaps = []) ∧
      (x = 0 → Answers (.ptcfg a b) s fun t => only t ∧ (engine t).owner = none ∧ (engine t).n = 0) ∧
      (4096 < x.toNat → fault (.ptcfg a b) (field x)) ∧
      (x.toNat ≤ 4096 → x ≠ 0 → ch.bound = false ∨ ch.polled = false → fault (.ptcfg a b) (field 61))) ∧
    (s.isCompute c = true → e.owner = some s.cur.ctx → x.toNat ≤ 4096 → 0x7FF0000000000000 ≤ y.toNat → fault (.ptcfg a b) (field y)) ∧
    (s.isCompute c = false ∨ (e.owner ≠ none ∧ e.owner ≠ some s.cur.ctx) → fault (.ptcfg a b) no ∧ fault (.pset a b) no ∧ fault (.pget d a b) no ∧
      fault (.psum d a) no) ∧
    (mine →
      (x.toNat < e.n → y.toNat < 2 ^ 32 → ¬bad → (e.snaps = [] ∨ e.log.length < 8192) → Answers (.pset a b) s fun t => only t ∧
        AMap.get 0 (engine t).leaves x.toNat = leaf ∧ (∀ i, i ≠ x.toNat → AMap.get 0 (engine t).leaves i = AMap.get 0 e.leaves i) ∧
        (engine t).log = (if e.snaps = [] then e.log else e.log ++ [.leaf x.toNat (AMap.get 0 e.leaves x.toNat)]) ∧
        engine t = { e with leaves := (engine t).leaves, log := (engine t).log }) ∧
      (x.toNat < e.n → y.toNat < 2 ^ 32 → bad → fault (.pset a b) { code := .rate, a := x, b := y }) ∧
      (x.toNat < e.n → y.toNat < 2 ^ 32 → ¬bad → e.snaps ≠ [] → 8192 ≤ e.log.length → fault (.pset a b) { code := .siding, a := 2, b := 8192 }) ∧
      (e.n ≤ x.toNat → fault (.pset a b) (field x) ∧ fault (.pget d a b) (field x)) ∧
      (x.toNat < e.n → y.toNat ≤ levels e.n → Answers (.pget d a b) s (Writes s · d (BitVec.ofNat 64 (node e.leaves y.toNat (x.toNat / 2 ^ y.toNat))))) ∧
      (x.toNat < e.n → levels e.n < y.toNat → fault (.pget d a b) (field y)) ∧
      (x = 0 → Answers (.psum d a) s (Writes s · d (BitVec.ofNat 64 (node e.leaves (levels e.n) 0)))) ∧
      (x = 1 → Answers (.psum d a) s (Writes s · d e.clock)) ∧ (x = 3 → Answers (.psum d a) s (Writes s · d e.gvt)) ∧
      (x = 4 → Answers (.psum d a) s (Writes s · d e.h)) ∧ (x = 5 → Answers (.psum d a) s (Writes s · d e.e)) ∧
      (5 < x.toNat → fault (.psum d a) (field x)) ∧
      (∀ ti, x = 2 → d ≠ 0 → d ≠ 63 → s.nextTime e = .ok ti →
        let times := ti :: (((e.inbox.filter fun i => decide (i.landed < s.now) && (i.cancel || i.done.isNone)).map fun i => i.key.time) ++
          e.flight.map (·.time) ++ e.cancels.map (·.time))
        Answers (.psum d a) s fun t => t.mine d ∈ times ∧ (∀ w ∈ times, (t.mine d).toNat ≤ w.toNat) ∧ (engine t).clock = e.clock ∧
          (engine t).leaves = e.leaves ∧ t.mem = s.mem ∧ ∀ o ∈ (engine t).owed, s.now ≤ o.landed))

/-- R302 to R304, R314: with nothing to roll back and no CANCEL to send, `NEXTEV` gives the lesser of the engine's own next event and the first
unprocessed TIMED: the index of a leaf that the second draw picks, with the clock at its time and two draws used, or the address of the
message, now processed; all ones where neither comes within the horizon. CANCELs still to send make it wait, and a rollback without
a snapshot faults SIDING. -/
def Sys2Proof.NextEventIsTheLeastInTime : Prop :=
  ∀ (s : State) (d : BitVec 6) (w : BitVec 5) (ti : Word) (qd : Nat) (i : InEntry) (K : EvKey), let c := s.cur.core; let e := s.myCore.event
    let mine := s.isCompute c = true ∧ e.owner = some s.cur.ctx
    let calm := mine ∧ e.rollKey s.now = none ∧ e.cancels = []
    let seen := e.inbox.filter fun i => decide (i.landed < s.now) && !i.cancel && i.done.isNone
    let limit := minTime (BitVec.ofNat 64 (fmt64.addB .rne e.gvt.toNat e.h.toNat).1) e.e
    let engine := fun (t : State) => (t.core c).event
    (calm → s.nextTime e = .ok ti → seen = [] →
      (ti = 0x7FF0000000000000 ∨ limit.toNat < ti.toNat → Answers (.nextev d w) s (Writes s · d (BitVec.allOnes 64))) ∧
      (ti.toNat < 0x7FF0000000000000 → ti.toNat ≤ limit.toNat → s.eventDraw (s.src.rord + 1).toNat false = .ok qd → Answers (.nextev d w) s fun t =>
        (d ≠ 0 → d ≠ 63 → t.mine d = BitVec.ofNat 64 (pickLeaf e.leaves (levels e.n) 0 (fmt32.mulB .rne qd (node e.leaves (levels e.n) 0)).1)) ∧
        (∀ r, r ≠ d → t.mine r = s.mine r) ∧ t.me.rord = s.me.rord + 2 ∧
        engine t = { e with clock := ti, last := { time := ti, region := some (s.rel c), seq := e.seq.toNat } } ∧ t.mem = s.mem)) ∧
    (calm → s.nextTime e = .ok ti → seen = [i] → i.key.time ≠ 0x7FF0000000000000 → i.key.time.toNat ≤ limit.toNat →
      i.key.time.toNat < ti.toNat → Answers (.nextev d w) s fun t =>
        (d ≠ 0 → d ≠ 63 → t.mine d = BitVec.ofNat 64 (2 ^ 63 + ((s.myCore.chan 61).ring + 64 * i.slot))) ∧ t.me.rord = s.me.rord + 2 ∧
        (engine t).clock = i.key.time ∧ (engine t).last = i.key ∧ (engine t).doneN = e.doneN + 1 ∧
        ({ i with done := some e.doneN } ∈ (engine t).inbox) ∧ (engine t).leaves = e.leaves ∧ t.mem = s.mem) ∧
    (mine → e.rollKey s.now = none → e.cancels ≠ [] → s.cur.again = false → Answers (.nextev d w) s fun t =>
      t.me.st = .waiting ∧ t.me.s = s.me.s ∧ engine t = e ∧ ∃ u, t.me.wait = some u ∧ u.limit = 2 ^ (if w = 0 then s.me.wlim.toNat else w.toNat)) ∧
    (mine → e.rollKey s.now = some K → e.snapBefore K = none → Answers (.nextev d w) s (· = { s with free := s.free + 1 }.raise { code := .siding, a := 4, b := K.time })) ∧
    (¬mine → Answers (.nextev d w) s (· = s.raise { code := .perm, a := 77, b := BitVec.ofNat 64 s.cur.ctx }))

/-- R303, R306, R315: `EVSEND` sends a TIMED to channel 61 of a compute core, with the region's clock and sequence before its payload words; the
sequence goes up by one, the message stays in flight, and a snapshot has it recorded. A slot reserved before a stall is the one it uses.
That the SIDING check comes before the reservation is the model's choice (log 45), as is that a TIMED of six user words has a payload of eight (log 21). -/
def Sys2Proof.EventSendsCarryTheClock : Prop :=
  ∀ (s : State) (a b : BitVec 6), let c := s.cur.core; let e := s.myCore.event; let h := s.rs a; let x := s.rs b; let n := hWords h
    let ch := s.myCore.chan (hRchan h)
    let has := s.me.resv = some (hRchan h)
    let mine := s.isCompute c = true ∧ e.owner = some s.cur.ctx
    let dest := s.inRange c (hDest h) = true ∧ s.isCompute (s.phys c (hDest h)) = true ∧ s.inRange c (hRcore h) = true
    let payload := n = 0 ∨ (x.toNat % 8 = 0 ∧ inScratch s.myCore x (8 * n) = true ∧ s.ownAtoms (offOf x) (8 * n) = [] ∧ s.myCore.marked (offOf x) (8 * n) = none ∧
      s.badIn c (offOf x) (8 * n) = none)
    let g := header (hDest h) 61 (hRcore h) (hRchan h) 0x0A (n + 2) (hTag h)
    let fault := fun (i v : Nat) => Answers (.evsend a b) s (· = s.raise { code := .perm, a := BitVec.ofNat 64 i, b := BitVec.ofNat 64 v })
    (mine → dest → n ≤ 6 → payload → hRcore h = s.rel c → (e.snaps = [] ∨ e.sends.length < 1024) → has ∨ ch.used < ch.depth →
      s.myCore.awaiting < s.myCore.window → Answers (.evsend a b) s fun t => let v := (t.core c).event
        (∃ q ws, t.net = s.net ++ [q] ∧ q.src = c ∧ q.dst = s.phys c (hDest h) ∧ q.id = s.uid ∧
          q.body = .words g (e.clock :: e.seq.setWidth 64 :: ws) ∧ ws.length = n ∧ ∀ i, i < n → ws.getD i 0 = s.myCore.word (offOf x + 8 * i)) ∧
        v.seq = e.seq + 1 ∧ v.clock = e.clock ∧ (∃ f, v.flight = e.flight ++ [f] ∧ f.time = e.clock ∧ f.pkt = s.uid ∧ f.cancel = false) ∧
        v.sends.length = e.sends.length + (if e.snaps = [] then 0 else 1) ∧ ((t.core c).chan (hRchan h)).reserved = ch.reserved + (if s.me.resv = some (hRchan h) then 0 else 1) ∧
        t.me.resv = none ∧ t.mem = s.mem) ∧
    (mine → s.inRange c (hDest h) = false ∨ s.isCompute (s.phys c (hDest h)) = false → fault 52 (hDest h)) ∧
    (mine → dest → 6 < n → fault 16 n) ∧
    (mine → dest → n ≤ 6 → payload → hRcore h ≠ s.rel c → fault 34 (hRcore h)) ∧
    (mine → dest → n ≤ 6 → payload → hRcore h = s.rel c → e.snaps ≠ [] → 1024 ≤ e.sends.length →
      Answers (.evsend a b) s (· = s.raise { code := .siding, a := 3, b := 1024 })) ∧
    (¬mine → Answers (.evsend a b) s (· = s.raise { code := .perm, a := 77, b := BitVec.ofNat 64 s.cur.ctx }))

/-- R307 to R309, R316: `SNAP` records the region's state; `SLOG` stores a word and logs what it held; `ROLLB` undoes the log back to the latest
snapshot before its time, with clock, sequence and ordinal as they were, and a CANCEL for every TIMED sent since, or faults SIDING with
none or, by a reason left free (log 45), where the cancel queue would pass its 1,024; `FOSSIL` moves GVT, dropping nothing that the latest snapshot up to GVT needs, and `HORIZ` sets H and E. -/
def Obligations.TheSidingUndoesWhatItLogged : Prop :=
  ∀ (s : State) (a b : BitVec 6) (S : Snap) (n : Nat), let c := s.cur.core; let e := s.myCore.event; let x := s.rs a; let y := s.rs b; let off := offOf x
    let mine := s.isCompute c = true ∧ e.owner = some s.cur.ctx
    let engine := fun (t : State) => (t.core c).event
    let fault := fun (o : Instr) (f : Flt) => Answers o s (· = s.raise f)
    let field := fun (w : Word) => ({ code := .perm, a := 69, b := w } : Flt)
    let inf : Nat := 0x7FF0000000000000
    let K : EvKey := { time := x }
    let room := x.toNat % 8 = 0 ∧ isLocal x = true ∧ off + 8 ≤ s.myCore.spSize ∧ s.atomsAt c s.cur.ctx (.pool off) = [] ∧ s.myCore.marked off 8 = none
    let gone := e.log.drop S.logN
    let stays := fun (r : SendRec) => e.flight.any fun f => f.pkt == r.pkt && f.again.isSome
    let cancels := e.cancels.length + ((e.sends.drop S.sendN).filter fun r => !stays r).length
    let oldLeaf := fun (i : Nat) => gone.findSome? fun l => match l with
      | .leaf j o => if j = i then some o else none
      | .bytes _ _ => none
    (mine →
      (e.snaps.length < 256 → Answers .snap s fun t => OnlyCore s t c ∧ engine t = { e with snaps := e.snaps ++ [⟨e.clock, s.src.rord, e.seq, e.last, e.log.length, e.sends.length, e.doneN⟩] }) ∧
      (256 ≤ e.snaps.length → fault .snap { code := .siding, a := 1, b := 256 }) ∧
      (x.toNat ≤ inf → e.snapBefore K = some (S, n) → cancels ≤ 1024 → Answers (.rollb a) s fun t =>
        (engine t).clock = S.clock ∧ (engine t).seq = S.seq ∧ (engine t).last = S.last ∧ t.me.rord = S.rord ∧ (engine t).log = e.log.take S.logN ∧
        (engine t).sends = e.sends.take S.sendN ∧ (engine t).snaps = e.snaps.take n ∧
        (∀ i, AMap.get 0 (engine t).leaves i = (oldLeaf i).getD (AMap.get 0 e.leaves i)) ∧
        (∀ r ∈ e.sends.drop S.sendN, (∀ f ∈ e.flight, f.pkt = r.pkt → f.again = none) → ∃ q ∈ (engine t).cancels, q.time = r.time ∧ q.seq = r.seq) ∧
        t.mem = s.mem) ∧
      (x.toNat ≤ inf → e.snapBefore K = some (S, n) → 1024 < cancels → Answers (.rollb a) s
        (· = { s with free := s.free + 1 }.raise { code := .siding, a := Config.freeWord s.free, b := 1024 })) ∧
      (x.toNat ≤ inf → e.snapBefore K = none → Answers (.rollb a) s (· = { s with free := s.free + 1 }.raise { code := .siding, a := 4, b := x })) ∧
      (inf < x.toNat → fault (.rollb a) (field x) ∧ fault (.fossil a) (field x) ∧ fault (.horiz a b) (field x)) ∧
      (room → (e.snaps = [] ∨ (e.log.length < 8192 ∧ s.badIn c off 8 = none)) → Answers (.slog a b) s fun t => PoolKept s t c off 8 ∧ (t.core c).word off = y ∧
        (engine t).log = (if e.snaps = [] then e.log else e.log ++ [.bytes off (s.myCore.word off)]) ∧
        engine t = { e with log := (engine t).log } ∧ t.mem = s.mem ∧ ∀ z, t.ctx c z = s.ctx c z) ∧
      (room → e.snaps ≠ [] → 8192 ≤ e.log.length → fault (.slog a b) { code := .siding, a := 2, b := 8192 }) ∧
      (x.toNat % 8 ≠ 0 → fault (.slog a b) { code := .align, a := x, addr := x }) ∧
      (x.toNat % 8 = 0 → isLocal x = false → fault (.slog a b) { code := .pool, a := x, addr := x }) ∧
      (x.toNat ≤ inf → e.gvt.toNat ≤ x.toNat → Answers (.fossil a) s fun t => (engine t).gvt = x ∧ (engine t).clock = e.clock ∧
        (engine t).leaves = e.leaves ∧ t.me.rord = s.me.rord ∧ t.mem = s.mem ∧ (engine t).snaps.length ≤ e.snaps.length) ∧
      (x.toNat ≤ inf → x.toNat < e.gvt.toNat → fault (.fossil a) (field x)) ∧
      (x.toNat ≤ inf → y.toNat ≤ inf → Answers (.horiz a b) s fun t => OnlyCore s t c ∧ engine t = { e with h := x, e := y }) ∧
      (x.toNat ≤ inf → inf < y.toNat → fault (.horiz a b) (field y))) ∧
    (¬mine → let no := ({ code := .perm, a := 77, b := BitVec.ofNat 64 s.cur.ctx } : Flt);
      fault .snap no ∧ fault (.rollb a) no ∧ fault (.slog a b) no ∧ fault (.fossil a) no ∧ fault (.horiz a b) no)

/-- R304 to R306, R308: a TIMED that reaches a bound ch61 with room enters it and the inbox; else it is refused. A CANCEL annihilates with the
unprocessed TIMED that it was built to cancel, waits beside one that has been processed, and is dropped with a LATE record where there is none, but with no
record where its TIMED was itself refused. A refused TIMED is sent again after its 256 ticks, unless its CANCEL is on its way, and the cancel
queue sends its CANCELs in order. The pairing by message, the silent discard and the wait for a CANCEL on its way are the model's choice (log 45);
the eight words that a TIMED may have behind its header rest on log 21. -/
def Sys2Proof.TheInboxKeepsTimedMessages : Prop :=
  ∀ (s : State) (id c : Nat) (p : Packet) (h : Word) (ws : List Word), let e := s.core p.dst; let ch := e.chan 61; let k := s.core c
    let key : EvKey := { time := ws.getD 0 0, region := some (hRcore h), seq := (ws.getD 1 0).toNat % 2 ^ 32 }
    let lands := fun (kind : SlotKind) (i : Nat) (t : State) => t.mem = s.mem ∧ t.net = s.net.filter (fun q => q.id != id) ∧ PoolKept s t p.dst (ch.slotAddr i) 64 ∧
      (∀ j, j < ws.length + 1 → j < 8 → (t.core p.dst).word (ch.slotAddr i + 8 * j) = (h :: ws).getD j 0) ∧
      (AMap.find ((t.core p.dst).chan 61).slots i).map (·.kind) = some kind
    let refused := fun (o : Instr) (kind : Nat) => Answers o s fun t => t.cores = s.cores ∧ t.mem = s.mem ∧
      ∃ q, t.net = s.net.filter (fun q => q.id != id) ++ [q] ∧ q.dst = p.src ∧ q.body = .refusedTimed kind (hRchan h) h p.id
    let here := s.arrivingWords id = some (p, h, ws) ∧ p.dst % 64 ≠ 63 ∧ ws.length ≤ 8
    let gone := ((s.core p.src).event.flight.find? fun f => f.pkt == p.id).bind (·.gone)
    let x : Nat → InEntry := fun i => { slot := i, key := key, cancel := true, src := p.src, landed := s.now, done := none, pkt := p.id, gone := gone }
    let lost := { s with net := s.net.filter fun q => q.id != id }.neverTaken p.src gone
    let target := fun (i : Nat) => { e.event with inbox := e.event.inbox ++ [x i] }.target (x i)
    (∀ o kind, here → (o = .timedArrival id ∧ hKind h = 0x0A ∧ kind = SlotKind.timed) ∨ (o = .cancelArrival id ∧ hKind h = 0x0B ∧ kind = .cancel) →
      (s.absent p.dst = true → refused o 0x0F) ∧ (s.absent p.dst = false → ch.bound = false → refused o 0x0E) ∧
      (s.absent p.dst = false → ch.bound = true → ch.room = false → refused o 0x02)) ∧
    (here → s.absent p.dst = false → ch.bound = true → ch.room = true → ∀ i, ch.free = some i →
      (hKind h = 0x0A → Answers (.timedArrival id) s fun t => lands .timed i t ∧
        ∃ n, (t.core p.dst).event.inbox = e.event.inbox ++ [n] ∧ n.slot = i ∧ n.key = key ∧ n.cancel = false ∧ n.done = none) ∧
      (∀ m, hKind h = 0x0B → target i = some m → m.done ≠ none → Answers (.cancelArrival id) s fun t => lands .cancel i t ∧
        ∃ n, (t.core p.dst).event.inbox = e.event.inbox ++ [n] ∧ n.key = key ∧ n.cancel = true) ∧
      (∀ m, hKind h = 0x0B → target i = some m → m.done = none → m.slot ≠ i → Answers (.cancelArrival id) s fun t =>
        (∀ n ∈ (t.core p.dst).event.inbox, n ≠ m ∧ n ∈ e.event.inbox) ∧ t.mem = s.mem ∧
        AMap.find ((t.core p.dst).chan 61).slots m.slot = none ∧ AMap.find ((t.core p.dst).chan 61).slots i = none) ∧
      (hKind h = 0x0B → target i = none → Answers (.cancelArrival id) s fun t => t.mem = s.mem ∧
        (∀ n ∈ (t.core p.dst).event.inbox, n ∈ e.event.inbox) ∧
        (lost = false → PostsRecord s t p.dst (s.record p.dst 15 0xFFFF 0
          { code := .siding, obj := BitVec.ofNat 64 (hRcore h), a := 5, b := key.time, d0 := BitVec.ofNat 64 key.seq })) ∧
        (lost = true → t.queues = s.queues ∧ (t.core p.dst).chan 63 = e.chan 63))) ∧
    (∀ f u, k.event.flight = [f] → f.gone ≠ some f.pkt → f.again = some u → u ≤ s.ticks c → k.awaiting < k.window → (k.chan (hRchan f.hdr)).used < (k.chan (hRchan f.hdr)).depth →
        Answers (.timedResend c) s fun t => (∃ q, t.net = s.net ++ [q] ∧ q.id = s.uid ∧ q.src = c ∧ q.dst = s.phys c (hDest f.hdr) ∧ q.body = .words f.hdr f.payload) ∧
          (t.core c).event.flight = [{ f with again := none, pkt := s.uid }] ∧ (t.core c).awaiting = k.awaiting + 1) ∧
    ((∀ f ∈ k.event.flight, ∀ u, f.again = some u → s.ticks c < u ∨ ∃ g ∈ k.event.flight, g.gone = some f.pkt ∧ g.again = none) →
      Answers (.timedResend c) s (· = s)) ∧
    (∀ r rest, k.event.cancels = r :: rest → k.awaiting < k.window → (k.chan (hRchan r.hdr)).used < (k.chan (hRchan r.hdr)).depth →
        Answers (.cancelSend c) s fun t => (∃ q, t.net = s.net ++ [q] ∧ q.src = c ∧ q.dst = s.phys c (hDest r.hdr) ∧ q.body = .words r.hdr [r.time, r.seq.setWidth 64]) ∧
          (t.core c).event.cancels = rest ∧ ∃ g, (t.core c).event.flight = k.event.flight ++ [g] ∧ g.cancel = true ∧ g.gone = some r.pkt ∧ g.time = r.time) ∧
    (k.event.cancels = [] ∨ k.window ≤ k.awaiting → Answers (.cancelSend c) s (· = s))

/-! ## Tiles, Turntables and engines -/

/-- R130, R131, R138, R154 to R158: `THDR` loads a header of the scratchpad whose checks pass; `TSTH` stores a handle with its check byte; `TMAKE`
makes one from sb at the address in sa, its data 16 bytes on; `TSET` replaces one field, the address or a word; each keeps the check byte right
and faults on a field that R130 does not allow; `TGET` gives the address. -/
def Sys2Proof.TileHandleInstructionsKeepTheirChecks : Prop :=
  ∀ (s : State) (d a b : BitVec 6) (n : BitVec 4), let x := s.rs a; let y := s.rs b; let c := s.cur.core; let k := s.myCore; let r := s.rt n; let off := offOf x
    let sets := fun (o : Instr) (v : TReg) => Answers o s fun t => OnlyMe s t ∧ t.me = { s.me with t := t.me.t } ∧ t.me.tr n.toNat = v ∧
      ∀ m, m ≠ n.toNat → t.me.tr m = s.me.tr m
    let fault := fun (o : Instr) (f : Flt) => Answers o s (· = s.raise f)
    let at16 := isLocal x = true ∧ x.toNat % 16 = 0 ∧ off + 16 ≤ k.spSize
    let to48 := fun (w : Word) => BitVec.ofNat 48 (w.toNat / 2 ^ 63 * 2 ^ 47 + w.toNat % 2 ^ 47)
    let addrOk := fun (w : Word) => w.toNat % 16 = 0 ∧ w.toNat / 2 ^ 47 % 2 ^ 16 = 0
    let check := fun (w0 w1 : Word) => setField w1 56 8 (hdrCheck w0 w1)
    (at16 → s.ownAtoms off 16 = [] → k.marked off 16 = none → s.badIn c off 16 = none → let w0 := k.word off; let w1 := k.word (off + 8)
      (checkHdr n.toNat w0 w1 = .ok () → sets (.thdr n a) { w0 := w0, w1 := w1, addr := to48 x }) ∧
      (∀ f, checkHdr n.toNat w0 w1 = .error f → fault (.thdr n a) f)) ∧
    (at16 → s.ownAtoms off 16 = [] → k.marked off 16 = none → Answers (.tsth n a) s fun t => PoolKept s t c off 16 ∧ (t.core c).word off = r.w0 ∧
      (t.core c).word (off + 8) = check r.w0 r.w1 ∧ (∀ z, t.ctx c z = s.ctx c z) ∧ t.mem = s.mem) ∧
    (¬at16 → fault (.thdr n a) { code := .pool, a := x } ∧ fault (.tsth n a) { code := .pool, a := x }) ∧
    (addrOk x → let w1 := check y (0x100000000 : Word)
      (checkHandle n.toNat y w1 = .ok () → sets (.tmake n a b) { w0 := y, w1 := w1, addr := to48 x }) ∧
      (∀ f, checkHandle n.toNat y w1 = .error f → fault (.tmake n a b) f)) ∧
    (x.toNat % 16 ≠ 0 → fault (.tmake n a b) { code := .align, a := x }) ∧
    (let v := s.rs b; let i := (s.rs a).toNat % 16
      (∀ word lo len, [(0, 0, 4, 4), (1, 0, 8, 4), (2, 0, 12, 2), (3, 0, 14, 1), (4, 0, 15, 1), (5, 0, 16, 12), (6, 0, 28, 12), (7, 0, 40, 16), (8, 1, 0, 16),
          (9, 1, 16, 16), (10, 1, 32, 16), (11, 1, 48, 1), (12, 1, 49, 1)].contains (i, word, lo, len) = true →
        let u := if i = 5 ∨ i = 6 then (v - 1).toNat else v.toNat
        let w0 := if word = 0 then setField r.w0 lo len u else r.w0; let w1 := check w0 (if word = 1 then setField r.w1 lo len u else r.w1)
        (u < 2 ^ len → checkHandle n.toNat w0 w1 = .ok () → sets (.tset n a b) { r with w0 := w0, w1 := w1 }) ∧
        (u < 2 ^ len → ∀ f, checkHandle n.toNat w0 w1 = .error f → fault (.tset n a b) f)) ∧
      (i = 13 → addrOk v → checkHandle n.toNat r.w0 (check r.w0 r.w1) = .ok () → sets (.tset n a b) { w0 := r.w0, w1 := check r.w0 r.w1, addr := to48 v }) ∧
      (i = 14 → checkHandle n.toNat v (check v r.w1) = .ok () → sets (.tset n a b) { r with w0 := v, w1 := check v r.w1 }) ∧
      (i = 15 → checkHandle n.toNat r.w0 (check r.w0 v) = .ok () → sets (.tset n a b) { r with w1 := check r.w0 v })) ∧
    Answers (.tget d n) s (Writes s · d (if r.addr.getLsbD 47 then BitVec.ofNat 64 (2 ^ 63 + r.addr.toNat % 2 ^ 47) else BitVec.ofNat 64 r.addr.toNat))

/-- R147, R148, R150, R159 to R161: only C0 of a compute core holds a lease. `LEASE` of a holder changes nothing, of one that gives its lease up and is still current keeps it, and
else waits; `MREL` ends the lease at once with no command under way and no `LEASE` waiting, the next candidate of the current lessee's array taking
it, else when the last command ends; `MSTAT` reads the slot with its queued commands counted as run. An idle array
takes the first candidate in turn, granting its lease, and at a change of lessee the live values go to the old lessee's banks (half a word at their end that meets
a word in error excepted, R324). A wait that
expires faults WAIT with the lessee and the number of holders. That `MSTAT` reads the bits of commands still queued as though they had run on the
tiles as they stand is the model's choice (log 32), and so is that in deterministic mode a core becomes current for its `LEASE` at a close
alone (log 81). -/
def Obligations.LeasesPassInTurn : Prop :=
  ∀ (s : State) (d : BitVec 6) (p k j o cc cx : Nat) (W : Wait), let c := s.cur.core; let q := s.slot c; let T := s.tt (c / 64) (c % 64 / 8); let tt := c % 64 / 8
    let gone := s.updSlot c fun q => { q with holds := false, mrel := false }
    let fault := fun (i : Instr) (r b : Nat) (t : Nat) => Answers i s (· = s.raise { code := .lease, obj := BitVec.ofNat 64 t, a := BitVec.ofNat 64 r, b := BitVec.ofNat 64 b })
    let ok := s.cur.ctx = 0 ∧ s.isCompute c = true
    let ahead := s.aheadSlot c; let U := s.tt p k; let V := s.turns p k; let co := coreAt p k o; let cj := coreAt p k j
    (ok → q.holds = true → q.mrel = false → Answers .lease s (· = s)) ∧
    (ok → q.holds = true → q.mrel = true → T.current = some (c % 8) → Answers .lease s fun t => t.cores = s.cores ∧ t.slot c = { q with mrel := false }) ∧
    (ok → q.holds = false ∨ (q.mrel = true ∧ T.current ≠ some (c % 8)) → s.cur.again = false → Answers .lease s fun t => t.slot c = { q with waits := true } ∧
      t.me = { s.me with st := .waiting, wait := some { instr := .lease, start := s.ticks c, limit := 2 ^ s.me.wlim.toNat } }) ∧
    (s.cur.ctx ≠ 0 → fault .lease 1 s.cur.ctx ((s.ttOf c).getD 15) ∧ fault .mrel 1 s.cur.ctx ((s.ttOf c).getD 15)) ∧
    (s.cur.ctx = 0 → s.isCompute c = false → fault .lease 2 (c % 64) 15 ∧ fault .mrel 2 (c % 64) 15) ∧
    (ok → q.holds = true → q.mrel = false →
      (s.ttBusy c ≠ 0 ∨ q.waits = true → Answers .mrel s fun t => t.cores = s.cores ∧ t.slot c = { q with mrel := true }) ∧
      (s.ttBusy c = 0 → q.waits = false → T.current ≠ some (c % 8) → Answers .mrel s fun t => t.cores = s.cores ∧
        t.slot c = { q with holds := false, mrel := false }) ∧
      (s.ttBusy c = 0 → q.waits = false → T.current = some (c % 8) → Answers .mrel s fun t => t.mem = s.mem ∧ (t.slot c).holds = false ∧
        (t.slot c).mrel = false ∧ (t.slot c).live = false ∧ (t.tt (c / 64) tt).current = (gone.turns (c / 64) tt).scan)) ∧
    (ok → q.holds = false ∨ q.mrel = true → Answers .mrel s (· = s)) ∧
    (s.isCompute c = false → Answers (.mstat d) s (Writes s · d (BitVec.ofNat 64 15 <<< 48))) ∧
    (s.isCompute c = true → Answers (.mstat d) s (Writes s · d (BitVec.ofNat 64 tt <<< 48 ||| BitVec.ofNat 64 T.holders <<< 40 |||
      BitVec.ofNat 64 (q.iCols - 1) <<< 28 ||| BitVec.ofNat 64 (q.iRows - 1) <<< 16 ||| BitVec.ofNat 64 (s.ttBusy c) <<< 8 ||| BitVec.ofNat 64 q.iMode <<< 6 |||
      BitVec.ofNat 64 (ahead.nar.any id).toNat <<< 5 ||| BitVec.ofNat 64 (ahead.sat.any id).toNat <<< 4 ||| BitVec.ofNat 64 (decide (q.iRows ≠ 0)).toNat <<< 3 |||
      BitVec.ofNat 64 ahead.spilled.toNat <<< 2 ||| BitVec.ofNat 64 ahead.live.toNat <<< 1 ||| BitVec.ofNat 64 q.holds.toNat))) ∧
    (U.current = none → V.scan = some j → j < 8 → k < 8 → Answers (.turntableRunEnd p k) s fun t => (t.tt p k).current = some j ∧
      (t.tt p k).last = j ∧ (t.tt p k).runLimit = (s.ctx cj 0).leaserun.toNat ∧ t.mem = s.mem ∧
      ((U.slot j).waits = true → s.det cj = false → (t.slot cj).holds = true ∧ (t.slot cj).waits = false)) ∧
    (U.current = some o → o < 8 → j < 8 → k < 8 → V.scan = some j → j ≠ o → V.runOver s.now = true → (U.slot o).live = true →
      (let N := (U.slot o).acc.length * accBytes (U.slot o).mode; N % 8 = 0 ∨ s.storeEcc co (accBase + (N - N % 8)) (N % 8) = none) → Answers (.turntableRunEnd p k) s fun t =>
      (t.tt p k).current = some j ∧ (t.slot co).live = false ∧ (t.slot co).spilled = true ∧ t.mem = s.mem ∧
      (∀ i, i < (U.slot o).acc.length →
        (t.core co).bytes (accBase + accBytes (U.slot o).mode * i) (accBytes (U.slot o).mode) = accPattern (U.slot o).mode ((U.slot o).acc.getD i 0))) ∧
    (V.runOver s.now = false → Answers (.turntableRunEnd p k) s (· = s)) ∧
    ((s.slot cc).waits = true → let t := s.grantLeases [cc]; (t.slot cc).waits = false ∧ (t.slot cc).holds = true ∧ (t.slot cc).mrel = false ∧
      (t.tt (cc / 64) (cc % 64 / 8)).current = some (cc % 8) ∧ t.mem = s.mem) ∧
    (s.expired cc cx = some W → W.instr = .lease → Answers (.leaseExpiry cc cx) s fun t => t.mem = s.mem ∧ (t.slot cc).waits = false ∧
      ∃ f, t.cur.fate = .fault f ∧ f.code = .wait ∧ f.obj = BitVec.ofNat 64 (cc % 64 / 8) ∧ f.b = BitVec.ofNat 64 (s.tt (cc / 64) (cc % 64 / 8)).holders ∧
        ∀ i, (s.tt (cc / 64) (cc % 64 / 8)).current = some i → f.a = BitVec.ofNat 64 (8 * (cc % 64 / 8) + i)) ∧
    (s.expired cc cx = none → Answers (.leaseExpiry cc cx) s (· = s))

/-- R130, R131, R138, R156: a header passes whose fields are all in range and whose check byte is the CRC-8 of its bytes 0 to 14; else the tag
faults first, then the check, then the lowest of the codes 2 to 7, with the value that stands in the field. A handle's words, whose check byte has
just been computed, are looked at for the codes 1 to 5. -/
def Sys2Proof.HeaderChecksFollowTheirTable : Prop :=
  ∀ (n : Nat) (w0 w1 : Word), let fmt := bits w0 4 4; let scl := bits w0 8 4; let spr := bits w0 12 2
    let shift := fun (c : BitVec 8) => if c.getLsbD 7 then c <<< 1 ^^^ 7#8 else c <<< 1
    let crc := (List.range 15).foldl (fun c i => (List.range 8).foldl (fun c _ => shift c) (c ^^^ ((w1 ++ w0) >>> (8 * i)).setWidth 8)) 0#8
    let bad := fun (k v : Nat) => (k = 1 ∧ bits w0 0 4 ≠ 0xB ∧ v = bits w0 0 4) ∨ (k = 2 ∧ 9 ≤ fmt ∧ fmt ≤ 14 ∧ v = fmt) ∨ (k = 3 ∧ 6 ≤ scl ∧ v = scl) ∨
      (k = 4 ∧ 2 ≤ spr ∧ v = spr) ∨
      (k = 5 ∧ ((bits w0 56 8 ≠ 0 ∧ v = bits w0 56 8) ∨ (bits w0 56 8 = 0 ∧ bits w1 50 6 ≠ 0 ∧ v = bits w1 50 6))) ∨ (k = 6 ∧ bits w1 32 16 = 0 ∧ v = 0) ∨
      (k = 7 ∧ ((scl ≠ 0 ∧ bits w1 0 16 = 0) ∨ (spr = 1 ∧ bits w1 16 16 = 0)) ∧ v = 0)
    let first := fun (k v : Nat) => bad k v ∧ ∀ j u, j < k → ¬bad j u
    let field := fun (k v : Nat) => ({ code := .hdrfld, obj := BitVec.ofNat 64 n, a := BitVec.ofNat 64 k, b := BitVec.ofNat 64 v, d0 := w0, d1 := w1 } : Flt)
    hdrCheck w0 w1 = crc.toNat ∧
    (checkHdr n w0 w1 = .ok () ↔ (∀ k v, ¬bad k v) ∧ bits w1 56 8 = crc.toNat) ∧
    (∀ k v, first k v → k = 1 ∨ bits w1 56 8 = crc.toNat → checkHdr n w0 w1 = .error (field k v)) ∧
    (bits w0 0 4 = 0xB → bits w1 56 8 ≠ crc.toNat → checkHdr n w0 w1 =
      .error { code := .hdrchk, obj := BitVec.ofNat 64 n, a := BitVec.ofNat 64 (bits w1 56 8), b := crc.setWidth 64, d0 := w0, d1 := w1 }) ∧
    (checkHandle n w0 w1 = .ok () ↔ ∀ k v, k ≤ 5 → ¬bad k v) ∧ (∀ k v, k ≤ 5 → first k v → checkHandle n w0 w1 = .error (field k v))

/-- R138, R142, R143, R150, R163: what `MMA` and `MMAG` accept (v and idx name the gather register and its lanes): headers whose checks pass, a
combination of R142's table, the shapes of R143, both tiles inside the scratchpad, and a slot whose shape and mode agree. A SHAPE
record names the lowest code that is not met. The check of `ccnt` is the last (log 28). -/
def Sys2Proof.MmaChecksFollowTheirTables : Prop :=
  ∀ (s : State) (tt ra rb rc mode : Nat) (A B C : TReg) (v : Option (BitVec 5)) (idx : Option (List Nat)), let q := s.slot s.cur.core; let k := s.myCore
    let m := if A.fmt = 0 ∧ B.fmt = 0 then 1 else if A.fmt ≤ 1 ∧ B.fmt ≤ 1 then 2 else if A.fmt = 2 ∧ B.fmt = 2 then 3 else 0
    let combo := m ≠ 0 ∧ A.isLocal = true ∧ B.isLocal = true ∧ (A.scl ∈ [0, 1, 2] ∨ (A.scl = 4 ∧ m ≠ 3)) ∧ (B.scl ∈ [0, 1, 3] ∨ (B.scl = 5 ∧ m ≠ 3)) ∧
      B.spr = 0 ∧ (A.spr = 1 → A.colMajor = false) ∧ (idx ≠ none → A.colMajor = false)
    let shape := fun (n : Nat) => (n = 1 → A.cols = B.rows) ∧ (n = 2 → if idx = none then C.rows = A.rows else C.rows ≤ 64) ∧ (n = 3 → C.cols = B.cols) ∧
      (n = 4 → C.rows ≤ 256 ∧ C.cols ≤ if m = 2 then 64 else 128) ∧ (n = 5 → A.lineBytes A.fmt 0 ≤ 16 * A.pitch ∧ B.lineBytes B.fmt 0 ≤ 16 * B.pitch) ∧
      (n = 6 → ∀ l, idx = some l → ∀ i y, i < C.rows → l[i]? = some y → y < A.rows) ∧ (n = 7 → A.spr = 1 → A.cols % 4 = 0)
    (s.mmaCheck tt ra rb rc A B C v idx = .ok mode ↔ mode = m ∧ checkHdr ra A.w0 A.w1 = .ok () ∧ checkHdr rb B.w0 B.w1 = .ok () ∧ checkHdr rc C.w0 C.w1 = .ok () ∧
      combo ∧ (∀ w, v = some w → AMap.find s.src.streams w.toNat = none) ∧ (∀ n, shape n) ∧
      A.base + A.extent A.fmt 0 ≤ k.spSize ∧ B.base + B.extent B.fmt 0 ≤ k.spSize ∧ q.iRows ≠ 0 ∧ C.rows = q.iRows ∧ C.cols = q.iCols ∧
      (q.iMode = 0 ∨ q.iMode = m) ∧ C.rows * C.cols * accBytes m ≤ k.accSize ∧ s.ccntOk = .ok ()) ∧
    ∀ f, s.mmaCheck tt ra rb rc A B C v idx = .error f → f.code = .shape → ∃ n, f.a = BitVec.ofNat 64 n ∧ 1 ≤ n ∧ n ≤ 7 ∧ ¬shape n ∧ ∀ j, j < n → shape j

/-- R138, R142, R143, R150 to R152, R162, R163, R165, R167, R168: a Turntable or tile-unit command whose checks pass enters its core's queue with its
operands as they stand and what its release waits for, the accesses of its core's contexts and what holds its own context's earlier actions (R270), and its context goes on; with 16 outstanding the context stalls; a check that fails faults with nothing queued.
Accumulator commands need the lease. That `ccnt` is checked last is the model's choice (log 28), as are the tile unit's 16 entries of
its own (log 76). -/
def Sys2Proof.EngineCommandsAreQueued : Prop :=
  ∀ (s : State) (ra rb rc : BitVec 4) (a : BitVec 6) (v : BitVec 5) (mode : Nat) (f : Flt), let c := s.cur.core; let q := s.slot c; let k := s.myCore
    let A := s.rt ra; let B := s.rt rb; let C := s.rt rc; let tt := c % 64 / 8
    let held := s.cur.ctx = 0 ∧ s.isCompute c = true ∧ q.holds = true ∧ q.mrel = false
    let idx := (s.src.vr v.toNat).map (·.toNat)
    let queues := fun (o : Instr) (rows cols m : Nat) (tc : TReg) (amax : Option Word) => (s.ttBusy c < 16 → Answers o s fun t => t.cores = s.cores ∧ t.mem = s.mem ∧
        ∃ e, (t.slot c).queue = q.queue ++ [e] ∧ e.op = o ∧ e.ctx = s.cur.ctx ∧ e.ccnt = s.src.ccnt ∧ e.tc = tc ∧ e.amax = amax ∧ e.waits = s.coveredCore c .core ++ s.unsent c s.cur.ctx ∧
          (t.slot c).iRows = rows ∧ (t.slot c).iCols = cols ∧ (t.slot c).iMode = m ∧ (t.slot c).acc = q.acc) ∧
      (16 ≤ s.ttBusy c → Answers o s (· = s.stallMe .queue))
    let tile := fun (o : Instr) (tc : TReg) => (s.tileBusy c < 16 → Answers o s fun t => OnlyCore { s with uid := t.uid } t c ∧
        ∃ e, t.core c = { k with tileQ := k.tileQ ++ [e] } ∧ e.op = o ∧ e.tc = tc ∧ e.ccnt = s.src.ccnt ∧ e.waits = s.coveredCore c .core ++ s.unsent c s.cur.ctx) ∧
      (16 ≤ s.tileBusy c → Answers o s (· = s.stallMe .tileUnit))
    let fault := fun (o : Instr) => Answers o s (· = s.raise f)
    let no := fun (o : Instr) => Answers o s (· = s.raise { code := .lease, obj := BitVec.ofNat 64 tt, a := 3 })
    (held → checkHdr rc.toNat C.w0 C.w1 = .ok () → C.rows ≤ 256 → C.cols ≤ 128 → C.rows * C.cols * 8 ≤ k.accSize → s.ccntOk = .ok () →
      queues (.mzero rc) C.rows C.cols 0 C none) ∧
    (held → s.mmaCheck tt ra.toNat rb.toNat rc.toNat A B C none none = .ok mode → queues (.mma rc ra rb) q.iRows q.iCols mode C none) ∧
    (held → s.mmaCheck tt ra.toNat rb.toNat rc.toNat A B C (some v) (some idx) = .ok mode → queues (.mmag rc ra rb v) q.iRows q.iCols mode C none) ∧
    (held → checkHdr rc.toNat C.w0 C.w1 = .ok () → C.isLocal = true → C.fmt ≤ 4 ∨ C.fmt = 15 → C.scl ≤ 1 → C.spr = 0 →
      C.lineBytes (drainFmt C q.iMode) 0 ≤ 16 * C.pitch → C.rows = q.iRows → C.cols = q.iCols → q.iRows ≠ 0 →
      C.base + C.extent (drainFmt C q.iMode) 0 ≤ k.spSize → a = 0 ∨ (s.rs a).toNat % 4 = 0 → s.ccntOk = .ok () →
      queues (.mdrain rc a) q.iRows q.iCols q.iMode C (if a = 0 then none else some (s.rs a))) ∧
    (held → s.mmaCheck tt ra.toNat rb.toNat rc.toNat A B C none none = .error f → fault (.mma rc ra rb)) ∧
    (held → s.mmaCheck tt ra.toNat rb.toNat rc.toNat A B C (some v) (some idx) = .error f → fault (.mmag rc ra rb v)) ∧
    (held → checkHdr rc.toNat C.w0 C.w1 = .error f → fault (.mzero rc) ∧ fault (.mdrain rc a)) ∧
    (s.cur.ctx = 0 → s.isCompute c = true → q.holds = false ∨ q.mrel = true → no (.mzero rc) ∧ no (.mma rc ra rb) ∧ no (.mmag rc ra rb v) ∧ no (.mdrain rc a)) ∧
    (checkHdr ra.toNat A.w0 A.w1 = .ok () → checkHdr rc.toNat C.w0 C.w1 = .ok () → srcOk true A = true → dstOk true A C = true →
      moveShape ra.toNat rc.toNat A C 2 0 = .ok () → A.base + A.extent A.fmt 2 ≤ k.spSize →
      (let e := moved A C 0; e.base + e.extent e.fmt 2 ≤ k.spSize) → s.ccntOk = .ok () → tile (.tcvt rc ra) C) ∧
    (checkHdr ra.toNat A.w0 A.w1 = .ok () → checkHdr rb.toNat B.w0 B.w1 = .ok () → checkHdr rc.toNat C.w0 C.w1 = .ok () →
      (∀ T, T = A ∨ T = B → T.isLocal = true ∧ T.fmt ≤ 1 ∧ T.scl ≤ 3 ∧ T.spr = 0 ∧ T.fmt = A.fmt ∧ T.lineBytes T.fmt 0 ≤ 16 * T.pitch ∧
        T.rows = A.rows ∧ T.cols = A.cols ∧ T.base + T.extent T.fmt 0 ≤ k.spSize) →
      C.isLocal = true → C.fmt ≤ 2 ∨ C.fmt = 4 ∨ C.fmt = 15 → C.scl ≤ 1 → C.spr = 0 → C.lineBytes (aqFmt C A) 0 ≤ 16 * C.pitch → C.rows = A.rows → C.cols = A.cols →
      C.base + C.extent (aqFmt C A) 0 ≤ k.spSize → s.ccntOk = .ok () → tile (.aqadd rc ra rb) C) ∧
    (checkHdr ra.toNat A.w0 A.w1 = .error f → fault (.tcvt rc ra) ∧ fault (.aqadd rc ra rb))

/-- R139, R141, R144, R148, R152, R162, R163, R165, R167, R168, R274: the command at the head of a queue runs. `MZERO` leaves a live slot of zeros; `MMA` and `MMAG` leave the
slot's accumulators with the products of their rows added, each element of a tile whole, as it stood at some moment since the fork, and no byte of memory
changed; `MDRAIN` has the elements of the slot and the header to write into the tile, and no byte outside it; the tile unit writes through its
core's pool alone, once the release of its command is complete. The writes come word by word up to completion. A command that
ends without a fault ORs its flags into C0's and adds 1 to its counter, one with a fault sets the counter's fault bit. -/
def Sys2Proof.EngineCommandsRunAndComplete : Prop :=
  ∀ (s : State) (p k c id : Nat) (cmd : TCmd) (F : Fin) (rest : List TCmd), let q := s.slot c; let T := cmd.tc
    let ran := fun (t : State) (flt : Option Flt) (flags : Bits6) => (t.tt p k).runN = (s.tt p k).runN + 1 ∧ (t.slot c).queue = q.queue.tail ∧ t.mem = s.mem ∧
      ∃ e, t.fins = s.fins ++ [e] ∧ e.id = cmd.id ∧ e.core = c ∧ e.flt = flt ∧ e.flags = flags ∧ e.ccnt = cmd.ccnt ∧ (flt ≠ none → e.ws = [])
    let fmt := drainFmt T q.mode
    let rda := s.engineRd cmd.id c cmd.ta; let rdb := s.engineRd cmd.id c cmd.tb 1; let mel := (q.drain fmt T.sat 0).1
    let clean := areaFlt cmd.ta (cmd.ta.areaBad rda cmd.rows cmd.rows) = none ∧ areaFlt cmd.tb (cmd.tb.areaBad rdb (List.range cmd.tb.cols) []) = none ∧
      s.tileEcc c cmd.ta cmd.ta.fmt 0 (cmd.ta.linesOf cmd.rows) = none ∧ s.tileEcc c cmd.tb cmd.tb.fmt 0 (List.range cmd.tb.lines) = none
    let acc := fun (i j : Nat) => accumulate cmd.mode cmd.ta.cols cmd.ta cmd.tb rda rdb (cmd.rows.getD i 0) j (q.acc.getD (i * q.cols + j) 0)
      (q.sat.getD (i * q.cols + j) false) (q.nar.getD (i * q.cols + j) false)
    (∀ t k n, ∃ e, PoolSeen s cmd.id c e ∧ ∀ o, s.engineRd cmd.id c t k n o = e.byte (t.base + o)) ∧
    (s.turnHead p k = some (c, cmd) → c / 64 = p → c % 64 / 8 = k →
      (∀ z, cmd.op = .mzero z → Answers (.mzeroRun p k) s fun t => ran t none 0 ∧ t.cores = s.cores ∧ (t.slot c).live = true ∧ (t.slot c).mode = 0 ∧
        (t.slot c).rows = T.rows ∧ (t.slot c).cols = T.cols ∧ (t.slot c).acc = List.replicate (T.rows * T.cols) 0 ∧ (t.slot c).sat.any id = false) ∧
      ((∃ x y z, cmd.op = .mma x y z) ∨ (∃ x y z w, cmd.op = .mmag x y z w) → clean → Answers (.mmaRun p k) s fun t => (∃ fl, ran t none fl) ∧ t.cores = s.cores ∧
        (t.slot c).mode = cmd.mode ∧ (t.slot c).live = q.live ∧ ∀ i j, i < cmd.rows.length → j < q.cols →
          (t.slot c).acc.getD (i * q.cols + j) 0 = (acc i j).1 ∧ (t.slot c).sat.getD (i * q.cols + j) false = (acc i j).2.1 ∧
          (t.slot c).nar.getD (i * q.cols + j) false = (acc i j).2.2.1) ∧
      (∀ f, (∃ x y z, cmd.op = .mma x y z) → s.areaEcc c cmd.ta = none → areaFlt cmd.ta (cmd.ta.areaBad rda cmd.rows cmd.rows) = some f → Answers (.mmaRun p k) s fun t =>
        ran t (some f) 0 ∧ t.cores = s.cores ∧ (t.slot c).acc = q.acc) ∧
      (∀ x y, cmd.op = .mdrain x y → cmd.amax = none → T.scl = 0 → T.spr = 0 → T.rows = q.rows → T.cols = q.cols → T.fmt ≤ 4 ∨ T.fmt = 15 →
        T.lineBytes fmt 0 ≤ 16 * T.pitch → 16 ≤ T.dataOff → s.tileStoreEcc c T (T.writes fmt mel) = none → Answers (.mdrainRun p k) s fun t =>
          (∃ fl, ran t none fl) ∧ t.cores = s.cores ∧ (t.slot c).acc = q.acc ∧ ∀ e ∈ t.fins.getLast?, let w := s.engineWrites c e.ws
          PoolKept s w c T.base (T.extent fmt 0) ∧ (w.core c).word T.base = setField T.w0 4 4 fmt ∧
          (T.colMajor = false → fmt ≠ 0 → ∀ i j, i < q.rows → j < q.cols → let n := i * q.cols + j
            (w.core c).num (T.base + T.lineAt i + fmtSize fmt 0 * j) (fmtSize fmt 0) =
              (drainElem fmt q.mode T.sat 0 (q.acc.getD n 0) (q.sat.getD n false) (q.nar.getD n false) (q.eA.getD i 0) (q.eB.getD j 0)).1.1 % 2 ^ (8 * fmtSize fmt 0))) ∧
      (∀ x y f, cmd.op = .mdrain x y → T.scl = 0 → s.tileStoreEcc c T (T.writes fmt mel) = some f → Answers (.mdrainRun p k) s fun t => ran t (some f) 0 ∧ t.cores = s.cores)) ∧
    (s.turnHead p k = none → Answers (.mzeroRun p k) s (· = s) ∧ Answers (.mmaRun p k) s (· = s) ∧ Answers (.mdrainRun p k) s (· = s)) ∧
    ((s.core c).tileQ = [] ∨ ((s.core c).tileQ = cmd :: rest ∧ s.pendingIds c cmd.waits = true) → Answers (.tileUnitRun c) s (· = s)) ∧
    ((s.core c).tileQ = cmd :: rest → s.pendingIds c cmd.waits = false → (∃ x y, cmd.op = .tcvt x y) ∨ (∃ x y z, cmd.op = .aqadd x y z) → Answers (.tileUnitRun c) s fun t =>
      (t.core c).tileQ = rest ∧ t.mem = s.mem ∧ (∀ d, d ≠ c → t.core d = s.core d) ∧ (∀ z, t.ctx c z = s.ctx c z) ∧
      (∀ z, (t.core c).byte z = (s.core c).byte z) ∧
      ∃ e, t.fins = s.fins ++ [e] ∧ e.id = cmd.id ∧ e.core = c ∧ e.ccnt = cmd.ccnt ∧ e.merge = false ∧ (e.flt ≠ none → e.ws = [])) ∧
    (s.fins.find? (fun f => f.id == id) = some F → (s.slot F.core).mrel = false →
      (F.merge = true → Answers (.engineCommandComplete id) s (· = s)) ∧
      (F.merge = false → F.flt = none → F.ccnt = 0 → Answers (.engineCommandComplete id) s fun t => t.fins = s.fins.filter (fun f => f.id != id) ∧ t.mem = s.mem ∧
        (∀ a, (t.core F.core).byte a = ((s.engineWrites F.core F.ws).core F.core).byte a) ∧ (t.ctx F.core 0) = { s.ctx F.core 0 with flags := (s.ctx F.core 0).flags ||| F.flags }) ∧
      (∀ n, F.merge = false → F.flt = none → F.ccnt ≠ 0 → s.counterName F.core F.ccnt = .ok (.loc n) → s.det F.core = false → (s.cell F.core n).armed = false →
        (s.cell F.core n).value ≠ BitVec.allOnes 64 → Answers (.engineCommandComplete id) s fun t =>
          (.stage 3 ∉ s.work → (t.cell F.core n).value = (s.cell F.core n).value + 1) ∧
          (.stage 3 ∈ s.work → t.cell F.core n = s.cell F.core n ∧ ∃ q ∈ t.net, q.src = F.core ∧ q.dst = F.core ∧ q.released = true ∧
            q.body = .cadd n 1 (BitVec.ofNat 12 (s.rel F.core)) 15 F.ccnt) ∧
          (t.ctx F.core 0).flags = (s.ctx F.core 0).flags ||| F.flags ∧ t.mem = s.mem) ∧
      (∀ n e, F.merge = false → F.flt = some e → F.ccnt ≠ 0 → s.counterName F.core F.ccnt = .ok (.loc n) → s.det F.core = false →
        Answers (.engineCommandComplete id) s fun t => (t.cell F.core n).fault = true ∧ (t.cell F.core n).cause = 0x19 ∧
          (t.cell F.core n).value = (s.cell F.core n).value ∧ (t.ctx F.core 0).flags = (s.ctx F.core 0).flags))

/-- R141, R144, R146, R153, R167, R168: the command at the head of the tile unit's queue, its release complete, runs: `TCVT` of a source
with no fault has its elements to write as the destination takes them, `AQADD` the sums of two tiles' elements, each with the header last and no
byte outside the tile, and the command leaves the queue with its flags and no fault. -/
def Sys2Proof.TheTileUnitConvertsAndAdds : Prop :=
  ∀ (s : State) (c : Nat) (cmd : TCmd) (rest : List TCmd), let k := s.core c; let A := cmd.ta; let B := cmd.tb; let T := cmd.tc
    let rda := s.engineRd cmd.id c A; let rdb := s.engineRd cmd.id c B 1; let rdt := s.engineRd cmd.id c T 2
    let ran := fun (t : State) (flags : Bits6) (P : State → Prop) => OnlyCore s { t with fins := s.fins } c ∧ t.core c = { k with tileQ := rest } ∧
      ∃ e, t.fins = s.fins ++ [e] ∧ e.id = cmd.id ∧ e.core = c ∧ e.ccnt = cmd.ccnt ∧ e.merge = false ∧ e.flt = none ∧ e.flags = flags ∧ P (s.engineWrites c e.ws)
    let holds := fun (t : State) (E : TReg) (f : Nat) (code : Nat → Nat → Nat) => E.colMajor = false → f ≠ 0 → 16 ≤ E.dataOff → ∀ i j, i < E.rows → j < E.cols →
      (t.core c).num (E.base + E.lineAt i + fmtSize f 0 * j) (fmtSize f 0) = code i j % 2 ^ (8 * fmtSize f 0)
    let M := accMode A rda; let E := landing A T M; let G := moved A T M; let g := aqFmt T A
    let el : Elems := A.cells.map fun x => aqElem (if A.fmt = 0 then 4 else 8) g T.sat ((A.elem rda 0 x.1 x.2).getD 0) ((B.elem rdb 0 x.1 x.2).getD 0)
      (A.expo rda x.1 x.2) (B.expo rdb x.1 x.2) (T.expo rdt 0 0)
    let sum := fun (i j : Nat) => aqElem (if A.fmt = 0 then 4 else 8) g T.sat ((A.elem rda 0 i j).getD 0) ((B.elem rdb 0 i j).getD 0) (A.expo rda i j)
      (B.expo rdb i j) (T.expo rdt 0 0)
    k.tileQ = cmd :: rest → s.pendingIds c cmd.waits = false →
      (∀ x y, cmd.op = .tcvt x y → srcOk true A = true → dstOk true A T = true → tcvtFlt s cmd.id c A T = none → s.tileStoreEcc c T (moveWrites A T rda rdt).1 = none →
        Answers (.tileUnitRun c) s fun t => ran t (moveWrites A T rda rdt).2 fun t => PoolKept s t c T.base (G.extent G.fmt M) ∧ (t.core c).word T.base = E.w0 ∧
        (isVerbatim A T = false → holds t E E.fmt fun i j => (Elems.at (convertElems A E rda (T.expo rdt 0 0)) (i * A.cols + j)).1)) ∧
      (∀ x y z, cmd.op = .aqadd x y z → s.tileEcc c A A.fmt 0 (List.range A.lines) = none → s.tileEcc c B B.fmt 0 (List.range B.lines) = none →
        s.scaleEcc c T = none → T.rows = A.rows → T.cols = A.cols → T.spr = 0 → T.scl ≤ 1 → g ≤ 5 → T.lineBytes g 0 ≤ 16 * T.pitch → s.tileStoreEcc c T (T.writes g el) = none →
        Answers (.tileUnitRun c) s fun t => ∃ fl, ran t fl fun t => PoolKept s t c T.base (T.extent g 0) ∧ (t.core c).word T.base = setField T.w0 4 4 g ∧ holds t T g fun i j => (sum i j).1)

/-- R36, R169: `JQNEXT` asks the block-queue unit of its partition for the next block of a round, and the unit hands the blocks of a round out in order,
each once; a later round starts at block 0, and an earlier one, or one whose blocks are gone, is answered with all ones. -/
def Obligations.BlockQueuesHandOutEachBlockOnce : Prop :=
  ∀ (s : State) (d a : BitVec 6) (id q r n ctx out round next : Nat) (p : Packet), let w := s.rs a; let part := (p.dst - 4096) / 8
    let serve := fun (v : Word) (k : Nat × Nat) => Answers (.jqnextServe id) s fun t => AMap.get (0, 0) (t.part part).jq q = k ∧
      (∀ j, j ≠ q → AMap.get (0, 0) (t.part part).jq j = AMap.get (0, 0) (s.part part).jq j) ∧ t.mem = s.mem ∧
      ∀ o ∈ (t.ctx p.src ctx).outs, o.id = out → o.vals = some [v] ∧ o.flt = none
    (s.me.outstanding < 32 → Answers (.jqnext d a) s fun t => Asks s t .jq [d] 1 ∧ ∃ e, t.net = s.net ++ [e] ∧ e.src = s.cur.core ∧
      e.dst = agent (s.cur.core / 64) 5 ∧ e.body = .jq (w.toNat % 16) (w.toNat / 2 ^ 16 % 2 ^ 16) (w.toNat / 2 ^ 32) s.cur.ctx s.uid) ∧
    (32 ≤ s.me.outstanding → Answers (.jqnext d a) s (· = s.parkMe 31)) ∧
    (s.deliverable id = some p → p.body = .jq q r n ctx out → 4096 ≤ p.dst → AMap.get (0, 0) (s.part part).jq q = (round, next) → r < 65536 → round < 65536 →
      (r = round → next < n → serve (BitVec.ofNat 64 next) (round, next + 1)) ∧
      (r = round → n ≤ next → serve (BitVec.allOnes 64) (round, next)) ∧
      (0 < (r + 65536 - round) % 65536 → (r + 65536 - round) % 65536 < 32768 → 0 < n → serve 0 (r, 1)) ∧
      (32768 ≤ (r + 65536 - round) % 65536 → serve (BitVec.allOnes 64) (round, next)))

/-! ## The host -/

/-- R340, R341, R343: a command is taken from an enabled queue whose doorbell shows one more, in a module that is ready; else nothing changes. An opcode that is
not assigned and a reserved field that is not zero complete BADCMD, and change nothing else. `LOAD` brings a file as long as its size field says; `QUERY`
is one instruction for each selector, and any of the four for a selector above 3. -/
def Sys2Proof.CommandsAreTakenInTurn : Prop :=
  ∀ (s : State) (q op : Nat) (cmd mask : List Word) (o : Instr) (file : List Byte),
    (∀ k, [(Instr.queryDomainState q cmd, 0), (.querySliceCapacities q cmd, 1), (.queryHarvestState q cmd, 2), (.queryPackageFigures q cmd, 3)].contains (o, k) = true →
      (s.canTake q = false → Answers o s (· = s)) ∧
      (s.canTake q = true → arg cmd 0 1 = 9 → reservedClear cmd [0xFF] = false → arg cmd 8 1 = k ∨ 3 < arg cmd 8 1 → Answers o s (OnlyDone s · q cmd 1 []))) ∧
    (file.length = arg cmd 16 8 → [(Instr.loadImage q cmd file, 0x01, [BitVec.allOnes 64, BitVec.allOnes 64]), (.preempt q cmd, 0x04, []), (Instr.launch q cmd, 0x02, [0xFFFFFFFF0001FFFF, BitVec.allOnes 64]), (.cancelLaunch q cmd, 0x03, [0xFFFFFFFF]), (.resume q cmd, 0x05, [0xFFFF]),
      (.mapPages q cmd, 0x06, [BitVec.allOnes 64, 0xFFFFFFFF, BitVec.allOnes 64]), (.unmapPages q cmd, 0x07, [BitVec.allOnes 64, 0x1FFFFFFFF]),
      (.tlbflush q cmd, 0x08, [BitVec.allOnes 64, 0xFFFFFFFF]), (.pmread q cmd, 0x0A, [0xFFFF]), (.partcfg q cmd, 0x0B, [0xFFFFFFFF0001FFFF]),
      (.reset q cmd, 0x0C, [0xFF])].contains (o, op, mask) = true →
    (s.canTake q = false → Answers o s (· = s)) ∧
    (s.canTake q = true → arg cmd 0 1 ≠ op → 1 ≤ arg cmd 0 1 → arg cmd 0 1 ≤ 12 → Answers o s (· = s)) ∧
    (s.canTake q = true → arg cmd 0 1 = 0 ∨ 12 < arg cmd 0 1 → Answers o s (OnlyDone s · q cmd 1 [])) ∧
    (s.canTake q = true → arg cmd 0 1 = op → reservedClear cmd mask = false → Answers o s (OnlyDone s · q cmd 1 [])))

/-- R48 to R51, R341: `LOAD` of a file that is an image gives it the next handle; any other completes BADIMG. R23, R47, R52, R238 to R240, R341, R344: `LAUNCH` of a known
image is queued, and `CANCEL` takes a queued one out; a domain that runs nothing and has nothing saved dispatches the oldest, whose roles are then set up; the
go makes C0 of every core that has an entry point READY; and once two sweeps in a row have found the domain idle with every message sunk, the launch ends with
its LAUNCHEND entry, behind the records still on their way (R178), its contexts FREE with their registers as they ended (R13). That the go completes on
the stations' own grid, 160 cycles after the boundary that follows its issue, and that a sweep samples on its boundary, is the model's choice
(log 53), as are that a `LAUNCH` posts nothing when it is taken and its DONE stands at its dispatch (log 49), the id that the end is reported under (log 54), the checks that make a file no image (log 57) and what setup leaves of cores
without a role (log 60). -/
def Obligations.LaunchesRunFromQueueToEnd : Prop :=
  ∀ (s : State) (q dom : Nat) (cmd : List Word) (file : List Byte), let base := s.queueDom q; let D := s.domain base; let d := s.domain dom
    let n := arg cmd 12 4; let img := arg cmd 8 2; let id : Word32 := BitVec.ofNat 32 (arg cmd 8 4)
    let posts := fun (t : State) (p : Nat) (e : List Word) => ∃ es, (t.queue p).ring ++ (t.queue p).held = (s.queue p).ring ++ (s.queue p).held ++ es ++ [e] ∧
      ((∀ g w r, ∀ x ∈ s.net, x.body = .fault g w r → s.baseOf (partOfKey x.dst) ≠ dom) → es = [])
    (Takes s q cmd 0x01 [BitVec.allOnes 64, BitVec.allOnes 64] → file.length = arg cmd 16 8 →
      (imageOk file = true → Answers (.loadImage q cmd file) s fun t => Done s t q cmd 0 [BitVec.ofNat 64 D.nextImg] ∧
        AMap.find (t.domain base).images D.nextImg = some (readImage file) ∧ (t.domain base).nextImg = D.nextImg + 1 ∧ t.cores = s.cores ∧ t.mem = s.mem) ∧
      (imageOk file = false → Answers (.loadImage q cmd file) s (OnlyDone s · q cmd 2 []))) ∧
    (Takes s q cmd 0x02 [0xFFFFFFFF0001FFFF, BitVec.allOnes 64] →
      (n = 0 ∨ (1024 ≤ n ∧ n ≤ 2 ^ 20) → (AMap.find D.images img).isSome = true → Answers (.launch q cmd) s fun t => Completes s t q [] ∧ t.cores = s.cores ∧
        (t.domain base).queued = D.queued ++ [(q, cmdId cmd, img, (cmd.getD 1 0).getLsbD 16, if n = 0 then 16384 else n, cmd.getD 2 0)]) ∧
      (n = 0 ∨ (1024 ≤ n ∧ n ≤ 2 ^ 20) → AMap.find D.images img = none → Answers (.launch q cmd) s (OnlyDone s · q cmd 3 [])) ∧
      (n ≠ 0 → n < 1024 ∨ 2 ^ 20 < n → Answers (.launch q cmd) s (OnlyDone s · q cmd 1 []))) ∧
    (Takes s q cmd 0x03 [0xFFFFFFFF] → let isIt := fun (l : Launch) => l.q == q && l.id == id
      ((∃ e ∈ D.queued, e.1 = q ∧ e.2.1 = id) → Answers (.cancelLaunch q cmd) s fun t =>
        Completes s t q [doneEntry q id 13 [], doneEntry q (cmdId cmd) 0 []] ∧ (t.domain base).queued.length + 1 = D.queued.length ∧ t.cores = s.cores) ∧
      ((∀ e ∈ D.queued, ¬(e.1 = q ∧ e.2.1 = id)) → D.launch.any isIt = true → Answers (.cancelLaunch q cmd) s (OnlyDone s · q cmd 6 [])) ∧
      ((∀ e ∈ D.queued, ¬(e.1 = q ∧ e.2.1 = id)) → D.launch.any isIt = false → D.saves = [] → Answers (.cancelLaunch q cmd) s (OnlyDone s · q cmd 7 []))) ∧
    (∀ p k h det N args rest I, d.queued = (p, k, h, det, N, args) :: rest → d.launch = none → d.saves = [] → AMap.find d.images h = some I →
      (∀ x ∈ s.domParts dom, (s.part x).down = false) → s.placementBad dom I = false → Answers (.launchDispatch dom) s fun t =>
        (∃ l, (t.domain dom).launch = some l ∧ l.phase = .setup ∧ l.q = p ∧ l.id = k ∧ l.det = det ∧ l.quantum = N ∧ l.args = args) ∧
        (t.domain dom).queued = rest ∧ doneEntry p k 0 [] ∈ (t.queue p).ring ++ (t.queue p).held ∧ t.mem = s.mem ∧
        ∀ c ∈ s.domCores dom, ∀ i, (s.rolesAt dom I (s.rel c)).head? = some i → let r := AMap.get {} I.roles i
          (t.core c).rfu = bits r.poolw 0 4 ∧ (t.core c).acc = bits r.poolw 4 8 ∧ (∀ x, (t.ctx c x).st = .free) ∧
          (r.entry ≠ 0xFFFFFFFF → (t.ctx c 0).pc = r.entry.toNat) ∧ t.sreg c 0 1 = args ∧ t.sreg c 0 2 = BitVec.ofNat 64 (s.rel c) ∧
          t.sreg c 0 3 = BitVec.ofNat 64 (s.computeCount dom) ∧ t.sreg c 0 4 = BitVec.ofNat 64 (2 ^ d.log2) ∧
          t.sreg c 0 62 = BitVec.ofNat 64 (2 ^ 63 + bits r.poolw 12 8 * 2048) ∧ (t.ctx c 0).rkey0 = r.rkey0 ∧ (t.ctx c 0).rkey1 = r.rkey1) ∧
    (d.queued = [] ∨ d.launch ≠ none ∨ d.saves ≠ [] → Answers (.launchDispatch dom) s (· = s)) ∧
    (∀ l, d.launch = some l →
      (l.phase = .setup → Answers (.go dom) s fun t => (t.domain dom).launch = some { l with phase := .going (8 * (s.now / 8 + 1) + 160) } ∧ t.cores = s.cores) ∧
      (l.phase ≠ .setup → Answers (.go dom) s (· = s)) ∧
      (∀ g, l.phase = .going g → s.now < g → Answers (.goComplete dom) s (· = s)) ∧
      (∀ g, l.phase = .going g → g ≤ s.now → l.resumed = false → Answers (.goComplete dom) s fun t =>
        (∃ m, (t.domain dom).launch = some m ∧ m.phase = .running ∧ m.start = s.now) ∧ t.mem = s.mem ∧
        ∀ c ∈ s.domCores dom, (s.core c).starts = true → (t.ctx c 0).st = .ready ∧ ∀ x, x ≠ 0 → t.ctx c x = s.ctx c x) ∧
      (l.phase = .running → l.det = false → (s.now - l.start) % 8 = 0 → l.sweep = none →
        (s.tapIdle dom l false = true → Answers (.sweep dom) s fun t => t.cores = s.cores ∧
          (t.domain dom).launch = some { l with sweep := some (s.now + 168), now := some (true, (s.traffic dom).1, (s.traffic dom).2) }) ∧
        (s.tapIdle dom l false = false → Answers (.sweep dom) s (· = s))) ∧
      (∀ t0 a b, l.phase = .running → l.sweep = some t0 → l.now = some (true, a, b) →
        (s.now < t0 → Answers (.launchEnd dom) s (· = s)) ∧
        (t0 ≤ s.now → a ≠ b ∨ l.prev ≠ some (a, b) → Answers (.launchEnd dom) s fun t => t.cores = s.cores ∧
          (t.domain dom).launch = some { l with sweep := none, now := none, prev := some (a, b) }) ∧
        (t0 ≤ s.now → a = b → l.prev = some (a, b) → Answers (.launchEnd dom) s fun t => (t.domain dom).launch = none ∧ t.mem = s.mem ∧
          (∀ g w r, ∀ p ∈ s.net, p.body = .fault g w r → s.baseOf (partOfKey p.dst) = dom →
            w ∈ (t.queue (s.hostQueue (partOfKey p.dst))).ring ++ (t.queue (s.hostQueue (partOfKey p.dst))).held) ∧
          posts t l.q ([2#64 ||| BitVec.ofNat 64 dom <<< 16 ||| BitVec.ofNat 64 l.id.toNat <<< 32, 0, BitVec.ofNat 64 (s.cycles dom)] ++ List.replicate 5 0) ∧
          ∀ c ∈ s.domCores dom, (t.core c).event = { (s.core c).event with owner := none } ∧
            ∀ x, (t.ctx c x).st = .free ∧ (t.ctx c x).s = (s.ctx c x).s ∧ (t.ctx c x).rord = (s.ctx c x).rord ∧ (t.ctx c x).flags = (s.ctx c x).flags)))

/-- R327: `PREEMPT` of a running launch stops it 168 cycles after the next boundary: nothing issues from its stop cycle on, and every wait whose use has not committed is given up, its
instruction to issue again. An arrival whose use has not committed is withdrawn (R233). R262, R263, R328: a quiet domain is saved under a handle, with every core's memories, counters, channels and area, whose check holds. R329: `RESUME` puts a good save back,
ready for the go, and says why another cannot be. That a `PREEMPT` is not taken before the launch runs, and what the stop gives up of committed
work, is the model's choice (log 52), as are the host queue of a resumed launch (log 54) and where an area and its sections lie (log 15). -/
def Obligations.PreemptionSavesAndResumes : Prop :=
  ∀ (s : State) (q dom : Nat) (cmd : List Word), let base := s.queueDom q; let D := s.domain base; let d := s.domain dom; let h := arg cmd 8 2
    (Takes s q cmd 0x04 [] →
      (D.launch = none → Answers (.preempt q cmd) s (OnlyDone s · q cmd 0 [0xFFFF])) ∧
      (∀ l, D.launch = some l → l.phase = .running → Answers (.preempt q cmd) s fun t => Completes s t q [] ∧ t.cores = s.cores ∧
        (t.domain base).launch = some { l with phase := .stopping (s.nextBoundary base + 168) q (cmdId cmd).toNat })) ∧
    (∀ l, D.launch = some l → l.phase ≠ .running → Takes s q cmd 0x04 [] → Answers (.preempt q cmd) s (· = s)) ∧
    (∀ l t0 p k, d.launch = some l → l.phase = .stopping t0 p k →
      (s.now < t0 → Answers (.preemptStop dom) s (· = s)) ∧
      (t0 ≤ s.now → Answers (.preemptStop dom) s fun t => t.mem = s.mem ∧ t.net = s.net ∧
        ∃ m, (t.domain dom).launch = some m ∧ m.phase = .stopped t0 p k ∧ m.base = l.base + (s.now - l.start) ∧
          ∀ g, (AMap.get {} m.groups g).arrivals = if l.useCommitted t0 (AMap.get {} l.groups g) = true then (AMap.get {} l.groups g).arrivals else [])) ∧
    (∀ l t0 p k, d.launch = some l → l.phase = .stopped t0 p k → t0 < s.now → Answers (.preemptStop dom) s fun t => t.mem = s.mem ∧
      ∀ c x w, (c, x, w) ∈ s.waits dom → s.committed l t0 c x w = false → (t.ctx c x).st = .ready ∧ (t.ctx c x).wait = none ∧ (t.ctx c x).pc = (s.ctx c x).pc) ∧
    (∀ l p k, d.launch = some l → l.phase = .quiet p k → l.closeAt = none → s.waits dom = [] → Answers (.contextSave dom) s fun t =>
      (t.domain dom).launch = none ∧ t.mem = s.mem ∧ (t.domain dom).nextSave = d.nextSave + 1 ∧ (∀ c ∈ s.domCores dom, ∀ x, (t.ctx c x).st = .free) ∧
      (t.queue p).ring ++ (t.queue p).held = (s.queue p).ring ++ (s.queue p).held ++ [doneEntry p (BitVec.ofNat 32 k) 0 [BitVec.ofNat 64 d.nextSave]] ∧
      ∃ v, AMap.find (t.domain dom).saves d.nextSave = some v ∧ v.launch = l ∧ v.lpart = 2 ^ d.log2 ∧ v.crcOk = true ∧
        ∀ c ∈ s.domCores dom, ∃ k, (s.rel c, k) ∈ v.cores ∧ k.imem = (s.core c).imem ∧ k.counters = (s.core c).counters ∧ (∀ y, k.chan y = { (s.core c).chan y with waitFrom := (k.chan y).waitFrom }) ∧
          (∀ a, a < accBase → k.byte a = (s.core c).byte a) ∧ (s.rel c < 4096 → ∃ e, (s.rel c, e) ∈ v.areas ∧ e.wrote = [] ∧
            e.checks k = true ∧ e.ok k (s.rel c) = true ∧ e.lanes k = if k.quiescent then 0 else 64)) ∧
    (∀ l p k, d.launch = some l → l.phase = .quiet p k → l.closeAt ≠ none ∨ s.waits dom ≠ [] → Answers (.contextSave dom) s (· = s)) ∧
    (Takes s q cmd 0x05 [0xFFFF] →
      (D.launch ≠ none → Answers (.resume q cmd) s (OnlyDone s · q cmd 5 [])) ∧
      (D.launch = none → AMap.find D.saves h = none → Answers (.resume q cmd) s (OnlyDone s · q cmd 3 [])) ∧
      (∀ v, D.launch = none → AMap.find D.saves h = some v → (∃ p ∈ s.domParts base, (s.part p).down = true) → Answers (.resume q cmd) s (OnlyDone s · q cmd 12 [])) ∧
      (∀ v, D.launch = none → AMap.find D.saves h = some v → (∀ p ∈ s.domParts base, (s.part p).down = false) →
        (v.crcOk = false ∨ (∃ e ∈ v.areas, e.2.checks (AMap.get {} v.cores e.1) = false ∨ e.2.ok (AMap.get {} v.cores e.1) e.1 = false) → Answers (.resume q cmd) s (OnlyDone s · q cmd 9 [])) ∧
        (v.crcOk = true → (∀ e ∈ v.areas, let k := AMap.get {} v.cores e.1; e.2.checks k = true ∧ e.2.ok k e.1 = true) →
          (∃ e ∈ v.areas, let k := AMap.get {} v.cores e.1; e.2.lanes k ≠ 0 ∧ e.2.lanes k ≠ 64) →
          Answers (.resume q cmd) s (OnlyDone s · q cmd 8 [])) ∧
        (s.resumeBad base v = none → (v.cores.map (·.1)).Nodup → Answers (.resume q cmd) s fun t => Done s t q cmd 0 [] ∧ t.mem = s.mem ∧ AMap.find (t.domain base).saves h = none ∧
          (∃ m, (t.domain base).launch = some m ∧ m.phase = .setup ∧ m.resumed = true ∧ m.q = v.launch.q ∧ m.hostq = some q ∧ m.id = v.launch.id ∧ m.base = v.launch.base) ∧
          ∀ c k, (c, k) ∈ v.cores → (t.core (base * 64 + c)).ctxs = k.ctxs ∧ (t.core (base * 64 + c)).pool = k.pool ∧ (t.core (base * 64 + c)).imem = k.imem ∧
            (t.core (base * 64 + c)).counters = k.counters ∧ (t.core (base * 64 + c)).channels = k.channels)))

/-- R242 to R244, R289: in deterministic mode a core whose contexts have ended their quantum, whose engines, loads and handler thread are through, and whose
banks are clear arrives at the tap, once; the last arrival commits the close, and when it
completes the next quantum begins for every core, with everything that was sent free to be delivered, and the cores that wait in `LEASE` hold it (log 81, the model's choice). -/
def Obligations.QuantaCloseTogether : Prop :=
  ∀ (s : State) (c dom t0 : Nat) (l : Launch), let b := s.domOf c
    (∀ m, (s.domain b).launch = some m →
      let ended := fun (k : Ctx) => m.quantum ≤ k.retiredQ ∨ k.st = .free ∨ k.st = .halted ∨ k.st = .waiting ∨ (k.st = .parked ∧ ∃ o ∈ k.outs, s.atClose c o = true) ∨
        (k.st = .stalled ∧ ((k.stall = some .window ∨ k.stall = some .quantum ∨ (∃ i, k.stall = some (.seq i)) ∨ ∃ i u, k.stall = some (.held i u)) ∨
          ∃ ids, k.stall = some (.fence ids) ∧ ∃ o ∈ k.outs, o.id ∈ ids ∧ s.atClose c o = true))
      (s.tapReady c = true ↔ m.det = true ∧ s.runs c = true ∧ m.closeAt = none ∧ (s.core c).tapped = false ∧ (s.core c).clearing = false ∧ s.enginesOver c = true ∧
        s.loadsOver c = true ∧ s.handlerOver c = true ∧ s.stirs c = false ∧ ((s.core c).frozen = true ∨ ∀ e ∈ (s.core c).ctxs, ended e.2))) ∧
    (∀ o, s.atClose c o = true ↔ o.vals = none ∧ o.flt = none ∧ match o.kind with
      | .atomRemote | .jq | .claim _ _ => True
      | .atomLocal => s.handlerStuck c = true
      | _ => ∃ r ∈ s.loads, r.id = o.id ∧ s.closeHeld r = true) ∧
    (s.enginesOver c = true → (s.slot c).queue = [] ∧ (s.core c).tileQ = [] ∧ ∀ j ∈ s.jobs, j.core = c → j.over = true) ∧
    (s.tapReady c = false → Answers (.quantumTapArrival c) s (· = s)) ∧
    (s.tapReady c = true → (∃ e ∈ s.domCores b, e ≠ c ∧ (s.core e).tapped = false) → Answers (.quantumTapArrival c) s fun t => OnlyCore s t c ∧ t.core c = { s.core c with tapped := true }) ∧
    (∀ m, s.tapReady c = true → (∀ e ∈ s.domCores b, e ≠ c → (s.core e).tapped = true) → (s.domain b).launch = some m → Answers (.quantumTapArrival c) s fun t =>
      (t.domain b).launch = some { m with closeAt := some (s.nextBoundary b + 160) } ∧ (t.core c).tapped = true ∧ t.mem = s.mem) ∧
    ((s.domain dom).launch = some l → l.closeAt = some t0 → s.now < t0 → Answers (.quantumClose dom) s (· = s)) ∧
    ((s.domain dom).launch = some l → l.closeAt = none → Answers (.quantumClose dom) s (· = s)) ∧
    ((s.domain dom).launch = some l → l.closeAt = some t0 → t0 ≤ s.now → (∀ e ∈ s.domCores dom, (s.core e).lanes = []) → s.loads = [] → s.jobs = [] → s.net = [] → l.groups = [] →
      Answers (.quantumClose dom) s fun t => t.mem = s.mem ∧ (t.domain dom).launch = some { l with qn := l.qn + 1, qstart := s.now, closeAt := none } ∧
        ∀ e ∈ s.domCores dom, (t.core e).tapped = false ∧ (t.core e).lbuf = [] ∧
          ((s.slot e).waits = true → (t.slot e).waits = false ∧ (t.slot e).holds = true) ∧ (∀ x, (t.ctx e x).retiredQ = 0) ∧
          ∀ x, (s.ctx e x).st = .stalled → (s.ctx e x).stall = some .quantum → (t.ctx e x).st = .ready) ∧
    ((s.domain dom).launch = some l → l.closeAt = some t0 → t0 ≤ s.now → Answers (.quantumClose dom) s fun t => ∀ p ∈ t.net, t.ofDomain dom p = true → p.released = true)

/-- R252, R330 to R335, R341: `MAP` installs its entry at its page, a VERSIONED page with its version numbers at 0, and waits for a frame whose withdrawal is not reported (log 62); `UNMAP` and `TLBFLUSH` take the entries they select out of the tables and the shared
units, and complete once the buffers have dropped theirs and nothing translated through them is under way. A walk that ends answers every context that waits for a page of
its region, with the entry or with the miss; a fill brings an entry of the shared unit to its core; and a held access faults XLATE at its limit.
That reserved bits and a wrong owner complete BADCMD, and that TLBFLUSH empties the tables too, is the model's choice (log 50). -/
def Obligations.TranslationsComeAndGo : Prop :=
  ∀ (s : State) (q dom c x part region page : Nat) (cmd : List Word) (e : Word) (B : Broadcast), let base := s.queueDom q
    let va := cmd.getD 1 0; let w := cmd.getD 3 0; let n := arg cmd 16 4; let p := va.toNat / 65536 % 2 ^ 41
    let ownerOk := s.inRange (base * 64) (bits w 40 12) = true ∧ s.isCompute (base * 64 + bits w 40 12) = true
    let D := s.domain dom
    let waits := (s.ctx c x).st = .stalled ∧ (s.ctx c x).stall = some (.xlate page)
    (Takes s q cmd 0x06 [BitVec.allOnes 64, 0xFFFFFFFF, BitVec.allOnes 64] →
      (entryOk w = true → ownerOk → va.toNat < 2 ^ 57 → n = 1 → w.getLsbD 62 = false → w.getLsbD 63 = true → s.frameOk base (bits w 0 24) = true → s.leaving (bits w 0 24) 1 = false →
        Answers (.mapPages q cmd) s fun t => Done s t q cmd 0 [] ∧ t.mem = s.mem ∧ AMap.find (t.domain base).entries (2 * p) = some w ∧
          (∀ k, k ≠ 2 * p → AMap.find (t.domain base).entries k = AMap.find (s.domain base).entries k) ∧
          (bits w 60 2 = 1 → ∀ a, a / 65536 = bits w 0 24 → t.ver a = 0)) ∧
      (entryOk w = true → ownerOk → va.toNat < 2 ^ 57 → n = 1 → w.getLsbD 62 = false → s.frameOk base (bits w 0 24) = true → s.leaving (bits w 0 24) 1 = true →
        Answers (.mapPages q cmd) s (· = s)) ∧
      (¬(entryOk w = true ∧ ownerOk) → Answers (.mapPages q cmd) s (OnlyDone s · q cmd 1 [])) ∧
      (entryOk w = true → ownerOk → 2 ^ 57 ≤ va.toNat → Answers (.mapPages q cmd) s (OnlyDone s · q cmd 10 [])) ∧
      (entryOk w = true → ownerOk → va.toNat < 2 ^ 57 → n = 1 → w.getLsbD 62 = false → s.frameOk base (bits w 0 24) = false → Answers (.mapPages q cmd) s (OnlyDone s · q cmd 10 []))) ∧
    (Takes s q cmd 0x07 [BitVec.allOnes 64, 0x1FFFFFFFF] → va.toNat < 2 ^ 57 → n = 1 → (cmd.getD 2 0).getLsbD 32 = false → Answers (.unmapPages q cmd) s fun t =>
      Completes s t q [] ∧ AMap.find (t.domain base).entries (2 * p) = none ∧ (∀ k, k ≠ 2 * p → AMap.find (t.domain base).entries k = AMap.find (s.domain base).entries k) ∧
      ∃ b, (t.domain base).casts = (s.domain base).casts ++ [b] ∧ b.q = q ∧ b.id = cmdId cmd ∧ b.doneAt = s.nextBoundary base + 160 ∧ b.ended = false) ∧
    (Takes s q cmd 0x08 [BitVec.allOnes 64, 0xFFFFFFFF] → va.toNat < 2 ^ 57 → n = 0 → Answers (.tlbflush q cmd) s fun t => Completes s t q [] ∧ (t.domain base).entries = [] ∧
      (∀ y ∈ s.domParts base, (t.part y).shared = []) ∧ ∃ b, (t.domain base).casts = (s.domain base).casts ++ [b] ∧ b.all = true ∧ b.doneAt = s.nextBoundary base + 160) ∧
    (D.casts = [B] → B.ended = false → s.now < B.doneAt → Answers (.translationBroadcast dom) s (· = s)) ∧
    (D.casts = [B] → B.ended = false → B.doneAt ≤ s.now → Answers (.translationBroadcast dom) s fun t => t.mem = s.mem ∧
      (∀ k ∈ s.domCores dom, ∀ y ∈ (t.core k).tlb, B.selects y.1 y.2.1 = false ∧ y ∈ (s.core k).tlb) ∧
      (s.touches dom B.frames = false → (t.domain dom).casts = [] ∧
        (t.queue B.q).ring ++ (t.queue B.q).held = (s.queue B.q).ring ++ (s.queue B.q).held ++ [doneEntry B.q B.id 0 []]) ∧
      (s.touches dom B.frames = true → (t.domain dom).casts = [{ B with ended := true }])) ∧
    (waits → bufFind (s.part (c / 64)).shared (pageVa page) = some e → Answers (.translationFill c x) s fun t => OnlyCore s t c ∧ (t.ctx c x).st = .ready ∧
      (t.core c).tlb.head? = some (if e.getLsbD 62 then pageOf (pageVa page) / 32 * 32 else pageOf (pageVa page), e.getLsbD 62, e)) ∧
    (waits → bufFind (s.part (c / 64)).shared (pageVa page) = none → Answers (.translationFill c x) s (· = s)) ∧
    (region ∈ (s.part part).walks → Answers (.walkComplete part region) s fun t => t.mem = s.mem ∧
      ∀ k y g, (k, y, g) ∈ s.pageWaiters (s.baseOf part) → g / 32 = region → (t.ctx k y).st = .ready ∧
        (findEntry (s.domain (s.baseOf part)).entries (pageVa g) = none → (t.ctx k y).xmiss = some g)) ∧
    (region ∉ (s.part part).walks → Answers (.walkComplete part region) s (· = s)) ∧
    (∀ v t0, x ≠ 15 → (s.ctx c x).st = .stalled → (s.ctx c x).stall = some (.held v t0) → let past := t0 + 1050 * (s.domain (s.domOf c)).holdUs ≤ s.now
      (past → Answers (.pagereqHoldExpiry c x) s (· = (s.asIf c x).raise { code := .xlate, obj := BitVec.ofNat 64 (s.domOf c), a := 1, b := v, addr := v })) ∧
      (¬past → Answers (.pagereqHoldExpiry c x) s (· = s)))

/-- R248, R338 to R342, R345 to R348: the four `QUERY` selectors and `PMREAD` complete with their words; `PARTCFG` forms an idle range of partitions into one domain; `RESET` ends a launch of
its domain DOWN, its DONE behind that entry, and brings its partition up with what R353 clears cleared. A doorbell write of the host moves a queue's heads and sets up a queue that is not enabled, within the sizes allowed; the
mailbox pages hold what is written, a violation log its count and its last 64 entries; BAR4 reads and writes HBM within its window. The words of the
slice capacities are the model's choice (log 17), as are the offsets of the status page, the pages' offsets, what a full ring's head means and
the one-word limit of BAR4 (log 56), what the reserved region reads as (log 15), and what RESET clears (log 49). -/
def Sys2Proof.TheHostSeesTheModule : Prop :=
  ∀ (s : State) (q page off n : Nat) (cmd : List Word) (v : Word), let base := s.queueDom q; let sel := arg cmd 8 1; let k := s.queue q
    let only := fun (t : State) => t = { s with queues := t.queues, free := t.free }
    let free := fun (o : Instr) => Answers o s fun t => only t ∧ Done s t q cmd 0 ((List.range 6).map fun i => Config.freeWord (s.free + i)) ∧ t.free = s.free + 6
    let asks := Takes s q cmd 0x09 [0xFF]
    let pa := s.window.toNat + off
    (asks → sel = 0 → free (.queryDomainState q cmd)) ∧ (asks → sel = 2 → free (.queryHarvestState q cmd)) ∧ (asks → sel = 3 → free (.queryPackageFigures q cmd)) ∧
    (asks → sel = 1 → Answers (.querySliceCapacities q cmd) s (OnlyDone s · q cmd 0 (((s.domParts base).take 6).map fun p => BitVec.ofNat 64 (s.part p).usable))) ∧
    (asks → 3 < sel → ∀ o ∈ [Instr.queryDomainState q cmd, .querySliceCapacities q cmd, .queryHarvestState q cmd, .queryPackageFigures q cmd], Answers o s (OnlyDone s · q cmd 1 [])) ∧
    (Takes s q cmd 0x0A [0xFFFF] →
      (sel ≤ 63 → arg cmd 9 1 < 2 ^ (s.domain base).log2 → Answers (.pmread q cmd) s (OnlyDone s · q cmd 0 [AMap.get 0 (s.part (base + arg cmd 9 1)).pm sel])) ∧
      (sel ≤ 63 → 2 ^ (s.domain base).log2 ≤ arg cmd 9 1 → Answers (.pmread q cmd) s (OnlyDone s · q cmd 11 [])) ∧
      (63 < sel → Answers (.pmread q cmd) s (OnlyDone s · q cmd 1 []))) ∧
    (Takes s q cmd 0x0B [0xFFFFFFFF0001FFFF] → let z := arg cmd 9 1; let hold := arg cmd 12 4; let form := z ≤ 6 ∧ sel % 2 ^ z = 0 ∧ sel + 2 ^ z ≤ 64 ∧ 1 ≤ hold ∧ hold ≤ 10 ^ 6
      (form → (∀ p, sel ≤ p → p < sel + 2 ^ z → (s.part p).down = false) → (∀ d ∈ s.domainsIn sel (2 ^ z), d.2.idle = true ∧ sel ≤ d.1 ∧ d.1 + 2 ^ d.2.log2 ≤ sel + 2 ^ z) →
        Answers (.partcfg q cmd) s fun t => Done s t q cmd 0 [] ∧ t.domain sel = { log2 := z, serving := (cmd.getD 1 0).getLsbD 16, holdUs := hold } ∧ t.mem = s.mem ∧
          (∀ c x, t.ctx c x = s.ctx c x) ∧ ∀ c a, (t.core c).byte a = (s.core c).byte a) ∧
      (form → (∀ p, sel ≤ p → p < sel + 2 ^ z → (s.part p).down = false) → (∃ d ∈ s.domainsIn sel (2 ^ z), d.2.idle = false) → Answers (.partcfg q cmd) s (OnlyDone s · q cmd 5 [])) ∧
      (¬form → Answers (.partcfg q cmd) s (OnlyDone s · q cmd 1 []))) ∧
    (Takes s q cmd 0x0C [0xFF] →
      (sel < 64 → s.inDom base sel = true → (s.domain base).launch = none → Answers (.reset q cmd) s fun t => (∀ a, Memory.read zeroByte t.mem a = if s.reserved sel a then 0 else Memory.read zeroByte s.mem a) ∧ (t.domain base).saves = [] ∧
        (∀ c, c / 64 = sel → t.core c = {}) ∧ (∀ c, c / 64 ≠ sel → t.core c = s.core c) ∧ (t.part sel).pm = [] ∧ (t.part sel).vers = [] ∧
        doneEntry q (cmdId cmd) (if (t.part sel).down then 12 else 0) [] ∈ (t.queue q).ring ++ (t.queue q).held) ∧
      (∀ l, sel < 64 → s.inDom base sel = true → (s.domain base).launch = some l → Answers (.reset q cmd) s fun t => (t.domain base).launch = none ∧
        (∀ a, Memory.read zeroByte t.mem a = if s.reserved sel a then 0 else Memory.read zeroByte s.mem a) ∧ (t.domain base).saves = [] ∧
        (∀ c, c / 64 = sel → t.core c = {}) ∧ (∀ c ∈ s.domCores base, ∀ x, (t.ctx c x).st = .free) ∧ (t.part sel).pm = [] ∧ (t.part sel).vers = [] ∧
        let ends := [2#64 ||| BitVec.ofNat 64 base <<< 16 ||| BitVec.ofNat 64 l.id.toNat <<< 32, 12, BitVec.ofNat 64 (s.cycles base)] ++ List.replicate 5 0
        ends ∈ (t.queue l.q).ring ++ (t.queue l.q).held ∧
        ∃ es, (t.queue q).ring ++ (t.queue q).held = es ++ [doneEntry q (cmdId cmd) (if (t.part sel).down then 12 else 0) []] ∧ (l.q = q → ends ∈ es)) ∧
      (64 ≤ sel ∨ s.inDom base sel = false → Answers (.reset q cmd) s (OnlyDone s · q cmd 11 []))) ∧
    (k.cap ≠ 0 → let on := (v.toNat % k.cap + k.cap - k.cqhead.toNat % k.cap) % k.cap
      let read := if on = 0 ∧ k.ring.length = k.cap then k.cap else on
      Answers (.cqhead q v) s fun t => (t.queue q).cqhead = v ∧ (t.queue q).ring ++ (t.queue q).held = k.ring.drop read ++ k.held ∧ t = { s with queues := t.queues }) ∧
    (page < 65536 → let w := s.queue page
      Answers (.registerWrite page 0 v) s (fun t => t.queue page = { w with sqtail := v } ∧ t = { s with queues := t.queues }) ∧
      (w.enabled = false → Answers (.registerWrite page 0x100 v) s (fun t => t.queue page = { w with sqbase := v }) ∧
        (sizesOk v = true → Answers (.registerWrite page 0x110 v) s (fun t => t.queue page = { w with sizes := v })) ∧
        (sizesOk v = false → Answers (.registerWrite page 0x110 v) s (fun t => t.queue page = { w with ignored := true }))) ∧
      (v.getLsbD 0 = false ∨ (w.enabled = false ∧ sizesOk w.sizes = true) → Answers (.registerWrite page 0x120 v) s fun t =>
        t.queue page = { w with enabled := v.getLsbD 0, ignored := v.getLsbD 1, vector := (v >>> 8).setWidth 8 }) ∧
      (v.getLsbD 0 = true → w.enabled = true ∨ sizesOk w.sizes = false → Answers (.registerWrite page 0x120 v) s fun t =>
        t.queue page = { w with ignored := true }) ∧
      (w.enabled = true → ∀ r ∈ [0x100, 0x108, 0x110, 0x118], Answers (.registerWrite page r v) s fun t => t.queue page = { w with ignored := true })) ∧
    ((∀ d ∈ s.domains, d.2.launch = none) → Answers (.registerWrite 65536 16 v) s (· = { s with package := v.setWidth 16 }) ∧
      Answers (.registerWrite 65536 24 v) s (· = { s with window := v })) ∧
    (page < 64 → let log := (s.part page).vlog; let at0 := 0x41000 + 4096 * page
      (off < 4096 → Answers (.registerWrite (65537 + page) off v) s fun t => t.bar2 (4096 * (page + 1) + off) = v ∧ t.mem = s.mem ∧ t.cores = s.cores ∧
        t.queues = s.queues) ∧
      s.bar2 at0 = BitVec.ofNat 64 ((s.part page).vlogN % 2 ^ 32) ∧
      ∀ i j, i < log.length → log.length ≤ 64 → log.length ≤ (s.part page).vlogN → (∀ e ∈ log, e.length = 4) → j < 4 →
        s.bar2 (at0 + 32 + 32 * (((s.part page).vlogN - log.length + i) % 64) + 8 * j) = (log.getD i []).getD j 0) ∧
    (1 ≤ n → n ≤ 8 → off + n ≤ 2 ^ s.bar4Log → pa % 8 + n ≤ 8 → pa + n ≤ 2 ^ 16 * 98304 * 64 →
      (s.reservedPa pa = false → s.badHbm pa n = none → Answers (.bar4Read off n) s fun t => t.bar4 = BitVec.ofNat 64 (s.hbmNum pa n) ∧ t.mem = s.mem ∧ t.cores = s.cores) ∧
      (s.narrowBad pa n = false → Answers (.bar4Write off n v) s fun t => HbmKept s t pa n ∧ t.cores = s.cores ∧
        ∀ i, i < n → Memory.read zeroByte t.mem (pa + i) = (v >>> (8 * i)).setWidth 8)) ∧
    (2 ^ s.bar4Log < off + n → Answers (.bar4Read off n) s (· = s) ∧ Answers (.bar4Write off n v) s (· = s))

/-- R349 to R351: an envelope of a link junction core leaves by its port with the route word behind its header, and what leaves by a link that is down comes back as a record; a MSG from another
package enters the ring of its channel with its route word in bytes 56 to 63; a PUTX writes the bytes of its pool range, and one from another package those of the range it names,
adding 1 to its counter; in deterministic mode the answer to a message that no core takes waits for the quantum's start (R350); a record for a partition that is down goes to the host (R178); a link that goes down stays down. The layout of a counter add
on a link is the model's choice (log 21), as are those of PUTX on the link and as inbound kind 0x60 (log 73) and the answers of a port (log 55). -/
def Obligations.LinksCarryEnvelopes : Prop :=
  ∀ (s : State) (id part port key c off i : Nat) (p : Packet) (h e cnt route : Word) (ws payload : List Word) (msg : List Byte), let y := partOfKey p.dst
    let adds := fun (t : State) (cnt : Word) => ∀ z m, cnt ≠ 0 → s.putCell part cnt = .far z m → (s.det z = true ∨ .stage 3 ∉ s.work) →
      (t.cell z m).value = (s.cell z m).value + 1
    let plain := fun (cnt : Word) => cnt = 0 ∨ ∃ z m, s.putCell part cnt = .far z m ∧ s.cellHere part z = true ∧ (s.cell z m).armed = false ∧
      (s.cell z m).value ≠ BitVec.allOnes 64
    (s.deliverable id = some p → isEnvelope p h = true → p.body = .words h (e :: ws) → portOf p.dst = none → envelopeOk e = true →
      (s.linkUp y (p.dst % 64 - 48) = true → Answers (.outboundEnvelope id) s fun t => t.cores = s.cores ∧ t.mem = s.mem ∧ t.net = s.net.filter (fun q => q.id != p.id) ∧
        t.flazar = s.flazar ++ [(y, p.dst % 64 - 48, header (bits e 36 12) (bits e 30 6) (hRcore h) (hRchan h) (bits e 22 8) (hWords h - 1) (hTag h) ::
          (BitVec.ofNat 64 (bits e 48 16) ||| BitVec.ofNat 64 s.package.toNat <<< 16) :: ws)]) ∧
      (s.linkUp y (p.dst % 64 - 48) = false → p.src < 4096 → Answers (.outboundEnvelope id) s fun t => t.flazar = s.flazar ∧ t.cores = s.cores ∧
        ∃ r w, t.net = s.net.filter (fun q => q.id != p.id) ++ [r] ∧ r.dst = p.src ∧ r.body = .fault (hRchan h) w true ∧ bits (w.headD 0) 0 8 = 0x19)) ∧
    (s.deliverable id = some p → portOf p.dst = some port → p.body = .words h ws → s.linkUp y port = true → Answers (.outboundEnvelope id) s fun t =>
      t.flazar = s.flazar ++ [(y, port, h :: ws.getD (hWords h) (s.route 0) :: ws.take (hWords h))] ∧ t.cores = s.cores) ∧
    (∀ n x who cx name, s.deliverable id = some p → portOf p.dst = some port → p.body = .cadd n x who cx name → s.linkUp y port = true →
      Answers (.outboundEnvelope id) s fun t => t.flazar = s.flazar ++ [(y, port, s.outName name who.toNat cx.toNat [x])] ∧ t.cores = s.cores) ∧
    (let base := s.baseOf part; let d := base * 64 + hDest h; let ch := (s.core d).chan (hDchan h)
      s.linkUp part port = true → (s.part part).down = false → port ≤ 1 → part < 64 → payload.length = hWords h → payload.length ≤ 6 → hKind h = 0 →
      (s.domain base).launch ≠ none → s.inRange (base * 64) (hDest h) = true → s.isUser d = true → d % 64 ≠ 63 → d < 4096 → s.domOf d = base → s.det d = false → s.net = [] →
      (s.core d).clearing = false → ch.bound = true → ch.room = true → ch.free = some i → Answers (.inboundMessage part port h route payload) s fun t => t.mem = s.mem ∧
        (∀ j, j < payload.length + 1 → (t.core d).word (ch.slotAddr i + 8 * j) = (h :: payload).getD j 0) ∧ (t.core d).word (ch.slotAddr i + 56) = route ∧
        PoolKept s t d (ch.slotAddr i) 64 ∧ (AMap.find ((t.core d).chan (hDchan h)).slots i).map (·.kind) = some .msg) ∧
    (s.linkUp part port = false → Answers (.inboundMessage part port h route payload) s (· = s)) ∧
    (let base := s.baseOf part; let dst := payload.getD 0 0; let n := (payload.getD 1 0).toNat; let d := base * 64 + bits dst 36 12
      s.linkUp part port = true → (s.part part).down = false → port ≤ 1 → hKind h = 0x60 → s.savedDomain base = false → s.inRange (base * 64) (bits dst 36 12) = true →
      s.domOf d = base → s.leafWrites d (bits dst 0 20) n = true → n ≤ 8 * (payload.length - 3) → s.det d = false → (s.core d).clearing = false → plain (payload.getD 2 0) →
      Answers (.inboundMessage part port h route payload) s fun t => t.mem = s.mem ∧ adds t (payload.getD 2 0) ∧ PoolKept s t d (bits dst 0 20) n ∧ ∀ j, j < n → (t.core d).byte (bits dst 0 20 + j) = (bytesOf (payload.drop 3)).getD j 0) ∧
    (s.linkUp part port = true → (s.part part).down = true → port ≤ 1 → hKind h = 0x0C → payload.length = 8 → let q := s.hostQueue part
      Answers (.inboundMessage part port h route payload) s fun t => t = { s with queues := t.queues } ∧
        ∃ e, (t.queue q).ring ++ (t.queue q).held = (s.queue q).ring ++ (s.queue q).held ++ [e, payload] ∧ bits (e.headD 0) 0 8 = 3) ∧
    (portOf key = some port → partOfKey key = part → s.baseOf part = s.domOf c → s.savedDomain (s.baseOf part) = false → s.net = [] → s.det c = false →
      (s.core c).clearing = false → let bs := msg.drop 16; s.leafWrites c off bs.length = true → plain cnt → Answers (.inboundPutx key c off msg cnt) s fun t => t.mem = s.mem ∧ adds t cnt ∧
      PoolKept s t c off bs.length ∧ (∀ j, j < bs.length → (t.core c).byte (off + j) = bs.getD j 0) ∧ (cnt = 0 → ∀ d, d ≠ c → t.core d = s.core d)) ∧
    (portOf key = some port → partOfKey key = part → s.baseOf part = s.domOf c → s.savedDomain (s.baseOf part) = false → s.net = [] → s.det c = false →
      (s.core c).clearing = false → let h := (wordsOf 2 msg).getD 0 0; let bs := msg.drop 16; s.leafWrites c off bs.length = false → Answers (.inboundPutx key c off msg cnt) s fun t => t.mem = s.mem ∧
      (∀ d a, (t.core d).byte a = (s.core d).byte a) ∧
      ∃ ws more, t.flazar = s.flazar ++ (part, port, ws) :: more ∧ ws.headD 0 = header (hRcore h) (hRchan h) (s.rel c) 0 0x0C 0 (hTag h) ∧
        ∀ z m, cnt ≠ 0 → s.putCell part cnt = .far z m → s.cellHere part z = true → (t.cell z m).fault = true ∧ (t.cell z m).cause = 0x19) ∧
    (s.net = [] ∧ s.baseOf (partOfKey key) ≠ s.domOf c ∨ portOf key = none → Answers (.inboundPutx key c off msg cnt) s (· = s)) ∧
    (s.linkUp part port = true → (s.part part).down = false → port ≤ 1 → part < 64 → payload.length = hWords h → payload.length ≤ 6 → hKind h = 0 →
      s.savedDomain (s.baseOf part) = false → s.det (part * 64) = true → s.inRange (s.baseOf part * 64) (hDest h) = false → Answers (.inboundMessage part port h route payload) s fun t =>
        t.flazar = s.flazar ∧ t.cores = s.cores ∧ t.mem = s.mem ∧ ∃ q, t.net = s.net ++ [q] ∧ q.released = false ∧ q.dst < 4096 ∧ q.body = .heldIn h route payload) ∧
    (s.deliverable id = some p → portOf p.dst = none → p.body = .heldIn h route payload → partOfKey p.src = part → portOf p.src = some port → hKind h = 0 →
      s.inRange (s.baseOf part * 64) (hDest h) = false → Answers (.outboundEnvelope id) s fun t => t.cores = s.cores ∧ t.mem = s.mem ∧
        ∃ q g ws, t.net = s.net.filter (fun q => q.id != p.id) ++ [q] ∧ q.dst = agent part (2 + port) ∧ q.body = .words g ws ∧ hKind g = 0x0F) ∧
    (s.deliverable id = some p → p.body = .request h ws → ws.length = 4 → hKind h = 0x60 → let u := s.sink p; let src := ws.getD 0 0; let dst := ws.getD 1 0; let n := (ws.getD 2 0).toNat
      let j : CopyJob := { id := p.id, kind := 0x60, core := p.src, ctx := p.srcCtx, hdr := h, cnt := ws.getD 3 0, src := src, dst := dst, tile := (ws.getD 2 0).getLsbD 55, wm := if (ws.getD 2 0).getLsbD 51 then some (bits (ws.getD 2 0) 52 3) else none }
      u.putxBad j (ws.getD 2 0) (p.src % 2) = none → Answers (.putx id) s fun t => t.cores = s.cores ∧ t.mem = s.mem ∧ t.net = s.net.filter (fun q => q.id != p.id) ∧
        ∃ bytes, t.flazar = s.flazar ++ [(p.src / 64, p.src % 2, h :: (BitVec.ofNat 64 (bits dst 48 16) ||| BitVec.ofNat 64 s.package.toNat <<< 16) :: dst ::
            BitVec.ofNat 64 n :: ws.getD 3 0 :: wordsOf (n / 8) bytes)] ∧ bytes.length = n ∧
          ∀ i, i < n → ∃ k, PoolSeen s p.id p.src k ∧ bytes.getD i 0 = k.byte (bits src 0 20 + i)) ∧
    Answers (.linkDown part port) s fun t => t.linkUp part port = false ∧ (∀ g, g ≠ port → t.linkUp part g = s.linkUp part g) ∧ t.cores = s.cores ∧ t.mem = s.mem

/-- R324, R347, R352, R353: bring-up leaves the module ready with HBM and every core clear, each partition a domain of its own and every queue disabled; at the temperature limit every partition is held
down with no launch; the cap follows the coolant's temperature. A corrected error is counted, and past 1,024 in 2^36 cycles the partition advises; an uncorrectable one
marks its word, sets a counter's fault bit with cause 0x1A, spoils a save area, or stops a core whose own state it struck. What bring-up leaves beyond
the pools, counters and reserved regions that R353 names is the model's choice (logs 59 and 3), and so is that an error in a save area spoils its check (log 15). -/
def Obligations.PowerAndErrors : Prop :=
  ∀ (s : State) (p deciC c n off h : Nat),
    (Answers .powerGood s fun t => t.ready = true ∧ t.mem = [] ∧ t.cores = [] ∧ t.queues = [] ∧ t.net = [] ∧ t.now = s.now ∧ (∀ y, y < 64 → t.domain y = {}) ∧ t.baseOf p = p) ∧
    (Answers .overtemp s fun t => (∀ y, y < 64 → (t.part y).down = true) ∧ (∀ d ∈ s.domains, (t.domain d.1).launch = none) ∧ t.mem = s.mem) ∧
    (deciC ≤ 400 → Answers (.coolantLimitDerate deciC) s (· = { s with cap := 3400 })) ∧
    (400 < deciC → deciC < 450 → Answers (.coolantLimitDerate deciC) s (· = { s with cap := 3400 - 20 * (deciC - 400) })) ∧
    (450 ≤ deciC → Answers (.coolantLimitDerate deciC) s (· = { s with cap := 2400 })) ∧
    (Answers (.softErrorCorrected p) s fun t => t.cores = s.cores ∧ t.mem = s.mem ∧ AMap.get 0 (t.part p).pm 14 = AMap.get 0 (s.part p).pm 14 + 1 ∧
      (1024 < ((s.part p).softErrs.filter fun u => decide (s.now < u + 2 ^ 36)).length + 1 → (t.part p).advised = true) ∧
      (((s.part p).softErrs.filter fun u => decide (s.now < u + 2 ^ 36)).length + 1 ≤ 1024 → (t.part p).advised = (s.part p).advised)) ∧
    (Answers (.uncorrectableError (.pool c off)) s fun t => .pool c off ∈ t.bad ∧ t.cores = s.cores ∧ t.mem = s.mem) ∧
    (Answers (.uncorrectableError (.hbm off)) s fun t => .hbm off ∈ t.bad ∧ t.cores = s.cores ∧ t.mem = s.mem) ∧
    (Answers (.uncorrectableError (.imem c off)) s fun t => .imem c off ∈ t.bad ∧ t.cores = s.cores ∧ t.mem = s.mem) ∧
    (Answers (.uncorrectableError (.counter c n)) s fun t => (t.cell c n).fault = true ∧ (t.cell c n).cause = 0x1A ∧ (t.cell c n).value = (s.cell c n).value ∧ t.mem = s.mem) ∧
    (Answers (.uncorrectableError (.ownState c)) s fun t => (t.core c).failed = true ∧ (∀ x, x < 11 → (t.ctx c x).st = .halted) ∧ t.mem = s.mem) ∧
    (∀ v, AMap.find (s.domain p).saves h = some v → Answers (.uncorrectableError (.saveArea p h)) s fun t =>
      AMap.find (t.domain p).saves h = some { v with crcOk := false } ∧ t.cores = s.cores)

/-! ## Encodings, bundles, steps and the whole machine -/

/-- R33 to R41: every well-formed instruction has a word for each L and S, and that word decodes to it, with every operand at every
value. -/
def Obligations.EncodedInstructionsDecodeToThemselves : Prop :=
  ∀ (i : Instr) (l s : BitVec 1), wellFormed i = true → isWord i = true →
    ∃ w, encodeWith l s i = some w ∧ decodeWord w = .ok i ∧ wL w = l ∧ wS w = s

/-- R33, R41, R61: a word that decodes is the one encoding of its instruction with its L and S, so that no field of it is
ignored; and its instruction is well-formed. -/
def Obligations.EveryDecodedWordIsItsInstructionsEncoding : Prop :=
  ∀ (w : Word32) (i : Instr), decodeWord w = .ok i → wellFormed i = true ∧ isWord i = true ∧ encodeWith (wL w) (wS w) i = some w

/-- The instruction names s63 as its destination. -/
def Sys2Proof.namesS63 : Instr → Bool
  | .add d _ _ | .sub d _ _ | .and d _ _ | .or d _ _ | .xor d _ _ | .andn d _ _ | .shl d _ _ | .shr d _ _ | .sar d _ _ | .rol d _ _
  | .min d _ _ | .max d _ _ | .minu d _ _ | .maxu d _ _ | .slt d _ _ | .sltu d _ _ | .seq d _ _ | .mul d _ _ | .mulh d _ _ | .mulhu d _ _
  | .div d _ _ | .divu d _ _ | .rem d _ _ | .remu d _ _ | .sel d _ _ | .start d _ _ | .atomAdd d _ _ | .atomMax d _ _ | .atomMin d _ _
  | .atomMaxu d _ _ | .atomMinu d _ _ | .atomSwap d _ _ | .atomCas d _ _ | .atomOr d _ _ | .atomAnd d _ _ | .atomXor d _ _ | .atomFmax32 d _ _
  | .chq d _ _ | .pget d _ _ | .phase d _ _ | .cbcast d _ _ | .credAdd d _ _ | .credMin d _ _ | .credMax d _ _ | .credOr d _ _ | .credAnd d _ _
  | .clz d _ | .popc d _ | .cread d _ | .cflt d _ | .jqnext d _ | .psum d _ | .nexti d _ | .gmem d _ | .pmrd d _ | .mstat d | .rdraw d => d == 63
  | .addi d _ _ | .andi d _ _ | .ori d _ _ | .xori d _ _ | .slti d _ _ | .jalr d _ _ => d == 63
  | .shli d _ _ | .shri d _ _ | .sari d _ _ => d == 63
  | .li d _ | .lih d _ => d == 63
  | .ld d _ _ _ => d == 63
  | .ldv d _ _ => d == 63
  | .qwait d _ _ => d == 63
  | .tget d _ => d == 63
  | .nextev d _ => d == 63
  | .spos d _ => d == 63
  | .vext d _ _ => d == 63
  | .csrr d n => d == 63 && csrKnown n
  | _ => false

/-- R21: s63 reads as the package number, the launch-relative core id and the context. A word that names it as its destination does not
decode, its register check failing, and its issue faults ILL with no register written. -/
def Obligations.TheIdentityRegisterIsNoDestination : Prop :=
  ∀ (s : State) (c x : Nat) (i : Instr) (m : BitVec 1) (w : Word32), let B := s.begin c x
    (s.rel s.cur.core < 4096 → s.cur.ctx < 16 →
      s.rs 63 = BitVec.ofNat 64 (s.package.toNat * 2 ^ 16 + s.rel s.cur.core * 2 ^ 4 + s.cur.ctx)) ∧
    (namesS63 i = true → encodeWith 1 m i = some w → decodeWord w = .error .reg ∧
      (s.fetchBad c (s.ctx c x).pc = false → (s.core c).fetch (s.ctx c x).pc = w →
        s.issueCtx c x = B.raise { code := .ill, a := 4, d0 := w.setWidth 64 } ∧
        (∀ e y n, (s.issueCtx c x).sreg e y n = s.sreg e y n)))

/-- R39, R41 and the tables of the opcode map: words laid out by hand, and the instructions they stand for. -/
def Obligations.HandLaidWordsDecode : Prop :=
  decodeWord 0x800A30F7 = .ok (.divu 5 6 7) ∧ decodeWord 0x80104811 = .ok (.clz 8 9) ∧ decodeWord 0x808A2804 = .ok (.addi 5 5 4) ∧
  decodeWord 0x828A283F = .ok (.shli 5 5 63) ∧ decodeWord 0x850CD159 = .ok (.lih 6 0xD159) ∧ decodeWord 0x88FFFFF8 = .ok (.j (-8)) ∧
  decodeWord 0x8981E800 = .ok (.jalr 0 61 0) ∧ decodeWord 0x8A125160 = .ok (.start 9 10 11) ∧ decodeWord 0x8A800000 = .ok .endt ∧
  decodeWord 0x9E8A0000 = .ok (.csrr 5 0) ∧ decodeWord 0x9E8021A1 = .ok (.csrw 4 13) ∧ decodeWord 0x9E8A3002 = .ok (.pmrd 5 6) ∧
  decodeWord 0xA00420C2 = .ok (.vadd .f64 2 4 6) ∧ decodeWord 0xB4639660 = .ok (.pand 1 2 3) ∧ decodeWord 0x91821060 = .ok (.atomAdd 1 2 3) ∧
  decodeWord 0xCC021603 = .ok (.ld 1 2 .d 3) ∧ decodeWord 0x95021060 = .ok (.mma 1 2 3) ∧ decodeWord 0x92800843 = .ok (.cwait 1 2 3) ∧
  decodeWord 0x9F800000 = .error .op ∧ decodeWord 0x8000001A = .error .fn ∧ decodeWord 0xA0000006 = .error .type ∧ decodeWord 0xA00220C2 = .error .reg ∧
  decodeWord 0x8B000001 = .error .fn ∧ decodeWord 0x8B000020 = .error .field

/-- R34 to R36, R61: what stands at the program counter is checked before it issues. Words that form no bundle, or may not stand in one,
fault PAIR; a word that does not decode faults ILL with its check; an unmarked bundle that names a pending register faults HAZARD; a
marked one parks while results are outstanding; of a pair the first word that does not decode and every register of either word. Both words of a pair
read before either writes, `VBCAST` beside a word that reads its vd among them, and neither takes effect where one does
not retire. The model's choices: that PAIR comes after ILL and before parking and HAZARD (log 64), which register HAZARD names (log 23), that a
field left unread by its operands' values counts (log 75), and how the words of a pair run (log 13). -/
def Obligations.BundlesAreCheckedThenReadThenWrite : Prop :=
  ∀ (s : State) (c x : Nat) (i0 i1 : Instr) (w : Word32) (k : Nat) (second : Bool) (d a b : BitVec 6) (t : VType) (vd va vb : BitVec 5),
    let B := s.begin c x; let pc := (s.ctx c x).pc; let w0 := (s.core c).fetch pc; let w1 := (s.core c).fetch (pc + 4)
    let lone := w0.getLsbD 31 = true
    let pair := w0.getLsbD 31 = false ∧ pc % 8 ≠ 4 ∧ w0.getLsbD 29 = false ∧ w1.getLsbD 31 = false ∧ w1.getLsbD 29 = true ∧ w1.getLsbD 30 = false
    let bad := fun (u v : Word32) => B.raise { code := .pair, obj := BitVec.ofNat 64 pc, a := u.setWidth 64, b := v.setWidth 64 }
    let E := { s with cur := { s.cur with size := 8, next := s.cur.pc + 8 } }
    let E1 := { E with cur := { E.cur with wpc := s.cur.pc + 4 } }
    (s.fetchBad c pc = false →
      (w0.getLsbD 31 = false → pc % 8 = 4 ∨ w0.getLsbD 29 = true → s.issueCtx c x = bad w0 0) ∧
      (w0.getLsbD 31 = false → pc % 8 ≠ 4 → w0.getLsbD 29 = false → w1.getLsbD 31 = true ∨ w1.getLsbD 29 = false ∨ w1.getLsbD 30 = true →
        s.issueCtx c x = bad w0 w1) ∧
      (∀ e, lone → decodeWord w0 = .error e → s.issueCtx c x = B.raise { code := .ill, a := BitVec.ofNat 64 e.code, d0 := w0.setWidth 64 }) ∧
      (lone → decodeWord w0 = .ok i0 → w0.getLsbD 30 = true → (s.ctx c x).outstanding ≠ 0 → s.issueCtx c x = B.parkMe) ∧
      (∀ e, pair → decodeWord w0 = .error e → s.issueCtx c x = B.raise { code := .ill, a := BitVec.ofNat 64 e.code, d0 := w0.setWidth 64 }) ∧
      (∀ e, pair → decodeWord w0 = .ok i0 → decodeWord w1 = .error e →
        s.issueCtx c x = B.raise { code := .ill, a := BitVec.ofNat 64 e.code, b := 1, d0 := w1.setWidth 64 }) ∧
      (pair → decodeWord w0 = .ok i0 → decodeWord w1 = .ok i1 → pairBad i0 i1 = false → w0.getLsbD 30 = true → (s.ctx c x).outstanding ≠ 0 →
        s.issueCtx c x = B.parkMe) ∧
      (∀ r ∈ sRegs i0 ++ sRegs i1, pair → decodeWord w0 = .ok i0 → decodeWord w1 = .ok i1 → pairBad i0 i1 = false → w0.getLsbD 30 = false →
        64 + r.toNat ∈ (s.ctx c x).pending → ∃ q ∈ sRegs i0 ++ sRegs i1, 64 + q.toNat ∈ (s.ctx c x).pending ∧
          s.issueCtx c x = B.raise { code := .hazard, obj := BitVec.ofNat 64 (64 + q.toNat) }) ∧
      (∀ r ∈ sRegs i0, lone → decodeWord w0 = .ok i0 → w0.getLsbD 30 = false → 64 + r.toNat ∈ (s.ctx c x).pending →
        ∃ q ∈ sRegs i0, 64 + q.toNat ∈ (s.ctx c x).pending ∧ s.issueCtx c x = B.raise { code := .hazard, obj := BitVec.ofNat 64 (64 + q.toNat) }) ∧
      (pair → decodeWord w0 = .ok i0 → decodeWord w1 = .ok i1 → pairBad i0 i1 = true → s.issueCtx c x = bad w0 w1)) ∧
    Answers (.undecodableWord w k second) s (· = s.raise { code := .ill, a := BitVec.ofNat 64 k, b := if second then 1 else 0, d0 := w.setWidth 64 }) ∧
    ((pairBad (.vbcast vd a) (.vadd t va va vb) = true ↔ vd.toNat ∈ vregs t.wide va) ∧ pairBad (.cwait a b 0) i1 = true ∧ pairBad .lease i1 = true) ∧
    (s.cur.snap = none → s.cur.fate = .retire → s.unboundV (vregs t.wide vd ++ vregs t.wide va ++ vregs t.wide vb) = true → ∃ u, Writes E u d (s.rs a + s.rs b) ∧
      let v := { u with cur := { u.cur with wpc := s.cur.pc + 4 } }
      LaneWrites v (s.runTwo (.add d a b) (.vadd t vd va vb)) t.wide vd fun l => byType t
        (fun f => f.addB s.rm (s.lane t.wide va l).toNat (s.lane t.wide vb l).toNat) (laneInt t (s.lane t.wide va l) + laneInt t (s.lane t.wide vb l))) ∧
    (∀ v5 : BitVec 5, s.cur.snap = none → s.cur.fate = .retire → s.unboundV (v5.toNat :: vregs t.wide vd ++ vregs t.wide va ++ vregs t.wide vb) = true →
      v5.toNat ∉ vregs t.wide vd → v5.toNat ∈ vregs t.wide va ++ vregs t.wide vb → ∃ u, WritesV E u v5 (fun _ => (s.rs a).setWidth 32) ∧
        let v := { u with cur := { u.cur with wpc := s.cur.pc + 4 } }
        LaneWrites v (s.runTwo (.vbcast v5 a) (.vadd t vd va vb)) t.wide vd fun l => byType t
          (fun f => f.addB s.rm (s.lane t.wide va l).toNat (s.lane t.wide vb l).toNat) (laneInt t (s.lane t.wide va l) + laneInt t (s.lane t.wide vb l))) ∧
    (∀ u, exec i0 E = .next u → u.cur.fate ≠ .retire → s.runTwo i0 i1 = u) ∧
    (∀ u v, exec i0 E = .next u → u.cur.fate = .retire → exec i1 E1 = .next v → v.cur.fate ≠ .retire → s.runTwo i0 i1 = v)

/-- R17, R33, R34, R54: a step runs the decoded instruction. Where the next piece of work is the issue slot of a core that runs, the first
context past the last one that may issue runs the word at its program counter: the step is `exec` of that instruction, after which the
bundle retires, where it does, and the context has issued; a bundle that leaves the slot lets the scan go on. An asynchronous step
and a wait that is looked at again run `exec` of theirs, the first offering the entries that it has freed in a version store to the writes held for one (R254), and what a waiting `NEXTEV` rolls back stays so (R314). An instruction placed by `withFetchWord` is what the next step fetches. The nine stages that a
step without work lays out are the model's choice (log 6), as is that a placed word stands for a launch that has come to run it (log 5). -/
def Obligations.AStepRunsTheDecodedInstruction : Prop :=
  ∀ (s : State) (c x : Nat) (r : List Work) (pre post : List Nat) (w : Word32) (i : Instr) (t : State),
    let u := { s with work := r }; let k := s.core c
    (s.work = .issue c :: r → u.runs c = true → k.frozen = false → k.tapped = false → k.busy ≤ s.now →
      (List.range 11).map (fun j => (k.last + 1 + j) % 11) = pre ++ x :: post → (∀ y ∈ pre, u.mayIssue c y = false) → u.mayIssue c x = true →
      u.fetchBad c (s.ctx c x).pc = false → k.form (s.ctx c x).pc = .one w → decodeWord w = .ok i → (s.ctx c x).srep = none →
      let b := u.begin c x
      let e := if wS w = 1 then b.updMe (fun m => { m with pending := [] }) else b
      (wS w = 1 → (s.ctx c x).outstanding = 0) → e.hazard [i] = none → exec i e = .next t →
      let v := t.finish 1 none
      step s = .next (if v.cur.fate.takesSlot then
        (u.noteWait v c x).updCore c fun m => { m with last := x, busy := s.now + (if v.cur.fate = .retire then issueCycles i else 1) } else v.issueScan c post)) ∧
    (s.work = .ev i :: r → isWord i = false → (∀ a b c, i ≠ .undecodableWord a b c) → exec i u = .next t → step s = .next (t.offerRoom u)) ∧
    ((∀ e ∈ t.parts, (u.part e.1).retained.length ≤ e.2.retained.length) → t.offerRoom u = t) ∧
    ((∃ e ∈ t.parts, e.2.retained.length < (u.part e.1).retained.length) → ∃ l, (∀ y ∈ l, y ∈ t.heldWrites) ∧ t.offerRoom u = { t with work := l ++ t.work }) ∧
    (∀ W, s.work = .poll c x :: r → (s.ctx c x).st = .waiting → (s.ctx c x).wait = some W → exec W.instr (u.asIf c x) = .next t →
      step s = .next (match t.cur.fate with
        | .retire => t.leaveWait c x
        | .fault _ => t
        | .stall _ => t.updCtx c x fun k => { k with wait := none }
        | .wait _ => (match W.instr with
          | .nextev _ _ => t
          | _ => u)
        | _ => u)) ∧
    (s.work = [] → step s = .next { s.newCycle with work := (List.range 9).map .stage }) ∧
    (let p := s.withFetchWord 32 w.toNat;
      p.work = [.issue 0] ∧ (p.ctx 0 0).pc = 0 ∧ p.mayIssue 0 0 = true ∧ p.runs 0 = true ∧ p.fetchBad 0 0 = false ∧
      (wL w = 1 → (p.core 0).form 0 = .one w) ∧ (wL w = 0 → wK w = 0 → (p.core 0).form 0 = .two w 0x37800000) ∧
      (wL w = 0 → wK w = 1 → wS w = 0 → (p.core 0).form 0 = .two 0x0B000000 w) ∧ decodeWord 0x37800000 = .ok .anop ∧ decodeWord 0x0B000000 = .ok .nop)

/-- R1, R16, R248, R340, R353: right after bring-up the module is ready, each partition is a domain of its own with no launch, every queue is disabled, every
pool and counter is clear, and nothing is under way; every memory is in its canonical form. The model's choices: HBM reads as the byte of log 3
where nothing is listed, channels are unbound (log 1), and every partition is up (log 2). -/
def Obligations.ResetLeavesAnIdleModule : Prop :=
  let s := State.reset
  s.ready = true ∧ s.memWf = true ∧ s.net = [] ∧ s.loads = [] ∧ s.jobs = [] ∧ s.fins = [] ∧ s.bad = [] ∧
  (∀ p, p < 64 → s.baseOf p = p ∧ (s.domain p).log2 = 0 ∧ (s.domain p).launch = none ∧ (s.domain p).queued = [] ∧ (s.domain p).saves = [] ∧
    (s.domain p).entries = [] ∧ (s.part p).down = false) ∧
  (∀ q, (s.queue q).enabled = false ∧ s.canTake q = false) ∧
  (∀ c n, s.cell c n = {}) ∧ (∀ c a, (s.core c).byte a = 0) ∧ (∀ c x, (s.ctx c x).st = .free) ∧ (∀ c h, ((s.core c).chan h).bound = false) ∧
  (∀ a, Memory.read zeroByte s.mem a = zeroByte a)

/-- Every step keeps every memory of the module (HBM, each core's pool and instruction memory, and those of saved launches) in
its canonical form: addresses strictly rising, and none listed that holds what an unlisted address reads as. -/
def Obligations.StepsKeepMemoriesCanonical : Prop := ∀ s t : State, s.memWf = true → step s = .next t → t.memWf = true

/-- R26, R248, R266: an instruction word never changes a byte of HBM by itself, nor anything of another core: what it sends or stores leaves
its core in a packet or a store lane, and reaches its goal in a step of its own. It always answers a next state. -/
def Obligations.InstructionWordsActOnTheirOwnCore : Prop :=
  ∀ (i : Instr) (s : State), isWord i = true → ∃ t, exec i s = .next t ∧ t.mem = s.mem ∧ (∀ d, d ≠ s.cur.core → t.core d = s.core d) ∧
    t.cur.core = s.cur.core ∧ t.cur.ctx = s.cur.ctx ∧ t.now = s.now ∧ t.work = s.work ∧ t.jobs = s.jobs ∧ t.flazar = s.flazar

/-! ## Statements of several parts -/

/-- R83, R84, R86, R87, R88: the integer operations, bit counts, immediates and SEL write the result the tables give to sd and
nothing else. -/
def Obligations.ScalarOperationsWriteOnlyTheirResult : Prop :=
  IntegerOperationsWriteOnlyTheirResult ∧ BitCountsAreExact ∧ ImmediatesAndSelectWriteOnlyTheirResult

/-- R12, R23, R92, R93, R94, R95, R96, R116, R211, R212: START takes the lowest free helper with its registers clear; ENDT and
TASK_END free a context only once nothing is outstanding; NOP changes nothing. -/
def Obligations.TasksStartAndEnd : Prop :=
  StartTakesTheLowestFreeHelper ∧ EndtEndsTheTaskOnceNothingIsOutstanding

/-- R336, R337: CSRR reads each CSR and CSRW changes the one it names, faulting PERM on a value out of range. -/
def Obligations.CsrsReadAndWriteTheirOwnState : Prop :=
  CsrrReadsEachCsr ∧ CsrwWritesOnlyItsCsr

/-- R36, R186, R325, R326, R338: PMRD asks for one result, TRAP and BRK fault, HALT halts, and FREEZE and THAW stop a core and
return every context to its state. -/
def Obligations.SystemInstructionsStopAskAndFreeze : Prop :=
  PmrdTrapBrkAndHalt ∧ FreezeAndThawReturnEveryContext

/-- R60, R78, R98, R101, R105: lane logic, shifts, moves, selection, lane numbers, FP32 functions and conversions write the lanes
in the mask and nothing else. -/
def Obligations.VectorLogicFunctionsAndConversionsWriteLanes : Prop :=
  VectorLogicWritesLanesUnderTheMask ∧ VectorFunctionsAndConversionsWriteLanesUnderTheMask

/-- R81, R82, R107: VRED and VSCAN combine the lanes by the fixed tree and prefix, and over integers the tree is the sum, the
least or the greatest. -/
def Obligations.ReductionsAndScansFollowTheirTreesInAnyOrder : Prop :=
  ReductionsAndScansFollowTheirTrees ∧ IntegerReductionsAreOrderFree

/-- R34, R110, R111, R112, R113, R114, R294: SBIND binds what its checks accept, SFREE unbinds, SPOS reads the position, and SREP
repeats its body once per beat left. Clauses that are the model's choice rest on log 66. -/
def Obligations.StreamsBindAndRepeat : Prop :=
  StreamInstructionsActOnTheirStream ∧ ABodyRunsOncePerRepetition

/-- R112, R116, R267: a read of a bound register pops one beat, a write pushes one under mask and tail, and beats arrive ahead of
their pops. -/
def Obligations.BoundRegistersMoveTheirStreams : Prop :=
  AReadOfABoundRegisterPopsOneBeat ∧ AWriteOfABoundRegisterPushesOneBeat ∧ BeatsArriveAheadOfTheirPops

/-- R26, R280, R282: loads and stores of the core's own windows move the little-endian bytes they name and leave every other
byte. -/
def Obligations.LocalAccessesMoveTheBytesTheyName : Prop :=
  LocalLoadsWriteTheBytesTheyName ∧ LocalStoresChangeOnlyTheirBytes

/-- R249, R251, R266, R282, R283, R284, R286: global stores and RECL enter the store lane of their slice and HBM waits; LDV asks
for a version of a VERSIONED word. -/
def Obligations.GlobalStoresAndReclaimsEnterTheirLane : Prop :=
  GlobalStoresEnterTheirLane ∧ LdvAndReclNeedAVersionedWord

/-- R260, R268, R269, R270, R271, R272, R279, R287, R288, R289, R293, R294: FENCE waits for what its scope covers, POOL re-
divides a quiescent core, and WMARK arms a watermark whose stalls expire. Clauses that are the model's choice rest on log 92. -/
def Obligations.FencesPoolsAndWatermarks : Prop :=
  FencesWaitForWhatTheyCover ∧ PoolRedividesAQuiescentCore ∧ PoolFindsTheFirstReason ∧ WatermarksArmAndExpire

/-- R248, R249, R252, R253, R254, R266, R267, R268, R283, R284, R285, R286: the head of a store lane reaches HBM, a held write
waits for version-store room, and a slice serves each load and LDV. -/
def Obligations.SlicesPerformStoresAndServeLoads : Prop :=
  StoreLanesPerformInOrder ∧ HeldWritesWaitForRoom ∧ SlicesServeLoads

/-- R140, R255, R256, R257, R258, R260, R274, R279, R290, R291: COPY and COPYC send one request to the streamer of their forms,
which moves exactly the bytes of its runs. -/
def Obligations.CopiesMoveTheBytesOfTheirRuns : Prop :=
  CopyRequestsGoToTheirStreamer ∧ StreamersTakeCopyRequests ∧ ABeatMovesTheBytesOfItsRun

/-- R29, R170, R174, R175, R177, R179, R181, R186, R189, R192, R194, R204, R211, R269: a message enters the next free slot of its
ring or is refused; REPLY answers it once; replies and refusals take the reserved slot. -/
def Obligations.MessagesAndRepliesEnterTheirRings : Prop :=
  MessagesEnterTheirRing ∧ RepliesTakeTheirReservedSlot ∧ RepliesAnswerTheirMessage

/-- R177, R178, R180, R204, R246, R296, R354: fault records, RELEASE, host reports, station messages and remote block reads reach
their place. Clauses that are the model's choice rest on logs 25, 69. -/
def Obligations.RecordsReleasesReportsAndBlockReads : Prop :=
  RecordsReleasesAndHostReports ∧ BlockReadsReturnTheirWords

/-- R36, R183, R186, R192, R196, R243, R248, R251, R254: each atomic asks the owner of its word for one result, and the owner's
handler performs them one after another. -/
def Obligations.AtomicsArePerformedByTheOwnerInOrder : Prop :=
  AtomicsAskTheOwnerOfTheWord ∧ HandlersPerformAtomicsInOrder

/-- R184, R185, R190, R197, R198, R208: counter adds, CREAD, CSET, CFLT and CARM act on one cell; the target fires its descriptor
and an overflow faults. -/
def Obligations.CountersFireAtTheirTarget : Prop :=
  CounterAddsFireAtTheirTarget ∧ CounterInstructionsActOnOneCell

/-- R224, R226, R227, R231, R232: a whole use completes for every member with one value in any order of arrival; arrivals that
differ fault all, and one past its limit is withdrawn. Clauses that are the model's choice rest on log 70. -/
def Obligations.UsesCompleteForEveryMemberOrAreWithdrawn : Prop :=
  UsesCompleteForEveryMember ∧ AnArrivalIsWithdrawnAtItsLimit

/-- R296, R299, R300, R301, R302, R303, R304, R311, R312, R313, R314: PTCFG, PSET, PGET and PSUM keep the rate tree, and NEXTEV
takes the least time of the tree and the inbox. -/
def Obligations.TheTreeHoldsTheRatesAndTheNextEvent : Prop :=
  TheTreeHoldsTheRates ∧ NextEventIsTheLeastInTime

/-- R303, R304, R305, R306, R308, R315: EVSEND sends a TIMED message under the clock, which the inbox keeps, cancels and refuses
as the rules say. Clauses that are the model's choice rest on logs 21, 45. -/
def Obligations.TimedMessagesCarryTheClockToTheInbox : Prop :=
  EventSendsCarryTheClock ∧ TheInboxKeepsTimedMessages

/-- R130, R131, R138, R154, R155, R156, R157, R158: THDR, TSTH, TMAKE, TSET and TGET move a checked tile header between memory
and a handle. -/
def Obligations.TileHandlesKeepTheirChecks : Prop :=
  TileHandleInstructionsKeepTheirChecks ∧ HeaderChecksFollowTheirTable

/-- R138, R139, R141, R142, R143, R144, R146, R148, R150, R151, R152, R153, R162, R163, R165, R167, R168, R270, R274: MMA, MMAG,
MZERO, MDRAIN, TCVT and AQADD are checked, queued and run in order, and complete by their counter. Clauses that are the
model's choice rest on logs 28, 76. -/
def Obligations.EngineCommandsAreQueuedRunAndComplete : Prop :=
  EngineCommandsAreQueued ∧ MmaChecksFollowTheirTables ∧ EngineCommandsRunAndComplete ∧ TheTileUnitConvertsAndAdds

/-- R248, R338, R339, R340, R341, R342, R343, R345, R346, R347, R348, R353: commands are taken in turn and completed; QUERY,
PMREAD, PARTCFG, RESET, doorbells and BAR4 act as the host interface says. Clauses that are the model's choice rest on logs
15, 17, 49, 56. -/
def Obligations.HostCommandsAreTakenInTurnAndAnswered : Prop :=
  CommandsAreTakenInTurn ∧ TheHostSeesTheModule
end

