-- ==== Sys2Proof/Laws/Maps.lean ====
section
/-! SUPPORT. Laws of the sparse files and of memories: a read after a write, what a write leaves alone, and the canonical
form that every memory operation keeps. -/

namespace Sys2Proof

section Maps
variable {α : Type}

@[simp] theorem AMap.get_nil (d : α) (k : Nat) : AMap.get d [] k = d := rfl
@[simp] theorem AMap.find_nil (k : Nat) : AMap.find ([] : AMap α) k = none := rfl

theorem AMap.get_set (d : α) (m : AMap α) (k j : Nat) (v : α) :
    AMap.get d (AMap.set m k v) j = if k = j then v else AMap.get d m j := by
  induction m with
  | nil => simp [AMap.set, AMap.get]
  | cons e r ih =>
    obtain ⟨i, w⟩ := e
    simp only [AMap.set]
    split
    · next h => subst h; simp only [AMap.get]; split <;> rfl
    · next h =>
      split
      · simp [AMap.get]
      · simp only [AMap.get, ih]
        split
        · next hi => subst hi; rw [if_neg h]
        · rfl
@[simp] theorem AMap.get_set_same (d : α) (m : AMap α) (k : Nat) (v : α) : AMap.get d (AMap.set m k v) k = v := by
  simp [AMap.get_set]
theorem AMap.get_set_ne (d : α) (m : AMap α) {k j : Nat} (v : α) (h : k ≠ j) :
    AMap.get d (AMap.set m k v) j = AMap.get d m j := by simp [AMap.get_set, h]

theorem AMap.find_set (m : AMap α) (k j : Nat) (v : α) :
    AMap.find (AMap.set m k v) j = if k = j then some v else AMap.find m j := by
  induction m with
  | nil => simp [AMap.set, AMap.find]
  | cons e r ih =>
    obtain ⟨i, w⟩ := e
    simp only [AMap.set]
    split
    · next h => subst h; simp only [AMap.find]; split <;> rfl
    · next h =>
      split
      · simp [AMap.find]
      · simp only [AMap.find, ih]
        split
        · next hi => subst hi; rw [if_neg h]
        · rfl
@[simp] theorem AMap.find_set_same (m : AMap α) (k : Nat) (v : α) : AMap.find (AMap.set m k v) k = some v := by
  simp [AMap.find_set]

theorem AMap.get_eq_find (d : α) (m : AMap α) (k : Nat) : AMap.get d m k = (AMap.find m k).getD d := by
  induction m with
  | nil => rfl
  | cons e r ih =>
    obtain ⟨i, w⟩ := e
    simp only [AMap.get, AMap.find]
    split <;> simp [*]

theorem AMap.find_erase (m : AMap α) (k j : Nat) :
    AMap.find (AMap.erase m k) j = if k = j then none else AMap.find m j := by
  induction m with
  | nil => simp [AMap.erase, AMap.find]
  | cons e r ih =>
    obtain ⟨i, w⟩ := e
    simp only [AMap.erase, List.filter] at *
    by_cases h : i = k
    · subst h
      simp only [bne_self_eq_false, ih, AMap.find]
      split <;> rfl
    · have hb : (i != k) = true := by simpa using h
      simp only [hb, AMap.find, ih]
      split
      · next hi => subst hi; rw [if_neg (fun e => h e.symm)]
      · rfl
theorem AMap.get_upd (d : α) (m : AMap α) (k j : Nat) (f : α → α) :
    AMap.get d (AMap.upd d m k f) j = if k = j then f (AMap.get d m k) else AMap.get d m j := by
  simp [AMap.upd, AMap.get_set]

end Maps

namespace Machine

/-! ## Memories -/

theorem Memory.read_list (d : Nat → Byte) (m : Memory) (a b : Nat) (v : Byte) :
    Memory.read d (Memory.list m a v) b = if a = b then v else Memory.read d m b := by
  induction m with
  | nil => simp [Memory.list, Memory.read]
  | cons e r ih =>
    obtain ⟨i, w⟩ := e
    simp only [Memory.list]
    split
    · simp [Memory.read]
    · split
      · next h => subst h; simp only [Memory.read]; split <;> rfl
      · next h =>
        simp only [Memory.read, ih]
        split
        · next hi => subst hi; rw [if_neg h]
        · rfl
theorem Memory.read_drop (d : Nat → Byte) (m : Memory) (a b : Nat) :
    Memory.read d (m.filter fun e => e.1 != a) b = if a = b then d b else Memory.read d m b := by
  induction m with
  | nil => simp [Memory.read]
  | cons e r ih =>
    obtain ⟨i, w⟩ := e
    simp only [List.filter]
    by_cases h : i = a
    · subst h
      simp only [bne_self_eq_false, ih, Memory.read]
      split <;> rfl
    · have hb : (i != a) = true := by simpa using h
      simp only [hb, Memory.read, ih]
      split
      · next hi => subst hi; rw [if_neg (fun e => h e.symm)]
      · rfl
/-- A byte reads back as written, and every other byte reads as before. -/
theorem Memory.read_write (d : Nat → Byte) (m : Memory) (a b : Nat) (v : Byte) :
    Memory.read d (Memory.write d m a v) b = if a = b then v else Memory.read d m b := by
  simp only [Memory.write]
  split
  · next h =>
    rw [Memory.read_drop]
    split
    · next e => subst e; exact h.symm
    · rfl
  · exact Memory.read_list d m a b v
@[simp] theorem Memory.read_write_same (d : Nat → Byte) (m : Memory) (a : Nat) (v : Byte) :
    Memory.read d (Memory.write d m a v) a = v := by simp [Memory.read_write]
/-- Storing bytes: each lands at its place, and every byte outside reads as before. -/
theorem Memory.read_store (d : Nat → Byte) (m : Memory) (a b : Nat) (bs : List Byte) :
    Memory.read d (Memory.store d m a bs) b =
      if a ≤ b ∧ b < a + bs.length then bs.getD (b - a) 0 else Memory.read d m b := by
  induction bs generalizing m a with
  | nil => simp [Memory.store]
  | cons v r ih =>
    simp only [Memory.store, ih, Memory.read_write, List.length_cons]
    by_cases h : a = b
    · subst h; simp
    · by_cases h2 : a + 1 ≤ b ∧ b < a + 1 + r.length
      · have e : b - a = b - (a + 1) + 1 := by omega
        rw [if_pos h2, if_pos (by omega), e, List.getD_cons_succ]
      · rw [if_neg h2, if_neg h, if_neg (by omega)]

/-! ## The canonical form -/

theorem Memory.wf_cons (d : Nat → Byte) (a : Nat) (v : Byte) (r : Memory) :
    Memory.wf d ((a, v) :: r) = true ↔
      v ≠ d a ∧ (∀ e ∈ r.head?, a < e.1) ∧ Memory.wf d r = true := by
  cases r with
  | nil => simp [Memory.wf]
  | cons e r => obtain ⟨b, w⟩ := e; simp [Memory.wf, and_assoc]
/-- In the canonical form every address of the tail lies above the head's. -/
theorem Memory.wf_lt (d : Nat → Byte) {a : Nat} {v : Byte} {r : Memory} (h : Memory.wf d ((a, v) :: r) = true) :
    ∀ e ∈ r, a < e.1 := by
  induction r generalizing a v with
  | nil => simp
  | cons e r ih =>
    obtain ⟨b, w⟩ := e
    rw [Memory.wf_cons] at h
    obtain ⟨_, h2, h3⟩ := h
    have hab : a < b := h2 (b, w) rfl
    intro x hx
    rcases List.mem_cons.1 hx with rfl | hx
    · exact hab
    · exact Nat.lt_trans hab (ih h3 x hx)
theorem Memory.wf_filter (d : Nat → Byte) (p : Host.Cell → Bool) (m : Memory) (h : Memory.wf d m = true) :
    Memory.wf d (m.filter p) = true := by
  induction m with
  | nil => rfl
  | cons e r ih =>
    obtain ⟨a, v⟩ := e
    have hw := (Memory.wf_cons d a v r).1 h
    have hr := ih hw.2.2
    simp only [List.filter]
    split
    · rw [Memory.wf_cons]
      refine ⟨hw.1, ?_, hr⟩
      intro x hx
      have hm : x ∈ r.filter p := List.mem_of_mem_head? hx
      exact Memory.wf_lt d h x (List.mem_filter.1 hm).1
    · exact hr
theorem Memory.wf_list (d : Nat → Byte) (m : Memory) (a : Nat) (v : Byte) (h : Memory.wf d m = true) (hv : v ≠ d a) :
    Memory.wf d (Memory.list m a v) = true := by
  induction m with
  | nil => simp [Memory.list, Memory.wf, hv]
  | cons e r ih =>
    obtain ⟨b, w⟩ := e
    have hw := (Memory.wf_cons d b w r).1 h
    simp only [Memory.list]
    split
    · next hlt => exact (Memory.wf_cons d a v _).2 ⟨hv, by simpa using hlt, h⟩
    · split
      · next he => subst he; exact (Memory.wf_cons d a v _).2 ⟨hv, hw.2.1, hw.2.2⟩
      · next hlt hne =>
        have hba : b < a := by omega
        refine (Memory.wf_cons d b w _).2 ⟨hw.1, ?_, ih hw.2.2⟩
        cases r with
        | nil => simpa [Memory.list] using hba
        | cons x r =>
          obtain ⟨c, u⟩ := x
          have hbc : b < c := hw.2.1 (c, u) rfl
          simp only [Memory.list]
          split
          · simpa using hba
          · split
            · simpa using hba
            · simpa using hbc
/-- A write of one byte keeps the canonical form. -/
theorem Memory.wf_write (d : Nat → Byte) (m : Memory) (a : Nat) (v : Byte) (h : Memory.wf d m = true) :
    Memory.wf d (Memory.write d m a v) = true := by
  simp only [Memory.write]
  split
  · exact Memory.wf_filter d _ m h
  · next hv => exact Memory.wf_list d m a v h hv
/-- A store of bytes keeps the canonical form. -/
theorem Memory.wf_store (d : Nat → Byte) (m : Memory) (a : Nat) (bs : List Byte) (h : Memory.wf d m = true) :
    Memory.wf d (Memory.store d m a bs) = true := by
  induction bs generalizing m a with
  | nil => exact h
  | cons v r ih => exact ih _ _ (Memory.wf_write d m a v h)

end Machine
end Sys2Proof
end

