-- ==== Sys2Proof/Laws/State.lean ====
section
/-! SUPPORT. What each update of the state, of a core and of a context leaves: one lemma per field and update. -/

namespace Sys2Proof.Machine
open Sys2Proof

section Fields
variable (s : State)

@[simp] theorem State.setCore_now (c : Nat) (k : Core) : (s.setCore c k).now = s.now := rfl
@[simp] theorem State.setCore_ready (c : Nat) (k : Core) : (s.setCore c k).ready = s.ready := rfl
@[simp] theorem State.setCore_package (c : Nat) (k : Core) : (s.setCore c k).package = s.package := rfl
@[simp] theorem State.setCore_window (c : Nat) (k : Core) : (s.setCore c k).window = s.window := rfl
@[simp] theorem State.setCore_bar4Log (c : Nat) (k : Core) : (s.setCore c k).bar4Log = s.bar4Log := rfl
@[simp] theorem State.setCore_cap (c : Nat) (k : Core) : (s.setCore c k).cap = s.cap := rfl
@[simp] theorem State.setCore_parts (c : Nat) (k : Core) : (s.setCore c k).parts = s.parts := rfl
@[simp] theorem State.setCore_domains (c : Nat) (k : Core) : (s.setCore c k).domains = s.domains := rfl
@[simp] theorem State.setCore_queues (c : Nat) (k : Core) : (s.setCore c k).queues = s.queues := rfl
@[simp] theorem State.setCore_mem (c : Nat) (k : Core) : (s.setCore c k).mem = s.mem := rfl
@[simp] theorem State.setCore_bad (c : Nat) (k : Core) : (s.setCore c k).bad = s.bad := rfl
@[simp] theorem State.setCore_net (c : Nat) (k : Core) : (s.setCore c k).net = s.net := rfl
@[simp] theorem State.setCore_loads (c : Nat) (k : Core) : (s.setCore c k).loads = s.loads := rfl
@[simp] theorem State.setCore_jobs (c : Nat) (k : Core) : (s.setCore c k).jobs = s.jobs := rfl
@[simp] theorem State.setCore_fins (c : Nat) (k : Core) : (s.setCore c k).fins = s.fins := rfl
@[simp] theorem State.setCore_flazar (c : Nat) (k : Core) : (s.setCore c k).flazar = s.flazar := rfl
@[simp] theorem State.setCore_bar4 (c : Nat) (k : Core) : (s.setCore c k).bar4 = s.bar4 := rfl
@[simp] theorem State.setCore_cur (c : Nat) (k : Core) : (s.setCore c k).cur = s.cur := rfl
@[simp] theorem State.setCore_uid (c : Nat) (k : Core) : (s.setCore c k).uid = s.uid := rfl
@[simp] theorem State.setCore_free (c : Nat) (k : Core) : (s.setCore c k).free = s.free := rfl
@[simp] theorem State.setCore_work (c : Nat) (k : Core) : (s.setCore c k).work = s.work := rfl
@[simp] theorem State.setCore_inputs (c : Nat) (k : Core) : (s.setCore c k).inputs = s.inputs := rfl
@[simp] theorem State.setCore_past (c : Nat) (k : Core) : (s.setCore c k).past = s.past := rfl
@[simp] theorem State.updCore_now (c : Nat) (f : Core → Core) : (s.updCore c f).now = s.now := rfl
@[simp] theorem State.updCore_ready (c : Nat) (f : Core → Core) : (s.updCore c f).ready = s.ready := rfl
@[simp] theorem State.updCore_package (c : Nat) (f : Core → Core) : (s.updCore c f).package = s.package := rfl
@[simp] theorem State.updCore_window (c : Nat) (f : Core → Core) : (s.updCore c f).window = s.window := rfl
@[simp] theorem State.updCore_bar4Log (c : Nat) (f : Core → Core) : (s.updCore c f).bar4Log = s.bar4Log := rfl
@[simp] theorem State.updCore_cap (c : Nat) (f : Core → Core) : (s.updCore c f).cap = s.cap := rfl
@[simp] theorem State.updCore_parts (c : Nat) (f : Core → Core) : (s.updCore c f).parts = s.parts := rfl
@[simp] theorem State.updCore_domains (c : Nat) (f : Core → Core) : (s.updCore c f).domains = s.domains := rfl
@[simp] theorem State.updCore_queues (c : Nat) (f : Core → Core) : (s.updCore c f).queues = s.queues := rfl
@[simp] theorem State.updCore_mem (c : Nat) (f : Core → Core) : (s.updCore c f).mem = s.mem := rfl
@[simp] theorem State.updCore_bad (c : Nat) (f : Core → Core) : (s.updCore c f).bad = s.bad := rfl
@[simp] theorem State.updCore_net (c : Nat) (f : Core → Core) : (s.updCore c f).net = s.net := rfl
@[simp] theorem State.updCore_loads (c : Nat) (f : Core → Core) : (s.updCore c f).loads = s.loads := rfl
@[simp] theorem State.updCore_jobs (c : Nat) (f : Core → Core) : (s.updCore c f).jobs = s.jobs := rfl
@[simp] theorem State.updCore_fins (c : Nat) (f : Core → Core) : (s.updCore c f).fins = s.fins := rfl
@[simp] theorem State.updCore_flazar (c : Nat) (f : Core → Core) : (s.updCore c f).flazar = s.flazar := rfl
@[simp] theorem State.updCore_bar4 (c : Nat) (f : Core → Core) : (s.updCore c f).bar4 = s.bar4 := rfl
@[simp] theorem State.updCore_cur (c : Nat) (f : Core → Core) : (s.updCore c f).cur = s.cur := rfl
@[simp] theorem State.updCore_uid (c : Nat) (f : Core → Core) : (s.updCore c f).uid = s.uid := rfl
@[simp] theorem State.updCore_free (c : Nat) (f : Core → Core) : (s.updCore c f).free = s.free := rfl
@[simp] theorem State.updCore_work (c : Nat) (f : Core → Core) : (s.updCore c f).work = s.work := rfl
@[simp] theorem State.updCore_inputs (c : Nat) (f : Core → Core) : (s.updCore c f).inputs = s.inputs := rfl
@[simp] theorem State.updCore_past (c : Nat) (f : Core → Core) : (s.updCore c f).past = s.past := rfl
@[simp] theorem State.setCtx_now (c x : Nat) (k : Ctx) : (s.setCtx c x k).now = s.now := rfl
@[simp] theorem State.setCtx_ready (c x : Nat) (k : Ctx) : (s.setCtx c x k).ready = s.ready := rfl
@[simp] theorem State.setCtx_package (c x : Nat) (k : Ctx) : (s.setCtx c x k).package = s.package := rfl
@[simp] theorem State.setCtx_window (c x : Nat) (k : Ctx) : (s.setCtx c x k).window = s.window := rfl
@[simp] theorem State.setCtx_bar4Log (c x : Nat) (k : Ctx) : (s.setCtx c x k).bar4Log = s.bar4Log := rfl
@[simp] theorem State.setCtx_cap (c x : Nat) (k : Ctx) : (s.setCtx c x k).cap = s.cap := rfl
@[simp] theorem State.setCtx_parts (c x : Nat) (k : Ctx) : (s.setCtx c x k).parts = s.parts := rfl
@[simp] theorem State.setCtx_domains (c x : Nat) (k : Ctx) : (s.setCtx c x k).domains = s.domains := rfl
@[simp] theorem State.setCtx_queues (c x : Nat) (k : Ctx) : (s.setCtx c x k).queues = s.queues := rfl
@[simp] theorem State.setCtx_mem (c x : Nat) (k : Ctx) : (s.setCtx c x k).mem = s.mem := rfl
@[simp] theorem State.setCtx_bad (c x : Nat) (k : Ctx) : (s.setCtx c x k).bad = s.bad := rfl
@[simp] theorem State.setCtx_net (c x : Nat) (k : Ctx) : (s.setCtx c x k).net = s.net := rfl
@[simp] theorem State.setCtx_loads (c x : Nat) (k : Ctx) : (s.setCtx c x k).loads = s.loads := rfl
@[simp] theorem State.setCtx_jobs (c x : Nat) (k : Ctx) : (s.setCtx c x k).jobs = s.jobs := rfl
@[simp] theorem State.setCtx_fins (c x : Nat) (k : Ctx) : (s.setCtx c x k).fins = s.fins := rfl
@[simp] theorem State.setCtx_flazar (c x : Nat) (k : Ctx) : (s.setCtx c x k).flazar = s.flazar := rfl
@[simp] theorem State.setCtx_bar4 (c x : Nat) (k : Ctx) : (s.setCtx c x k).bar4 = s.bar4 := rfl
@[simp] theorem State.setCtx_cur (c x : Nat) (k : Ctx) : (s.setCtx c x k).cur = s.cur := rfl
@[simp] theorem State.setCtx_uid (c x : Nat) (k : Ctx) : (s.setCtx c x k).uid = s.uid := rfl
@[simp] theorem State.setCtx_free (c x : Nat) (k : Ctx) : (s.setCtx c x k).free = s.free := rfl
@[simp] theorem State.setCtx_work (c x : Nat) (k : Ctx) : (s.setCtx c x k).work = s.work := rfl
@[simp] theorem State.setCtx_inputs (c x : Nat) (k : Ctx) : (s.setCtx c x k).inputs = s.inputs := rfl
@[simp] theorem State.setCtx_past (c x : Nat) (k : Ctx) : (s.setCtx c x k).past = s.past := rfl
@[simp] theorem State.updCtx_now (c x : Nat) (f : Ctx → Ctx) : (s.updCtx c x f).now = s.now := rfl
@[simp] theorem State.updCtx_ready (c x : Nat) (f : Ctx → Ctx) : (s.updCtx c x f).ready = s.ready := rfl
@[simp] theorem State.updCtx_package (c x : Nat) (f : Ctx → Ctx) : (s.updCtx c x f).package = s.package := rfl
@[simp] theorem State.updCtx_window (c x : Nat) (f : Ctx → Ctx) : (s.updCtx c x f).window = s.window := rfl
@[simp] theorem State.updCtx_bar4Log (c x : Nat) (f : Ctx → Ctx) : (s.updCtx c x f).bar4Log = s.bar4Log := rfl
@[simp] theorem State.updCtx_cap (c x : Nat) (f : Ctx → Ctx) : (s.updCtx c x f).cap = s.cap := rfl
@[simp] theorem State.updCtx_parts (c x : Nat) (f : Ctx → Ctx) : (s.updCtx c x f).parts = s.parts := rfl
@[simp] theorem State.updCtx_domains (c x : Nat) (f : Ctx → Ctx) : (s.updCtx c x f).domains = s.domains := rfl
@[simp] theorem State.updCtx_queues (c x : Nat) (f : Ctx → Ctx) : (s.updCtx c x f).queues = s.queues := rfl
@[simp] theorem State.updCtx_mem (c x : Nat) (f : Ctx → Ctx) : (s.updCtx c x f).mem = s.mem := rfl
@[simp] theorem State.updCtx_bad (c x : Nat) (f : Ctx → Ctx) : (s.updCtx c x f).bad = s.bad := rfl
@[simp] theorem State.updCtx_net (c x : Nat) (f : Ctx → Ctx) : (s.updCtx c x f).net = s.net := rfl
@[simp] theorem State.updCtx_loads (c x : Nat) (f : Ctx → Ctx) : (s.updCtx c x f).loads = s.loads := rfl
@[simp] theorem State.updCtx_jobs (c x : Nat) (f : Ctx → Ctx) : (s.updCtx c x f).jobs = s.jobs := rfl
@[simp] theorem State.updCtx_fins (c x : Nat) (f : Ctx → Ctx) : (s.updCtx c x f).fins = s.fins := rfl
@[simp] theorem State.updCtx_flazar (c x : Nat) (f : Ctx → Ctx) : (s.updCtx c x f).flazar = s.flazar := rfl
@[simp] theorem State.updCtx_bar4 (c x : Nat) (f : Ctx → Ctx) : (s.updCtx c x f).bar4 = s.bar4 := rfl
@[simp] theorem State.updCtx_cur (c x : Nat) (f : Ctx → Ctx) : (s.updCtx c x f).cur = s.cur := rfl
@[simp] theorem State.updCtx_uid (c x : Nat) (f : Ctx → Ctx) : (s.updCtx c x f).uid = s.uid := rfl
@[simp] theorem State.updCtx_free (c x : Nat) (f : Ctx → Ctx) : (s.updCtx c x f).free = s.free := rfl
@[simp] theorem State.updCtx_work (c x : Nat) (f : Ctx → Ctx) : (s.updCtx c x f).work = s.work := rfl
@[simp] theorem State.updCtx_inputs (c x : Nat) (f : Ctx → Ctx) : (s.updCtx c x f).inputs = s.inputs := rfl
@[simp] theorem State.updCtx_past (c x : Nat) (f : Ctx → Ctx) : (s.updCtx c x f).past = s.past := rfl
@[simp] theorem State.updMe_now (f : Ctx → Ctx) : (s.updMe f).now = s.now := rfl
@[simp] theorem State.updMe_ready (f : Ctx → Ctx) : (s.updMe f).ready = s.ready := rfl
@[simp] theorem State.updMe_package (f : Ctx → Ctx) : (s.updMe f).package = s.package := rfl
@[simp] theorem State.updMe_window (f : Ctx → Ctx) : (s.updMe f).window = s.window := rfl
@[simp] theorem State.updMe_bar4Log (f : Ctx → Ctx) : (s.updMe f).bar4Log = s.bar4Log := rfl
@[simp] theorem State.updMe_cap (f : Ctx → Ctx) : (s.updMe f).cap = s.cap := rfl
@[simp] theorem State.updMe_parts (f : Ctx → Ctx) : (s.updMe f).parts = s.parts := rfl
@[simp] theorem State.updMe_domains (f : Ctx → Ctx) : (s.updMe f).domains = s.domains := rfl
@[simp] theorem State.updMe_queues (f : Ctx → Ctx) : (s.updMe f).queues = s.queues := rfl
@[simp] theorem State.updMe_mem (f : Ctx → Ctx) : (s.updMe f).mem = s.mem := rfl
@[simp] theorem State.updMe_bad (f : Ctx → Ctx) : (s.updMe f).bad = s.bad := rfl
@[simp] theorem State.updMe_net (f : Ctx → Ctx) : (s.updMe f).net = s.net := rfl
@[simp] theorem State.updMe_loads (f : Ctx → Ctx) : (s.updMe f).loads = s.loads := rfl
@[simp] theorem State.updMe_jobs (f : Ctx → Ctx) : (s.updMe f).jobs = s.jobs := rfl
@[simp] theorem State.updMe_fins (f : Ctx → Ctx) : (s.updMe f).fins = s.fins := rfl
@[simp] theorem State.updMe_flazar (f : Ctx → Ctx) : (s.updMe f).flazar = s.flazar := rfl
@[simp] theorem State.updMe_bar4 (f : Ctx → Ctx) : (s.updMe f).bar4 = s.bar4 := rfl
@[simp] theorem State.updMe_cur (f : Ctx → Ctx) : (s.updMe f).cur = s.cur := rfl
@[simp] theorem State.updMe_uid (f : Ctx → Ctx) : (s.updMe f).uid = s.uid := rfl
@[simp] theorem State.updMe_free (f : Ctx → Ctx) : (s.updMe f).free = s.free := rfl
@[simp] theorem State.updMe_work (f : Ctx → Ctx) : (s.updMe f).work = s.work := rfl
@[simp] theorem State.updMe_inputs (f : Ctx → Ctx) : (s.updMe f).inputs = s.inputs := rfl
@[simp] theorem State.updMe_past (f : Ctx → Ctx) : (s.updMe f).past = s.past := rfl
@[simp] theorem State.setCell_now (c n : Nat) (v : Cell) : (s.setCell c n v).now = s.now := rfl
@[simp] theorem State.setCell_ready (c n : Nat) (v : Cell) : (s.setCell c n v).ready = s.ready := rfl
@[simp] theorem State.setCell_package (c n : Nat) (v : Cell) : (s.setCell c n v).package = s.package := rfl
@[simp] theorem State.setCell_window (c n : Nat) (v : Cell) : (s.setCell c n v).window = s.window := rfl
@[simp] theorem State.setCell_bar4Log (c n : Nat) (v : Cell) : (s.setCell c n v).bar4Log = s.bar4Log := rfl
@[simp] theorem State.setCell_cap (c n : Nat) (v : Cell) : (s.setCell c n v).cap = s.cap := rfl
@[simp] theorem State.setCell_parts (c n : Nat) (v : Cell) : (s.setCell c n v).parts = s.parts := rfl
@[simp] theorem State.setCell_domains (c n : Nat) (v : Cell) : (s.setCell c n v).domains = s.domains := rfl
@[simp] theorem State.setCell_queues (c n : Nat) (v : Cell) : (s.setCell c n v).queues = s.queues := rfl
@[simp] theorem State.setCell_mem (c n : Nat) (v : Cell) : (s.setCell c n v).mem = s.mem := rfl
@[simp] theorem State.setCell_bad (c n : Nat) (v : Cell) : (s.setCell c n v).bad = s.bad := rfl
@[simp] theorem State.setCell_net (c n : Nat) (v : Cell) : (s.setCell c n v).net = s.net := rfl
@[simp] theorem State.setCell_loads (c n : Nat) (v : Cell) : (s.setCell c n v).loads = s.loads := rfl
@[simp] theorem State.setCell_jobs (c n : Nat) (v : Cell) : (s.setCell c n v).jobs = s.jobs := rfl
@[simp] theorem State.setCell_fins (c n : Nat) (v : Cell) : (s.setCell c n v).fins = s.fins := rfl
@[simp] theorem State.setCell_flazar (c n : Nat) (v : Cell) : (s.setCell c n v).flazar = s.flazar := rfl
@[simp] theorem State.setCell_bar4 (c n : Nat) (v : Cell) : (s.setCell c n v).bar4 = s.bar4 := rfl
@[simp] theorem State.setCell_cur (c n : Nat) (v : Cell) : (s.setCell c n v).cur = s.cur := rfl
@[simp] theorem State.setCell_uid (c n : Nat) (v : Cell) : (s.setCell c n v).uid = s.uid := rfl
@[simp] theorem State.setCell_free (c n : Nat) (v : Cell) : (s.setCell c n v).free = s.free := rfl
@[simp] theorem State.setCell_work (c n : Nat) (v : Cell) : (s.setCell c n v).work = s.work := rfl
@[simp] theorem State.setCell_inputs (c n : Nat) (v : Cell) : (s.setCell c n v).inputs = s.inputs := rfl
@[simp] theorem State.setCell_past (c n : Nat) (v : Cell) : (s.setCell c n v).past = s.past := rfl
@[simp] theorem State.ws_now (n : BitVec 6) (v : Word) : (s.ws n v).now = s.now := rfl
@[simp] theorem State.ws_ready (n : BitVec 6) (v : Word) : (s.ws n v).ready = s.ready := rfl
@[simp] theorem State.ws_package (n : BitVec 6) (v : Word) : (s.ws n v).package = s.package := rfl
@[simp] theorem State.ws_window (n : BitVec 6) (v : Word) : (s.ws n v).window = s.window := rfl
@[simp] theorem State.ws_bar4Log (n : BitVec 6) (v : Word) : (s.ws n v).bar4Log = s.bar4Log := rfl
@[simp] theorem State.ws_cap (n : BitVec 6) (v : Word) : (s.ws n v).cap = s.cap := rfl
@[simp] theorem State.ws_parts (n : BitVec 6) (v : Word) : (s.ws n v).parts = s.parts := rfl
@[simp] theorem State.ws_domains (n : BitVec 6) (v : Word) : (s.ws n v).domains = s.domains := rfl
@[simp] theorem State.ws_queues (n : BitVec 6) (v : Word) : (s.ws n v).queues = s.queues := rfl
@[simp] theorem State.ws_mem (n : BitVec 6) (v : Word) : (s.ws n v).mem = s.mem := rfl
@[simp] theorem State.ws_bad (n : BitVec 6) (v : Word) : (s.ws n v).bad = s.bad := rfl
@[simp] theorem State.ws_net (n : BitVec 6) (v : Word) : (s.ws n v).net = s.net := rfl
@[simp] theorem State.ws_loads (n : BitVec 6) (v : Word) : (s.ws n v).loads = s.loads := rfl
@[simp] theorem State.ws_jobs (n : BitVec 6) (v : Word) : (s.ws n v).jobs = s.jobs := rfl
@[simp] theorem State.ws_fins (n : BitVec 6) (v : Word) : (s.ws n v).fins = s.fins := rfl
@[simp] theorem State.ws_flazar (n : BitVec 6) (v : Word) : (s.ws n v).flazar = s.flazar := rfl
@[simp] theorem State.ws_bar4 (n : BitVec 6) (v : Word) : (s.ws n v).bar4 = s.bar4 := rfl
@[simp] theorem State.ws_cur (n : BitVec 6) (v : Word) : (s.ws n v).cur = s.cur := rfl
@[simp] theorem State.ws_uid (n : BitVec 6) (v : Word) : (s.ws n v).uid = s.uid := rfl
@[simp] theorem State.ws_free (n : BitVec 6) (v : Word) : (s.ws n v).free = s.free := rfl
@[simp] theorem State.ws_work (n : BitVec 6) (v : Word) : (s.ws n v).work = s.work := rfl
@[simp] theorem State.ws_inputs (n : BitVec 6) (v : Word) : (s.ws n v).inputs = s.inputs := rfl
@[simp] theorem State.ws_past (n : BitVec 6) (v : Word) : (s.ws n v).past = s.past := rfl
@[simp] theorem State.wt_now (n : BitVec 4) (v : TReg) : (s.wt n v).now = s.now := rfl
@[simp] theorem State.wt_ready (n : BitVec 4) (v : TReg) : (s.wt n v).ready = s.ready := rfl
@[simp] theorem State.wt_package (n : BitVec 4) (v : TReg) : (s.wt n v).package = s.package := rfl
@[simp] theorem State.wt_window (n : BitVec 4) (v : TReg) : (s.wt n v).window = s.window := rfl
@[simp] theorem State.wt_bar4Log (n : BitVec 4) (v : TReg) : (s.wt n v).bar4Log = s.bar4Log := rfl
@[simp] theorem State.wt_cap (n : BitVec 4) (v : TReg) : (s.wt n v).cap = s.cap := rfl
@[simp] theorem State.wt_parts (n : BitVec 4) (v : TReg) : (s.wt n v).parts = s.parts := rfl
@[simp] theorem State.wt_domains (n : BitVec 4) (v : TReg) : (s.wt n v).domains = s.domains := rfl
@[simp] theorem State.wt_queues (n : BitVec 4) (v : TReg) : (s.wt n v).queues = s.queues := rfl
@[simp] theorem State.wt_mem (n : BitVec 4) (v : TReg) : (s.wt n v).mem = s.mem := rfl
@[simp] theorem State.wt_bad (n : BitVec 4) (v : TReg) : (s.wt n v).bad = s.bad := rfl
@[simp] theorem State.wt_net (n : BitVec 4) (v : TReg) : (s.wt n v).net = s.net := rfl
@[simp] theorem State.wt_loads (n : BitVec 4) (v : TReg) : (s.wt n v).loads = s.loads := rfl
@[simp] theorem State.wt_jobs (n : BitVec 4) (v : TReg) : (s.wt n v).jobs = s.jobs := rfl
@[simp] theorem State.wt_fins (n : BitVec 4) (v : TReg) : (s.wt n v).fins = s.fins := rfl
@[simp] theorem State.wt_flazar (n : BitVec 4) (v : TReg) : (s.wt n v).flazar = s.flazar := rfl
@[simp] theorem State.wt_bar4 (n : BitVec 4) (v : TReg) : (s.wt n v).bar4 = s.bar4 := rfl
@[simp] theorem State.wt_cur (n : BitVec 4) (v : TReg) : (s.wt n v).cur = s.cur := rfl
@[simp] theorem State.wt_uid (n : BitVec 4) (v : TReg) : (s.wt n v).uid = s.uid := rfl
@[simp] theorem State.wt_free (n : BitVec 4) (v : TReg) : (s.wt n v).free = s.free := rfl
@[simp] theorem State.wt_work (n : BitVec 4) (v : TReg) : (s.wt n v).work = s.work := rfl
@[simp] theorem State.wt_inputs (n : BitVec 4) (v : TReg) : (s.wt n v).inputs = s.inputs := rfl
@[simp] theorem State.wt_past (n : BitVec 4) (v : TReg) : (s.wt n v).past = s.past := rfl
@[simp] theorem State.updPart_now (p : Nat) (f : Part → Part) : (s.updPart p f).now = s.now := rfl
@[simp] theorem State.updPart_ready (p : Nat) (f : Part → Part) : (s.updPart p f).ready = s.ready := rfl
@[simp] theorem State.updPart_package (p : Nat) (f : Part → Part) : (s.updPart p f).package = s.package := rfl
@[simp] theorem State.updPart_window (p : Nat) (f : Part → Part) : (s.updPart p f).window = s.window := rfl
@[simp] theorem State.updPart_bar4Log (p : Nat) (f : Part → Part) : (s.updPart p f).bar4Log = s.bar4Log := rfl
@[simp] theorem State.updPart_cap (p : Nat) (f : Part → Part) : (s.updPart p f).cap = s.cap := rfl
@[simp] theorem State.updPart_cores (p : Nat) (f : Part → Part) : (s.updPart p f).cores = s.cores := rfl
@[simp] theorem State.updPart_domains (p : Nat) (f : Part → Part) : (s.updPart p f).domains = s.domains := rfl
@[simp] theorem State.updPart_queues (p : Nat) (f : Part → Part) : (s.updPart p f).queues = s.queues := rfl
@[simp] theorem State.updPart_mem (p : Nat) (f : Part → Part) : (s.updPart p f).mem = s.mem := rfl
@[simp] theorem State.updPart_bad (p : Nat) (f : Part → Part) : (s.updPart p f).bad = s.bad := rfl
@[simp] theorem State.updPart_net (p : Nat) (f : Part → Part) : (s.updPart p f).net = s.net := rfl
@[simp] theorem State.updPart_loads (p : Nat) (f : Part → Part) : (s.updPart p f).loads = s.loads := rfl
@[simp] theorem State.updPart_jobs (p : Nat) (f : Part → Part) : (s.updPart p f).jobs = s.jobs := rfl
@[simp] theorem State.updPart_fins (p : Nat) (f : Part → Part) : (s.updPart p f).fins = s.fins := rfl
@[simp] theorem State.updPart_flazar (p : Nat) (f : Part → Part) : (s.updPart p f).flazar = s.flazar := rfl
@[simp] theorem State.updPart_bar4 (p : Nat) (f : Part → Part) : (s.updPart p f).bar4 = s.bar4 := rfl
@[simp] theorem State.updPart_cur (p : Nat) (f : Part → Part) : (s.updPart p f).cur = s.cur := rfl
@[simp] theorem State.updPart_uid (p : Nat) (f : Part → Part) : (s.updPart p f).uid = s.uid := rfl
@[simp] theorem State.updPart_free (p : Nat) (f : Part → Part) : (s.updPart p f).free = s.free := rfl
@[simp] theorem State.updPart_work (p : Nat) (f : Part → Part) : (s.updPart p f).work = s.work := rfl
@[simp] theorem State.updPart_inputs (p : Nat) (f : Part → Part) : (s.updPart p f).inputs = s.inputs := rfl
@[simp] theorem State.updPart_past (p : Nat) (f : Part → Part) : (s.updPart p f).past = s.past := rfl
@[simp] theorem State.updQueue_now (q : Nat) (f : Queue → Queue) : (s.updQueue q f).now = s.now := rfl
@[simp] theorem State.updQueue_ready (q : Nat) (f : Queue → Queue) : (s.updQueue q f).ready = s.ready := rfl
@[simp] theorem State.updQueue_package (q : Nat) (f : Queue → Queue) : (s.updQueue q f).package = s.package := rfl
@[simp] theorem State.updQueue_window (q : Nat) (f : Queue → Queue) : (s.updQueue q f).window = s.window := rfl
@[simp] theorem State.updQueue_bar4Log (q : Nat) (f : Queue → Queue) : (s.updQueue q f).bar4Log = s.bar4Log := rfl
@[simp] theorem State.updQueue_cap (q : Nat) (f : Queue → Queue) : (s.updQueue q f).cap = s.cap := rfl
@[simp] theorem State.updQueue_parts (q : Nat) (f : Queue → Queue) : (s.updQueue q f).parts = s.parts := rfl
@[simp] theorem State.updQueue_cores (q : Nat) (f : Queue → Queue) : (s.updQueue q f).cores = s.cores := rfl
@[simp] theorem State.updQueue_domains (q : Nat) (f : Queue → Queue) : (s.updQueue q f).domains = s.domains := rfl
@[simp] theorem State.updQueue_mem (q : Nat) (f : Queue → Queue) : (s.updQueue q f).mem = s.mem := rfl
@[simp] theorem State.updQueue_bad (q : Nat) (f : Queue → Queue) : (s.updQueue q f).bad = s.bad := rfl
@[simp] theorem State.updQueue_net (q : Nat) (f : Queue → Queue) : (s.updQueue q f).net = s.net := rfl
@[simp] theorem State.updQueue_loads (q : Nat) (f : Queue → Queue) : (s.updQueue q f).loads = s.loads := rfl
@[simp] theorem State.updQueue_jobs (q : Nat) (f : Queue → Queue) : (s.updQueue q f).jobs = s.jobs := rfl
@[simp] theorem State.updQueue_fins (q : Nat) (f : Queue → Queue) : (s.updQueue q f).fins = s.fins := rfl
@[simp] theorem State.updQueue_flazar (q : Nat) (f : Queue → Queue) : (s.updQueue q f).flazar = s.flazar := rfl
@[simp] theorem State.updQueue_bar4 (q : Nat) (f : Queue → Queue) : (s.updQueue q f).bar4 = s.bar4 := rfl
@[simp] theorem State.updQueue_cur (q : Nat) (f : Queue → Queue) : (s.updQueue q f).cur = s.cur := rfl
@[simp] theorem State.updQueue_uid (q : Nat) (f : Queue → Queue) : (s.updQueue q f).uid = s.uid := rfl
@[simp] theorem State.updQueue_free (q : Nat) (f : Queue → Queue) : (s.updQueue q f).free = s.free := rfl
@[simp] theorem State.updQueue_work (q : Nat) (f : Queue → Queue) : (s.updQueue q f).work = s.work := rfl
@[simp] theorem State.updQueue_inputs (q : Nat) (f : Queue → Queue) : (s.updQueue q f).inputs = s.inputs := rfl
@[simp] theorem State.updQueue_past (q : Nat) (f : Queue → Queue) : (s.updQueue q f).past = s.past := rfl
@[simp] theorem State.updDomain_now (b : Nat) (f : Domain → Domain) : (s.updDomain b f).now = s.now := rfl
@[simp] theorem State.updDomain_ready (b : Nat) (f : Domain → Domain) : (s.updDomain b f).ready = s.ready := rfl
@[simp] theorem State.updDomain_package (b : Nat) (f : Domain → Domain) : (s.updDomain b f).package = s.package := rfl
@[simp] theorem State.updDomain_window (b : Nat) (f : Domain → Domain) : (s.updDomain b f).window = s.window := rfl
@[simp] theorem State.updDomain_bar4Log (b : Nat) (f : Domain → Domain) : (s.updDomain b f).bar4Log = s.bar4Log := rfl
@[simp] theorem State.updDomain_cap (b : Nat) (f : Domain → Domain) : (s.updDomain b f).cap = s.cap := rfl
@[simp] theorem State.updDomain_parts (b : Nat) (f : Domain → Domain) : (s.updDomain b f).parts = s.parts := rfl
@[simp] theorem State.updDomain_cores (b : Nat) (f : Domain → Domain) : (s.updDomain b f).cores = s.cores := rfl
@[simp] theorem State.updDomain_queues (b : Nat) (f : Domain → Domain) : (s.updDomain b f).queues = s.queues := rfl
@[simp] theorem State.updDomain_mem (b : Nat) (f : Domain → Domain) : (s.updDomain b f).mem = s.mem := rfl
@[simp] theorem State.updDomain_bad (b : Nat) (f : Domain → Domain) : (s.updDomain b f).bad = s.bad := rfl
@[simp] theorem State.updDomain_net (b : Nat) (f : Domain → Domain) : (s.updDomain b f).net = s.net := rfl
@[simp] theorem State.updDomain_loads (b : Nat) (f : Domain → Domain) : (s.updDomain b f).loads = s.loads := rfl
@[simp] theorem State.updDomain_jobs (b : Nat) (f : Domain → Domain) : (s.updDomain b f).jobs = s.jobs := rfl
@[simp] theorem State.updDomain_fins (b : Nat) (f : Domain → Domain) : (s.updDomain b f).fins = s.fins := rfl
@[simp] theorem State.updDomain_flazar (b : Nat) (f : Domain → Domain) : (s.updDomain b f).flazar = s.flazar := rfl
@[simp] theorem State.updDomain_bar4 (b : Nat) (f : Domain → Domain) : (s.updDomain b f).bar4 = s.bar4 := rfl
@[simp] theorem State.updDomain_cur (b : Nat) (f : Domain → Domain) : (s.updDomain b f).cur = s.cur := rfl
@[simp] theorem State.updDomain_uid (b : Nat) (f : Domain → Domain) : (s.updDomain b f).uid = s.uid := rfl
@[simp] theorem State.updDomain_free (b : Nat) (f : Domain → Domain) : (s.updDomain b f).free = s.free := rfl
@[simp] theorem State.updDomain_work (b : Nat) (f : Domain → Domain) : (s.updDomain b f).work = s.work := rfl
@[simp] theorem State.updDomain_inputs (b : Nat) (f : Domain → Domain) : (s.updDomain b f).inputs = s.inputs := rfl
@[simp] theorem State.updDomain_past (b : Nat) (f : Domain → Domain) : (s.updDomain b f).past = s.past := rfl
@[simp] theorem State.updLaunch_now (b : Nat) (f : Launch → Launch) : (s.updLaunch b f).now = s.now := rfl
@[simp] theorem State.updLaunch_ready (b : Nat) (f : Launch → Launch) : (s.updLaunch b f).ready = s.ready := rfl
@[simp] theorem State.updLaunch_package (b : Nat) (f : Launch → Launch) : (s.updLaunch b f).package = s.package := rfl
@[simp] theorem State.updLaunch_window (b : Nat) (f : Launch → Launch) : (s.updLaunch b f).window = s.window := rfl
@[simp] theorem State.updLaunch_bar4Log (b : Nat) (f : Launch → Launch) : (s.updLaunch b f).bar4Log = s.bar4Log := rfl
@[simp] theorem State.updLaunch_cap (b : Nat) (f : Launch → Launch) : (s.updLaunch b f).cap = s.cap := rfl
@[simp] theorem State.updLaunch_parts (b : Nat) (f : Launch → Launch) : (s.updLaunch b f).parts = s.parts := rfl
@[simp] theorem State.updLaunch_cores (b : Nat) (f : Launch → Launch) : (s.updLaunch b f).cores = s.cores := rfl
@[simp] theorem State.updLaunch_queues (b : Nat) (f : Launch → Launch) : (s.updLaunch b f).queues = s.queues := rfl
@[simp] theorem State.updLaunch_mem (b : Nat) (f : Launch → Launch) : (s.updLaunch b f).mem = s.mem := rfl
@[simp] theorem State.updLaunch_bad (b : Nat) (f : Launch → Launch) : (s.updLaunch b f).bad = s.bad := rfl
@[simp] theorem State.updLaunch_net (b : Nat) (f : Launch → Launch) : (s.updLaunch b f).net = s.net := rfl
@[simp] theorem State.updLaunch_loads (b : Nat) (f : Launch → Launch) : (s.updLaunch b f).loads = s.loads := rfl
@[simp] theorem State.updLaunch_jobs (b : Nat) (f : Launch → Launch) : (s.updLaunch b f).jobs = s.jobs := rfl
@[simp] theorem State.updLaunch_fins (b : Nat) (f : Launch → Launch) : (s.updLaunch b f).fins = s.fins := rfl
@[simp] theorem State.updLaunch_flazar (b : Nat) (f : Launch → Launch) : (s.updLaunch b f).flazar = s.flazar := rfl
@[simp] theorem State.updLaunch_bar4 (b : Nat) (f : Launch → Launch) : (s.updLaunch b f).bar4 = s.bar4 := rfl
@[simp] theorem State.updLaunch_cur (b : Nat) (f : Launch → Launch) : (s.updLaunch b f).cur = s.cur := rfl
@[simp] theorem State.updLaunch_uid (b : Nat) (f : Launch → Launch) : (s.updLaunch b f).uid = s.uid := rfl
@[simp] theorem State.updLaunch_free (b : Nat) (f : Launch → Launch) : (s.updLaunch b f).free = s.free := rfl
@[simp] theorem State.updLaunch_work (b : Nat) (f : Launch → Launch) : (s.updLaunch b f).work = s.work := rfl
@[simp] theorem State.updLaunch_inputs (b : Nat) (f : Launch → Launch) : (s.updLaunch b f).inputs = s.inputs := rfl
@[simp] theorem State.updLaunch_past (b : Nat) (f : Launch → Launch) : (s.updLaunch b f).past = s.past := rfl
@[simp] theorem State.fare_now (f : Fate) : (s.fare f).now = s.now := rfl
@[simp] theorem State.fare_ready (f : Fate) : (s.fare f).ready = s.ready := rfl
@[simp] theorem State.fare_package (f : Fate) : (s.fare f).package = s.package := rfl
@[simp] theorem State.fare_window (f : Fate) : (s.fare f).window = s.window := rfl
@[simp] theorem State.fare_bar4Log (f : Fate) : (s.fare f).bar4Log = s.bar4Log := rfl
@[simp] theorem State.fare_cap (f : Fate) : (s.fare f).cap = s.cap := rfl
@[simp] theorem State.fare_parts (f : Fate) : (s.fare f).parts = s.parts := rfl
@[simp] theorem State.fare_cores (f : Fate) : (s.fare f).cores = s.cores := rfl
@[simp] theorem State.fare_domains (f : Fate) : (s.fare f).domains = s.domains := rfl
@[simp] theorem State.fare_queues (f : Fate) : (s.fare f).queues = s.queues := rfl
@[simp] theorem State.fare_mem (f : Fate) : (s.fare f).mem = s.mem := rfl
@[simp] theorem State.fare_bad (f : Fate) : (s.fare f).bad = s.bad := rfl
@[simp] theorem State.fare_net (f : Fate) : (s.fare f).net = s.net := rfl
@[simp] theorem State.fare_loads (f : Fate) : (s.fare f).loads = s.loads := rfl
@[simp] theorem State.fare_jobs (f : Fate) : (s.fare f).jobs = s.jobs := rfl
@[simp] theorem State.fare_fins (f : Fate) : (s.fare f).fins = s.fins := rfl
@[simp] theorem State.fare_flazar (f : Fate) : (s.fare f).flazar = s.flazar := rfl
@[simp] theorem State.fare_bar4 (f : Fate) : (s.fare f).bar4 = s.bar4 := rfl
@[simp] theorem State.fare_uid (f : Fate) : (s.fare f).uid = s.uid := rfl
@[simp] theorem State.fare_free (f : Fate) : (s.fare f).free = s.free := rfl
@[simp] theorem State.fare_work (f : Fate) : (s.fare f).work = s.work := rfl
@[simp] theorem State.fare_inputs (f : Fate) : (s.fare f).inputs = s.inputs := rfl
@[simp] theorem State.fare_past (f : Fate) : (s.fare f).past = s.past := rfl
@[simp] theorem State.fresh_now : (s.fresh).now = s.now := rfl
@[simp] theorem State.fresh_ready : (s.fresh).ready = s.ready := rfl
@[simp] theorem State.fresh_package : (s.fresh).package = s.package := rfl
@[simp] theorem State.fresh_window : (s.fresh).window = s.window := rfl
@[simp] theorem State.fresh_bar4Log : (s.fresh).bar4Log = s.bar4Log := rfl
@[simp] theorem State.fresh_cap : (s.fresh).cap = s.cap := rfl
@[simp] theorem State.fresh_parts : (s.fresh).parts = s.parts := rfl
@[simp] theorem State.fresh_cores : (s.fresh).cores = s.cores := rfl
@[simp] theorem State.fresh_domains : (s.fresh).domains = s.domains := rfl
@[simp] theorem State.fresh_queues : (s.fresh).queues = s.queues := rfl
@[simp] theorem State.fresh_mem : (s.fresh).mem = s.mem := rfl
@[simp] theorem State.fresh_bad : (s.fresh).bad = s.bad := rfl
@[simp] theorem State.fresh_net : (s.fresh).net = s.net := rfl
@[simp] theorem State.fresh_loads : (s.fresh).loads = s.loads := rfl
@[simp] theorem State.fresh_jobs : (s.fresh).jobs = s.jobs := rfl
@[simp] theorem State.fresh_fins : (s.fresh).fins = s.fins := rfl
@[simp] theorem State.fresh_flazar : (s.fresh).flazar = s.flazar := rfl
@[simp] theorem State.fresh_bar4 : (s.fresh).bar4 = s.bar4 := rfl
@[simp] theorem State.fresh_cur : (s.fresh).cur = s.cur := rfl
@[simp] theorem State.fresh_free : (s.fresh).free = s.free := rfl
@[simp] theorem State.fresh_work : (s.fresh).work = s.work := rfl
@[simp] theorem State.fresh_inputs : (s.fresh).inputs = s.inputs := rfl
@[simp] theorem State.fresh_past : (s.fresh).past = s.past := rfl
@[simp] theorem State.push_now (w : List Work) : (s.push w).now = s.now := rfl
@[simp] theorem State.push_ready (w : List Work) : (s.push w).ready = s.ready := rfl
@[simp] theorem State.push_package (w : List Work) : (s.push w).package = s.package := rfl
@[simp] theorem State.push_window (w : List Work) : (s.push w).window = s.window := rfl
@[simp] theorem State.push_bar4Log (w : List Work) : (s.push w).bar4Log = s.bar4Log := rfl
@[simp] theorem State.push_cap (w : List Work) : (s.push w).cap = s.cap := rfl
@[simp] theorem State.push_parts (w : List Work) : (s.push w).parts = s.parts := rfl
@[simp] theorem State.push_cores (w : List Work) : (s.push w).cores = s.cores := rfl
@[simp] theorem State.push_domains (w : List Work) : (s.push w).domains = s.domains := rfl
@[simp] theorem State.push_queues (w : List Work) : (s.push w).queues = s.queues := rfl
@[simp] theorem State.push_mem (w : List Work) : (s.push w).mem = s.mem := rfl
@[simp] theorem State.push_bad (w : List Work) : (s.push w).bad = s.bad := rfl
@[simp] theorem State.push_net (w : List Work) : (s.push w).net = s.net := rfl
@[simp] theorem State.push_loads (w : List Work) : (s.push w).loads = s.loads := rfl
@[simp] theorem State.push_jobs (w : List Work) : (s.push w).jobs = s.jobs := rfl
@[simp] theorem State.push_fins (w : List Work) : (s.push w).fins = s.fins := rfl
@[simp] theorem State.push_flazar (w : List Work) : (s.push w).flazar = s.flazar := rfl
@[simp] theorem State.push_bar4 (w : List Work) : (s.push w).bar4 = s.bar4 := rfl
@[simp] theorem State.push_cur (w : List Work) : (s.push w).cur = s.cur := rfl
@[simp] theorem State.push_uid (w : List Work) : (s.push w).uid = s.uid := rfl
@[simp] theorem State.push_free (w : List Work) : (s.push w).free = s.free := rfl
@[simp] theorem State.push_inputs (w : List Work) : (s.push w).inputs = s.inputs := rfl
@[simp] theorem State.push_past (w : List Work) : (s.push w).past = s.past := rfl
@[simp] theorem State.raiseFlags_now (f : BitVec 6) : (s.raiseFlags f).now = s.now := rfl
@[simp] theorem State.raiseFlags_ready (f : BitVec 6) : (s.raiseFlags f).ready = s.ready := rfl
@[simp] theorem State.raiseFlags_package (f : BitVec 6) : (s.raiseFlags f).package = s.package := rfl
@[simp] theorem State.raiseFlags_window (f : BitVec 6) : (s.raiseFlags f).window = s.window := rfl
@[simp] theorem State.raiseFlags_bar4Log (f : BitVec 6) : (s.raiseFlags f).bar4Log = s.bar4Log := rfl
@[simp] theorem State.raiseFlags_cap (f : BitVec 6) : (s.raiseFlags f).cap = s.cap := rfl
@[simp] theorem State.raiseFlags_parts (f : BitVec 6) : (s.raiseFlags f).parts = s.parts := rfl
@[simp] theorem State.raiseFlags_domains (f : BitVec 6) : (s.raiseFlags f).domains = s.domains := rfl
@[simp] theorem State.raiseFlags_queues (f : BitVec 6) : (s.raiseFlags f).queues = s.queues := rfl
@[simp] theorem State.raiseFlags_mem (f : BitVec 6) : (s.raiseFlags f).mem = s.mem := rfl
@[simp] theorem State.raiseFlags_bad (f : BitVec 6) : (s.raiseFlags f).bad = s.bad := rfl
@[simp] theorem State.raiseFlags_net (f : BitVec 6) : (s.raiseFlags f).net = s.net := rfl
@[simp] theorem State.raiseFlags_loads (f : BitVec 6) : (s.raiseFlags f).loads = s.loads := rfl
@[simp] theorem State.raiseFlags_jobs (f : BitVec 6) : (s.raiseFlags f).jobs = s.jobs := rfl
@[simp] theorem State.raiseFlags_fins (f : BitVec 6) : (s.raiseFlags f).fins = s.fins := rfl
@[simp] theorem State.raiseFlags_flazar (f : BitVec 6) : (s.raiseFlags f).flazar = s.flazar := rfl
@[simp] theorem State.raiseFlags_bar4 (f : BitVec 6) : (s.raiseFlags f).bar4 = s.bar4 := rfl
@[simp] theorem State.raiseFlags_uid (f : BitVec 6) : (s.raiseFlags f).uid = s.uid := rfl
@[simp] theorem State.raiseFlags_free (f : BitVec 6) : (s.raiseFlags f).free = s.free := rfl
@[simp] theorem State.raiseFlags_work (f : BitVec 6) : (s.raiseFlags f).work = s.work := rfl
@[simp] theorem State.raiseFlags_inputs (f : BitVec 6) : (s.raiseFlags f).inputs = s.inputs := rfl
@[simp] theorem State.raiseFlags_past (f : BitVec 6) : (s.raiseFlags f).past = s.past := rfl
@[simp] theorem State.fare_fate (f : Fate) : (s.fare f).cur.fate = f := rfl
@[simp] theorem State.fresh_uid_val : s.fresh.uid = s.uid + 1 := rfl

end Fields

section Cores
variable (k : Core)

@[simp] theorem Core.setCtx_imem (x : Nat) (v : Ctx) : (k.setCtx x v).imem = k.imem := rfl
@[simp] theorem Core.setCtx_pool (x : Nat) (v : Ctx) : (k.setCtx x v).pool = k.pool := rfl
@[simp] theorem Core.setCtx_undef (x : Nat) (v : Ctx) : (k.setCtx x v).undef = k.undef := rfl
@[simp] theorem Core.setCtx_rfu (x : Nat) (v : Ctx) : (k.setCtx x v).rfu = k.rfu := rfl
@[simp] theorem Core.setCtx_acc (x : Nat) (v : Ctx) : (k.setCtx x v).acc = k.acc := rfl
@[simp] theorem Core.setCtx_counters (x : Nat) (v : Ctx) : (k.setCtx x v).counters = k.counters := rfl
@[simp] theorem Core.setCtx_channels (x : Nat) (v : Ctx) : (k.setCtx x v).channels = k.channels := rfl
@[simp] theorem Core.setCtx_posted (x : Nat) (v : Ctx) : (k.setCtx x v).posted = k.posted := rfl
@[simp] theorem Core.setCtx_overflow (x : Nat) (v : Ctx) : (k.setCtx x v).overflow = k.overflow := rfl
@[simp] theorem Core.setCtx_lord (x : Nat) (v : Ctx) : (k.setCtx x v).lord = k.lord := rfl
@[simp] theorem Core.setCtx_wmarks (x : Nat) (v : Ctx) : (k.setCtx x v).wmarks = k.wmarks := rfl
@[simp] theorem Core.setCtx_handler (x : Nat) (v : Ctx) : (k.setCtx x v).handler = k.handler := rfl
@[simp] theorem Core.setCtx_hheld (x : Nat) (v : Ctx) : (k.setCtx x v).hheld = k.hheld := rfl
@[simp] theorem Core.setCtx_lanes (x : Nat) (v : Ctx) : (k.setCtx x v).lanes = k.lanes := rfl
@[simp] theorem Core.setCtx_lbuf (x : Nat) (v : Ctx) : (k.setCtx x v).lbuf = k.lbuf := rfl
@[simp] theorem Core.setCtx_tlb (x : Nat) (v : Ctx) : (k.setCtx x v).tlb = k.tlb := rfl
@[simp] theorem Core.setCtx_event (x : Nat) (v : Ctx) : (k.setCtx x v).event = k.event := rfl
@[simp] theorem Core.setCtx_tileQ (x : Nat) (v : Ctx) : (k.setCtx x v).tileQ = k.tileQ := rfl
@[simp] theorem Core.setCtx_last (x : Nat) (v : Ctx) : (k.setCtx x v).last = k.last := rfl
@[simp] theorem Core.setCtx_served (x : Nat) (v : Ctx) : (k.setCtx x v).served = k.served := rfl
@[simp] theorem Core.setCtx_window (x : Nat) (v : Ctx) : (k.setCtx x v).window = k.window := rfl
@[simp] theorem Core.setCtx_awaiting (x : Nat) (v : Ctx) : (k.setCtx x v).awaiting = k.awaiting := rfl
@[simp] theorem Core.setCtx_unmarked (x : Nat) (v : Ctx) : (k.setCtx x v).unmarked = k.unmarked := rfl
@[simp] theorem Core.setCtx_frozen (x : Nat) (v : Ctx) : (k.setCtx x v).frozen = k.frozen := rfl
@[simp] theorem Core.setCtx_dbg (x : Nat) (v : Ctx) : (k.setCtx x v).dbg = k.dbg := rfl
@[simp] theorem Core.setCtx_brkAt (x : Nat) (v : Ctx) : (k.setCtx x v).brkAt = k.brkAt := rfl
@[simp] theorem Core.setCtx_clearing (x : Nat) (v : Ctx) : (k.setCtx x v).clearing = k.clearing := rfl
@[simp] theorem Core.setCtx_busy (x : Nat) (v : Ctx) : (k.setCtx x v).busy = k.busy := rfl
@[simp] theorem Core.setCtx_stealOut (x : Nat) (v : Ctx) : (k.setCtx x v).stealOut = k.stealOut := rfl
@[simp] theorem Core.setCtx_stealNext (x : Nat) (v : Ctx) : (k.setCtx x v).stealNext = k.stealNext := rfl
@[simp] theorem Core.setCtx_stealWait (x : Nat) (v : Ctx) : (k.setCtx x v).stealWait = k.stealWait := rfl
@[simp] theorem Core.setCtx_starts (x : Nat) (v : Ctx) : (k.setCtx x v).starts = k.starts := rfl
@[simp] theorem Core.setCtx_resident (x : Nat) (v : Ctx) : (k.setCtx x v).resident = k.resident := rfl
@[simp] theorem Core.setCtx_failed (x : Nat) (v : Ctx) : (k.setCtx x v).failed = k.failed := rfl
@[simp] theorem Core.setCtx_tapped (x : Nat) (v : Ctx) : (k.setCtx x v).tapped = k.tapped := rfl
@[simp] theorem Core.setCtx_rdsends (x : Nat) (v : Ctx) : (k.setCtx x v).rdsends = k.rdsends := rfl
@[simp] theorem Core.setCtx_won (x : Nat) (v : Ctx) : (k.setCtx x v).won = k.won := rfl
@[simp] theorem Core.setChan_ctxs (h : Nat) (v : Channel) : (k.setChan h v).ctxs = k.ctxs := rfl
@[simp] theorem Core.setChan_imem (h : Nat) (v : Channel) : (k.setChan h v).imem = k.imem := rfl
@[simp] theorem Core.setChan_pool (h : Nat) (v : Channel) : (k.setChan h v).pool = k.pool := rfl
@[simp] theorem Core.setChan_undef (h : Nat) (v : Channel) : (k.setChan h v).undef = k.undef := rfl
@[simp] theorem Core.setChan_rfu (h : Nat) (v : Channel) : (k.setChan h v).rfu = k.rfu := rfl
@[simp] theorem Core.setChan_acc (h : Nat) (v : Channel) : (k.setChan h v).acc = k.acc := rfl
@[simp] theorem Core.setChan_counters (h : Nat) (v : Channel) : (k.setChan h v).counters = k.counters := rfl
@[simp] theorem Core.setChan_posted (h : Nat) (v : Channel) : (k.setChan h v).posted = k.posted := rfl
@[simp] theorem Core.setChan_overflow (h : Nat) (v : Channel) : (k.setChan h v).overflow = k.overflow := rfl
@[simp] theorem Core.setChan_lord (h : Nat) (v : Channel) : (k.setChan h v).lord = k.lord := rfl
@[simp] theorem Core.setChan_wmarks (h : Nat) (v : Channel) : (k.setChan h v).wmarks = k.wmarks := rfl
@[simp] theorem Core.setChan_handler (h : Nat) (v : Channel) : (k.setChan h v).handler = k.handler := rfl
@[simp] theorem Core.setChan_hheld (h : Nat) (v : Channel) : (k.setChan h v).hheld = k.hheld := rfl
@[simp] theorem Core.setChan_lanes (h : Nat) (v : Channel) : (k.setChan h v).lanes = k.lanes := rfl
@[simp] theorem Core.setChan_lbuf (h : Nat) (v : Channel) : (k.setChan h v).lbuf = k.lbuf := rfl
@[simp] theorem Core.setChan_tlb (h : Nat) (v : Channel) : (k.setChan h v).tlb = k.tlb := rfl
@[simp] theorem Core.setChan_event (h : Nat) (v : Channel) : (k.setChan h v).event = k.event := rfl
@[simp] theorem Core.setChan_tileQ (h : Nat) (v : Channel) : (k.setChan h v).tileQ = k.tileQ := rfl
@[simp] theorem Core.setChan_last (h : Nat) (v : Channel) : (k.setChan h v).last = k.last := rfl
@[simp] theorem Core.setChan_served (h : Nat) (v : Channel) : (k.setChan h v).served = k.served := rfl
@[simp] theorem Core.setChan_window (h : Nat) (v : Channel) : (k.setChan h v).window = k.window := rfl
@[simp] theorem Core.setChan_awaiting (h : Nat) (v : Channel) : (k.setChan h v).awaiting = k.awaiting := rfl
@[simp] theorem Core.setChan_unmarked (h : Nat) (v : Channel) : (k.setChan h v).unmarked = k.unmarked := rfl
@[simp] theorem Core.setChan_frozen (h : Nat) (v : Channel) : (k.setChan h v).frozen = k.frozen := rfl
@[simp] theorem Core.setChan_dbg (h : Nat) (v : Channel) : (k.setChan h v).dbg = k.dbg := rfl
@[simp] theorem Core.setChan_brkAt (h : Nat) (v : Channel) : (k.setChan h v).brkAt = k.brkAt := rfl
@[simp] theorem Core.setChan_clearing (h : Nat) (v : Channel) : (k.setChan h v).clearing = k.clearing := rfl
@[simp] theorem Core.setChan_busy (h : Nat) (v : Channel) : (k.setChan h v).busy = k.busy := rfl
@[simp] theorem Core.setChan_stealOut (h : Nat) (v : Channel) : (k.setChan h v).stealOut = k.stealOut := rfl
@[simp] theorem Core.setChan_stealNext (h : Nat) (v : Channel) : (k.setChan h v).stealNext = k.stealNext := rfl
@[simp] theorem Core.setChan_stealWait (h : Nat) (v : Channel) : (k.setChan h v).stealWait = k.stealWait := rfl
@[simp] theorem Core.setChan_starts (h : Nat) (v : Channel) : (k.setChan h v).starts = k.starts := rfl
@[simp] theorem Core.setChan_resident (h : Nat) (v : Channel) : (k.setChan h v).resident = k.resident := rfl
@[simp] theorem Core.setChan_failed (h : Nat) (v : Channel) : (k.setChan h v).failed = k.failed := rfl
@[simp] theorem Core.setChan_tapped (h : Nat) (v : Channel) : (k.setChan h v).tapped = k.tapped := rfl
@[simp] theorem Core.setChan_rdsends (h : Nat) (v : Channel) : (k.setChan h v).rdsends = k.rdsends := rfl
@[simp] theorem Core.setChan_won (h : Nat) (v : Channel) : (k.setChan h v).won = k.won := rfl
@[simp] theorem Core.updChan_ctxs (h : Nat) (f : Channel → Channel) : (k.updChan h f).ctxs = k.ctxs := rfl
@[simp] theorem Core.updChan_imem (h : Nat) (f : Channel → Channel) : (k.updChan h f).imem = k.imem := rfl
@[simp] theorem Core.updChan_pool (h : Nat) (f : Channel → Channel) : (k.updChan h f).pool = k.pool := rfl
@[simp] theorem Core.updChan_undef (h : Nat) (f : Channel → Channel) : (k.updChan h f).undef = k.undef := rfl
@[simp] theorem Core.updChan_rfu (h : Nat) (f : Channel → Channel) : (k.updChan h f).rfu = k.rfu := rfl
@[simp] theorem Core.updChan_acc (h : Nat) (f : Channel → Channel) : (k.updChan h f).acc = k.acc := rfl
@[simp] theorem Core.updChan_counters (h : Nat) (f : Channel → Channel) : (k.updChan h f).counters = k.counters := rfl
@[simp] theorem Core.updChan_posted (h : Nat) (f : Channel → Channel) : (k.updChan h f).posted = k.posted := rfl
@[simp] theorem Core.updChan_overflow (h : Nat) (f : Channel → Channel) : (k.updChan h f).overflow = k.overflow := rfl
@[simp] theorem Core.updChan_lord (h : Nat) (f : Channel → Channel) : (k.updChan h f).lord = k.lord := rfl
@[simp] theorem Core.updChan_wmarks (h : Nat) (f : Channel → Channel) : (k.updChan h f).wmarks = k.wmarks := rfl
@[simp] theorem Core.updChan_handler (h : Nat) (f : Channel → Channel) : (k.updChan h f).handler = k.handler := rfl
@[simp] theorem Core.updChan_hheld (h : Nat) (f : Channel → Channel) : (k.updChan h f).hheld = k.hheld := rfl
@[simp] theorem Core.updChan_lanes (h : Nat) (f : Channel → Channel) : (k.updChan h f).lanes = k.lanes := rfl
@[simp] theorem Core.updChan_lbuf (h : Nat) (f : Channel → Channel) : (k.updChan h f).lbuf = k.lbuf := rfl
@[simp] theorem Core.updChan_tlb (h : Nat) (f : Channel → Channel) : (k.updChan h f).tlb = k.tlb := rfl
@[simp] theorem Core.updChan_event (h : Nat) (f : Channel → Channel) : (k.updChan h f).event = k.event := rfl
@[simp] theorem Core.updChan_tileQ (h : Nat) (f : Channel → Channel) : (k.updChan h f).tileQ = k.tileQ := rfl
@[simp] theorem Core.updChan_last (h : Nat) (f : Channel → Channel) : (k.updChan h f).last = k.last := rfl
@[simp] theorem Core.updChan_served (h : Nat) (f : Channel → Channel) : (k.updChan h f).served = k.served := rfl
@[simp] theorem Core.updChan_window (h : Nat) (f : Channel → Channel) : (k.updChan h f).window = k.window := rfl
@[simp] theorem Core.updChan_awaiting (h : Nat) (f : Channel → Channel) : (k.updChan h f).awaiting = k.awaiting := rfl
@[simp] theorem Core.updChan_unmarked (h : Nat) (f : Channel → Channel) : (k.updChan h f).unmarked = k.unmarked := rfl
@[simp] theorem Core.updChan_frozen (h : Nat) (f : Channel → Channel) : (k.updChan h f).frozen = k.frozen := rfl
@[simp] theorem Core.updChan_dbg (h : Nat) (f : Channel → Channel) : (k.updChan h f).dbg = k.dbg := rfl
@[simp] theorem Core.updChan_brkAt (h : Nat) (f : Channel → Channel) : (k.updChan h f).brkAt = k.brkAt := rfl
@[simp] theorem Core.updChan_clearing (h : Nat) (f : Channel → Channel) : (k.updChan h f).clearing = k.clearing := rfl
@[simp] theorem Core.updChan_busy (h : Nat) (f : Channel → Channel) : (k.updChan h f).busy = k.busy := rfl
@[simp] theorem Core.updChan_stealOut (h : Nat) (f : Channel → Channel) : (k.updChan h f).stealOut = k.stealOut := rfl
@[simp] theorem Core.updChan_stealNext (h : Nat) (f : Channel → Channel) : (k.updChan h f).stealNext = k.stealNext := rfl
@[simp] theorem Core.updChan_stealWait (h : Nat) (f : Channel → Channel) : (k.updChan h f).stealWait = k.stealWait := rfl
@[simp] theorem Core.updChan_starts (h : Nat) (f : Channel → Channel) : (k.updChan h f).starts = k.starts := rfl
@[simp] theorem Core.updChan_resident (h : Nat) (f : Channel → Channel) : (k.updChan h f).resident = k.resident := rfl
@[simp] theorem Core.updChan_failed (h : Nat) (f : Channel → Channel) : (k.updChan h f).failed = k.failed := rfl
@[simp] theorem Core.updChan_tapped (h : Nat) (f : Channel → Channel) : (k.updChan h f).tapped = k.tapped := rfl
@[simp] theorem Core.updChan_rdsends (h : Nat) (f : Channel → Channel) : (k.updChan h f).rdsends = k.rdsends := rfl
@[simp] theorem Core.updChan_won (h : Nat) (f : Channel → Channel) : (k.updChan h f).won = k.won := rfl
@[simp] theorem Core.setCell_ctxs (n : Nat) (v : Cell) : (k.setCell n v).ctxs = k.ctxs := rfl
@[simp] theorem Core.setCell_imem (n : Nat) (v : Cell) : (k.setCell n v).imem = k.imem := rfl
@[simp] theorem Core.setCell_pool (n : Nat) (v : Cell) : (k.setCell n v).pool = k.pool := rfl
@[simp] theorem Core.setCell_undef (n : Nat) (v : Cell) : (k.setCell n v).undef = k.undef := rfl
@[simp] theorem Core.setCell_rfu (n : Nat) (v : Cell) : (k.setCell n v).rfu = k.rfu := rfl
@[simp] theorem Core.setCell_acc (n : Nat) (v : Cell) : (k.setCell n v).acc = k.acc := rfl
@[simp] theorem Core.setCell_channels (n : Nat) (v : Cell) : (k.setCell n v).channels = k.channels := rfl
@[simp] theorem Core.setCell_posted (n : Nat) (v : Cell) : (k.setCell n v).posted = k.posted := rfl
@[simp] theorem Core.setCell_overflow (n : Nat) (v : Cell) : (k.setCell n v).overflow = k.overflow := rfl
@[simp] theorem Core.setCell_lord (n : Nat) (v : Cell) : (k.setCell n v).lord = k.lord := rfl
@[simp] theorem Core.setCell_wmarks (n : Nat) (v : Cell) : (k.setCell n v).wmarks = k.wmarks := rfl
@[simp] theorem Core.setCell_handler (n : Nat) (v : Cell) : (k.setCell n v).handler = k.handler := rfl
@[simp] theorem Core.setCell_hheld (n : Nat) (v : Cell) : (k.setCell n v).hheld = k.hheld := rfl
@[simp] theorem Core.setCell_lanes (n : Nat) (v : Cell) : (k.setCell n v).lanes = k.lanes := rfl
@[simp] theorem Core.setCell_lbuf (n : Nat) (v : Cell) : (k.setCell n v).lbuf = k.lbuf := rfl
@[simp] theorem Core.setCell_tlb (n : Nat) (v : Cell) : (k.setCell n v).tlb = k.tlb := rfl
@[simp] theorem Core.setCell_event (n : Nat) (v : Cell) : (k.setCell n v).event = k.event := rfl
@[simp] theorem Core.setCell_tileQ (n : Nat) (v : Cell) : (k.setCell n v).tileQ = k.tileQ := rfl
@[simp] theorem Core.setCell_last (n : Nat) (v : Cell) : (k.setCell n v).last = k.last := rfl
@[simp] theorem Core.setCell_served (n : Nat) (v : Cell) : (k.setCell n v).served = k.served := rfl
@[simp] theorem Core.setCell_window (n : Nat) (v : Cell) : (k.setCell n v).window = k.window := rfl
@[simp] theorem Core.setCell_awaiting (n : Nat) (v : Cell) : (k.setCell n v).awaiting = k.awaiting := rfl
@[simp] theorem Core.setCell_unmarked (n : Nat) (v : Cell) : (k.setCell n v).unmarked = k.unmarked := rfl
@[simp] theorem Core.setCell_frozen (n : Nat) (v : Cell) : (k.setCell n v).frozen = k.frozen := rfl
@[simp] theorem Core.setCell_dbg (n : Nat) (v : Cell) : (k.setCell n v).dbg = k.dbg := rfl
@[simp] theorem Core.setCell_brkAt (n : Nat) (v : Cell) : (k.setCell n v).brkAt = k.brkAt := rfl
@[simp] theorem Core.setCell_clearing (n : Nat) (v : Cell) : (k.setCell n v).clearing = k.clearing := rfl
@[simp] theorem Core.setCell_busy (n : Nat) (v : Cell) : (k.setCell n v).busy = k.busy := rfl
@[simp] theorem Core.setCell_stealOut (n : Nat) (v : Cell) : (k.setCell n v).stealOut = k.stealOut := rfl
@[simp] theorem Core.setCell_stealNext (n : Nat) (v : Cell) : (k.setCell n v).stealNext = k.stealNext := rfl
@[simp] theorem Core.setCell_stealWait (n : Nat) (v : Cell) : (k.setCell n v).stealWait = k.stealWait := rfl
@[simp] theorem Core.setCell_starts (n : Nat) (v : Cell) : (k.setCell n v).starts = k.starts := rfl
@[simp] theorem Core.setCell_resident (n : Nat) (v : Cell) : (k.setCell n v).resident = k.resident := rfl
@[simp] theorem Core.setCell_failed (n : Nat) (v : Cell) : (k.setCell n v).failed = k.failed := rfl
@[simp] theorem Core.setCell_tapped (n : Nat) (v : Cell) : (k.setCell n v).tapped = k.tapped := rfl
@[simp] theorem Core.setCell_rdsends (n : Nat) (v : Cell) : (k.setCell n v).rdsends = k.rdsends := rfl
@[simp] theorem Core.setCell_won (n : Nat) (v : Cell) : (k.setCell n v).won = k.won := rfl
@[simp] theorem Core.putByte_ctxs (a : Nat) (b : Byte) : (k.putByte a b).ctxs = k.ctxs := rfl
@[simp] theorem Core.putByte_imem (a : Nat) (b : Byte) : (k.putByte a b).imem = k.imem := rfl
@[simp] theorem Core.putByte_rfu (a : Nat) (b : Byte) : (k.putByte a b).rfu = k.rfu := rfl
@[simp] theorem Core.putByte_acc (a : Nat) (b : Byte) : (k.putByte a b).acc = k.acc := rfl
@[simp] theorem Core.putByte_counters (a : Nat) (b : Byte) : (k.putByte a b).counters = k.counters := rfl
@[simp] theorem Core.putByte_channels (a : Nat) (b : Byte) : (k.putByte a b).channels = k.channels := rfl
@[simp] theorem Core.putByte_posted (a : Nat) (b : Byte) : (k.putByte a b).posted = k.posted := rfl
@[simp] theorem Core.putByte_overflow (a : Nat) (b : Byte) : (k.putByte a b).overflow = k.overflow := rfl
@[simp] theorem Core.putByte_lord (a : Nat) (b : Byte) : (k.putByte a b).lord = k.lord := rfl
@[simp] theorem Core.putByte_wmarks (a : Nat) (b : Byte) : (k.putByte a b).wmarks = k.wmarks := rfl
@[simp] theorem Core.putByte_handler (a : Nat) (b : Byte) : (k.putByte a b).handler = k.handler := rfl
@[simp] theorem Core.putByte_hheld (a : Nat) (b : Byte) : (k.putByte a b).hheld = k.hheld := rfl
@[simp] theorem Core.putByte_lanes (a : Nat) (b : Byte) : (k.putByte a b).lanes = k.lanes := rfl
@[simp] theorem Core.putByte_lbuf (a : Nat) (b : Byte) : (k.putByte a b).lbuf = k.lbuf := rfl
@[simp] theorem Core.putByte_tlb (a : Nat) (b : Byte) : (k.putByte a b).tlb = k.tlb := rfl
@[simp] theorem Core.putByte_event (a : Nat) (b : Byte) : (k.putByte a b).event = k.event := rfl
@[simp] theorem Core.putByte_tileQ (a : Nat) (b : Byte) : (k.putByte a b).tileQ = k.tileQ := rfl
@[simp] theorem Core.putByte_last (a : Nat) (b : Byte) : (k.putByte a b).last = k.last := rfl
@[simp] theorem Core.putByte_served (a : Nat) (b : Byte) : (k.putByte a b).served = k.served := rfl
@[simp] theorem Core.putByte_window (a : Nat) (b : Byte) : (k.putByte a b).window = k.window := rfl
@[simp] theorem Core.putByte_awaiting (a : Nat) (b : Byte) : (k.putByte a b).awaiting = k.awaiting := rfl
@[simp] theorem Core.putByte_unmarked (a : Nat) (b : Byte) : (k.putByte a b).unmarked = k.unmarked := rfl
@[simp] theorem Core.putByte_frozen (a : Nat) (b : Byte) : (k.putByte a b).frozen = k.frozen := rfl
@[simp] theorem Core.putByte_dbg (a : Nat) (b : Byte) : (k.putByte a b).dbg = k.dbg := rfl
@[simp] theorem Core.putByte_brkAt (a : Nat) (b : Byte) : (k.putByte a b).brkAt = k.brkAt := rfl
@[simp] theorem Core.putByte_clearing (a : Nat) (b : Byte) : (k.putByte a b).clearing = k.clearing := rfl
@[simp] theorem Core.putByte_busy (a : Nat) (b : Byte) : (k.putByte a b).busy = k.busy := rfl
@[simp] theorem Core.putByte_stealOut (a : Nat) (b : Byte) : (k.putByte a b).stealOut = k.stealOut := rfl
@[simp] theorem Core.putByte_stealNext (a : Nat) (b : Byte) : (k.putByte a b).stealNext = k.stealNext := rfl
@[simp] theorem Core.putByte_stealWait (a : Nat) (b : Byte) : (k.putByte a b).stealWait = k.stealWait := rfl
@[simp] theorem Core.putByte_starts (a : Nat) (b : Byte) : (k.putByte a b).starts = k.starts := rfl
@[simp] theorem Core.putByte_resident (a : Nat) (b : Byte) : (k.putByte a b).resident = k.resident := rfl
@[simp] theorem Core.putByte_failed (a : Nat) (b : Byte) : (k.putByte a b).failed = k.failed := rfl
@[simp] theorem Core.putByte_tapped (a : Nat) (b : Byte) : (k.putByte a b).tapped = k.tapped := rfl
@[simp] theorem Core.putByte_rdsends (a : Nat) (b : Byte) : (k.putByte a b).rdsends = k.rdsends := rfl
@[simp] theorem Core.putByte_won (a : Nat) (b : Byte) : (k.putByte a b).won = k.won := rfl

end Cores

section Contexts
variable (k : Ctx)

@[simp] theorem Ctx.wv_st (n : Nat) (l : List Word32) : (k.wv n l).st = k.st := rfl
@[simp] theorem Ctx.wv_pc (n : Nat) (l : List Word32) : (k.wv n l).pc = k.pc := rfl
@[simp] theorem Ctx.wv_s (n : Nat) (l : List Word32) : (k.wv n l).s = k.s := rfl
@[simp] theorem Ctx.wv_p (n : Nat) (l : List Word32) : (k.wv n l).p = k.p := rfl
@[simp] theorem Ctx.wv_t (n : Nat) (l : List Word32) : (k.wv n l).t = k.t := rfl
@[simp] theorem Ctx.wv_amask (n : Nat) (l : List Word32) : (k.wv n l).amask = k.amask := rfl
@[simp] theorem Ctx.wv_flags (n : Nat) (l : List Word32) : (k.wv n l).flags = k.flags := rfl
@[simp] theorem Ctx.wv_frm (n : Nat) (l : List Word32) : (k.wv n l).frm = k.frm := rfl
@[simp] theorem Ctx.wv_ccnt (n : Nat) (l : List Word32) : (k.wv n l).ccnt = k.ccnt := rfl
@[simp] theorem Ctx.wv_wlim (n : Nat) (l : List Word32) : (k.wv n l).wlim = k.wlim := rfl
@[simp] theorem Ctx.wv_rkey0 (n : Nat) (l : List Word32) : (k.wv n l).rkey0 = k.rkey0 := rfl
@[simp] theorem Ctx.wv_rkey1 (n : Nat) (l : List Word32) : (k.wv n l).rkey1 = k.rkey1 := rfl
@[simp] theorem Ctx.wv_rord (n : Nat) (l : List Word32) : (k.wv n l).rord = k.rord := rfl
@[simp] theorem Ctx.wv_leaserun (n : Nat) (l : List Word32) : (k.wv n l).leaserun = k.leaserun := rfl
@[simp] theorem Ctx.wv_rsid (n : Nat) (l : List Word32) : (k.wv n l).rsid = k.rsid := rfl
@[simp] theorem Ctx.wv_retired (n : Nat) (l : List Word32) : (k.wv n l).retired = k.retired := rfl
@[simp] theorem Ctx.wv_pending (n : Nat) (l : List Word32) : (k.wv n l).pending = k.pending := rfl
@[simp] theorem Ctx.wv_outs (n : Nat) (l : List Word32) : (k.wv n l).outs = k.outs := rfl
@[simp] theorem Ctx.wv_upTo (n : Nat) (l : List Word32) : (k.wv n l).upTo = k.upTo := rfl
@[simp] theorem Ctx.wv_push (n : Nat) (l : List Word32) : (k.wv n l).push = k.push := rfl
@[simp] theorem Ctx.wv_oldest (n : Nat) (l : List Word32) : (k.wv n l).oldest = k.oldest := rfl
@[simp] theorem Ctx.wv_resv (n : Nat) (l : List Word32) : (k.wv n l).resv = k.resv := rfl
@[simp] theorem Ctx.wv_streams (n : Nat) (l : List Word32) : (k.wv n l).streams = k.streams := rfl
@[simp] theorem Ctx.wv_srep (n : Nat) (l : List Word32) : (k.wv n l).srep = k.srep := rfl
@[simp] theorem Ctx.wv_nests (n : Nat) (l : List Word32) : (k.wv n l).nests = k.nests := rfl
@[simp] theorem Ctx.wv_rtab (n : Nat) (l : List Word32) : (k.wv n l).rtab = k.rtab := rfl
@[simp] theorem Ctx.wv_heldQ (n : Nat) (l : List Word32) : (k.wv n l).heldQ = k.heldQ := rfl
@[simp] theorem Ctx.wv_task (n : Nat) (l : List Word32) : (k.wv n l).task = k.task := rfl
@[simp] theorem Ctx.wv_wait (n : Nat) (l : List Word32) : (k.wv n l).wait = k.wait := rfl
@[simp] theorem Ctx.wv_stall (n : Nat) (l : List Word32) : (k.wv n l).stall = k.stall := rfl
@[simp] theorem Ctx.wv_deferred (n : Nat) (l : List Word32) : (k.wv n l).deferred = k.deferred := rfl
@[simp] theorem Ctx.wv_ending (n : Nat) (l : List Word32) : (k.wv n l).ending = k.ending := rfl
@[simp] theorem Ctx.wv_startOn (n : Nat) (l : List Word32) : (k.wv n l).startOn = k.startOn := rfl
@[simp] theorem Ctx.wv_retiredQ (n : Nat) (l : List Word32) : (k.wv n l).retiredQ = k.retiredQ := rfl
@[simp] theorem Ctx.wv_phases (n : Nat) (l : List Word32) : (k.wv n l).phases = k.phases := rfl
@[simp] theorem Ctx.wv_xmiss (n : Nat) (l : List Word32) : (k.wv n l).xmiss = k.xmiss := rfl
@[simp] theorem Ctx.wv_xhave (n : Nat) (l : List Word32) : (k.wv n l).xhave = k.xhave := rfl
@[simp] theorem Ctx.stop_pc (st : CtxSt) : (k.stop st).pc = k.pc := rfl
@[simp] theorem Ctx.stop_s (st : CtxSt) : (k.stop st).s = k.s := rfl
@[simp] theorem Ctx.stop_v (st : CtxSt) : (k.stop st).v = k.v := rfl
@[simp] theorem Ctx.stop_p (st : CtxSt) : (k.stop st).p = k.p := rfl
@[simp] theorem Ctx.stop_t (st : CtxSt) : (k.stop st).t = k.t := rfl
@[simp] theorem Ctx.stop_amask (st : CtxSt) : (k.stop st).amask = k.amask := rfl
@[simp] theorem Ctx.stop_flags (st : CtxSt) : (k.stop st).flags = k.flags := rfl
@[simp] theorem Ctx.stop_frm (st : CtxSt) : (k.stop st).frm = k.frm := rfl
@[simp] theorem Ctx.stop_ccnt (st : CtxSt) : (k.stop st).ccnt = k.ccnt := rfl
@[simp] theorem Ctx.stop_wlim (st : CtxSt) : (k.stop st).wlim = k.wlim := rfl
@[simp] theorem Ctx.stop_rkey0 (st : CtxSt) : (k.stop st).rkey0 = k.rkey0 := rfl
@[simp] theorem Ctx.stop_rkey1 (st : CtxSt) : (k.stop st).rkey1 = k.rkey1 := rfl
@[simp] theorem Ctx.stop_rord (st : CtxSt) : (k.stop st).rord = k.rord := rfl
@[simp] theorem Ctx.stop_leaserun (st : CtxSt) : (k.stop st).leaserun = k.leaserun := rfl
@[simp] theorem Ctx.stop_rsid (st : CtxSt) : (k.stop st).rsid = k.rsid := rfl
@[simp] theorem Ctx.stop_retired (st : CtxSt) : (k.stop st).retired = k.retired := rfl
@[simp] theorem Ctx.stop_pending (st : CtxSt) : (k.stop st).pending = k.pending := rfl
@[simp] theorem Ctx.stop_outs (st : CtxSt) : (k.stop st).outs = k.outs := rfl
@[simp] theorem Ctx.stop_upTo (st : CtxSt) : (k.stop st).upTo = k.upTo := rfl
@[simp] theorem Ctx.stop_push (st : CtxSt) : (k.stop st).push = k.push := rfl
@[simp] theorem Ctx.stop_oldest (st : CtxSt) : (k.stop st).oldest = k.oldest := rfl
@[simp] theorem Ctx.stop_streams (st : CtxSt) : (k.stop st).streams = k.streams := rfl
@[simp] theorem Ctx.stop_nests (st : CtxSt) : (k.stop st).nests = k.nests := rfl
@[simp] theorem Ctx.stop_rtab (st : CtxSt) : (k.stop st).rtab = k.rtab := rfl
@[simp] theorem Ctx.stop_heldQ (st : CtxSt) : (k.stop st).heldQ = k.heldQ := rfl
@[simp] theorem Ctx.stop_task (st : CtxSt) : (k.stop st).task = k.task := rfl
@[simp] theorem Ctx.stop_ending (st : CtxSt) : (k.stop st).ending = k.ending := rfl
@[simp] theorem Ctx.stop_startOn (st : CtxSt) : (k.stop st).startOn = k.startOn := rfl
@[simp] theorem Ctx.stop_retiredQ (st : CtxSt) : (k.stop st).retiredQ = k.retiredQ := rfl
@[simp] theorem Ctx.stop_phases (st : CtxSt) : (k.stop st).phases = k.phases := rfl
@[simp] theorem Ctx.stop_xmiss (st : CtxSt) : (k.stop st).xmiss = k.xmiss := rfl
@[simp] theorem Ctx.ws_st (n : Nat) (v : Word) : (k.ws n v).st = k.st := by unfold Ctx.ws; split <;> rfl
@[simp] theorem Ctx.ws_pc (n : Nat) (v : Word) : (k.ws n v).pc = k.pc := by unfold Ctx.ws; split <;> rfl
@[simp] theorem Ctx.ws_v (n : Nat) (v : Word) : (k.ws n v).v = k.v := by unfold Ctx.ws; split <;> rfl
@[simp] theorem Ctx.ws_p (n : Nat) (v : Word) : (k.ws n v).p = k.p := by unfold Ctx.ws; split <;> rfl
@[simp] theorem Ctx.ws_t (n : Nat) (v : Word) : (k.ws n v).t = k.t := by unfold Ctx.ws; split <;> rfl
@[simp] theorem Ctx.ws_amask (n : Nat) (v : Word) : (k.ws n v).amask = k.amask := by unfold Ctx.ws; split <;> rfl
@[simp] theorem Ctx.ws_flags (n : Nat) (v : Word) : (k.ws n v).flags = k.flags := by unfold Ctx.ws; split <;> rfl
@[simp] theorem Ctx.ws_frm (n : Nat) (v : Word) : (k.ws n v).frm = k.frm := by unfold Ctx.ws; split <;> rfl
@[simp] theorem Ctx.ws_ccnt (n : Nat) (v : Word) : (k.ws n v).ccnt = k.ccnt := by unfold Ctx.ws; split <;> rfl
@[simp] theorem Ctx.ws_wlim (n : Nat) (v : Word) : (k.ws n v).wlim = k.wlim := by unfold Ctx.ws; split <;> rfl
@[simp] theorem Ctx.ws_rkey0 (n : Nat) (v : Word) : (k.ws n v).rkey0 = k.rkey0 := by unfold Ctx.ws; split <;> rfl
@[simp] theorem Ctx.ws_rkey1 (n : Nat) (v : Word) : (k.ws n v).rkey1 = k.rkey1 := by unfold Ctx.ws; split <;> rfl
@[simp] theorem Ctx.ws_rord (n : Nat) (v : Word) : (k.ws n v).rord = k.rord := by unfold Ctx.ws; split <;> rfl
@[simp] theorem Ctx.ws_leaserun (n : Nat) (v : Word) : (k.ws n v).leaserun = k.leaserun := by unfold Ctx.ws; split <;> rfl
@[simp] theorem Ctx.ws_rsid (n : Nat) (v : Word) : (k.ws n v).rsid = k.rsid := by unfold Ctx.ws; split <;> rfl
@[simp] theorem Ctx.ws_retired (n : Nat) (v : Word) : (k.ws n v).retired = k.retired := by unfold Ctx.ws; split <;> rfl
@[simp] theorem Ctx.ws_pending (n : Nat) (v : Word) : (k.ws n v).pending = k.pending := by unfold Ctx.ws; split <;> rfl
@[simp] theorem Ctx.ws_outs (n : Nat) (v : Word) : (k.ws n v).outs = k.outs := by unfold Ctx.ws; split <;> rfl
@[simp] theorem Ctx.ws_upTo (n : Nat) (v : Word) : (k.ws n v).upTo = k.upTo := by unfold Ctx.ws; split <;> rfl
@[simp] theorem Ctx.ws_push (n : Nat) (v : Word) : (k.ws n v).push = k.push := by unfold Ctx.ws; split <;> rfl
@[simp] theorem Ctx.ws_oldest (n : Nat) (v : Word) : (k.ws n v).oldest = k.oldest := by unfold Ctx.ws; split <;> rfl
@[simp] theorem Ctx.ws_resv (n : Nat) (v : Word) : (k.ws n v).resv = k.resv := by unfold Ctx.ws; split <;> rfl
@[simp] theorem Ctx.ws_streams (n : Nat) (v : Word) : (k.ws n v).streams = k.streams := by unfold Ctx.ws; split <;> rfl
@[simp] theorem Ctx.ws_srep (n : Nat) (v : Word) : (k.ws n v).srep = k.srep := by unfold Ctx.ws; split <;> rfl
@[simp] theorem Ctx.ws_nests (n : Nat) (v : Word) : (k.ws n v).nests = k.nests := by unfold Ctx.ws; split <;> rfl
@[simp] theorem Ctx.ws_rtab (n : Nat) (v : Word) : (k.ws n v).rtab = k.rtab := by unfold Ctx.ws; split <;> rfl
@[simp] theorem Ctx.ws_heldQ (n : Nat) (v : Word) : (k.ws n v).heldQ = k.heldQ := by unfold Ctx.ws; split <;> rfl
@[simp] theorem Ctx.ws_task (n : Nat) (v : Word) : (k.ws n v).task = k.task := by unfold Ctx.ws; split <;> rfl
@[simp] theorem Ctx.ws_wait (n : Nat) (v : Word) : (k.ws n v).wait = k.wait := by unfold Ctx.ws; split <;> rfl
@[simp] theorem Ctx.ws_stall (n : Nat) (v : Word) : (k.ws n v).stall = k.stall := by unfold Ctx.ws; split <;> rfl
@[simp] theorem Ctx.ws_deferred (n : Nat) (v : Word) : (k.ws n v).deferred = k.deferred := by unfold Ctx.ws; split <;> rfl
@[simp] theorem Ctx.ws_ending (n : Nat) (v : Word) : (k.ws n v).ending = k.ending := by unfold Ctx.ws; split <;> rfl
@[simp] theorem Ctx.ws_startOn (n : Nat) (v : Word) : (k.ws n v).startOn = k.startOn := by unfold Ctx.ws; split <;> rfl
@[simp] theorem Ctx.ws_retiredQ (n : Nat) (v : Word) : (k.ws n v).retiredQ = k.retiredQ := by unfold Ctx.ws; split <;> rfl
@[simp] theorem Ctx.ws_phases (n : Nat) (v : Word) : (k.ws n v).phases = k.phases := by unfold Ctx.ws; split <;> rfl
@[simp] theorem Ctx.ws_xmiss (n : Nat) (v : Word) : (k.ws n v).xmiss = k.xmiss := by unfold Ctx.ws; split <;> rfl
@[simp] theorem Ctx.ws_xhave (n : Nat) (v : Word) : (k.ws n v).xhave = k.xhave := by unfold Ctx.ws; split <;> rfl

end Contexts

end Sys2Proof.Machine
end

