-- ==== Sys2Proof/Laws/Ops.lean ====
section
/-! SUPPORT. What the shared operations do, each said once: where an update of a core or a context is read, what a write of a
register leaves, and what a fault, a stall, a packet and a store do. -/

namespace Sys2Proof.Machine
open Sys2Proof

/-! ## Reading places -/

section Places
variable (s : State)

theorem State.core_setCore (c d : Nat) (k : Core) : (s.setCore c k).core d = if c = d then k else s.core d :=
  AMap.get_set ({} : Core) s.cores c d k
@[simp] theorem State.core_setCore_same (c : Nat) (k : Core) : (s.setCore c k).core c = k := by simp [State.core_setCore]
theorem State.core_updCore (c d : Nat) (f : Core → Core) :
    (s.updCore c f).core d = if c = d then f (s.core c) else s.core d := State.core_setCore s c d _
@[simp] theorem State.core_updCore_same (c : Nat) (f : Core → Core) : (s.updCore c f).core c = f (s.core c) := by
  simp [State.core_updCore]
theorem State.core_updCore_ne {c d : Nat} (f : Core → Core) (h : c ≠ d) : (s.updCore c f).core d = s.core d := by
  simp [State.core_updCore, h]
theorem Core.ctx_setCtx (k : Core) (x y : Nat) (v : Ctx) : (k.setCtx x v).ctx y = if x = y then v else k.ctx y :=
  AMap.get_set ({} : Ctx) k.ctxs x y v
@[simp] theorem Core.ctx_setCtx_same (k : Core) (x : Nat) (v : Ctx) : (k.setCtx x v).ctx x = v := by simp [Core.ctx_setCtx]
theorem Core.chan_setChan (k : Core) (h i : Nat) (v : Channel) : (k.setChan h v).chan i = if h = i then v else k.chan i :=
  AMap.get_set ({} : Channel) k.channels h i v
@[simp] theorem Core.chan_setChan_same (k : Core) (h : Nat) (v : Channel) : (k.setChan h v).chan h = v := by
  simp [Core.chan_setChan]
@[simp] theorem Core.chan_updChan_same (k : Core) (h : Nat) (f : Channel → Channel) : (k.updChan h f).chan h = f (k.chan h) := by
  simp [Core.updChan]
theorem Core.cell_setCell (k : Core) (n m : Nat) (v : Cell) : (k.setCell n v).cell m = if n = m then v else k.cell m :=
  AMap.get_set ({} : Cell) k.counters n m v
@[simp] theorem Core.cell_setCell_same (k : Core) (n : Nat) (v : Cell) : (k.setCell n v).cell n = v := by simp [Core.cell_setCell]
theorem State.ctx_updCtx (c x y : Nat) (f : Ctx → Ctx) :
    (s.updCtx c x f).ctx c y = if x = y then f (s.ctx c x) else s.ctx c y := by
  show ((s.updCore c fun k => k.setCtx x (f (s.ctx c x))).core c).ctx y = _
  rw [State.core_updCore_same, Core.ctx_setCtx]
  rfl
@[simp] theorem State.ctx_updCtx_same (c x : Nat) (f : Ctx → Ctx) : (s.updCtx c x f).ctx c x = f (s.ctx c x) := by
  simp [State.ctx_updCtx]
theorem State.ctx_updCtx_core {c d : Nat} (x y : Nat) (f : Ctx → Ctx) (h : c ≠ d) : (s.updCtx c x f).ctx d y = s.ctx d y := by
  show ((s.updCore c fun k => k.setCtx x (f (s.ctx c x))).core d).ctx y = _
  rw [State.core_updCore_ne _ _ h]
  rfl
@[simp] theorem State.core_updCtx_same (c x : Nat) (f : Ctx → Ctx) :
    (s.updCtx c x f).core c = (s.core c).setCtx x (f (s.ctx c x)) := State.core_updCore_same s c _
theorem State.core_updCtx_ne {c d : Nat} (x : Nat) (f : Ctx → Ctx) (h : c ≠ d) : (s.updCtx c x f).core d = s.core d :=
  State.core_updCore_ne s _ h
@[simp] theorem State.me_updMe (f : Ctx → Ctx) : (s.updMe f).me = f s.me := State.ctx_updCtx_same s _ _ f
theorem State.part_updPart (p q : Nat) (f : Part → Part) : (s.updPart p f).part q = if p = q then f (s.part p) else s.part q :=
  AMap.get_set ({} : Part) s.parts p q _
@[simp] theorem State.part_updPart_same (p : Nat) (f : Part → Part) : (s.updPart p f).part p = f (s.part p) := by
  simp [State.part_updPart]
theorem State.queue_updQueue (p q : Nat) (f : Queue → Queue) :
    (s.updQueue p f).queue q = if p = q then f (s.queue p) else s.queue q := AMap.get_set ({} : Queue) s.queues p q _
@[simp] theorem State.queue_updQueue_same (q : Nat) (f : Queue → Queue) : (s.updQueue q f).queue q = f (s.queue q) := by
  simp [State.queue_updQueue]
theorem State.domain_updDomain (a b : Nat) (f : Domain → Domain) :
    (s.updDomain a f).domain b = if a = b then f (s.domain a) else s.domain b := AMap.get_set ({} : Domain) s.domains a b _
@[simp] theorem State.domain_updDomain_same (b : Nat) (f : Domain → Domain) : (s.updDomain b f).domain b = f (s.domain b) := by
  simp [State.domain_updDomain]

end Places

/-! ## What changes nothing but the issuing core or context -/

theorem OnlyCore.refl (s : State) (c : Nat) : OnlyCore s s c := ⟨rfl, fun _ _ => rfl⟩
theorem onlyCore_updCore (s : State) (c : Nat) (f : Core → Core) : OnlyCore s (s.updCore c f) c :=
  ⟨rfl, fun _ h => State.core_updCore_ne s f h.symm⟩
theorem OnlyCore.trans {s t u : State} {c : Nat} (h : OnlyCore s t c) (g : OnlyCore t u c) : OnlyCore s u c := by
  refine ⟨?_, fun d hd => (g.2 d hd).trans (h.2 d hd)⟩
  have hs := h.1
  have hg := g.1
  rw [hs] at hg
  exact hg
/-- An update of the issuing context changes nothing outside it. -/
theorem onlyMe_updMe (s : State) (f : Ctx → Ctx) : OnlyMe s (s.updMe f) := by
  refine ⟨onlyCore_updCore s s.cur.core fun k => k.setCtx s.cur.ctx (f s.me), ?_, fun y h => ?_⟩
  · show (s.updMe f).core s.cur.core = _
    rw [State.updMe, State.core_updCtx_same]
    simp [Core.setCtx, State.myCore]
  · rw [State.updMe, State.ctx_updCtx, if_neg (fun e => h e.symm)]

/-! ## Writing a scalar register -/

@[simp] theorem State.identity_ws (s : State) (c x : Nat) (n : BitVec 6) (v : Word) : (s.ws n v).identity c x = s.identity c x := rfl
theorem Ctx.get_ws (k : Ctx) (n m : Nat) (v : Word) (h0 : n ≠ 0) (h63 : n ≠ 63) :
    AMap.get 0 (k.ws n v).s m = if n = m then v else AMap.get 0 k.s m := by
  simp [Ctx.ws, h0, h63, AMap.get_set]
/-- A write of a scalar register of the issuing context does that and nothing else. -/
theorem writes_ws (s : State) (d : BitVec 6) (v : Word) : Writes s (s.ws d v) d v := by
  refine ⟨⟨onlyMe_updMe s _, ?_, ?_⟩, ?_⟩
  · simp only [State.ws, State.me_updMe, Ctx.ws]
    split <;> rfl
  · intro n hn
    have hnd : d.toNat ≠ n.toNat := fun h => hn (by simp [BitVec.eq_of_toNat_eq h])
    simp only [State.mine, State.sreg, State.ws_cur, State.identity_ws]
    split
    · rfl
    · split
      · rfl
      · show AMap.get 0 (s.ws d v).me.s n.toNat = AMap.get 0 s.me.s n.toNat
        simp only [State.ws, State.me_updMe, Ctx.ws]
        split
        · rfl
        · rw [AMap.get_set_ne _ _ _ hnd]
  · intro h0 h63
    have h0' : d.toNat ≠ 0 := fun h => h0 (BitVec.eq_of_toNat_eq h)
    have h63' : d.toNat ≠ 63 := fun h => h63 (BitVec.eq_of_toNat_eq h)
    simp only [State.mine, State.sreg, if_neg h0, if_neg h63, State.ws_cur]
    show AMap.get 0 (s.ws d v).me.s d.toNat = v
    simp only [State.ws, State.me_updMe]
    rw [Ctx.get_ws _ _ _ _ h0' h63', if_pos rfl]

/-! ## Accesses of the issuing context to its scratchpad -/

section Order
variable {s : State} {off n h : Nat} {k : State}

/-- R267: an access that meets an own atomic waits for it. -/
theorem State.inOrder_behind (a : s.ownAtoms off n ≠ []) : s.inOrder off n k = s.stallMe (.fence (s.ownAtoms off n)) := by
  unfold State.inOrder
  split
  · next e => exact absurd e a
  · rfl
/-- R294: an access under a watermark stalls with it. -/
theorem State.inOrder_marked (a : s.ownAtoms off n = []) (m : s.myCore.marked off n = some h) :
    s.inOrder off n k = s.stallMe (.watermark h s.wmStart (localAddr off)) := by
  simp only [State.inOrder, a, State.unmarked, m]
/-- An access that nothing holds is made. -/
theorem State.inOrder_clear (a : s.ownAtoms off n = []) (m : s.myCore.marked off n = none) : s.inOrder off n k = k := by
  simp only [State.inOrder, a, State.unmarked, m]

end Order

end Sys2Proof.Machine
end

