-- ==== Sys2Proof/Laws/Engines.lean ====
section
/-! SUPPORT. What engine threads read and write (R274), and what a host queue's registers and a repetition do: each said once. -/

namespace Sys2Proof.Machine
open Sys2Proof

variable {s : State} {id c : Nat}

/-- A moment at which an engine thread reads is one since its fork at which its release was complete. -/
theorem State.momentOf_mem {w : Nat} {m : Moment} (h : s.momentOf id w = some m) : m ∈ s.past ∧ id < m.uid ∧ id ∉ m.held := by
  unfold State.momentOf at h
  have g := List.find?_some h
  simp only [Bool.and_eq_true, decide_eq_true_eq, Bool.not_eq_true', List.contains_eq_mem, decide_eq_false_iff_not] at g
  exact ⟨List.mem_of_find?_eq_some h, g.1.1, g.1.2⟩
/-- The pool from which an engine thread reads is the core's as it stands now, or as it stood at such a moment. -/
theorem State.poolAt_seen (rd : Nat) : ∃ k, PoolSeen s id c k ∧ s.poolAt id c rd = k := by
  unfold State.poolAt
  split
  · next m h =>
    obtain ⟨hm, hu, hh⟩ := State.momentOf_mem h
    exact ⟨_, .inr ⟨m, hm, hu, hh, rfl⟩, rfl⟩
  · exact ⟨_, .inl rfl, rfl⟩
/-- A byte that a copy reads of a pool stands there now, or stood there at such a moment. -/
theorem State.engineByte_seen (a : Nat) : ∃ k, PoolSeen s id c k ∧ s.engineByte id c a = k.byte a := by
  obtain ⟨k, h, e⟩ := State.poolAt_seen (s := s) (id := id) (c := c) (c * 2 ^ 20 + a / 8)
  exact ⟨k, h, congrArg (·.byte a) e⟩
/-- An operand of an engine command: each element that it reads is whole, from one such pool (R153). -/
theorem State.engineRd_seen (t : TReg) (k n : Nat) : ∃ e, PoolSeen s id c e ∧ ∀ o, s.engineRd id c t k n o = e.byte (t.base + o) := by
  obtain ⟨e, h, g⟩ := State.poolAt_seen (s := s) (id := id) (c := c) ((c * 4 + k) * 2 ^ 60 + n)
  exact ⟨e, h, fun o => congrArg (·.byte (t.base + o)) g⟩

/-- An engine's writes to a pool leave HBM, what is in flight, and every other core. -/
theorem State.engineWrites_mem (ws : List (Nat × List Byte)) : (s.engineWrites c ws).mem = s.mem := by
  induction ws generalizing s with
  | nil => rfl
  | cons w r ih => exact ih (s := s.putLocal c w.1 w.2)
theorem State.engineWrites_net (ws : List (Nat × List Byte)) : (s.engineWrites c ws).net = s.net := by
  induction ws generalizing s with
  | nil => rfl
  | cons w r ih => exact ih (s := s.putLocal c w.1 w.2)
theorem State.engineWrites_core {d : Nat} (h : c ≠ d) (ws : List (Nat × List Byte)) : (s.engineWrites c ws).core d = s.core d := by
  induction ws generalizing s with
  | nil => rfl
  | cons w r ih => exact (ih (s := s.putLocal c w.1 w.2)).trans (State.core_updCore_ne s (fun k => k.put w.1 w.2) h)

/-- A configuration register of an enabled queue ignores a write, and bit 1 of STATE says so (R340). -/
theorem Queue.write_enabled (k : Queue) (v : Word) (h : k.enabled = true) {r : Nat} (hr : r = 0x100 ∨ r = 0x108 ∨ r = 0x110 ∨ r = 0x118) :
    k.write r v = { k with ignored := true } := by
  obtain rfl | rfl | rfl | rfl := hr <;> simp [Queue.write, h]

/-- A bundle of a body that is not its last is followed by the next one; the last one by the body again, or by what stands behind it (R114). -/
theorem Srep.step_next (r : Srep) (h : r.idx + 1 < r.n) : r.step = (some { r with idx := r.idx + 1 }, false) := if_pos h
theorem Srep.step_again (r : Srep) (h : r.n ≤ r.idx + 1) (g : r.beta + 1 < r.nrep) :
    r.step = (some { r with idx := 0, beta := r.beta + 1 }, true) := by simp [Srep.step, Nat.not_lt.2 h, g]
theorem Srep.step_over (r : Srep) (h : r.n ≤ r.idx + 1) (g : r.nrep ≤ r.beta + 1) : r.step = (none, false) := by
  simp [Srep.step, Nat.not_lt.2 h, Nat.not_lt.2 g]

end Sys2Proof.Machine
end

