-- ==== Sys2Proof/Laws/Vector.lean ====
section
/-! SUPPORT. What an A-class word does to registers that no stream is bound to: lanes under the mask, flags, and nothing else. -/

namespace Sys2Proof.Machine
open Sys2Proof

/-! ## Lanes -/

@[simp] theorem length_lanes64 (l : List Word32) : (lanes64 l).length = 64 := by simp [lanes64]
theorem getD_lanes64 (l : List Word32) (i : Nat) (h : i < 64) : (lanes64 l).getD i 0 = l.getD i 0 := by
  simp [lanes64, List.getD_eq_getElem?_getD, h]
@[simp] theorem length_vr (k : Ctx) (n : Nat) : (k.vr n).length = 64 := length_lanes64 _
theorem vr_wv (k : Ctx) (n m : Nat) (l : List Word32) : (k.wv n l).vr m = if n = m then lanes64 l else k.vr m := by
  simp only [Ctx.vr, Ctx.wv, AMap.get_set]
  split <;> rfl

/-- Lane by lane: the result where the mask has the lane, else what the register held; the flags of the lanes in the mask. -/
theorem mapLanes_spec (M : Word) (f : Nat → Word → Word → Word → Word × Bits6) (n : Nat) :
    ∀ (i : Nat) (A B D : List Word), A.length = n → B.length = n → D.length = n →
      (mapLanes M f i A B D).1.length = n ∧
      (∀ l, l < n → (mapLanes M f i A B D).1.getD l 0 =
        if M.getLsbD (i + l) then (f (i + l) (A.getD l 0) (B.getD l 0) (D.getD l 0)).1 else D.getD l 0) ∧
      ∀ b, (mapLanes M f i A B D).2.getLsbD b = true ↔
        ∃ l, l < n ∧ M.getLsbD (i + l) = true ∧ (f (i + l) (A.getD l 0) (B.getD l 0) (D.getD l 0)).2.getLsbD b = true := by
  induction n with
  | zero =>
    intro i A B D hA hB hD
    rw [List.length_eq_zero_iff] at hA hB hD
    subst hA hB hD
    simp [mapLanes, fNone]
  | succ n ih =>
    intro i A B D hA hB hD
    match A, B, D, hA, hB, hD with
    | a :: A, b :: B, d :: D, hA, hB, hD =>
      obtain ⟨h1, h2, h3⟩ := ih (i + 1) A B D (by simpa using hA) (by simpa using hB) (by simpa using hD)
      simp only [mapLanes]
      generalize hm : mapLanes M f (i + 1) A B D = r at h1 h2 h3
      obtain ⟨r, g⟩ := r
      simp only at h1 h2 h3
      have e : ∀ l, i + 1 + l = i + (l + 1) := fun l => by omega
      by_cases hM : M.getLsbD i = true
      · simp only [hM, if_true]
        refine ⟨by simp [h1], ?_, ?_⟩
        · intro l hl
          cases l with
          | zero => simp [hM]
          | succ l => simpa [e] using h2 l (by omega)
        · intro x
          simp only [BitVec.getLsbD_or, Bool.or_eq_true, h3]
          constructor
          · rintro (h | ⟨l, hl, hl1, hl2⟩)
            · exact ⟨0, by omega, by simpa using hM, by simpa using h⟩
            · exact ⟨l + 1, by omega, by simpa [e] using hl1, by simpa [e] using hl2⟩
          · rintro ⟨l, hl, hl1, hl2⟩
            cases l with
            | zero => exact .inl (by simpa using hl2)
            | succ l => exact .inr ⟨l, by omega, by simpa [e] using hl1, by simpa [e] using hl2⟩
      · simp only [hM]
        refine ⟨by simp [h1], ?_, ?_⟩
        · intro l hl
          cases l with
          | zero => simp [hM]
          | succ l => simpa [e] using h2 l (by omega)
        · intro x
          simp only [Bool.false_eq_true, if_false, h3]
          constructor
          · rintro ⟨l, hl, hl1, hl2⟩
            exact ⟨l + 1, by omega, by simpa [e] using hl1, by simpa [e] using hl2⟩
          · rintro ⟨l, hl, hl1, hl2⟩
            cases l with
            | zero => exact absurd (by simpa using hl1) hM
            | succ l => exact ⟨l, by omega, by simpa [e] using hl1, by simpa [e] using hl2⟩

/-- The lanes of a v operand, as the operations take them. -/
def State.val (s : State) (wide : Bool) (v : BitVec 5) : List Word := joinLanes wide ((vregs wide v).map s.src.vr)
theorem length_val (s : State) (w : Bool) (v : BitVec 5) : (s.val w v).length = 64 := by
  cases w <;> simp [State.val, vregs, joinLanes]
theorem getD_val (s : State) (w : Bool) (v : BitVec 5) (l : Nat) (h : l < 64) : (s.val w v).getD l 0 = s.lane w v l := by
  cases w
  · simp [State.val, vregs, joinLanes, State.lane, List.getD_eq_getElem?_getD, h]
  · simp [State.val, vregs, joinLanes, State.lane, List.getD_eq_getElem?_getD, h]

/-! ## A-class words without streams -/

theorem State.unboundV_src {s : State} {vs : List Nat} (h : s.unboundV vs = true) {v : Nat} (hv : v ∈ vs) :
    AMap.find s.src.streams v = none := by
  have := List.all_eq_true.1 h v hv
  simp only [Bool.and_eq_true, Option.isNone_iff_eq_none] at this
  exact this.1
theorem State.unboundV_me {s : State} {vs : List Nat} (h : s.unboundV vs = true) {v : Nat} (hv : v ∈ vs) :
    AMap.find s.me.streams v = none := by
  have := List.all_eq_true.1 h v hv
  simp only [Bool.and_eq_true, Option.isNone_iff_eq_none] at this
  exact this.2

theorem popAll_unbound (s : State) (l : List Nat) (h : ∀ v ∈ l, AMap.find s.src.streams v = none) : popAll s l = .ok [] := by
  induction l with
  | nil => rfl
  | cons v r ih =>
    simp only [popAll, ih fun w hw => h w (List.mem_cons_of_mem _ hw), h v (List.mem_cons_self ..)]
/-- The registers written by a push to registers without streams. -/
def State.putRegs (s : State) (l : List (Nat × List Word32)) : State := l.foldl (fun s e => s.updMe fun k => k.wv e.1 e.2) s
theorem State.src_updMe_wv (s : State) (v : Nat) (x : List Word32) : (s.updMe fun k => k.wv v x).src.streams = s.src.streams := by
  have hc : (s.updMe fun k => k.wv v x).cur = s.cur := rfl
  simp only [State.src, hc]
  cases s.cur.snap with
  | none => simp only [State.me_updMe, Ctx.wv_streams]
  | some k => rfl
theorem pushAll_unbound (M : Word) (l : List (Nat × List Word32)) :
    ∀ s : State, (∀ e ∈ l, AMap.find s.src.streams e.1 = none) → pushAll s M l = .ok (s.putRegs l) := by
  induction l with
  | nil => intro s _; rfl
  | cons e r ih =>
    intro s h
    obtain ⟨v, x⟩ := e
    simp only [pushAll, h (v, x) (List.mem_cons_self ..)]
    rw [ih]
    · rfl
    · intro e he
      rw [State.src_updMe_wv]
      exact h e (List.mem_cons_of_mem _ he)
/-- An A-class word none of whose registers is bound to a stream: its function runs on the registers under the active mask. -/
theorem State.aWord_unbound (s : State) (rs ws : List Nat) (f : VIn → VOut)
    (hr : ∀ v ∈ rs, AMap.find s.src.streams v = none) (hw : ∀ v ∈ ws, AMap.find s.src.streams v = none)
    (hm : ∀ e ∈ (f { reg := s.src.vr, mask := s.src.amask }).regs, AMap.find s.src.streams e.1 = none) :
    s.aWord rs ws f =
      let o := f { reg := s.src.vr, mask := s.src.amask }
      o.also ((s.putRegs o.regs).raiseFlags o.flags) := by
  have h3 : (ws.filterMap fun v => AMap.find s.src.streams v) = [] := by
    rw [List.filterMap_eq_nil_iff]
    exact hw
  simp only [State.aWord]
  split
  · next v hv =>
    rw [Option.or_eq_some_iff] at hv
    rcases hv with hv | ⟨-, hv⟩
    · have := List.find?_some hv
      simp [hr v (List.mem_of_find?_eq_some hv)] at this
    · have := List.find?_some hv
      simp [hw v (List.mem_of_find?_eq_some hv)] at this
  · rw [popAll_unbound s _ fun v hv => hr v (List.mem_dedup.1 hv)]
    simp only [List.map_nil, h3, List.append_nil, List.foldl_nil, List.find?_nil, List.flatMap_nil, if_true]
    rw [pushAll_unbound _ _ s hm]

/-! ## The common mould -/

theorem low_append (y x : Word32) : (y ++ x).setWidth 32 = x := by
  apply BitVec.eq_of_getLsbD_eq
  intro i hi
  rw [BitVec.getLsbD_setWidth, BitVec.getLsbD_append, if_pos hi]
  simp [hi]
theorem high_append (y x : Word32) : ((y ++ x) >>> 32).setWidth 32 = y := by
  apply BitVec.eq_of_getLsbD_eq
  intro i hi
  rw [BitVec.getLsbD_setWidth, BitVec.getLsbD_ushiftRight, BitVec.getLsbD_append, if_neg (by omega)]
  simp [hi]

theorem State.putRegs_me (s : State) (l : List (Nat × List Word32)) :
    (s.putRegs l).me = l.foldl (fun k e => k.wv e.1 e.2) s.me := by
  induction l generalizing s with
  | nil => rfl
  | cons e r ih =>
    show (State.putRegs (s.updMe fun k => k.wv e.1 e.2) r).me = _
    rw [ih, State.me_updMe]
    rfl
theorem OnlyMe.refl (s : State) : OnlyMe s s := ⟨OnlyCore.refl s _, rfl, fun _ _ => rfl⟩
theorem OnlyMe.cur_eq {s t : State} (h : OnlyMe s t) : t.cur = s.cur := by rw [h.1.1]
theorem OnlyMe.trans {s t u : State} (h : OnlyMe s t) (g : OnlyMe t u) : OnlyMe s u := by
  have hc := h.cur_eq
  obtain ⟨h1, h2, h3⟩ := h
  obtain ⟨g1, g2, g3⟩ := g
  have hu : u.cur = t.cur := by rw [g1.1]
  rw [hc] at g1 g3
  refine ⟨h1.trans g1, ?_, fun y hy => (g3 y hy).trans (h3 y hy)⟩
  simp only [State.myCore, hu, hc] at *
  rw [g2, h2]
theorem State.putRegs_only (s : State) (l : List (Nat × List Word32)) : OnlyMe s (s.putRegs l) := by
  induction l generalizing s with
  | nil => exact OnlyMe.refl s
  | cons e r ih => exact (onlyMe_updMe s _).trans (ih _)
theorem foldl_wv_fields (l : List (Nat × List Word32)) (k : Ctx) :
    l.foldl (fun k e => k.wv e.1 e.2) k = { k with v := (l.foldl (fun k e => k.wv e.1 e.2) k).v } := by
  induction l generalizing k with
  | nil => rfl
  | cons e r ih =>
    simp only [List.foldl_cons]
    rw [ih]
    simp [Ctx.wv]

/-- A typed element operation on registers that no stream is bound to writes the lanes of its destination under the mask, raises
their flags, and changes nothing else. `hf` says what the operation's lanes are. -/
theorem laneWrites_of (s : State) (wide : Bool) (d : BitVec 5) (F : Nat → Word → Word → Word → Word × Bits6)
    (A B : List Word) (hA : A.length = 64) (hB : B.length = 64) (g : Nat → Word × Bits6)
    (hg : ∀ l, l < 64 → F l (A.getD l 0) (B.getD l 0) ((s.val wide d).getD l 0) = g l) :
    let r := mapLanes s.src.amask F 0 A B (s.val wide d)
    LaneWrites s ((s.putRegs ((vregs wide d).zip (splitLanes wide r.1))).raiseFlags r.2) wide d g := by
  intro r
  obtain ⟨h1, h2, h3⟩ := mapLanes_spec s.src.amask F 64 0 A B (s.val wide d) hA hB (length_val s wide d)
  change r.1.length = 64 at h1
  generalize hregs : (vregs wide d).zip (splitLanes wide r.1) = regs
  have hme : ((s.putRegs regs).raiseFlags r.2).me =
      { regs.foldl (fun k e => k.wv e.1 e.2) s.me with flags := s.me.flags ||| r.2 } := by
    show ((s.putRegs regs).updMe fun k => { k with flags := k.flags ||| r.2 }).me = _
    rw [State.me_updMe, State.putRegs_me, foldl_wv_fields]
  have hvr : ∀ v, ((s.putRegs regs).raiseFlags r.2).me.vr v = (regs.foldl (fun k e => k.wv e.1 e.2) s.me).vr v := by
    intro v
    rw [hme]
    rfl
  have hall := (State.putRegs_only s regs).trans (onlyMe_updMe (s.putRegs regs) fun k => { k with flags := k.flags ||| r.2 })
  have hcur := hall.cur_eq
  refine ⟨?_, ?_, ?_, ?_, ?_, hall.2.1, hall.1.2, hall.2.2⟩
  · intro l hl
    have h2l := h2 l hl
    rw [Nat.zero_add, hg l hl] at h2l
    change r.1.getD l 0 = _ at h2l
    have hv := getD_val s wide d l hl
    simp only [hvr]
    subst hregs
    have hl' : l < r.1.length := by rw [h1]; exact hl
    cases wide
    · simp only [vregs, splitLanes, Bool.false_eq_true, if_false, List.zip_cons_cons, List.zip_nil_right, List.foldl_cons,
        List.foldl_nil, List.map_cons, List.map_nil, vr_wv, if_true, getD_lanes64 _ l hl, laneWords]
      have e : (r.1.map fun w => w.setWidth 32).getD l 0 = (r.1.getD l 0).setWidth 32 := by
        simp [List.getD_eq_getElem?_getD, hl']
      rw [e, h2l]
      split
      · rfl
      · rw [hv]; simp [State.lane]
    · simp only [vregs, splitLanes, if_true, List.zip_cons_cons, List.zip_nil_right, List.foldl_cons,
        List.foldl_nil, List.map_cons, List.map_nil, vr_wv, laneWords]
      have e1 : (r.1.map fun w => w.setWidth 32).getD l 0 = (r.1.getD l 0).setWidth 32 := by
        simp [List.getD_eq_getElem?_getD, hl']
      have e2 : (r.1.map fun (w : Word) => (w >>> 32).setWidth 32).getD l 0 = ((r.1.getD l 0) >>> 32).setWidth 32 := by
        simp [List.getD_eq_getElem?_getD, hl']
      simp only [Nat.succ_ne_self, if_false, getD_lanes64 _ l hl, e1, e2, h2l]
      split
      · rfl
      · rw [hv]
        simp only [State.lane, if_true]
        generalize (s.src.vr d.toNat).getD l 0 = x
        generalize (s.src.vr (d.toNat + 1)).getD l 0 = y
        rw [low_append, high_append]
  · intro i _
    rw [hme]
    simp only [BitVec.getLsbD_or, Bool.or_eq_true]
    refine or_congr Iff.rfl ((h3 i).trans ?_)
    constructor
    · rintro ⟨l, hl, a, b⟩
      rw [Nat.zero_add] at a b
      rw [hg l hl] at b
      exact ⟨l, hl, a, b⟩
    · rintro ⟨l, hl, a, b⟩
      refine ⟨l, hl, by simpa using a, ?_⟩
      rw [Nat.zero_add, hg l hl]
      exact b
  · intro v hv
    rw [hvr]
    have : ∀ (k : Ctx), (∀ e ∈ regs, e.1 ≠ v) → (regs.foldl (fun k e => k.wv e.1 e.2) k).vr v = k.vr v := by
      clear hregs hme hvr hall hcur
      induction regs with
      | nil => intro k _; rfl
      | cons e rs ih =>
        intro k hk
        rw [List.foldl_cons, ih _ fun e he => hk e (List.mem_cons_of_mem _ he), vr_wv, if_neg (hk e (List.mem_cons_self ..))]
    refine this _ fun e he hev => hv ?_
    rw [← hregs] at he
    rw [← hev]
    exact (List.of_mem_zip he).1
  · rw [hme, foldl_wv_fields]
  · have e := hall.1.1
    generalize hu : ((s.putRegs regs).updMe fun k => { k with flags := k.flags ||| r.2 }) = u at e
    have ht : (s.putRegs regs).raiseFlags r.2 = { u with cur := { (s.putRegs regs).cur with raised := (s.putRegs regs).cur.raised ||| r.2 } } := by
      rw [← hu]; rfl
    have hc : (s.putRegs regs).cur = s.cur := (State.putRegs_only s regs).cur_eq
    rw [ht, hc, e]

/-- The lanes of the first and second source of an operation; a missing one reads 0. -/
def State.srcLane (s : State) (wide : Bool) (l : Nat) : List (BitVec 5) → Word
  | a :: _ => s.lane wide a l
  | [] => 0
/-- `State.vop` on registers that no stream is bound to. -/
theorem laneWrites_vop {s : State} {wd wa dRead : Bool} {d : BitVec 5} {srcs : List (BitVec 5)}
    {f : Nat → Word → Word → Word → Word × Bits6} {g : Nat → Word × Bits6}
    (h : s.unboundV (vregs wd d ++ srcs.flatMap (vregs wa)) = true)
    (hg : ∀ l, l < 64 → f l (s.srcLane wa l srcs) (s.srcLane wa l srcs.tail) (s.lane wd d l) = g l) :
    LaneWrites s (s.vop wd wa d srcs dRead f) wd d g := by
  have hd : ∀ v ∈ vregs wd d, v ∈ vregs wd d ++ srcs.flatMap (vregs wa) := fun v hv => List.mem_append_left _ hv
  simp only [State.vop]
  rw [State.aWord_unbound]
  · refine laneWrites_of s wd d f _ _ ?_ ?_ g ?_
    · cases srcs with
      | nil => simp
      | cons a r => exact length_val s wa a
    · match srcs with
      | [] => simp
      | [_] => simp
      | _ :: b :: _ => exact length_val s wa b
    · intro l hl
      rw [← hg l hl, getD_val s wd d l hl]
      have z : (List.replicate 64 (0 : Word)).getD l 0 = 0 := by
        rw [List.getD_eq_getElem?_getD, List.getElem?_replicate]
        simp [hl]
      match srcs with
      | [] => simp only [State.srcLane, List.tail_nil, z]
      | [a] =>
        have e := getD_val s wa a l hl
        simp only [State.val] at e
        simp only [State.srcLane, List.tail_cons, e, z]
      | a :: b :: _ =>
        have e1 := getD_val s wa a l hl
        have e2 := getD_val s wa b l hl
        simp only [State.val] at e1 e2
        simp only [State.srcLane, e1, e2, List.tail_cons]
  · intro v hv
    rw [List.mem_append] at hv
    rcases hv with hv | hv
    · exact State.unboundV_src h (List.mem_append_right _ hv)
    · cases dRead
      · simp at hv
      · exact State.unboundV_src h (hd v (by simpa using hv))
  · exact fun v hv => State.unboundV_src h (hd v hv)
  · intro e he
    exact State.unboundV_src h (hd _ (List.of_mem_zip he).1)

end Sys2Proof.Machine
end

