-- ==== Sys2Proof/Tests/Slice0.lean ====
section
/-! SUPPORT. Tests of the model: ill-formed terms, words laid out from the spec's encodings, single steps whose results the spec gives,
and a witness of the hypotheses of every statement. -/

namespace Sys2Proof.Tests
open Sys2Proof Machine
set_option maxRecDepth 8000
set_option Elab.async false

/-! ## Small states -/

/-- Core 0's C0 runs at PC 0 in a launch of domain 0. -/
def base : State := State.reset.readyAt0 []
/-- C0 of `base` with these scalar registers. -/
def withRegs (l : List (Nat × Word)) : State := base.updMe fun k => { k with s := l }
/-- C0 of `base` with these v registers, the same word in each lane. -/
def withLanes (l : List (Nat × Word32)) : State := base.updMe fun k => { k with v := l.map fun e => (e.1, List.replicate 64 e.2) }
/-- Core 0 of `base`, changed. -/
def onCore (f : Core → Core) : State := base.updCore 0 f
/-- Core 0 with registers, changed. -/
def coreRegs (l : List (Nat × Word)) (f : Core → Core) : State := (withRegs l).updCore 0 f
/-- The state after an instruction. -/
def after (i : Instr) (s : State) : State := next (exec i s) s
/-- What one step leaves. -/
def stepped (s : State) : State := match step s with
  | .next t => t
  | _ => s
/-- A local address. -/
def loc (off : Nat) : Word := BitVec.ofNat 64 (2 ^ 63 + off)

/-! ## Ill-formed terms are refused -/

theorem ill_s63 : wellFormed (.add 63 1 2) = false := by decide
theorem ill_nexti : wellFormed (.nexti 57 1) = false := by decide
theorem ill_mmag : wellFormed (.mmag 1 2 3 0) = false := by decide
theorem ill_csrr : wellFormed (.csrr 5 0x12) = false := by decide
theorem ill_csrw : wellFormed (.csrw 0 5) = false := by decide
theorem ill_pair : wellFormed (.vadd .f64 2 3 4) = false := by decide
theorem ill_type_f : wellFormed (.vfma .i32 2 3 4) = false := by decide
theorem ill_type_signed : wellFormed (.vabs .n32 2 3) = false := by decide
theorem ill_type_divides : wellFormed (.vdiv .i64 2 4 6) = false := by decide
theorem ill_type_int : wellFormed (.vand .f32 2 3 4) = false := by decide
theorem ill_cvt_pair : wellFormed (.vcvt .f32f64 3 4) = false ∧ wellFormed (.vcvt .f64f32 4 3) = false := by decide
theorem ill_core : wellFormed (.stealAttempt 51) = false := by decide
theorem ill_ctx : wellFormed (.taskEnd 0 11) = false := by decide
theorem ill_part : wellFormed (.sweep 64) = false := by decide
theorem ill_engine : wellFormed (.mmaRun 0 6) = false := by decide
theorem ill_channel : wellFormed (.starve 0 64) = false := by decide
theorem ill_counter : wellFormed (.counterPendingPush 0 2048) = false := by decide
theorem ill_port : wellFormed (.linkDown 0 2) = false := by decide
theorem ill_stream : wellFormed (.streamBeatArrival 0 0 8) = false := by decide
theorem ill_command : wellFormed (.launch 0 [0]) = false := by decide
theorem ill_queue : wellFormed (.cqhead 65536 0) = false := by decide
theorem ill_bar4 : wellFormed (.bar4Read 4 8) = false ∧ wellFormed (.bar4Write 0 3 0) = false := by decide
theorem ill_check : wellFormed (.undecodableWord 0 6 false) = false := by decide

/-! ## Words laid out from the encodings of R39, field by field: L, S, K, op, then the format's fields -/

theorem word_divu : decodeWord 0b1_0_0_000000_000101_000110_000111_10111 = .ok (.divu 5 6 7) := by decide
theorem word_clz : decodeWord 0b1_0_0_000000_001000_001001_000000_10001 = .ok (.clz 8 9) := by decide
theorem word_add_marked : decodeWord 0b1_1_0_000000_111110_000001_111111_00000 = .ok (.add 62 1 63) := by decide
theorem word_addi : decodeWord 0b1_0_0_000001_000101_000101_00000000100 = .ok (.addi 5 5 4) := by decide
theorem word_sari : decodeWord 0b1_0_0_000111_000101_000110_00000111111 = .ok (.sari 5 6 63) := by decide
theorem word_sari_wide : decodeWord 0b1_0_0_000111_000101_000110_00001000000 = .error .field := by decide
theorem word_li : decodeWord 0b1_0_0_001001_000110_00000000000100100 = .ok (.li 6 0x24) := by decide
theorem word_lih : decodeWord 0b1_0_0_001010_000110_01101000101011001 = .ok (.lih 6 0xD159) := by decide
theorem word_sel : decodeWord 0b1_0_0_001011_000001_000010_000011_00000 = .ok (.sel 1 2 3) := by decide
theorem word_b_geu : decodeWord 0b1_0_0_010000_101_000010_000011_11111111 = .ok (.b .geu 2 3 (-1)) := by decide
theorem word_b_bad : decodeWord 0b1_0_0_010000_110_000010_000011_00000000 = .error .fn := by decide
theorem word_j : decodeWord 0b1_0_0_010001_11111111111111111111000 = .ok (.j (-8)) := by decide
theorem word_jalr : decodeWord 0b1_0_0_010011_000000_111101_00000000000 = .ok (.jalr 0 61 0) := by decide
theorem word_start : decodeWord 0b1_0_0_010100_001001_001010_001011_00000 = .ok (.start 9 10 11) := by decide
theorem word_endt : decodeWord 0b1_0_0_010101_00000000000000000000000 = .ok .endt := by decide
theorem word_ld : decodeWord 0b1_0_0_011000_000001_000010_10_111111111 = .ok (.ld 1 2 .w (-1)) := by decide
theorem word_st : decodeWord 0b1_0_0_011001_000001_000010_11_000000011 = .ok (.st 1 2 .d 3) := by decide
theorem word_fence : decodeWord 0b1_0_0_011100_000000_000000_000000_00100 = .ok (.fence .sys) := by decide
theorem word_copyc : decodeWord 0b1_0_0_011110_000101_000110_000111_00001 = .ok (.copyc 5 6 7) := by decide
theorem word_atom_cas : decodeWord 0b1_0_0_100011_000001_000010_000011_00110 = .ok (.atomCas 1 2 3) := by decide
theorem word_carm : decodeWord 0b1_0_0_100100_001100_001010_001101_00010 = .ok (.carm 12 10 13) := by decide
theorem word_cwait : decodeWord 0b1_0_0_100101_000000_000001_000010_11111 = .ok (.cwait 1 2 31) := by decide
theorem word_qwait : decodeWord 0b1_0_0_100110_000001_000010_00000011111 = .ok (.qwait 1 2 31) := by decide
theorem word_qwait_wide : decodeWord 0b1_0_0_100110_000001_000010_00000100000 = .error .field := by decide
theorem word_chq : decodeWord 0b1_0_0_100111_000001_000010_000011_00010 = .ok (.chq 1 2 3) := by decide
theorem word_tset : decodeWord 0b1_0_0_101000_001111_000010_000011_00011 = .ok (.tset 15 2 3) := by decide
theorem word_mzero : decodeWord 0b1_0_0_101010_111111_001111_000000_00000 = .ok (.mzero 15) := by decide
theorem word_mmag : decodeWord 0b1_0_0_101010_000001_000010_000011_11111 = .ok (.mmag 1 2 3 31) := by decide
theorem word_nexti : decodeWord 0b1_0_0_110110_111001_000001_000000_00010 = .error .reg := by decide
theorem word_cred_and : decodeWord 0b1_0_0_110111_000001_000010_000011_00111 = .ok (.credAnd 1 2 3) := by decide
theorem word_pset : decodeWord 0b1_0_0_110000_000000_000010_000011_00001 = .ok (.pset 2 3) := by decide
theorem word_rollb : decodeWord 0b1_0_0_110011_000000_000010_000000_00001 = .ok (.rollb 2) := by decide
theorem word_rdraw : decodeWord 0b1_0_0_110100_000001_000000_000000_00010 = .ok (.rdraw 1) := by decide
theorem word_srep : decodeWord 0b1_0_0_111001_000000_00000000100000000 = .ok (.srep 256) := by decide
theorem word_vext : decodeWord 0b1_0_0_111010_000001_011111_000011_00001 = .ok (.vext 1 31 3) := by decide
theorem word_trap : decodeWord 0b1_0_0_111100_000000_000101_000000_00000 = .ok (.trap 5) := by decide
theorem word_csrw : decodeWord 0b1_0_0_111101_000000_000100_001101_00001 = .ok (.csrw 4 13) := by decide
theorem word_vfma : decodeWord 0b1_0_1_000011_000010_000100_000110_00010 = .ok (.vfma .f64 2 4 6) := by decide
theorem word_vcmp : decodeWord 0b1_0_1_001010_110111_000100_000110_11001 = .ok (.vcmp .ne .i32 7 4 6) := by decide
theorem word_vcvt : decodeWord 0b1_0_1_001100_000010_000100_000000_10110 = .ok (.vcvt .i8i32 2 4) := by decide
theorem word_vred : decodeWord 0b1_0_1_011110_000001_000010_000000_10000 = .ok (.vred .max .f32 1 2) := by decide
theorem word_pmask : decodeWord 0b1_0_1_101110_000000_110011_000000_00000 = .ok (.pmask 3) := by decide
theorem word_anop : decodeWord 0b1_0_1_101111_00000000000000000000000 = .ok .anop := by decide
theorem word_no_op : decodeWord 0b1_0_0_111111_00000000000000000000000 = .error .op := by decide
theorem word_no_type : decodeWord 0b1_0_1_000000_000001_000010_000011_00111 = .error .type := by decide
theorem word_odd_pair : decodeWord 0b1_0_1_000000_000001_000010_000100_00010 = .error .reg := by decide

/-! ## Single steps: results and flags that the spec's tables give -/

/-- What an instruction leaves in sd. -/
def gives (i : Instr) (l : List (Nat × Word)) (d : BitVec 6) : Word := (after i (withRegs l)).sreg 0 0 d
/-- Lane 0 of vd after an A word that only lane 0 takes part in, and the flags. -/
def lane0 (i : Instr) (l : List (Nat × Word32)) (d : Nat) : Word32 × BitVec 6 :=
  let t := after i ((withLanes l).updMe fun k => { k with amask := 1 })
  ((t.me.vr d).getD 0 0, t.me.flags)

-- R85's table
theorem test_div : gives (.div 5 6 7) [(6, 7), (7, -2)] 5 = -3 := by decide +kernel
theorem test_div_min : gives (.div 5 6 7) [(6, BitVec.intMin 64), (7, -1)] 5 = BitVec.intMin 64 := by decide +kernel
theorem test_rem : gives (.rem 5 6 7) [(6, -7), (7, 2)] 5 = -1 := by decide +kernel
theorem test_remu_zero : gives (.remu 5 6 7) [(6, 5)] 5 = -1 ∧ (after (.remu 5 6 7) (withRegs [(6, 5)])).me.flags = fDZ := by decide +kernel
theorem test_mulh : gives (.mulh 5 6 7) [(6, -1), (7, -1)] 5 = 0 := by decide +kernel
theorem test_mulhu : gives (.mulhu 5 6 7) [(6, -1), (7, -1)] 5 = 0xFFFFFFFFFFFFFFFE := by decide +kernel
theorem test_clz : gives (.clz 5 6) [] 5 = 64 := by decide +kernel
theorem test_sar : gives (.sar 5 6 7) [(6, 0x8000000000000000), (7, 63)] 5 = -1 := by decide +kernel
theorem test_shl_count : gives (.shl 1 2 3) [(2, 1), (3, 70)] 1 = 64 := by decide +kernel
theorem test_source_is_destination : gives (.sub 5 5 5) [(5, 9)] 5 = 0 := by decide +kernel
theorem test_s0_discards : gives (.addi 0 1 1) [(1, 9)] 0 = 0 := by decide +kernel
-- R87's sequence
theorem test_li_lih : gives (.lih 6 0x1CDEF) [(6, 0x0123456789ABCDEF >>> 17)] 6 = 0x0123456789ABCDEF := by decide +kernel
theorem test_li_negative : gives (.li 6 0x1FFFF) [] 6 = -1 := by decide +kernel
theorem test_sel : gives (.sel 5 6 5) [(5, 1), (6, 9)] 5 = 9 ∧ gives (.sel 5 6 7) [(5, 1), (6, 9)] 5 = 1 := by decide +kernel
theorem test_branch_below : (after (.b .lt 1 2 (-2)) (withRegs [(1, -1)])).cur.fate = .fault { code := .align, a := -8 } := by decide +kernel
theorem test_jal_links : gives (.jal 2) [] 61 = 4 ∧ (after (.jal 2) base).cur.next = 8 := by decide +kernel
theorem test_jalr_ra : (after (.jalr 0 61 0) (withRegs [(61, 0x40)])).cur.next = 0x40 := by decide +kernel
-- The corner cases of the number formats
theorem test_cvt_l6_negzero : lane0 (.vcvt .f32l6 1 2) [(2, 0x80000000)] 1 = (0x10, fUF) := by decide +kernel
theorem test_cvt_l6_tiny : lane0 (.vcvt .f32l6 1 2) [(2, 0xBD000000)] 1 = (0x10, fUF ||| fNX) := by decide +kernel
theorem test_cvt_l6_three : lane0 (.vcvt .f32l6 1 2) [(2, 0x40400000)] 1 = (0x06, fNX) := by decide +kernel
theorem test_cvt_l6_sixteen : lane0 (.vcvt .f32l6 1 2) [(2, 0x41800000)] 1 = (0x0F, fOF ||| fNX ||| fSA) := by decide +kernel
theorem test_cvt_l8l6 : lane0 (.vcvt .l8l6 1 2) [(2, 0x1D)] 1 = (0x0E, fNX) := by decide +kernel
theorem test_cvt_f64f32 : lane0 (.vcvt .f64f32 1 2) [(2, 0xF0000000), (3, 0x47EFFFFF)] 1 = (0x7F800000, fOF ||| fNX) := by decide +kernel
theorem test_vadd_f32 : lane0 (.vadd .f32 1 2 3) [(2, 0x3F800000), (3, 0x40000000)] 1 = (0x40400000, 0) := by decide +kernel
theorem test_vdiv_zero : lane0 (.vdiv .f32 1 2 3) [(2, 0x3F800000)] 1 = (0x7F800000, fDZ) := by decide +kernel
theorem test_vmulh_signed : lane0 (.vmulh .i32 1 2 3) [(2, 0xFFFFFFFF), (3, 1)] 1 = (0xFFFFFFFF, 0) := by decide +kernel
theorem test_mask_keeps : ((after (.vidx 1) ((withLanes [(1, 9)]).updMe fun k => { k with amask := 2 })).me.vr 1).take 3 = [9, 1, 9] := by decide +kernel
theorem test_vred_sum : ((after (.vred .add .i32 1 2) (withLanes [(2, 1)])).me.vr 1).getD 5 0 = 64 := by decide +kernel
theorem test_vscan_sum : ((after (.vscan .add .i32 1 2) (withLanes [(2, 1)])).me.vr 1).getD 62 0 = 63 := by decide +kernel
theorem test_pfirst : lane0 (.pfirst 1 2) [] 1 = (64, 0) := by decide +kernel
-- R16, R54: a fault without a bound ch63 goes to the host and halts the core
theorem test_trap_halts : let t := after (.trap 5) (withRegs [(5, 7)])
    (t.ctx 0 0).st = .halted ∧ ((t.queue 0).ring ++ (t.queue 0).held).length = 2 := by decide +kernel
-- R17, R33: a step fetches, runs and retires the word placed at PC 0
theorem test_step_addi : let t := stepped (State.reset.withFetchWord 32 0x808A2804)
    (t.ctx 0 0).pc = 4 ∧ t.sreg 0 0 5 = 4 ∧ (t.ctx 0 0).retired = 1 := by decide +kernel
theorem test_step_pair : let t := stepped (State.reset.withFetchWord 32 0x27020001)
    (t.me.vr 1).getD 5 0 = 5 ∧ (t.ctx 0 0).pc = 8 ∧ (t.ctx 0 0).retired = 2 := by decide +kernel
theorem test_step_ill : ((stepped (State.reset.withFetchWord 32 0x9F800000)).cur.fate) =
    .fault { code := .ill, a := 1, d0 := 0x9F800000 } := by decide +kernel
theorem test_step_ld_st : let t := stepped ((State.reset.withFetchWord 32 0x8C821601).updCtx 0 0 fun k => { k with s := [(1, 0x1122334455667788), (2, loc 8)] })
    (t.core 0).byte 16 = 0x88 ∧ (t.core 0).byte 23 = 0x11 ∧ (t.core 0).byte 24 = 0 := by decide +kernel

/-! ## Witnesses: for each statement, states and operands that meet the hypotheses of its clauses -/

/-- Operands of the divisions. -/
def sDiv : State := withRegs [(6, BitVec.intMin 64), (7, -1), (8, 5)]
theorem witness_divisions : sDiv.rs 9 = 0 ∧ (sDiv.rs 6 = BitVec.intMin 64 ∧ sDiv.rs 7 = BitVec.allOnes 64) ∧
    (sDiv.rs 8 ≠ 0 ∧ ¬(sDiv.rs 6 = BitVec.intMin 64 ∧ sDiv.rs 8 = BitVec.allOnes 64)) := by decide +kernel
theorem witness_select : (withRegs [(1, 1)]).rs 1 ≠ 0 ∧ (withRegs [(1, 1)]).rs 2 = 0 := by decide +kernel
/-- Targets at both ends of instruction memory and past them. -/
theorem witness_transfers : let s := withRegs [(1, 0xFFFC), (2, 0x10000), (3, 2), (4, -4)]
    (s.rs 5 = s.rs 6 ∧ s.rs 1 ≠ s.rs 2) ∧ (0 ≤ (s.cur.wpc : Int) + 4 * (0 : BitVec 8).toInt ∧ (s.cur.wpc : Int) + 4 * (0 : BitVec 8).toInt ≤ 0xFFFC) ∧
    ¬(0 ≤ (s.cur.wpc : Int) + 4 * (-1 : BitVec 8).toInt) ∧ (s.cur.wpc : Int) + 4 * (0x3FFF : BitVec 23).toInt = 0xFFFC ∧
    ¬((s.cur.wpc : Int) + 4 * (0x4000 : BitVec 23).toInt ≤ 0xFFFC) ∧
    ((s.rs 1 + BitVec.ofInt 64 (4 * (0 : BitVec 11).toInt)).toNat ≤ 0xFFFC ∧ (s.rs 1).toNat % 4 = 0) ∧ 0xFFFC < (s.rs 2).toNat ∧
    (s.rs 3).toNat % 4 ≠ 0 ∧ 0xFFFC < (s.rs 4).toNat := by decide +kernel
/-- Two helpers, the first free. -/
def sStart : State := coreRegs [(10, 0x40), (11, 7)] fun k => { k with rfu := 3 }
theorem witness_start : (sStart.rs 10).toNat ≤ 0xFFFC ∧ (sStart.rs 10).toNat % 4 = 0 ∧ sStart.me.st ≠ .free ∧
    (1 ≤ 1 ∧ 1 < sStart.myCore.rfu ∧ (sStart.ctx 0 1).st = .free) ∧ (∀ m, m < 1 → ¬(1 ≤ m)) ∧ (sStart.rs 11).toNat % 4 ≠ 0 := by
  refine ⟨by decide +kernel, by decide +kernel, by decide +kernel, by decide +kernel, fun m h => by omega, by decide +kernel⟩
theorem witness_start_none : ((withRegs [(10, 0xFFFC)]).rs 10).toNat ≤ 0xFFFC ∧ ((withRegs [(10, 0xFFFC)]).rs 10).toNat % 4 = 0 ∧
    ∀ n, ¬(1 ≤ n ∧ n < (withRegs [(10, 0xFFFC)]).myCore.rfu ∧ ((withRegs [(10, 0xFFFC)]).ctx 0 n).st = .free) := by
  have h : (withRegs [(10, 0xFFFC)]).myCore.rfu = 1 := by decide +kernel
  refine ⟨by decide +kernel, by decide +kernel, fun n => ?_⟩
  rw [h]; omega
/-- One result of variable latency for s5, outstanding. -/
def oLoad : Outst := { id := 7, kind := .load, dests := [69], size := 1, vals := none, flt := none, pc := 0 }
def sOuts : State := base.updMe fun k => { k with outs := [oLoad], pending := [69] }
/-- A helper whose task is ending, with nothing outstanding. -/
def sEnding : State := onCore fun k => { k with rfu := 2, ctxs := AMap.set k.ctxs 1 { st := .parked, ending := true, task := some (0, 0) }
                                                channels := [(0, { bound := true, depth := 1, slots := [(0, { kind := .msg, taken := true })] })] }
theorem witness_endt : sOuts.me.outstanding ≠ 0 ∧ base.me.outstanding = 0 ∧ (base.ctx 0 1).ending = false ∧
    (sEnding.ctx 0 1).ending = true ∧ (sEnding.ctx 0 1).outs = [] ∧ (sEnding.ctx 0 1).task = some (0, 0) := by decide +kernel
/-- The launch of `base`. -/
theorem witness_csrr : ∃ m, base.launchOf base.cur.core = some m := ⟨_, rfl⟩
theorem witness_csrw : let s := withRegs [(1, 1), (2, 31), (3, 32), (4, 16), (5, 17)]
    (1 ≤ (s.rs 1).toNat ∧ (s.rs 2).toNat ≤ 31 ∧ s.rs 6 = 0 ∧ 31 < (s.rs 3).toNat) ∧ (s.rs 4).toNat ≤ 16 ∧ 16 < (s.rs 5).toNat := by decide +kernel
/-- C0 with all 32 results outstanding. -/
def sFull : State := base.updMe fun k => { k with outs := List.replicate 32 oLoad }
theorem witness_pmrd : let s := withRegs [(1, 63), (2, 64), (3, 4096)]
    ((s.rs 1).toNat < 4096 ∧ bits (s.rs 1) 6 6 < 2 ^ (s.domain (s.domOf s.cur.core)).log2) ∧ s.me.outstanding < 32 ∧ 32 ≤ sFull.me.outstanding ∧
    ¬(bits (s.rs 2) 6 6 < 2 ^ (s.domain (s.domOf s.cur.core)).log2) ∧ ¬((s.rs 3).toNat < 4096) := by decide +kernel
/-- Core 0 under a debugger, with a helper at work. -/
def sDbg : State := onCore fun k => { k with dbg := true, rfu := 2, ctxs := AMap.set k.ctxs 1 { st := .waiting } }
theorem witness_brk : base.myCore.dbg = false ∧ sDbg.myCore.dbg = true ∧ (sDbg.ctx 0 1).st ≠ .free := by decide +kernel
/-- A bound channel of two slots. -/
def chBound : Channel := { bound := true, ring := 0, depth := 2 }
/-- Core 0 with ch63 bound. -/
def sHome : State := onCore fun k => { k with channels := [(63, chBound)] }
theorem witness_fault : (sHome.myCore.frozen = false ∧ (sHome.part 0).down = false ∧ (sHome.myCore.chan 63).bound = true ∧
    (sHome.myCore.chan 63).room = true ∧ (sHome.myCore.chan 63).free = some 0 ∧ sHome.cur.ctx = 0) ∧
    (let s := { sHome with cur := { sHome.cur with ctx := 1 } }; s.cur.ctx ≠ 0) ∧ ¬((base.myCore.chan 63).bound = true) := by decide +kernel
/-- Core 0 frozen by a `BRK` of C0. -/
def sFrozen : State := onCore fun k => { k with frozen := true, brkAt := some (0, 4), handler := [.steal 1 4] }
theorem witness_freeze : (sFrozen.core 0).frozen = true ∧ (base.core 0).frozen = false ∧ ((base.ctx 0 0).st ≠ .free ∧ (base.core 0).handler = []) ∧
    ((sFrozen.core 0).brkAt = some (0, 4) ∧ (sFrozen.ctx 0 0).srep = none) ∧
    (let k := { sFrozen.core 0 with brkAt := none }; k.frozen = true ∧ k.brkAt = none) := by decide +kernel

theorem witness_lanes : base.unboundV (vregs true 2 ++ vregs true 4 ++ vregs true 6) = true ∧ VType.f64.isF = true ∧ VType.f64.divides = true ∧
    VType.i64.isF = false ∧ VType.i64.signed = true ∧ VType.i32.wide = false := by decide +kernel
theorem witness_conversions : base.unboundV (vregs Cvt.f32bf16sr.wideD 1 ++ vregs Cvt.f32bf16sr.wideA 2) = true ∧ isSr .f32bf16sr = true ∧
    isSr .f32f64 = false := by decide +kernel
/-- The second repetition of a body. -/
def sBeat1 : State := base.updMe fun k => { k with srep := some { body := 0, n := 1, idx := 0, beta := 1, nrep := 2 } }
theorem witness_reductions : base.unboundV (vregs false 2 ++ vregs false 1) = true ∧ 0 < sBeat1.beta ∧ ¬0 < base.beta := by decide +kernel
theorem witness_integer_tree : VType.i32.isF = false ∧ (List.replicate 64 (5 : Word)).length = 64 ∧
    ∀ x ∈ List.replicate 64 (5 : Word), x.toNat < 2 ^ tyBits .i32 :=
  ⟨rfl, List.length_replicate, fun x h => by rw [List.eq_of_mem_replicate h]; decide⟩
theorem witness_masks : base.unboundV [1] = true ∧ (5 : BitVec 23) ≠ 0 := by decide +kernel
/-- A read stream of 130 elements in the scratchpad, bound to v2, and a write stream, bound to v3. -/
def stRead : Stream := { write := false, et := 0, base := loc 0, counts := [130], strides := [4], pos := 0, fetched := [] }
def stWrite : Stream := { stRead with write := true }
def sBound : State := base.updMe fun k => { k with streams := [(2, stRead), (3, stWrite)] }
theorem witness_lane_transfers : base.unboundV [1, 2, 3] = true ∧ AMap.find base.src.streams 31 = none ∧
    AMap.find sBound.src.streams 2 = some stRead ∧ 32 ≤ (32 : BitVec 6).toNat ∧ 32 ≤ (63 : BitVec 6).toNat := by decide +kernel

/-- A descriptor of 130 F32 elements at offset 0 of the scratchpad, and one with no elements at offset 64. -/
def sDesc : State := coreRegs [(1, loc 0), (2, loc 64), (3, loc 1), (4, loc 385024)] fun k =>
  ((k.putWord 0 (loc 4096)).putWord 16 (0x0000000400000000 ||| 130)).putWord 64 (loc 4096)
theorem witness_draws : let s := withRegs [(1, loc 4), (2, 1), (3, loc 2), (4, loc 385020)]
    s.unboundV [31] = true ∧ s.src.rtab = none ∧ s.rs 9 = 0 ∧ (s.rs 2 ≠ 0 ∧ (s.rs 1).toNat % 4 = 0 ∧ inScratch s.myCore (s.rs 1) (4 * (s.rs 2).toNat) = true) ∧
    (s.rs 3).toNat % 4 ≠ 0 ∧ inScratch s.myCore (s.rs 4) (4 * (s.rs 2).toNat) = true ∧ inScratch s.myCore (s.rs 4 + 4) (4 * (s.rs 2).toNat) = false := by
  decide +kernel
/-- A table of two words, at its last and past its end. -/
def sTab (n : BitVec 46) : State := base.updMe fun k => { k with rtab := some (loc 0, 2), rord := n }
theorem witness_tabled : (sTab 1).src.rtab = some (loc 0, 2) ∧ (sTab 1).src.rord.toNat < (2 : Word).toNat ∧ (sTab 1).badIn 0 (offOf (loc 0) + 4 * 1) 4 = none ∧
    (2 : Word).toNat ≤ (sTab 2).src.rord.toNat := by decide +kernel
theorem witness_sbind : ((sDesc.rs 1).toNat % 64 = 0 ∧ inScratch sDesc.myCore (sDesc.rs 1) 64 = true ∧ sDesc.badIn 0 (offOf (sDesc.rs 1)) 64 = none) ∧
    readDesc (wordsOf 8 (sDesc.myCore.bytes (offOf (sDesc.rs 1)) 64)) = .ok { stRead with base := loc 4096 } ∧
    readDesc (wordsOf 8 (sDesc.myCore.bytes (offOf (sDesc.rs 2)) 64)) = .error 1 ∧ (sDesc.rs 3).toNat % 64 ≠ 0 ∧
    ((sDesc.rs 4).toNat % 64 = 0 ∧ inScratch sDesc.myCore (sDesc.rs 4) 64 = false) := by decide +kernel
/-- A stream that is at its end. -/
def sAtEnd : State := base.updMe fun k => { k with streams := [(2, { stRead with pos := 130 })] }
theorem witness_srep : (1 ≤ (256 : BitVec 17).toNat ∧ (256 : BitVec 17).toNat ≤ 256) ∧ ¬(257 : BitVec 17).toNat ≤ 256 ∧
    ((2, stRead) ∈ sBound.src.streams ∧ (∀ f ∈ sBound.src.streams, (130 - 0 + 63) / 64 ≤ (f.2.len - f.2.pos + 63) / 64) ∧ 0 < (stRead.len - stRead.pos + 63) / 64) ∧
    (∃ e ∈ sAtEnd.src.streams, (e.2.len - e.2.pos + 63) / 64 = 0) ∧ base.src.streams = [] ∧ AMap.find base.src.streams 2 = none := by decide +kernel
/-- A beat of a global stream, fetched, or with a fault. -/
def stGlobal : Stream := { stRead with base := 0x10000, fetched := [⟨List.replicate 64 9, none⟩] }
def sPop (t : Stream) : State := base.updMe fun k => { k with streams := [(2, t)] }
theorem witness_pop : let s := sPop stGlobal
    s.cur.snap = none ∧ (1 : BitVec 5) ≠ 2 ∧ AMap.find s.me.streams 1 = none ∧ AMap.find s.me.streams 2 = some stGlobal ∧ stGlobal.write = false ∧
    stGlobal.pos < stGlobal.len ∧ (∀ e ∈ stGlobal.beatElems (stGlobal.pos / 64), isLocal (stGlobal.addr e) = false) ∧
    (∃ b, stGlobal.fetched = b :: [] ∧ b.flt = none) ∧ 0 ∈ stGlobal.beatElems 0 ∧ { stGlobal with fetched := [] }.fetched = [] ∧
    { stGlobal with pos := 130 }.len ≤ 130 ∧ stWrite.write = true := by
  refine ⟨by decide +kernel, by decide +kernel, by decide +kernel, by decide +kernel, by decide +kernel, by decide +kernel, by decide +kernel, ⟨_, rfl, rfl⟩,
    by decide +kernel, by decide +kernel, by decide +kernel, by decide +kernel⟩
theorem witness_pop_fault : ∃ b f, { stGlobal with fetched := [⟨[], some { code := .xlate }⟩] }.fetched = b :: [] ∧ b.flt = some f := ⟨_, _, rfl, rfl⟩
theorem witness_push : let s := sPop stWrite
    s.cur.snap = none ∧ AMap.find s.me.streams 1 = none ∧ AMap.find s.me.streams 2 = some stWrite ∧ stWrite.write = true ∧ stWrite.pos < stWrite.len ∧
    stWrite.pos % 64 = 0 ∧ (∀ e ∈ stWrite.beatElems (stWrite.pos / 64), inScratch s.myCore (stWrite.addr e) 4 = true ∧
      s.myCore.marked (offOf (stWrite.addr e)) 4 = none ∧ s.storeEcc s.cur.core (offOf (stWrite.addr e)) 4 = none) ∧
    { stWrite with pos := 192 }.len ≤ 192 := by decide +kernel
theorem witness_beats : AMap.find (sBound.ctx 0 0).streams 2 = some stRead ∧ stRead.write = false ∧ stRead.fetched.length < 4 ∧
    64 * (stRead.pos / 64 + stRead.fetched.length) < stRead.len ∧ AMap.find (sBound.ctx 0 0).streams 3 = some stWrite ∧ stWrite.write = true ∧
    { stRead with pos := 192 }.len ≤ 64 * (192 / 64) := by decide +kernel

/-- Core 0 with accumulator banks: the scratchpad ends at 376,832, the accumulators at 532,480. -/
def sAcc : State := coreRegs [(1, loc 1), (2, loc 376824), (3, loc 0x80000), (4, loc 532472), (5, loc 0x100000), (6, loc 376832), (7, loc 0x103FF8)] fun k => { k with acc := 4 }
theorem witness_local : let s := sAcc; let k := s.myCore
    (s.rs 1).toNat % 8 ≠ 0 ∧ ((s.rs 2).toNat % 8 = 0 ∧ isLocal (s.rs 2) = true ∧ offOf (s.rs 2) + 8 = k.spSize) ∧
    (s.atomsAt 0 0 (.pool (offOf (s.rs 2))) = [] ∧ k.marked (offOf (s.rs 2)) 8 = none ∧ s.badIn 0 (offOf (s.rs 2)) 8 = none ∧ s.storeEcc 0 (offOf (s.rs 2)) 8 = none) ∧
    (accBase ≤ offOf (s.rs 3) ∧ offOf (s.rs 4) + 8 ≤ accBase + k.accSize ∧ k.spSize < offOf (s.rs 3) + 8) ∧
    (ctrBase ≤ offOf (s.rs 5) ∧ offOf (s.rs 7) < ctrBase + 0x4000 ∧ ¬(offOf (s.rs 5) + 8 ≤ accBase + k.accSize)) ∧ Size.w ≠ .d ∧
    (k.spSize < offOf (s.rs 6) + 8 ∧ ¬accBase ≤ offOf (s.rs 6) ∧ ¬ctrBase ≤ offOf (s.rs 6)) := by decide +kernel
/-- A page entry: frame 5, owner core 0, readable and writable. -/
def ent (attr : Nat) : Word := BitVec.ofNat 64 (2 ^ 63 + attr * 2 ^ 60 + 3 * 2 ^ 58 + 5)
/-- Core 0 with page 0 in its buffer and in its domain's table. -/
def sMap (attr : Nat) : State := (coreRegs [(1, 16), (2, 7)] fun k => { k with tlb := [(0, false, ent attr)] }).updDomain 0 fun d => { d with entries := [(0, ent attr)] }
def laneE : LaneEntry := { id := 3, ctx := 0, slice := 0, va := 16, pa := 327696, n := 8, data := 7, versioned := false, recl := false, pc := 0 }
theorem witness_global_load : (16 : Word).toNat % 8 = 0 ∧ isLocal 16 = false ∧ (sMap 0).lookup 16 ⟨true, false⟩ = .ok 327696 0 (ent 0) ∧
    (sMap 1).lookup 16 ⟨true, false⟩ = .ok 327696 1 (ent 1) ∧ (sMap 2).lookup 16 ⟨true, false⟩ = .ok 327696 2 (ent 2) ∧ (sMap 2).cur.fate = .retire ∧
    (sMap 0).atomsAt 0 0 (.phys 327696 false) = [] ∧ (sMap 0).me.outstanding < 32 ∧ (sMap 0).loadBefore 0 0 327696 (sMap 0).uid = false ∧
    (((sMap 0).updCore 0 fun k => { k with lanes := [laneE] }).myCore.view.any fun l => l.pa / 8 == 327696 / 8) = true ∧
    ((sMap 0).myCore.view.any fun l => l.pa / 8 == 327696 / 8) = false ∧ AMap.find (sMap 0).myCore.lbuf (327696 / 64) = none ∧
    AMap.find ((sMap 0).updCore 0 fun k => { k with lbuf := [(5120, List.replicate 64 0)] }).myCore.lbuf (327696 / 64) = some (List.replicate 64 0) ∧
    base.lookup 16 ⟨true, false⟩ = .miss := by decide +kernel
theorem witness_global_load_later : ({ sMap 0 with uid := 9, loads := [⟨4, 0, 0, 16, 327696, 8, 0, none, 0, 0, 0⟩] } : State).loadBefore 0 0 327696 9 = true ∧
    ∃ f, (sMap 3).lookup 16 ⟨true, false⟩ = .flt f := ⟨by decide +kernel, _, rfl⟩
theorem witness_global_store : (sMap 0).lookup 16 ⟨false, true⟩ = .ok 327696 0 (ent 0) ∧ (sMap 0).laneRoom 1 = none ∧
    (sMap 2).lookup 16 ⟨false, true⟩ = .ok 327696 2 (ent 2) ∧ base.lookup 16 ⟨false, true⟩ = .miss ∧ ∃ f, (sMap 3).lookup 16 ⟨false, true⟩ = .flt f :=
  ⟨by decide +kernel, by decide +kernel, by decide +kernel, by decide +kernel, _, rfl⟩
theorem witness_versioned : (sMap 1).lookup 16 ⟨true, false⟩ = .ok 327696 1 (ent 1) ∧ (sMap 1).lookup 16 ⟨false, true⟩ = .ok 327696 1 (ent 1) ∧
    (sMap 1).atomsAt 0 0 (.phys 327696 true) = [] ∧ isLocal (loc 0) = true ∧ (0 : BitVec 2) ≠ 1 ∧ (17 : Word).toNat % 8 ≠ 0 := by decide +kernel
/-- A store of C0 that stands in its lane. -/
def sLane (e : LaneEntry) : State := onCore fun k => { k with lanes := [e] }
theorem witness_fence : base.covered 0 0 .sys ++ base.atPorts 0 0 = [] ∧ base.covered 0 0 .core = [] ∧ (sLane laneE).covered 0 0 .part ≠ [] := by decide +kernel
theorem witness_pool : let s := withRegs [(1, 0x801), (2, 0), (3, 1), (4, 0x8AB), (5, 0x811)]
    ((s.rs 1).toNat / 2 ^ 20 = 0 ∧ 1 ≤ (s.rs 1).toNat % 16 ∧ (s.rs 1).toNat % 16 ≤ 11 ∧ (s.rs 1).toNat / 16 % 256 ≤ 128) ∧ s.poolReason = none ∧
    (∀ e ∈ s.myCore.areas, e.2 ≤ (192 - 4 * 1 - 128) * 2048) ∧ ¬1 ≤ (s.rs 2).toNat % 16 ∧ (s.rs 3).toNat % 16 = s.myCore.rfu ∧ ¬(s.rs 5).toNat / 16 % 256 ≤ 128 ∧
    (sDbg.updCore 0 fun k => k).poolReason ≠ none ∧ ((onCore fun k => { k with clearing := true }).core 0).clearing = true ∧ (base.core 0).clearing = false := by decide +kernel
/-- A context stalled under watermark channel 3 for its limit. -/
def sMarked : State := { base.updMe fun k => { k with st := .stalled, stall := some (.watermark 3 0 (loc 8)), wlim := 1 } with now := 5000000 }
theorem witness_watermark : let s := withRegs [(1, 0), (2, 65536), (3, 8)]
    ((s.rs 1).toNat < 2 ^ 23 ∧ (s.rs 2).toNat % 8 = 0 ∧ (s.rs 1).toNat ≤ (s.rs 2).toNat ∧ (s.rs 2).toNat - (s.rs 1).toNat ≤ 65536 ∧ (s.rs 1).toNat ≤ (s.rs 3).toNat ∧
      (s.rs 3).toNat ≤ (s.rs 2).toNat ∧ (s.rs 2).toNat ≤ s.myCore.spSize) ∧
    (sMarked.ctx 0 0).stall = some (.watermark 3 0 (loc 8)) ∧ 0 + 2 ^ (sMarked.ctx 0 0).wlim.toNat ≤ sMarked.ticks 0 ∧
    ({ sMarked with now := 0 } : State).ticks 0 < 0 + 2 ^ (({ sMarked with now := 0 } : State).ctx 0 0).wlim.toNat := by decide +kernel

/-- A full version store. -/
def sFullStore (e : LaneEntry) : State :=
  (sLane e).updPart 0 fun p => { p with retained := List.replicate (Config.versionStoreMore + 6) (0, 0, 0) }
def laneV : LaneEntry := { laneE with versioned := true }
theorem witness_lane : (sLane laneE |>.core 0).lanes.find? (fun l => l.id == 3) = some laneE ∧ ((sLane laneE).det 0 = false ∧ ((sLane laneE).core 0).laneHead laneE = true ∧
    (sLane laneE).loadBefore 0 laneE.ctx laneE.pa laneE.id = false ∧ laneE.held = none) ∧ laneE.recl = false ∧ laneE.n ≤ 8 ∧
    (sLane laneE).narrowBad laneE.pa laneE.n = false ∧ laneE.versioned = false ∧ { laneE with recl := true }.recl = true := by decide +kernel
theorem witness_room : (sLane laneV).roomFor laneV.pa 8 = true ∧ laneV.versioned = true ∧ laneV.both = false := by
  refine ⟨?_, rfl, rfl⟩
  have h : (sLane laneV).hasRoom laneV.pa = true := decide_eq_true (Nat.zero_le _)
  rw [State.roomFor, h]; rfl
theorem witness_no_room : (sFullStore laneV).hasRoom laneV.pa = false ∧ (sFullStore laneV).roomFor laneV.pa 8 = false := by
  have h : (sFullStore laneV).hasRoom laneV.pa = false := by
    have r : ((sFullStore laneV).part (sliceOf laneV.pa)).retained = List.replicate (Config.versionStoreMore + 6) (0, 0, 0) := rfl
    rw [State.hasRoom, r, List.length_replicate]
    exact decide_eq_false (by omega)
  exact ⟨h, by rw [State.roomFor, h]; rfl⟩
/-- A second entry of the same lane, and a held write. -/
theorem witness_lane_not : ((onCore fun k => { k with lanes := [laneE, { laneE with id := 4 }] }).core 0).laneHead { laneE with id := 4 } = false := by decide +kernel
def laneH : LaneEntry := { laneE with held := some 0 }
def sHeld (n : Nat) : State := { (sLane laneH).updMe fun k => { k with wlim := 1 } with now := n }
theorem witness_held : ((sHeld 0).core 0).lanes.find? (fun l => l.id == 3) = some laneH ∧ laneH.held = some 0 ∧ (sHeld 0).det 0 = false ∧
    ((sHeld 0).core 0).laneHead laneH = true ∧ laneH.ctx ≠ 15 ∧ (sHeld 0).ticks 0 < 0 + 2 ^ ((sHeld 0).ctx 0 laneH.ctx).wlim.toNat ∧
    0 + 2 ^ ((sHeld 5000000).ctx 0 laneH.ctx).wlim.toNat ≤ (sHeld 5000000).ticks 0 ∧ ((sHeld 0).ctx 0 0).st ≠ .free ∧ ((sHeld 0).ctx 0 0).st ≠ .halted ∧
    ((sHeld 0).ctx 0 0).ending = false ∧ ((sHeld 0).ctx 0 0).deferred = none := by decide +kernel
theorem witness_held_room : (sHeld 0).hasRoom laneH.pa = true := decide_eq_true (Nat.zero_le _)
/-- A load at its slice; `want` is an `LDV`'s version, and the word is at version 2 with version 1 retained. -/
def req (attr : BitVec 2) (want : Option (BitVec 16)) : LoadReq := ⟨4, 0, 0, 16, 327696, 8, attr, want, 0, 2, 0⟩
def sLoad (q : LoadReq) (n : Nat) : State :=
  { base.updPart 0 fun p => { p with vers := [(40962, 2)], retained := [(40962, 1, 77)] } with loads := [q], now := n }
theorem witness_load : (sLoad (req 0 none) 0).loads.find? (fun q => q.id == 4) = some (req 0 none) ∧ (sLoad (req 2 none) 0).det 0 = false ∧
    (sLoad (req 0 none) 0).loadBefore 0 0 327696 4 = false ∧ (sLoad (req 2 none) 0).laneBefore 0 0 327696 4 = false ∧ (sLoad (req 0 none) 0).badHbm 327696 8 = none := by
  decide +kernel
theorem witness_ldv : (2 : BitVec 16) = (sLoad (req 1 (some 2)) 0).ver 327696 ∧ ((1 : BitVec 16) - (sLoad (req 1 (some 1)) 0).ver 327696).toNat ≥ 2 ^ 15 ∧
    (((sLoad (req 1 (some 1)) 0).part (sliceOf 327696)).retained.find? fun e => e.1 == 327696 / 8 && e.2.1 == 1) = some (40962, 1, 77) ∧
    (((sLoad (req 1 (some 0)) 0).part (sliceOf 327696)).retained.find? fun e => e.1 == 327696 / 8 && e.2.1 == 0) = none ∧
    (0 < ((3 : BitVec 16) - (sLoad (req 1 (some 3)) 0).ver 327696).toNat ∧ ((3 : BitVec 16) - (sLoad (req 1 (some 3)) 0).ver 327696).toNat < 2 ^ 15) ∧
    0 + 2 ≤ (sLoad (req 1 (some 3)) 5000000).ticks 0 ∧ (sLoad (req 1 (some 3)) 0).ticks 0 < 0 + 2 := by decide +kernel
theorem witness_load_bad : ({ sLoad (req 0 none) 0 with bad := [.hbm 327696] } : State).badHbm 327696 8 = some 327696 ∧
    ({ sLoad (req 0 none) 0 with loads := [{ req 0 none with id := 2 }, req 0 none] } : State).loadBefore 0 0 327696 4 = true := by decide +kernel
/-- A result that has returned a value, one that has returned a failure, and one for s0. -/
def sBack (o : Outst) : State := base.updMe fun k => { k with outs := [o] }
def oVal : Outst := { oLoad with vals := some [5] }
def oFlt : Outst := { oLoad with flt := some { code := .ecc } }
theorem witness_results : (sBack oLoad).findOut 7 = some (0, 0, oLoad) ∧ (sBack oVal).findOut 7 = some (0, 0, oVal) ∧ (sBack oFlt).findOut 7 = some (0, 0, oFlt) ∧
    oVal.dests = [64 + 5] ∧ oVal.vals = some [5] ∧ ((sBack oVal).ctx 0 0).st ≠ .free ∧ ((sBack oVal).ctx 0 0).st ≠ .halted ∧ ((sBack oVal).ctx 0 0).ending = false ∧
    (sBack { oVal with dests := [64] }).findOut 7 = some (0, 0, { oVal with dests := [64] }) ∧ ((sBack oFlt).ctx 0 0).deferred = none := by decide +kernel
theorem witness_results_kind : ∀ e p, oLoad.kind ≠ .pm e p := fun _ _ h => by cases h
theorem witness_deferred : let s := base.updMe fun k => { k with deferred := some ⟨{ code := .ecc }⟩ }
    (s.ctx 0 0).deferred = some ⟨{ code := .ecc }⟩ ∧ (s.core 0).frozen = false := by decide +kernel
/-- Global, local and pool names, and the control words of one word and of a bad length. -/
def sCopy : State := withRegs [(1, 0x10000), (2, loc 8), (3, 8), (4, 0x20000), (5, 4), (6, loc (64 * 2 ^ 40))]
theorem witness_copy : (ctlBad (sCopy.rs 3) = false ∧ poolNameBad (sCopy.rs 1) = false ∧ poolNameBad (sCopy.rs 2) = false) ∧ (sCopy.rs 1).toNat % 8 = 0 ∧
    (sCopy.rs 2).toNat % 8 = 0 ∧ sCopy.inRange 0 (sCopy.rel 0) = true ∧ sCopy.rel 0 < 4096 ∧ isLocal (sCopy.rs 1) = false ∧ isLocal (sCopy.rs 2) = true ∧
    isLocal (sCopy.rs 4) = false ∧ sCopy.rs 1 ≠ sCopy.rs 4 ∧ poolCore (sCopy.rs 2) / 64 = poolCore (sCopy.rs 2) / 64 ∧ sCopy.inRange 0 (poolCore (sCopy.rs 2)) = true ∧
    poolCore (sCopy.rs 2) / 64 ≠ poolCore (sCopy.rs 6) / 64 ∧ poolNameBad (sCopy.rs 6) = false ∧ ctlBad (sCopy.rs 5) = true := by decide +kernel
theorem witness_ccnt : sCopy.ccntOk = .ok () := rfl
/-- Core 0 in a group with a mesh of two members. -/
def lGroup : Launch := { q := 0, id := 0, image := 0, det := false, quantum := 16384, args := 0, lcount := 48, phase := .running,
                         groups := [(1, { members := [0, 1], meshW := 2, meshH := 1 }), (2, { members := [0], meshW := 1, meshH := 1 })] }
def sGroup (l : List (Nat × Word)) : State := (withRegs l).updDomain 0 fun d => { d with launch := some lGroup }
/-- A block of one row of eight bytes with a pitch of 24, at offset 8, in group 1 or 2. -/
def wBlock (g : Nat) : Word := BitVec.ofNat 64 (g * 2 ^ 52 + 8 * 2 ^ 20 + 24)
def sHalo : State := sGroup [(1, 8), (2, wBlock 1), (3, 8)]
theorem witness_halo : bits (sHalo.rs 3) 16 40 = 0 ∧ bits (sHalo.rs 3) 62 2 = 0 ∧ (sHalo.rs 1).toNat < 2 ^ 20 ∧ bits (wBlock 1) 60 4 = 0 ∧
    (readBlock (wBlock 1)).bad 8 = false ∧ (sHalo.rs 1).toNat % 8 = 0 ∧ sHalo.isMember 0 1 = true ∧ (sHalo.group 0 1).meshW ≠ 0 ∧ (sHalo.group 0 1).meshH ≠ 0 ∧
    (sHalo.rs 1).toNat + 0 * 24 + 8 ≤ sHalo.myCore.spSize ∧ sHalo.inRange 0 (sHalo.rel 0) = true := by decide +kernel
/-- A packet that may be delivered. -/
def pk (dst : Nat) (b : Body) : Packet := { id := 9, src := 1, srcCtx := 15, dst := dst, body := b, waits := [], scope := .part, released := true }
/-- A HALO request of core 0 in a state. -/
def pHalo (g : Nat) : Packet := { pk (agent 0 1) (.request (header 0 0 0 0 0x41 4 0) [loc 8, wBlock g, 8, 0]) with src := 0 }
def jHalo (g : Nat) : CopyJob := { id := 9, kind := 0x41, core := 0, ctx := 15, hdr := header 0 0 0 0 0x41 4 0, cnt := 0, src := loc 8, dst := wBlock g, tile := false, wm := none }
theorem witness_halo_request : let s := { sHalo with net := [pHalo 1] }; let r := { sHalo with net := [pHalo 2] }
    s.deliverable 9 = some (pHalo 1) ∧ hKind (header 0 0 0 0 0x41 4 0) = 0x41 ∧ (s.sink (pHalo 1)).haloBad (jHalo 1) (readBlock (wBlock 1)) (wBlock 1) 8 = none ∧
    (s.sink (pHalo 1)).haloPieces (jHalo 1) (readBlock (wBlock 1)) 8 ≠ [] ∧ (r.sink (pHalo 2)).haloBad (jHalo 2) (readBlock (wBlock 2)) (wBlock 2) 8 = none ∧
    (r.sink (pHalo 2)).haloPieces (jHalo 2) (readBlock (wBlock 2)) 8 = [] := by decide +kernel
/-- A copy of one word from global memory to core 0's pool, its request and its run. -/
def jGet : CopyJob := { id := 9, kind := 0x20, core := 0, ctx := 15, hdr := header 0 0 0 0 0x20 4 0, cnt := 0, src := 0, dst := loc 8, tile := false, wm := none }
def pGet : Packet := { pk (agent 0 0) (.request jGet.hdr [0, loc 8, 8, 0]) with src := 0 }
theorem witness_get : let s := { sMap 0 with net := [pGet] }
    s.deliverable 9 = some pGet ∧ (s.sink pGet).copyBad jGet 8 = none ∧ hKind jGet.hdr = 0x20 ∧ jGet.tile = false := by decide +kernel
def pieceG : Piece := { src := 0, dst := loc 8, len := 8 }
def sBeat (p : Piece) : State := { sMap 0 with jobs := [{ jGet with pieces := [p] }] }
theorem witness_beat : let s := sBeat pieceG; let q : Piece := { src := loc 8, dst := 16, len := 8 }
    isLocal q.src = true ∧ s.badIn (s.phys 0 (poolCore q.src)) (bits q.src 0 20) 8 = none ∧ s.copyXlate 0 pieceG.src ⟨true, false⟩ = .ok (327680, false) ∧
    s.badHbm 327680 8 = none ∧ isLocal pieceG.dst = true ∧ s.storeEcc (s.phys 0 (poolCore pieceG.dst)) 8 8 = none ∧
    s.copyXlate 0 q.dst ⟨false, true⟩ = .ok (327696, false) ∧ s.narrowBad 327696 8 = false ∧ s.det 0 = false := by decide +kernel
theorem witness_beat_ends : let s := sBeat pieceG; let j := { jGet with pieces := [pieceG] }
    (s.jobs.find? (fun k => k.id == j.id) = some j ∧ j.pieces = [pieceG] ∧ pieceG.dst.toNat % 8 = 0 ∧ pieceG.halo = none ∧ j.held = none ∧ j.page = none ∧ j.snap = [] ∧
      (s.core 0).clearing = false) ∧ s.copyRead j pieceG.src 8 = .ok (List.replicate 8 0) ∧ ∃ u, s.copyWrite j pieceG.dst (List.replicate 8 0) = .ok u ∧ u.copyHeld j = false := by
  exact ⟨by decide +kernel, by decide +kernel, _, rfl, by decide +kernel⟩
theorem witness_beat_held : ((sBeat pieceG).updCore 0 fun k => { k with lanes := [{ laneE with ctx := 15, pc := 9 }] }).copyHeld { jGet with pieces := [pieceG] } = true := by decide +kernel

/-- A header from core 0, channel 5, to channel 4 of a core. -/
def hd (dest kind words : Nat) : Word := header dest 4 0 5 kind words 7
/-- Core 0 with a channel of two slots bound as its channel 5. -/
def sSend (h : Word) : State := coreRegs [(1, h), (2, loc 8), (3, loc 4)] fun k => { k with channels := [(5, { bound := true, ring := 128, depth := 2 })] }
theorem witness_send : let s := sSend (hd 1 0 7); let ch := s.myCore.chan 5
    (s.inRange 0 1 = true ∧ hKind (hd 1 0 7) = 0 ∧ hWords (hd 1 0 7) = 7 ∧ hDest (hd 1 0 7) = 1 ∧ (s.rs 2).toNat % 8 = 0 ∧ inScratch s.myCore (s.rs 2) (8 * 7) = true ∧
      s.myCore.marked (offOf (s.rs 2)) (8 * 7) = none ∧ s.badIn 0 (offOf (s.rs 2)) (8 * 7) = none ∧ hRcore (hd 1 0 7) = s.rel 0) ∧
    ch.used < ch.depth ∧ s.myCore.awaiting < s.myCore.window ∧ (onCore fun k => { k with awaiting := 32 }).myCore.window ≤ 32 ∧
    { ch with reserved := 2 }.depth ≤ { ch with reserved := 2 }.used := by decide +kernel
theorem witness_send_other : let s := sSend (hd 0 0x3F 4); let p := { s with cur := { s.cur with core := 48 } }
    (hDest (hd 0 0x3F 4) % 64 = 0 ∧ hKind (hd 0 0x3F 4) = 0x3F ∧ hWords (hd 0 0x20 4) = 4 ∧ hKind (hd 0 0x40 4) = 0x40 ∧ hKind (hd 0 0x5F 4) = 0x5F ∧ s.inRange 0 (hRcore (hd 0 0x3F 4)) = true) ∧
    (p.cur.core % 64 = 48 ∧ hDest (hd 48 0x60 4) = p.rel 48 ∧ hKind (hd 48 0x60 4) = 0x60 ∧ hKind (hd 48 0x6F 4) = 0x6F) ∧ s.inRange 0 (hDest (hd 64 0 1)) = false ∧
    hKind (hd 0 1 1) = 1 ∧ hKind (hd 0 0x70 1) = 0x70 ∧ hWords (hd 1 0 8) = 8 ∧ hRcore (header 1 4 2 5 0 1 7) ≠ s.rel 0 := by decide +kernel
/-- A message of one word on its way to core 1, whose channel 4 is as given. -/
def pMsg : Packet := pk 1 (.words (hd 1 0 1) [9])
def sMsg (p : Packet) (ch : Channel) : State := { base.updCore 1 fun k => { k with channels := [(4, ch)], awaiting := 1 } with net := [p] }
theorem witness_message : let s := sMsg pMsg chBound; let ch := (s.core 1).chan 4
    s.arrivingWords 9 = some (pMsg, hd 1 0 1, [9]) ∧ hKind (hd 1 0 1) = 0 ∧ pMsg.dst < 4096 ∧ pMsg.dst % 64 ≠ 63 ∧ isEnvelope pMsg (hd 1 0 1) = false ∧
    portOf pMsg.src = none ∧ s.absent 1 = false ∧ ch.bound = true ∧ ch.used < ch.depth ∧ ch.free = some 0 ∧ ((sMsg pMsg {}).core 1).chan 4 = {} ∧
    { ch with reserved := 2 }.depth ≤ { ch with reserved := 2 }.used ∧ s.absent 51 = true := by decide +kernel
/-- A reply or refusal on its way to core 1, which holds a slot for it. -/
def pRep (kind : Nat) : Packet := pk 1 (.words (header 1 4 0 5 kind 1 7) [9])
theorem witness_reply_arrives : let s := sMsg (pRep 1) { chBound with reserved := 1 }; let ch := (s.core 1).chan 4
    s.arrivingWords 9 = some (pRep 1, header 1 4 0 5 1 1 7, [9]) ∧ ch.free = some 0 ∧ 1 ≤ ch.reserved ∧ 1 ≤ (s.core 1).awaiting ∧ hKind (header 1 4 0 5 1 1 7) = 1 ∧
    hKind (header 1 4 0 5 8 1 7) = 8 ∧ hKind (header 1 4 0 5 2 1 7) = 2 ∧ hKind (header 1 4 0 5 13 1 7) = 13 ∧ hKind (header 1 4 0 5 14 1 7) = 14 ∧
    hKind (header 1 4 0 5 15 1 7) = 15 ∧ ({ base with net := [pk 1 (.refusedAtom 0 7 0)] } : State).arriving 9 = some (pk 1 (.refusedAtom 0 7 0)) := by decide +kernel
/-- Core 0 with an unanswered message in slot 0 of channel 4. -/
def slotM : Slot := { kind := .msg }
def sReply (e : Slot) : State := coreRegs [(1, loc 64), (2, 7), (3, loc 8), (4, loc 4096)] fun k => { k.putWord 64 (hd 0 0 1) with channels := [(4, { chBound with ring := 64, slots := [(0, e)] })] }
theorem witness_reply : let s := sReply slotM
    (s.rs 1).toNat % 64 = 0 ∧ isLocal (s.rs 1) = true ∧ s.myCore.slotAt (offOf (s.rs 1)) = some (4, 0, slotM) ∧ slotM.kind = .msg ∧ slotM.answered = false ∧ slotM.port = none ∧
    s.myCore.marked (offOf (s.rs 1)) 8 = none ∧ s.badIn 0 (offOf (s.rs 1)) 8 = none ∧ s.inRange 0 (hRcore (s.myCore.word (offOf (s.rs 1)))) = true ∧ s.rel 0 < 4096 ∧
    (s.rs 3).toNat % 64 ≠ 0 ∧ s.myCore.slotAt (offOf (s.rs 4)) = none ∧
    (sReply { slotM with answered := true }).myCore.slotAt 64 = some (4, 0, { slotM with answered := true }) := by decide +kernel
/-- A TAGGED message for core 1, and a posted receive that takes it. -/
def pTag : Packet := pk 1 (.words (hd 1 3 1) [9])
def post0 : Posted := ⟨128, 5, true, true, 0, 0⟩
def sTag (ps : List Posted) (o : List Packet) : State := { base.updCore 1 fun k => { k with posted := ps, overflow := o } with net := [pTag] }
theorem witness_tagged : (sTag [post0] []).arrivingWords 9 = some (pTag, hd 1 3 1, [9]) ∧ hKind (hd 1 3 1) = 3 ∧ isEnvelope pTag (hd 1 3 1) = false ∧
    hWords (hd 1 3 1) = 1 ∧ (sTag [post0] []).absent 1 = false ∧ ((sTag [post0] []).core 1).posted.find? (fun r => r.takes 1 7) = some post0 ∧
    ((sTag [post0] []).cell 1 5).armed = false ∧ ((sTag [post0] []).cell 1 5).value ≠ BitVec.allOnes 64 ∧ ((sTag [] []).core 1).posted.find? (fun r => r.takes 1 7) = none ∧
    ((sTag [] (List.replicate 31 pTag)).core 1).overflow.length < 32 ∧ 32 ≤ ((sTag [] (List.replicate 32 pTag)).core 1).overflow.length := by decide +kernel
/-- Core 0 posts a receive for any sender and tag, counter 5. -/
def sRecv (o : List Packet) : State := coreRegs [(1, loc 128), (2, BitVec.ofNat 64 (5 * 2 ^ 32 + 3 * 2 ^ 30)), (3, loc 8), (4, loc 385024), (5, BitVec.ofNat 64 (2044 * 2 ^ 32))] fun k =>
  { k with overflow := o }
theorem witness_recvp : let s := sRecv [pTag]; let w := s.rs 2
    (bits w 43 21 = 0 ∧ bits w 28 2 = 0 ∧ bits w 32 11 ≤ 2043) ∧ (s.rs 1).toNat % 64 = 0 ∧ inScratch s.myCore (s.rs 1) 64 = true ∧ s.myCore.posted.length < 64 ∧
    (⟨128, 5, true, true, 0, 0⟩ : Posted).takes (s.sender pTag (hd 1 3 1)) 7 = true ∧ portOf pTag.src = none ∧ (s.cell 0 5).armed = false ∧ (sRecv []).myCore.overflow = [] ∧
    64 ≤ (List.replicate 64 post0).length ∧ ¬bits (s.rs 5) 32 11 ≤ 2043 ∧ (s.rs 3).toNat % 64 ≠ 0 ∧ (s.rs 4).toNat % 64 = 0 ∧ inScratch s.myCore (s.rs 4) 64 = false := by decide +kernel
def pFlt : Packet := pk 1 (.fault 4 (List.replicate 8 0) false)
def pRel : Packet := pk 1 (.release 4 none)
def hRep : Word := header 63 60 0 5 0 1 7
def pRep60 : Packet := pk 63 (.words hRep [9])
theorem witness_records : (sMsg pFlt chBound).arriving 9 = some pFlt ∧ ((sMsg pFlt chBound).core 1).frozen = false ∧ ((sMsg pFlt chBound).part 0).down = false ∧
    (sMsg pRel { chBound with reserved := 1 }).arriving 9 = some pRel ∧ 1 ≤ (((sMsg pRel { chBound with reserved := 1 }).core 1).chan 4).reserved ∧
    (sMsg pRep60 {}).arrivingWords 9 = some (pRep60, hRep, [9]) ∧ isReport pRep60 hRep = true ∧ (({ sMsg pRep60 {} with queues := [(0, { sizes := 0x80000 })] } : State).queue 0).ring.length < 8 ∧
    (({ sMsg pRep60 {} with queues := [(0, { sizes := 0x80000 })] } : State).queue 0).cap = 8 ∧ ¬((sMsg pRep60 {}).queue 0).ring.length < ((sMsg pRep60 {}).queue 0).cap ∧
    isReport (pk 63 (.words (header 63 4 0 5 0 1 7) [9])) (header 63 4 0 5 0 1 7) = false := by decide +kernel
theorem witness_report_launch : ∃ l, (sMsg pRep60 {}).launchOf 63 = some l := ⟨_, rfl⟩
/-- Atomics on aligned and misaligned words of each window. -/
def sAtom : State := (sMap 0).updMe fun k => { k with s := [(1, loc 8), (2, loc 4), (3, loc 385024), (4, loc 0x100000), (5, loc 0x80000), (6, 16)] }
theorem witness_atoms : let s := sAtom
    (0, Instr.atomAdd 1 2 3) ∈ [(0, Instr.atomAdd 1 2 3), (10, .atomFmax32 1 2 3)] ∧ (s.rs 2).toNat % 8 ≠ 0 ∧ (s.rs 2).toNat % 4 = 0 ∧ isLocal (s.rs 1) = true ∧
    ¬(ctrBase ≤ offOf (s.rs 1)) ∧ ¬accBase ≤ offOf (s.rs 1) ∧ offOf (s.rs 1) + 8 ≤ s.myCore.spSize ∧ s.myCore.awaiting < s.myCore.window ∧ s.me.outstanding < 32 ∧
    32 ≤ sFull.me.outstanding ∧ s.myCore.spSize < offOf (s.rs 3) + 8 ∧ ¬accBase ≤ offOf (s.rs 3) ∧ (ctrBase ≤ offOf (s.rs 4) ∧ offOf (s.rs 4) < ctrBase + 0x4000) ∧
    (accBase ≤ offOf (s.rs 5) ∧ offOf (s.rs 5) < 0xC0000) ∧ s.lookup (s.rs 6) ⟨true, true⟩ = .ok 327696 0 (ent 0) := by decide +kernel
/-- Handlers with a request at their head. -/
def sHand (r : HReq) : State := onCore fun k => { k with handler := [r] }
def pAtom : Packet := pk 1 (.atom 0 (.pool 8) 8 1 0 0 7)
theorem witness_handlers : let s : State := { base with net := [pAtom] }
    s.arriving 9 = some pAtom ∧ (s.core 1).handler.length < 64 ∧ (s.core 1).frozen = false ∧ 64 ≤ (List.replicate 64 (HReq.steal 0 0)).length ∧
    ((sHand (.atom 1 0 (.pool 8) 8 1 0 0 7)).core 0).handler = [.atom 1 0 (.pool 8) 8 1 0 0 7] ∧ (sHand (.atom 1 0 (.pool 8) 8 1 0 0 7)).badIn 0 8 8 = none ∧
    (sHand (.atom 1 0 (.phys 16 false) 8 1 0 0 7)).badHbm 16 8 = none ∧ (sHand (.atom 1 0 (.phys 16 false) 8 1 0 0 7)).laneBefore 1 0 16 7 = false ∧
    ({ base with net := [pk 0 (.atomr 0 7 5 none)] } : State).arriving 9 = some (pk 0 (.atomr 0 7 5 none)) ∧ ((sHand (.merge (.pool 8) 1 7 0)).core 0).handler = [.merge (.pool 8) 1 7 0] ∧
    ((onCore fun k => { k with frozen := true, handler := [.steal 0 0] }).core 0).frozen = true := by decide +kernel
theorem witness_rdrem : let s := (sSend (hd 1 7 0)).updMe fun k => { k with s := AMap.set k.s 4 56 }
    (s.inRange 0 (hDest (hd 1 7 0)) = true ∧ hRcore (hd 1 7 0) = s.rel 0) ∧ (s.rs 2).toNat % 8 = 0 ∧ ((s.rs 4).toNat % 8 = 0 ∧ 8 ≤ (s.rs 4).toNat ∧ (s.rs 4).toNat ≤ 56) ∧
    (s.myCore.chan (hRchan (hd 1 7 0))).used < (s.myCore.chan (hRchan (hd 1 7 0))).depth ∧ s.myCore.awaiting < s.myCore.window ∧ ¬8 ≤ (s.rs 9).toNat ∧ (s.rs 3).toNat % 8 ≠ 0 ∧
    ({ base with net := [pk 1 (.rdreq 0 8 8)] } : State).arriving 9 = some (pk 1 (.rdreq 0 8 8)) ∧ base.absent 1 = false ∧
    ((sHand (.rdreq 1 0 385016 8)).core 0).handler = [.rdreq 1 0 385016 8] ∧ 385016 + 8 ≤ ((sHand (.rdreq 1 0 385016 8)).core 0).spSize ∧
    ((sHand (.rdreq 1 0 385024 8)).core 0).spSize < 385024 + 8 := by decide +kernel

/-- Core 0 with counter 5, a ready ring at channel 4 and registers naming counters. -/
def sCtr (v : Cell) (ch : Channel) : State := coreRegs [(1, loc (0x100000 + 40)), (2, 1), (3, 0x4000000000100005), (4, loc 8), (5, loc 32), (6, loc 4)] fun k =>
  { (k.put 36 [4, 0]) with counters := [(5, v)], channels := [(4, ch)] }
/-- Armed for 3 with the descriptor at offset 32. -/
def cellA (v : Word) : Cell := { value := v, target := 3, armed := true, desc := 32 }
theorem witness_adds : let s := sCtr (cellA 2) chBound
    s.counterName 0 (s.rs 1) = .ok (.loc 5) ∧ s.covered 0 0 .core = [] ∧ s.counterName 0 (s.rs 3) = .ok (.far 1 5) ∧ s.rs 9 = 0 ∧ s.rs 2 ≠ 0 ∧
    (1 : Word).toNat + 1 < (s.cell 0 5).target.toNat ∧ (s.cell 0 5).armed = true ∧ (s.cell 0 5).fired = false ∧ (s.cell 0 5).value.toNat + (s.rs 2).toNat = (s.cell 0 5).target.toNat ∧
    s.myCore.ringOf (s.cell 0 5).desc.toNat = some 4 ∧ (s.myCore.chan 4).used < (s.myCore.chan 4).depth ∧ (s.myCore.chan 4).free = some 0 ∧
    { chBound with reserved := 2 }.depth ≤ { chBound with reserved := 2 }.used ∧ (cellA 3).target.toNat < (cellA 3).value.toNat + 1 ∧
    2 ^ 64 ≤ (BitVec.allOnes 64).toNat + 1 := by decide +kernel
theorem witness_adds_error : ∃ f, (sCtr {} chBound).counterName 0 ((sCtr {} chBound).rs 4) = .error f := ⟨_, rfl⟩
def pCadd : Packet := pk 1 (.cadd 5 1 0 0 0)
theorem witness_caddm : ({ base with net := [pCadd] } : State).deliverable 9 = some pCadd ∧ pCadd.dst < 4096 ∧ pCadd.dst % 64 ≠ 63 ∧ base.absent 1 = false := by decide +kernel
theorem witness_counter : let s := sCtr (cellA 2) chBound; let w := s.rs 5
    s.localCounter 0 (s.rs 1) = .ok 5 ∧ s.rs 9 = 0 ∧ (w ≠ 0 ∧ w.toNat % 32 = 0 ∧ inScratch s.myCore w 32 = true ∧ 5 < 2044) ∧ (cellA 2).value.toNat < (3 : Word).toNat ∧
    (cellA 3).value = 3 ∧ s.myCore.ringOf (BitVec.ofNat 23 (offOf w)).toNat = some 4 ∧ (3 : Word).toNat < (cellA 4).value.toNat ∧ (s.rs 6).toNat % 32 ≠ 0 ∧
    s.localCounter 0 (loc (0x100000 + 8 * 2044)) = .ok 2044 ∧ (s.cell 0 5).pend = false := by decide +kernel
theorem witness_counter_error : ∃ f, (sCtr {} chBound).localCounter 0 ((sCtr {} chBound).rs 3) = .error f := ⟨_, rfl⟩
theorem witness_pending : let s := sCtr { cellA 3 with pend := true } chBound; let k := s.core 0
    (s.cell 0 5).pend = true ∧ k.ringOf (s.cell 0 5).desc.toNat = some 4 ∧ (k.chan 4).used < (k.chan 4).depth ∧ (k.chan 4).free = some 0 ∧
    (∀ e ∈ k.counters, e.1 < 5 → e.2.pend = true → k.ringOf e.2.desc.toNat ≠ some 4) ∧
    ({ base with net := [pk 1 (.faultSet 5)] } : State).deliverable 9 = some (pk 1 (.faultSet 5)) := by decide +kernel
theorem witness_cwait : let s := sCtr (cellA 2) chBound
    s.localCounter 0 (s.rs 1) = .ok 5 ∧ { cellA 2 with fault := true, cause := 0x0A }.fault = true ∧ (s.cell 0 5).fault = false ∧ (s.rs 2).toNat ≤ (s.cell 0 5).value.toNat ∧
    (s.cell 0 5).value.toNat < (s.rs 5).toNat ∧ s.cur.again = false := by decide +kernel
/-- A polled channel 4 with one message, and C0 holding a slot of channel 6. -/
def sPoll (held : Option (Nat × Nat)) (sl : AMap Slot) : State :=
  (coreRegs [(1, 4), (2, 61)] fun k => { k with channels := [(4, { chBound with handler := 0xFFFFFFFF, slots := sl })] }).updMe fun k => { k with heldQ := held }
theorem witness_qwait : let s := sPoll none [(0, slotM)]; let h := bits (s.rs 1) 0 6; let ch := s.myCore.chan h
    h ≠ 61 ∧ ch.handler = 0xFFFFFFFF ∧ s.me.heldQ = none ∧ ch.first (fun _ => true) = some 0 ∧ (sPoll (some (6, 0)) [(0, slotM)]).me.heldQ = some (6, 0) ∧ (6 : Nat) ≠ h ∧
    ((sPoll none []).myCore.chan 4).first (fun _ => true) = none ∧ bits (s.rs 2) 0 6 = 61 ∧ (s.myCore.chan 7).handler ≠ 0xFFFFFFFF := by decide +kernel
/-- C0 at the limit of a wait. -/
def sWait (i : Instr) (n : Nat) : State := { (sCtr (cellA 2) chBound).updMe fun k => { k with st := .waiting, wait := some { instr := i, start := 0, limit := 2 } } with now := n }
theorem witness_expiry : (sWait (.cwait 1 5 1) 0).expired 0 0 = none ∧
    (sWait (.cwait 1 5 1) 5000000).expired 0 0 = some { instr := .cwait 1 5 1, start := 0, limit := 2 } ∧
    (sWait (.cwait 1 5 1) 5000000).localCounter 0 (((sWait (.cwait 1 5 1) 5000000).asIf 0 0).rs 1) = .ok 5 ∧
    (sWait (.qwait 1 2 1) 5000000).expired 0 0 = some { instr := .qwait 1 2 1, start := 0, limit := 2 } := by decide +kernel

/-- Registers that name channel 4 and hold a ring word: depth 2 at offset 128, priority 0. -/
def sBind (ch : Channel) : State := coreRegs [(1, 4), (2, 0x40), (3, 0x01000080), (4, 0x01000000 + 385024), (5, 1), (6, 2), (7, 3), (8, 0x41), (10, 0x00800000), (11, 4)] fun k =>
  { k with channels := [(4, ch)] }
theorem witness_chbind : let s := sBind {}; let h := bits (s.rs 1) 0 6; let v := s.rs 3; let bad := s.rs 4
    h = 4 ∧ v.toNat / 2 ^ 36 = 0 ∧ v.toNat / 2 ^ 23 % 2 = 0 ∧ ((s.rs 2).toNat ≤ 0xFFFC ∧ (s.rs 2).toNat % 4 = 0) ∧ v.toNat % 2 ^ 23 % 64 = 0 ∧
    v.toNat % 2 ^ 23 + 64 * (v.toNat / 2 ^ 24 % 256 + 1) ≤ s.myCore.spSize ∧ ({} : Channel).used = 0 ∧ { chBound with reserved := 1 }.used ≠ 0 ∧
    bad.toNat % 2 ^ 23 % 64 = 0 ∧ s.myCore.spSize < bad.toNat % 2 ^ 23 + 64 * (bad.toNat / 2 ^ 24 % 256 + 1) ∧ bits 61 0 6 = 61 ∧ s.rs 2 ≠ 0xFFFFFFFF ∧
    (s.rs 10).toNat / 2 ^ 23 % 2 ≠ 0 := by decide +kernel
theorem witness_chset : let s := sBind {}
    s.rs 0 = 0 ∧ (s.rs 5).toNat ≤ 1 ∧ s.rs 5 = 1 ∧ s.rs 6 = 2 ∧ (s.rs 7).toNat ≤ 7 ∧ s.rs 7 = 3 ∧ 3 < (s.rs 11).toNat ∧ 2 < (s.rs 7).toNat ∧ bits (s.rs 1) 0 6 = 4 := by
  decide +kernel
/-- Core 0 contributes to group 1 under counter 5 of its own. -/
def wSend : Word := BitVec.ofNat 64 (5 * 2 ^ 8 + 1)
def sContrib : State := (sGroup [(1, wSend), (2, 7), (3, loc 8)]).updCore 0 fun k =>
  { k.setCtx 0 { k.ctx 0 with ccnt := loc (0x100000 + 40) } with channels := [(5, { bound := true, ring := 128, depth := 2 })] }
theorem witness_rdsend : let s := sContrib; let w := s.rs 1; let x := s.rs 3; let ch := s.myCore.chan (bits w 8 6)
    bits w 19 13 = 0 ∧ bits w 14 2 = 0 ∧ bits w 16 3 ≠ 7 ∧ s.isMember 0 (bits w 0 8) = true ∧ x.toNat % 8 = 0 ∧ inScratch s.myCore x 8 = true ∧
    s.src.ccnt ≠ 0 ∧ ch.used < ch.depth ∧ s.myCore.awaiting < s.myCore.window ∧ s.cur.again = false := by decide +kernel
theorem witness_rdsend_ccnt : sContrib.ccntOk = .ok () := rfl
def wRd : Wait := { instr := .rdsend 1 2 3, start := 0, limit := 2, ids := [9] }
theorem witness_rdsend_again : let s := (sContrib.updMe fun k => { k with wait := some { wRd with arrived := true } }); let t := { s with cur := { s.cur with again := true } }
    t.cur.again = true ∧ t.me.wait = some { wRd with arrived := true } := by decide +kernel
/-- A contribution of core 1 to group 1 at the gateway of partition 0, whose use is as given. -/
def pCon : Packet := pk 50 (.contrib 1 0 0 5 1 7 8 0 15)
def sGate (G : Gate) (ps : List Packet) : State := { sContrib.updGate 0 1 fun _ => G with net := ps }
theorem witness_contrib : let s := sGate {} [pCon]; let u := sGate { inflight := 1, use := 2 } [pCon]
    s.arriving 9 = some pCon ∧ (s.gate 0 1).inflight = 0 ∧ 1 < ((s.group (gateCore 0) 1).members.filter fun r => s.phys (gateCore 0) r / 512 == 0 / 8).length ∧
    u.arriving 9 = some pCon ∧ (u.gate 0 1).inflight ≠ 0 ∧ (u.gate 0 1).use ≠ 1 ∧ ((sGate { waiting := [pCon] } []).gate 0 1).waiting = [pCon] ∧
    ((sGate { waiting := [pCon] } []).gate 0 1).inflight = 0 := by decide +kernel
def pDie (die : Nat) : Packet := pk 50 (.diePart 1 0 0 1 die 9 [{ core := 1, ctx := 15, value := 7, result := 8, cnt := 0, rchan := 5 }] none)
theorem witness_die : let s := sGate {} [pDie 0]; let u := sGate {} [pDie 3]
    s.arriving 9 = some (pDie 0) ∧ (s.gate 0 1).allBad = none ∧ (s.gate 0 1).parts = [] ∧ (s.gate 0 1).all = [] ∧ memberDies s 0 1 = [0] ∧ 1 ≠ gateCore 0 ∧
    u.arriving 9 = some (pDie 3) ∧ memberDies u 0 1 = [0] := by decide +kernel
theorem witness_rdsend_expiry : let s := { sContrib.updMe fun k => { k with st := .waiting, wait := some wRd } with now := 5000000 }
    s.expired 0 0 = some wRd ∧ wRd.arrived = false ∧ sContrib.expired 0 0 = none := by decide +kernel

/-! ## The Catenary and tasks -/

theorem witness_catenary : let s := sGroup [(1, 1), (2, 1), (3, 256), (4, 2), (5, 4), (6, 7)]; let G := s.group 0 1
    [(Instr.cbar 1, 0, 0#64, 0, 0), (.credAdd 7 1 2, 3, 1, 0, 0)].contains (.credAdd 7 1 2, 3, s.rs 2, 0, 0) = true ∧ (s.rs 1).toNat ≤ 255 ∧ s.isMember 0 1 = true ∧
    (s.rs 2).toNat ≤ 4095 ∧ G.members.contains (s.rs 2).toNat = true ∧ s.cur.again = false ∧ s.cur.snap = none ∧ s.pendingIds 0 (s.covered 0 0 (groupScope G.members)) = false ∧
    (∀ y, y < 11 → (s.ctx 0 y).st ≠ .waiting) ∧ G.arrivals = [] ∧ s.cur.ctx < 11 ∧ 255 < (s.rs 3).toNat ∧ s.isMember 0 (s.rs 6).toNat = false ∧ (s.rs 2).toNat ≤ 3 ∧
    (s.rs 4).toNat ≤ 4095 ∧ G.members.contains (s.rs 4).toNat = false ∧ 3 < (s.rs 5).toNat := by decide +kernel
/-- The same with a store still in a lane that a group release covers. -/
theorem witness_catenary_pending : let s := (sGroup [(1, 1)]).updCore 0 fun k => { k with lanes := [laneE] }
    s.pendingIds 0 (s.covered 0 0 (groupScope (s.group 0 1).members)) = true := by decide +kernel
/-- Core 0 waits at group 1. -/
def wBar (arrived : Bool) : Wait := { instr := .credAdd 7 1 2, start := 0, limit := 2, arrived := arrived }
def sBar (arrived : Bool) (as : List Arrival) (n : Nat) : State :=
  { ((sGroup [(1, 1), (2, 9)]).updGroup 0 1 fun t => { t with arrivals := as }).updCore 0 fun k => k.setCtx 0 { k.ctx 0 with st := .waiting, wait := some (wBar arrived) } with now := n }
theorem witness_arrival : let s := sBar false [] 0
    ∃ p, s.unarrived 0 0 1 = some (wBar false, p) ∧ (∀ y, y < 11 → y ≠ 0 → (s.ctx 0 y).st ≠ .waiting) ∧ s.pendingIds 0 (wBar false).ids = false ∧
      (s.group 0 1).arrivals = [] ∧ s.isMember 0 1 = true ∧ (s.ctx 0 1).st ≠ .waiting := ⟨_, rfl, by decide +kernel⟩
/-- The use of a group of one is whole. -/
def arr (fn core : Nat) : Arrival := ⟨core, 0, fn, 0, 9, 1, 0⟩
def lPair : Launch := { lGroup with groups := [(1, { members := [0, 1], arrivals := [arr 3 0, arr 3 1] }), (2, { members := [0], arrivals := [arr 2 0] }),
                                               (3, { members := [0, 1], arrivals := [arr 3 0, arr 4 1] })] }
def sWhole (n : Nat) : State :=
  let k : Ctx := { st := .waiting, wait := some (wBar true), s := [(1, 1), (2, 9)] }
  { ((base.updDomain 0 fun d => { d with launch := some lPair }).updCore 0 fun c => c.setCtx 0 k).updCore 1 fun c => c.setCtx 0 k with now := n }
theorem witness_use : let s := sWhole 168; let xs := (s.group 0 1).arrivals
    (s.domain 0).launch = some lPair ∧ s.baseOf 0 = 0 ∧ (∀ e ∈ xs, s.domOf e.core = 0) ∧ lPair.det = false ∧ (s.group 0 1).members ≠ [] ∧ xs.length = (s.group 0 1).members.length ∧
    (∀ e ∈ xs, e.cycle ≤ 0) ∧ (∃ e ∈ xs, e.cycle = 0) ∧ lPair.start + 8 * ((0 - lPair.start) / 8 + 1) + 160 ≤ s.now ∧ (xs.map (·.core)).Nodup ∧
    (∀ e ∈ xs, (s.ctx e.core e.ctx).st = .waiting ∧ (s.ctx e.core e.ctx).wait = some (wBar true)) ∧ (∀ e ∈ (s.group 0 2).arrivals, e.root = s.rel 0 ∧ e = arr 2 0) ∧
    (∃ e ∈ (s.group 0 3).arrivals, ∃ f ∈ (s.group 0 3).arrivals, e.fn ≠ f.fn) ∧ ((s.group 0 9).members = []) := by decide +kernel
theorem witness_withdrawal : let s := { sBar true [arr 3 0] 5000000 with now := 5000000 }; let u := sWhole 5000000
    (sBar false [] 0).expired 0 0 = none ∧ s.expired 0 0 = some (wBar true) ∧ (s.group 0 1).whole = false ∧ u.expired 0 0 = some (wBar true) ∧ (u.group 0 1).whole = true ∧
    commitAt lPair.start (u.group 0 1).arrivals ≤ u.now := by decide +kernel
theorem witness_withdrawal_op : ∃ o l, ((sBar true [arr 3 0] 5000000).asIf 0 0).catOp (wBar true).instr = some o ∧ (sBar true [arr 3 0] 5000000).launchOf 0 = some l := ⟨_, _, rfl, rfl⟩

/-- A descriptor at offset 32 for ring 4, priority 0, and a nest descriptor at offset 64: one level of ten, at least two, k = 1, group 1. -/
def sLoop (ch : Channel) : State :=
  (sGroup [(1, loc 32), (2, loc (0x100000 + 40)), (3, loc 36), (4, loc 385024), (5, loc 64), (6, loc 8)]).updCore 0 fun k =>
    { ((k.put 36 [4, 0]).put 64 [10]).putWord 80 (BitVec.ofNat 64 (2 * 2 ^ 32 + 1 * 2 ^ 8 + 1)) with channels := [(4, ch)] }
theorem witness_ready : let s := sLoop chBound; let off := offOf (s.rs 1); let ch := s.myCore.chan 4
    isLocal (s.rs 1) = true ∧ (s.rs 1).toNat % 32 = 0 ∧ off + 32 ≤ s.myCore.spSize ∧ s.myCore.marked off 32 = none ∧ s.badIn 0 off 32 = none ∧
    (s.myCore.byte (off + 4)).toNat = 4 ∧ (s.myCore.byte (off + 5)).toNat = ch.prio ∧ ch.bound = true ∧ ch.used < ch.depth ∧ ch.free = some 0 ∧
    s.pendingIds 0 (s.covered 0 0 .core) = false ∧ { chBound with reserved := 2 }.depth ≤ { chBound with reserved := 2 }.used ∧ ((sLoop {}).myCore.chan 4).bound = false ∧
    (s.rs 3).toNat % 32 ≠ 0 ∧ s.myCore.spSize < offOf (s.rs 4) + 32 := by decide +kernel
theorem witness_ready_pending : let s := (sLoop chBound).updMe fun k => { k with outs := [oLoad] }
    s.pendingIds 0 (s.covered 0 0 .core) = true := by decide +kernel
def nest0 : Nest := { counts := [10], total := 10, least := 2, k := 1, m := 0, name := 0, lo := 0, hi := 0 }
theorem witness_nest : let s := sLoop chBound
    readNest (s.myCore.bytes 64 32) = some (0, 1, nest0) ∧ s.isMember 0 1 = true ∧ s.counterName 0 (s.rs 2) = .ok (.loc 5) ∧ s.isMember 0 7 = false ∧
    readNest (s.myCore.bytes 32 32) = none := by decide +kernel
theorem witness_nest_name : ∃ f, (sLoop chBound).counterName 0 ((sLoop chBound).rs 6) = .error f := ⟨_, rfl⟩
def sNest (z : Nest) : State := (sGroup [(1, 0), (2, 5)]).updMe fun k => { k with nests := [(0, z)] }
theorem witness_nexti : let s := sNest { nest0 with hi := 3 }
    (s.rs 1).toNat < 4 ∧ AMap.find s.src.nests 0 = some { nest0 with hi := 3 } ∧ s.me.outstanding + 5 ≤ 32 ∧ (0 : Nat) < 3 ∧ (∀ o ∈ s.me.outs, o.id ≠ s.uid) ∧ 3 < (s.rs 2).toNat ∧
    s.counterName 0 0x4000000000100005 = .ok (.far 1 5) ∧ s.counterName 0 (loc (0x100000 + 40)) = .ok (.loc 5) ∧ 32 < sFull.me.outstanding + 5 := by decide +kernel
def pClaim : Packet := pk 1 (.claim 0x4000000000100005 10 2 1 4 0 7)
def qClaim : Outst := { id := 7, kind := .claim 0 nest0, dests := [], size := 5, vals := none, flt := none, pc := 0 }
def sClaim (v : Word) : State :=
  { ((base.updCore 1 fun k => { k with counters := [(5, { value := v })] }).updCore 1 fun k => k.setCtx 0 { (k.ctx 0) with outs := [qClaim], nests := [(0, nest0)] }) with net := [pClaim] }
theorem witness_claim : let s := sClaim 3
    s.deliverable 9 = some pClaim ∧ s.absent 1 = false ∧ (s.cell 1 5).armed = false ∧ bits 0x4000000000100005 0 11 = 5 ∧ 0 < min (10 - 3) (max 2 ((10 - 3 + 1 * 4 - 1) / (1 * 4))) ∧
    (s.ctx 1 0).outs.find? (fun o => o.id == 7) = some qClaim ∧ AMap.find (s.ctx 1 0).nests 0 = some nest0 ∧ 10 - ((sClaim 10).cell 1 5).value.toNat = 0 := by decide +kernel

/-- A message in channel 4 of core 0, handler at 0x40, one helper free. -/
def sTask (h : Word32) (n : Nat) : State := { onCore fun k => { k with rfu := 2, channels := [(4, { chBound with handler := h, slots := [(0, slotM)], waitFrom := some (0, 0) })] } with now := n }
theorem witness_task : let s := sTask 0x40 5; let ch := (s.core 0).chan 4
    s.pick 0 = some (4, ch, 0) ∧ s.runs 0 = true ∧ (s.core 0).frozen = false ∧ (s.core 0).freeHelper = some 1 ∧ AMap.find ch.slots 0 = some slotM ∧ (0x40 : Word32).toNat ≤ 0xFFFC ∧
    (0x40 : Word32).toNat % 4 = 0 ∧ ((sTask 0x42 5).core 0).chan 4 = { ch with handler := 0x42 } ∧ (0x42 : Word32).toNat % 4 ≠ 0 ∧ (base.core 0).freeHelper = none ∧
    State.reset.runs 0 = false ∧ ch.waitFrom = some (0, 0) ∧ 0 + 2 ^ 20 ≤ (sTask 0x40 2000000).ticks 0 ∧ s.ticks 0 < 0 + 2 ^ 20 ∧ (base.core 0).chan 4 = {} := by decide +kernel
/-- Core 0 with a shared ring, idle; and a victim with a descriptor to give. -/
def chShare : Channel := { chBound with share := true }
def sSteal (f : Core → Core) : State := (sGroup []).updCore 0 fun k => f { k with rfu := 2, channels := [(4, chShare)] }
theorem witness_steal : let s := sSteal id; let k := s.core 0
    k.stealRing = some 4 ∧ (s.victims 0)[k.stealNext]? = some 1 ∧ s.runs 0 = true ∧ s.det 0 = false ∧ k.frozen = false ∧ k.freeHelper ≠ none ∧ s.pickable 0 = [] ∧
    k.stealOut = none ∧ k.stealWait = none ∧ ((sSteal fun k => { k with stealWait := some 3 }).core 0).stealWait = some 3 ∧ ({ base with net := [pk 1 (.stealReq 4)] } : State).arriving 9 = some (pk 1 (.stealReq 4)) ∧
    (base.core 1).handler.length < 64 ∧ (base.core 1).frozen = false := by decide +kernel
theorem witness_victim : let s := sSteal fun k => { k with handler := [.steal 1 4], channels := [(4, { chShare with slots := [(0, { kind := .desc 64 false })] })] }
    let vch := (s.core 0).chan 4
    (s.core 0).handler = [.steal 1 4] ∧ vch.bound = true ∧ vch.share = true ∧ vch.first (fun t => match t.kind with | .desc _ _ => true | _ => false) = some 0 ∧
    (AMap.find vch.slots 0).map (·.kind) = some (.desc 64 false) ∧ (chBound.share = false) := by decide +kernel
def pAns (d : Option (List Byte)) : Packet := pk 0 (.stealAns 4 d .part)
theorem witness_answer : let s := fun d => { sSteal (fun k => { k with stealOut := some (4, 1), channels := [(4, { chShare with reserved := 1 })] }) with net := [pAns d] }
    (s (some (List.replicate 32 1))).arriving 9 = some (pAns (some (List.replicate 32 1))) ∧ (List.replicate 32 (1 : Byte)).length = 32 ∧
    (((s none).core 0).chan 4).free = some 0 ∧ 1 ≤ (((s none).core 0).chan 4).reserved ∧ (s none).arriving 9 = some (pAns none) ∧
    (s none).victims 0 = [1] ∧ ((s none).core 0).stealNext = 0 := by decide +kernel

/-! ## The event engine -/

/-- Core 0's engine, a polled channel 61 and registers. -/
def sEng (l : List (Nat × Word)) (e : EvEngine) (n : Nat) : State :=
  { coreRegs l fun k => { k with event := e, channels := [(61, { chBound with handler := 0xFFFFFFFF }), (5, { bound := true, ring := 128, depth := 2 })] } with now := n }
def eng : EvEngine := { owner := some 0, n := 4, h := 0x7FF0000000000000, e := 0x7FF0000000000000 }
def engL : EvEngine := { eng with leaves := [(1, 0x3F800000)] }
def snap0 : Snap := { clock := 0, rord := 0, seq := 0, last := {}, logN := 0, sendN := 0, doneN := 0 }
/-- A TIMED at 2.0 from region 0. -/
def timed0 : InEntry := { slot := 0, cancel := false, key := { time := 0x4000000000000000, region := some 0, seq := 0 }, src := 0, landed := 0, done := none, pkt := 3 }
theorem witness_tree : let s := sEng [(1, 4), (2, 4097), (3, 0x3F800000), (4, 0x80000001), (5, 0x7FF0000000000000), (6, 1), (7, 2), (8, 3)] eng 0; let e := s.myCore.event
    s.isCompute 0 = true ∧ e.owner = some 0 ∧ (s.rs 3).toNat < 0x7FF0000000000000 ∧ (s.rs 1).toNat ≤ 4096 ∧ s.rs 1 ≠ 0 ∧ (s.myCore.chan 61).bound = true ∧
    (s.myCore.chan 61).polled = true ∧ 4096 < (s.rs 2).toNat ∧ (base.myCore.chan 61).bound = false ∧ 0x7FF0000000000000 ≤ (s.rs 5).toNat ∧
    s.isCompute 48 = false ∧ ({ eng with owner := some 3 }.owner ≠ none ∧ { eng with owner := some 3 }.owner ≠ some 0) ∧
    (s.rs 6).toNat < e.n ∧ (s.rs 3).toNat < 2 ^ 32 ∧ e.snaps = [] ∧ 2 ^ 31 ≤ ((s.rs 4).setWidth 32 : Word32).toNat ∧ e.n ≤ (s.rs 1).toNat ∧ (s.rs 7).toNat ≤ levels e.n ∧
    levels e.n < (s.rs 8).toNat ∧ s.rs 0 = 0 ∧ 5 < (s.rs 2).toNat ∧ s.nextTime e = .ok 0x7FF0000000000000 := by decide +kernel
/-- 1.0 is no bad rate for leaf 1. -/
theorem witness_rate : let leaves := AMap.set eng.leaves 1 (0x3F800000 : Word32)
    ¬(2 ^ 31 ≤ (0x3F800000 : Word32).toNat ∨ 0x7F800000 ≤ (0x3F800000 : Word32).toNat % 2 ^ 31 ∨ ∃ k, k < levels eng.n ∧ node leaves (k + 1) (1 / 2 ^ (k + 1)) = 0x7F800000) := by
  decide +kernel
theorem witness_log : let e := { eng with snaps := [snap0], log := List.replicate 8192 (.leaf 0 0) }
    e.snaps ≠ [] ∧ 8192 ≤ e.log.length := ⟨List.cons_ne_nil _ _, Nat.le_of_eq List.length_replicate.symm⟩
theorem witness_nextev : let s := fun (e : EvEngine) => sEng [] e 5
    (s eng).isCompute 0 = true ∧ eng.rollKey 5 = none ∧ eng.cancels = [] ∧ (s eng).nextTime eng = .ok 0x7FF0000000000000 ∧ eng.inbox = [] ∧
    ({ eng with inbox := [timed0] }.inbox.filter fun i => decide (i.landed < 5) && !i.cancel && i.done.isNone) = [timed0] ∧ { eng with inbox := [timed0] }.rollKey 5 = none ∧
    timed0.key.time ≠ 0x7FF0000000000000 ∧ timed0.key.time.toNat ≤ (minTime (BitVec.ofNat 64 (fmt64.addB .rne eng.gvt.toNat eng.h.toNat).1) eng.e).toNat ∧
    timed0.key.time.toNat < (0x7FF0000000000000 : Word).toNat ∧ (s eng).cur.again = false ∧
    { eng with inbox := [timed0], last := { time := 0x4010000000000000 } }.rollKey 5 = some timed0.key ∧ eng.snapBefore timed0.key = none := by decide +kernel
theorem witness_draw : let s := sEng [] engL 5
    ∃ ti qd, s.nextTime engL = .ok ti ∧ ti.toNat < 0x7FF0000000000000 ∧ s.eventDraw (s.src.rord.toNat + 1) false = .ok qd :=
  ⟨4625375703771119616, 1016070688, by decide +kernel, by decide +kernel, by decide +kernel⟩
/-- Core 0 sends two words to core 1's inbox. -/
def sEvsend (h : Word) (e : EvEngine) : State := sEng [(1, h), (2, loc 8), (3, loc 4)] e 0
theorem witness_evsend : let s := sEvsend (hd 1 0 2) eng; let h := s.rs 1; let ch := s.myCore.chan (hRchan h)
    (s.inRange 0 (hDest h) = true ∧ s.isCompute (s.phys 0 (hDest h)) = true ∧ s.inRange 0 (hRcore h) = true) ∧ hWords h ≤ 6 ∧
    ((s.rs 2).toNat % 8 = 0 ∧ inScratch s.myCore (s.rs 2) 16 = true ∧ s.myCore.marked (offOf (s.rs 2)) 16 = none ∧ s.badIn 0 (offOf (s.rs 2)) 16 = none) ∧
    hRcore h = s.rel 0 ∧ ch.used < ch.depth ∧ s.myCore.awaiting < s.myCore.window ∧ s.inRange 0 (hDest (hd 64 0 2)) = false ∧ 6 < hWords (hd 1 0 7) ∧
    (s.inRange 0 (hRcore (header 1 4 2 5 0 2 7)) = true ∧ hRcore (header 1 4 2 5 0 2 7) ≠ s.rel 0) := by decide +kernel
theorem witness_sends : let e := { eng with snaps := [snap0], sends := List.replicate 1024 ⟨0, 0, 0, 0⟩ }
    e.snaps ≠ [] ∧ 1024 ≤ e.sends.length := by simp
theorem witness_siding : let e := { eng with snaps := [snap0] }; let s := sEng [(1, 0x4000000000000000), (2, 0x7FF0000000000001), (3, loc 8), (4, loc 9), (5, 8)] e 0
    e.snaps.length < 256 ∧ (s.rs 1).toNat ≤ 0x7FF0000000000000 ∧ e.snapBefore { time := s.rs 1 } = some (snap0, 1) ∧ eng.snapBefore { time := s.rs 1 } = none ∧
    0x7FF0000000000000 < (s.rs 2).toNat ∧
    ((s.rs 3).toNat % 8 = 0 ∧ isLocal (s.rs 3) = true ∧ offOf (s.rs 3) + 8 ≤ s.myCore.spSize ∧ s.atomsAt 0 0 (.pool 8) = [] ∧ s.myCore.marked 8 8 = none) ∧
    e.log.length < 8192 ∧ s.badIn 0 8 8 = none ∧ (s.rs 4).toNat % 8 ≠ 0 ∧ ((s.rs 5).toNat % 8 = 0 ∧ isLocal (s.rs 5) = false) ∧ e.gvt.toNat ≤ (s.rs 1).toNat ∧
    (s.rs 0).toNat < { eng with gvt := 0x4000000000000000 }.gvt.toNat := by decide +kernel
theorem witness_snaps : 256 ≤ { eng with snaps := List.replicate 256 snap0 }.snaps.length := by simp
/-- A TIMED or CANCEL on its way to core 1. -/
def pTimed (kind : Nat) : Packet := pk 1 (.words (header 1 61 0 5 kind 2 7) [0x4000000000000000, 0])
def flightC : InFlight := { hdr := header 1 61 0 5 0x0B 2 7, payload := [0, 0], time := 0, pkt := 9, cancel := true, again := none, gone := some 3 }
def sInbox (kind : Nat) (ch : Channel) (l : List InEntry) : State :=
  { base.updCore 1 fun k => { k with channels := [(61, ch)], event := { owner := some 0, n := 4, inbox := l, flight := [flightC] } } with net := [pTimed kind] }
def cancel0 : InEntry := { timed0 with slot := 1, cancel := true, pkt := 9, gone := some 3 }
theorem witness_inbox : let h := fun k => header 1 61 0 5 k 2 7; let s := sInbox 0x0B chBound [timed0]; let ch := (s.core 1).chan 61
    (sInbox 0x0A chBound []).arrivingWords 9 = some (pTimed 0x0A, h 0x0A, [0x4000000000000000, 0]) ∧ hKind (h 0x0A) = 0x0A ∧
    s.arrivingWords 9 = some (pTimed 0x0B, h 0x0B, [0x4000000000000000, 0]) ∧ hKind (h 0x0B) = 0x0B ∧ s.absent 1 = false ∧ s.absent 51 = true ∧
    ((sInbox 0x0A {} []).core 1).chan 61 = {} ∧ ch.bound = true ∧ ch.used < ch.depth ∧ ch.free = some 0 ∧ { chBound with reserved := 2 }.depth ≤ { chBound with reserved := 2 }.used ∧
    { (s.core 1).event with inbox := [timed0, cancel0] }.target cancel0 = some timed0 ∧ hRcore (h 0x0B) = 0 ∧ { timed0 with slot := 1 }.slot ≠ 0 ∧ { ((sInbox 0x0B chBound []).core 1).event with inbox := [cancel0] }.target cancel0 = none ∧
    { ((sInbox 0x0B chBound []).core 1).event with inbox := [{ timed0 with done := some 0 }, cancel0] }.target cancel0 = some { timed0 with done := some 0 } ∧
    s.neverTaken 1 (some 3) = false ∧ (s.updCore 1 fun k => { k with event := { k.event with flight := [{ flightC with pkt := 3, again := some 7 }] } }).neverTaken 1 (some 3) = true := by decide +kernel
def flight0 : InFlight := { hdr := header 1 61 0 5 0x0A 2 7, payload := [0, 0], time := 0, pkt := 3, cancel := false, again := some 4 }
def rec0 : SendRec := ⟨header 1 61 0 5 0x0B 2 7, 0, 0, 3⟩
theorem witness_resend : let s := sEng [] { eng with flight := [flight0], cancels := [rec0] } 5; let k := s.core 0
    k.event.flight = [flight0] ∧ flight0.gone ≠ some flight0.pkt ∧ flightC.gone = some flight0.pkt ∧ flightC.again = none ∧ flight0.again = some 4 ∧ 4 ≤ s.ticks 0 ∧ k.awaiting < k.window ∧ (k.chan (hRchan flight0.hdr)).used < (k.chan (hRchan flight0.hdr)).depth ∧
    k.event.cancels = [rec0] ∧ (k.chan (hRchan rec0.hdr)).used < (k.chan (hRchan rec0.hdr)).depth ∧ (base.core 0).event.flight = [] ∧ (base.core 0).event.cancels = [] := by
  decide +kernel

/-! ## Tiles, Turntables and engines -/

/-- Header words of a tile of one line in the scratchpad: format, rows, columns; pitch and data offset of one unit. -/
def tw0 (fmt rows cols : Nat) : Word := BitVec.ofNat 64 (0xB + fmt * 16 + (rows - 1) * 2 ^ 16 + (cols - 1) * 2 ^ 28 + 2 ^ 40)
def tw1 (fmt rows cols : Nat) : Word := let w : Word := 0x100000000; setField w 56 8 (hdrCheck (tw0 fmt rows cols) w)
def tile (fmt rows cols off : Nat) : TReg := { w0 := tw0 fmt rows cols, w1 := tw1 fmt rows cols, addr := BitVec.ofNat 48 (2 ^ 47 + off) }
/-- Core 0 with a header at offset 64 and tiles in t1 to t3: L8, BF16 and AUTO. -/
def sTile : State :=
  let s := coreRegs [(1, loc 64), (2, loc 65), (3, tw0 1 2 2), (4, loc 128), (5, 3), (6, 13), (7, 14), (8, 15), (9, 1), (10, 4)] fun k =>
    ((k.putWord 64 (tw0 1 2 2)).putWord 72 (tw1 1 2 2)).putWord 128 (tw0 1 2 2)
  s.updMe fun k => { k with t := [(1, tile 1 2 2 256), (2, tile 2 2 2 320), (3, tile 15 2 2 384), (4, { tile 1 2 2 256 with w0 := 5 })] }
theorem witness_headers : let s := sTile; let k := s.myCore; let x := s.rs 1
    (isLocal x = true ∧ x.toNat % 16 = 0 ∧ offOf x + 16 ≤ k.spSize) ∧ k.marked 64 16 = none ∧ s.badIn 0 64 16 = none ∧ (s.rs 2).toNat % 16 ≠ 0 ∧
    x.toNat / 2 ^ 47 % 2 ^ 16 = 0 ∧ (s.rs 5).toNat % 16 = 3 ∧ (s.rs 6).toNat % 16 = 13 ∧ (s.rs 7).toNat % 16 = 14 ∧ (s.rs 8).toNat % 16 = 15 ∧ (s.rs 9).toNat < 2 ^ 1 := by
  decide +kernel
theorem witness_header_ok : let s := sTile; let k := s.myCore; let r := s.rt 1
    checkHdr 1 (k.word 64) (k.word 72) = .ok () ∧ checkHandle 1 (s.rs 3) (setField 0x100000000 56 8 (hdrCheck (s.rs 3) 0x100000000)) = .ok () ∧
    (let w0 := setField r.w0 14 1 1; checkHandle 1 w0 (setField r.w1 56 8 (hdrCheck w0 r.w1)) = .ok ()) ∧
    checkHandle 1 r.w0 (setField r.w1 56 8 (hdrCheck r.w0 r.w1)) = .ok () ∧ checkHandle 1 (s.rs 3) (setField r.w1 56 8 (hdrCheck (s.rs 3) r.w1)) = .ok () ∧
    checkHandle 1 r.w0 (setField 0 56 8 (hdrCheck r.w0 0)) = .ok () := by
  refine ⟨by decide +kernel, by decide +kernel, by decide +kernel, by decide +kernel, by decide +kernel, by decide +kernel⟩
theorem witness_header_bad : (∃ f, checkHdr 1 (sTile.myCore.word 128) (sTile.myCore.word 136) = .error f) ∧
    (∃ f, checkHandle 1 (sTile.rs 9) (setField 0x100000000 56 8 (hdrCheck (sTile.rs 9) 0x100000000)) = .error f) ∧
    (let w0 := setField (sTile.rt 1).w0 8 4 9; ∃ f, checkHandle 1 w0 (setField (sTile.rt 1).w1 56 8 (hdrCheck w0 (sTile.rt 1).w1)) = .error f) := by
  exact ⟨⟨_, rfl⟩, ⟨_, rfl⟩, ⟨_, rfl⟩⟩
/-- Core 0's slot, with the Turntable's lessee. -/
def sTt (q : TSlot) (cur : Option Nat) : State := sTile.updTt 0 0 fun T => { T with slots := [(0, q)], current := cur }
def held0 : TSlot := { rows := 2, cols := 2, holds := true, iRows := 2, iCols := 2 }
theorem witness_lease : let s := sTt held0 (some 0); let r := sTt { held0 with mrel := true } (some 0); let n := sTt {} none
    s.cur.ctx = 0 ∧ s.isCompute 0 = true ∧ (s.slot 0).holds = true ∧ (s.slot 0).mrel = false ∧ (r.slot 0).holds = true ∧ (r.slot 0).mrel = true ∧
    (r.tt 0 0).current = some (0 % 8) ∧ s.det 0 = false ∧ (s.slot 0).waits = false ∧ (sTt { held0 with waits := true } none).slot 0 = { held0 with waits := true } ∧ (n.slot 0).holds = false ∧ s.cur.again = false ∧ s.isCompute 48 = false ∧ s.ttBusy 0 = 0 ∧ (sTt held0 none).ttBusy 0 = 0 ∧
    (sTt held0 none).tt 0 0 = { (sTt held0 none).tt 0 0 with current := none } ∧ (sTt { held0 with queue := [noCmd .endt] } none).ttBusy 0 ≠ 0 := by decide +kernel
/-- Core 1 waits for the array of core 0, whose lease is over. -/
def sRun (q : TSlot) (cur : Option Nat) : State := sTile.updTt 0 0 fun T => { T with slots := [(0, q), (1, { waits := true })], current := cur, last := 0 }
theorem witness_run_end : let s := sRun {} none; let u := sRun { held0 with holds := false, live := true, acc := [1, 2, 3, 4] } (some 0)
    (s.tt 0 0).current = none ∧ (s.turns 0 0).scan = some 1 ∧ (u.tt 0 0).current = some 0 ∧ (u.turns 0 0).scan = some 1 ∧ (u.turns 0 0).runOver u.now = true ∧ (s.slot 1).waits = true ∧ s.det 1 = false ∧
    ((u.tt 0 0).slot 0).live = true ∧ ((sTt {} none).turns 0 0).runOver 0 = false := by decide +kernel
def wLease : Wait := { instr := .lease, start := 0, limit := 2 }
theorem witness_lease_expiry : let s := { (sTt {} (some 3)).updMe fun k => { k with st := .waiting, wait := some wLease } with now := 5000000 }
    s.expired 0 0 = some wLease ∧ (s.tt 0 0).current = some 3 ∧ base.expired 0 0 = none := by decide +kernel
/-- Indices 0 and 1 in v5, for MMAG. -/
def sIdx : State := (sTt held0 (some 0)).updMe fun k => { k with v := [(5, 0 :: 1 :: List.replicate 62 0)] }
theorem witness_engine : let s := sIdx; let A := s.rt 1; let B := s.rt 2; let C := s.rt 3; let k := s.myCore
    (s.cur.ctx = 0 ∧ s.isCompute 0 = true ∧ (s.slot 0).holds = true ∧ (s.slot 0).mrel = false) ∧ C.rows ≤ 256 ∧ C.cols ≤ 128 ∧ C.rows * C.cols * 8 ≤ 8192 ∧
    C.isLocal = true ∧ C.fmt = 15 ∧ C.scl ≤ 1 ∧ C.spr = 0 ∧ C.lineBytes (drainFmt C 0) 0 ≤ 16 * C.pitch ∧ C.rows = 2 ∧ C.cols = 2 ∧
    C.base + C.extent (drainFmt C 0) 0 ≤ k.spSize ∧ (s.rs 10).toNat % 4 = 0 ∧ s.ttBusy 0 < 16 ∧ s.tileBusy 0 < 16 ∧ srcOk true A = true ∧ dstOk true A B = true ∧
    A.base + A.extent A.fmt 2 ≤ k.spSize ∧ (let e := moved A B 0; e.base + e.extent e.fmt 2 ≤ k.spSize) ∧ A.fmt ≤ 1 ∧ A.scl ≤ 3 ∧ A.spr = 0 ∧
    A.lineBytes A.fmt 0 ≤ 16 * A.pitch ∧ A.base + A.extent A.fmt 0 ≤ k.spSize ∧ C.lineBytes (aqFmt C A) 0 ≤ 16 * C.pitch ∧
    C.base + C.extent (aqFmt C A) 0 ≤ k.spSize := by decide +kernel
theorem witness_engine_headers : let s := sIdx; let A := s.rt 1; let B := s.rt 2; let C := s.rt 3
    checkHdr 1 A.w0 A.w1 = .ok () ∧ checkHdr 2 B.w0 B.w1 = .ok () ∧ checkHdr 3 C.w0 C.w1 = .ok () ∧
    moveShape 1 2 A B 2 0 = .ok () ∧ s.ccntOk = .ok () := by
  refine ⟨by decide +kernel, by decide +kernel, by decide +kernel, by decide +kernel, rfl⟩
theorem witness_mma : let s := sIdx.updCore 0 fun k => { k with acc := 8 }; let A := s.rt 1; let C := s.rt 3; let idx := (s.src.vr 5).map (·.toNat)
    s.mmaCheck 0 1 1 3 A A C none none = .ok 2 ∧ s.mmaCheck 0 1 1 3 A A C (some 5) (some idx) = .ok 2 ∧ C.rows * C.cols * 8 ≤ s.myCore.accSize := by decide +kernel
theorem witness_mma_bad : let s := sIdx
    ∃ f, checkHdr 4 (s.rt 4).w0 (s.rt 4).w1 = .error f ∧ s.mmaCheck 0 4 1 3 (s.rt 4) (s.rt 1) (s.rt 3) none none = .error f ∧
      s.mmaCheck 0 4 1 3 (s.rt 4) (s.rt 1) (s.rt 3) (some 5) (some []) = .error f := ⟨_, rfl, rfl, rfl⟩
theorem witness_full_queues : 16 ≤ (sTt { held0 with queue := List.replicate 16 (noCmd .endt) } none).ttBusy 0 ∧
    16 ≤ (sTile.updCore 0 fun k => { k with tileQ := List.replicate 16 (noCmd .endt) }).tileBusy 0 := by decide +kernel
/-- A command at the head of core 0's queue, and tiles of zeros. -/
def cmdOf (i : Instr) : TCmd := { noCmd i with ta := tile 1 2 2 256, tb := tile 1 2 2 256, tc := tile 15 2 2 384, rows := [0, 1], mode := 2 }
def sHead (i : Instr) : State := sTt { held0 with queue := [cmdOf i], mode := 2, live := true, acc := [1, 2, 3, 4] } (some 0)
theorem witness_turn : let s := sHead (.mma 3 1 1); let T := (cmdOf (.mma 3 1 1)).tc; let rd := (s.core 0).tileRd (tile 1 2 2 256)
    s.turnHead 0 0 = some (0, cmdOf (.mma 3 1 1)) ∧ (sHead (.mzero 3)).turnHead 0 0 = some (0, cmdOf (.mzero 3)) ∧ (sHead (.mdrain 3 0)).turnHead 0 0 = some (0, cmdOf (.mdrain 3 0)) ∧
    areaFlt (tile 1 2 2 256) ((tile 1 2 2 256).areaBad rd [0, 1] [0, 1]) = none ∧
    areaFlt (tile 1 2 2 256) ((tile 1 2 2 256).areaBad rd (List.range (tile 1 2 2 256).cols) []) = none ∧ s.tileEcc 0 (tile 1 2 2 256) 1 0 ((tile 1 2 2 256).linesOf [0, 1]) = none ∧ s.tileEcc 0 (tile 1 2 2 256) 1 0 (List.range 2) = none ∧
    T.scl = 0 ∧ T.spr = 0 ∧ T.rows = 2 ∧ T.cols = 2 ∧ T.fmt = 15 ∧ T.lineBytes (drainFmt T 2) 0 ≤ 16 * T.pitch ∧ 16 ≤ T.dataOff ∧ T.colMajor = false ∧ drainFmt T 2 ≠ 0 ∧
    s.tileStoreEcc 0 T (T.writes 2 ((s.slot 0).drain 2 T.sat 0).1) = none ∧
    ({ s with bad := [.pool 0 400] } : State).tileStoreEcc 0 T (T.writes 2 ((s.slot 0).drain 2 T.sat 0).1) ≠ none ∧ (sTt held0 none).turnHead 0 0 = none := by decide +kernel
/-- A's row scales step by 9 where a step is a byte 0x09 of its area: code 8 of R130's table for areas. -/
def tileS : TReg := { tile 1 2 2 256 with w0 := setField (tw0 1 2 2) 8 4 4, w1 := setField (tw1 1 2 2) 0 16 4 }
theorem witness_area_bad : let s := (sTt { held0 with queue := [{ cmdOf (.mma 3 1 1) with ta := tileS }] } (some 0)).updCore 0 fun k => k.put 320 [0, 9, 0, 9]
    ∃ f, areaFlt tileS (tileS.areaBad ((s.core 0).tileRd tileS) [0, 1] [0, 1]) = some f := ⟨_, rfl⟩
def fin0 : Fin := { id := 3, core := 0, ctx := 0, flags := 4, ccnt := 0, flt := none, merge := false, turn := none }
theorem witness_complete : let s := { sCtr {} {} with fins := [fin0] }; let n := loc (0x100000 + 40)
    s.fins.find? (fun f => f.id == 3) = some fin0 ∧ (s.slot 0).mrel = false ∧ .stage 3 ∉ s.work ∧ .stage 3 ∈ ({ s with work := [.stage 3] } : State).work ∧ { fin0 with ccnt := n }.ccnt ≠ 0 ∧ s.counterName 0 n = .ok (.loc 5) ∧ s.det 0 = false ∧
    (s.cell 0 5).armed = false ∧ (s.cell 0 5).value ≠ BitVec.allOnes 64 ∧ { fin0 with flt := some { code := .ecc } }.flt = some { code := .ecc } ∧
    (sTile.updCore 0 fun k => { k with tileQ := [cmdOf (.tcvt 2 1)] }).core 0 = { sTile.core 0 with tileQ := [cmdOf (.tcvt 2 1)] } := by decide +kernel
def pJq (r n : Nat) : Packet := pk (agent 0 5) (.jq 3 r n 15 7)
def sJq (r n : Nat) : State := { base.updPart 0 fun q => { q with jq := [(3, 5, 2)] } with net := [pJq r n] }
theorem witness_jq : (sJq 5 4).deliverable 9 = some (pJq 5 4) ∧ 4096 ≤ (pJq 5 4).dst ∧ AMap.get (0, 0) ((sJq 5 4).part 0).jq 3 = (5, 2) ∧ ((pJq 5 4).dst - 4096) / 8 = 0 ∧
    (sJq 5 2).deliverable 9 = some (pJq 5 2) ∧ (2 : Nat) < 4 ∧ (2 : Nat) ≤ 2 ∧ (0 < (6 + 65536 - 5) % 65536 ∧ (6 + 65536 - 5) % 65536 < 32768) ∧
    (sJq 6 2).deliverable 9 = some (pJq 6 2) ∧ 32768 ≤ (4 + 65536 - 5) % 65536 ∧ (sJq 4 2).deliverable 9 = some (pJq 4 2) ∧ base.me.outstanding < 32 ∧
    32 ≤ sFull.me.outstanding := by decide +kernel

/-! ## The host -/

/-- Queue 0 enabled with one command to take, over a state. -/
def queued (s : State) : State := { s with queues := [(0, { enabled := true, sizes := 0x80010, sqtail := 1 })] }
/-- A command of words 0 to 3, command id 5. -/
def cmd (op : Nat) (a b c : Nat) : List Word := [BitVec.ofNat 64 (5 * 2 ^ 32 + op), BitVec.ofNat 64 a, BitVec.ofNat 64 b, BitVec.ofNat 64 c, 0, 0, 0, 0]
def takesB (s : State) (l : List Word) (op : Nat) (mask : List Word) : Bool := s.canTake 0 && arg l 0 1 == op && reservedClear l mask
/-- An idle module, one whose domain 0 has a launch, and one where it stands at a phase. -/
def sIdle : State := queued State.reset
def sAt (l : Launch) : State := sIdle.updDomain 0 fun d => { d with launch := some l }
def lAt (p : LPhase) : Launch := { lGroup with phase := p }
theorem witness_commands : let s := sIdle
    ([(Instr.pmread 0 (cmd 10 0 0 0), 0x0A, [0xFFFF])] : List (Instr × Nat × List Word)).contains (.pmread 0 (cmd 10 0 0 0), 0x0A, [0xFFFF]) = true ∧ base.canTake 0 = false ∧
    s.canTake 0 = true ∧ arg (cmd 9 0 0 0) 0 1 ≠ 10 ∧ 1 ≤ arg (cmd 9 0 0 0) 0 1 ∧ arg (cmd 9 0 0 0) 0 1 ≤ 12 ∧ 12 < arg (cmd 13 0 0 0) 0 1 ∧ arg (cmd 10 0 1 0) 0 1 = 10 ∧
    reservedClear (cmd 10 0 1 0) [0xFFFF] = false := by decide +kernel
/-- A file of a header alone (R49): no section. -/
def file0 : List Byte :=
  [0x49, 0x52, 0x58, 0x1A, 1, 0, 0, 0] ++ List.replicate 40 0 ++ [64, 0, 0, 0, 0, 0, 0, 0, 0, 0, 0, 0] ++ toBytes 4 0xB3CB946B
theorem witness_image : takesB sIdle (cmd 1 0 64 0) 1 [BitVec.allOnes 64, BitVec.allOnes 64] = true ∧ file0.length = arg (cmd 1 0 64 0) 16 8 ∧ imageOk file0 = true ∧
    takesB sIdle (cmd 1 0 0 0) 1 [BitVec.allOnes 64, BitVec.allOnes 64] = true ∧ ([] : List Byte).length = arg (cmd 1 0 0 0) 16 8 ∧ imageOk [] = false := by decide +kernel
/-- An image whose role 0 is placed on core 0. -/
def img0 : Image := { roles := [(0, { poolw := 188 * 4096 + 1, entry := 0x40 })], places := [⟨0, 0, 0, 0⟩] }
def mLaunch : List Word := [0xFFFFFFFF0001FFFF, BitVec.allOnes 64]
theorem witness_launch : let s := sIdle.updDomain 0 fun d => { d with images := [(1, img0)] }
    takesB s (cmd 2 1 0 0) 2 mLaunch = true ∧ arg (cmd 2 1 0 0) 12 4 = 0 ∧ (AMap.find (s.domain 0).images 1).isSome = true ∧ takesB s (cmd 2 (2000 * 2 ^ 32 + 2) 0 0) 2 mLaunch = true ∧
    1024 ≤ arg (cmd 2 (2000 * 2 ^ 32 + 2) 0 0) 12 4 ∧ AMap.find (s.domain 0).images 2 = none ∧ arg (cmd 2 (5 * 2 ^ 32) 0 0) 12 4 = 5 ∧ takesB s (cmd 2 (5 * 2 ^ 32) 0 0) 2 mLaunch = true ∧
    s.queueDom 0 = 0 := by decide +kernel
theorem witness_cancel : let s := sIdle.updDomain 0 fun d => { d with queued := [(0, 7, 1, false, 16384, 0)] }
    takesB s (cmd 3 7 0 0) 3 [0xFFFFFFFF] = true ∧ (∃ e ∈ (s.domain 0).queued, e.1 = 0 ∧ e.2.1 = BitVec.ofNat 32 (arg (cmd 3 7 0 0) 8 4)) ∧
    takesB (sAt lGroup) (cmd 3 0 0 0) 3 [0xFFFFFFFF] = true ∧ ((sAt lGroup).domain 0).queued = [] ∧ ((sAt lGroup).domain 0).launch.any (fun l => l.q == 0 && l.id == 0) = true ∧
    (sIdle.domain 0).launch = none ∧ (sIdle.domain 0).saves = [] ∧ takesB sIdle (cmd 3 0 0 0) 3 [0xFFFFFFFF] = true := by decide +kernel
theorem witness_dispatch : let s := sIdle.updDomain 0 fun d => { d with images := [(1, img0)], queued := [(0, 7, 1, false, 16384, 0)] }
    (s.domain 0).queued = [(0, 7, 1, false, 16384, 0)] ∧ (s.domain 0).launch = none ∧ (s.domain 0).saves = [] ∧ AMap.find (s.domain 0).images 1 = some img0 ∧
    (∀ x ∈ s.domParts 0, (s.part x).down = false) ∧ s.placementBad 0 img0 = false ∧ 0 ∈ s.domCores 0 ∧ (s.rolesAt 0 img0 (s.rel 0)).head? = some 0 := by decide +kernel
def lSwept (a b : Nat) (prev : Option (Nat × Nat)) : Launch := { lGroup with sweep := some 168, now := some (true, a, b), prev := prev }
theorem witness_phases : let s := sAt (lAt .setup); let g := sAt (lAt (.going 168))
    (s.domain 0).launch = some (lAt .setup) ∧ (lAt .setup).phase = .setup ∧ lGroup.phase ≠ .setup ∧ (g.domain 0).launch = some (lAt (.going 168)) ∧ g.now < 168 ∧ 168 ≤ ({ g with now := 168 } : State).now ∧
    lGroup.resumed = false ∧ lGroup.phase = .running ∧ lGroup.det = false ∧ (s.now - lGroup.start) % 8 = 0 ∧ lGroup.sweep = none ∧ (sAt lGroup).tapIdle 0 lGroup false = true ∧
    base.tapIdle 0 lGroup false = false ∧ ((sAt (lSwept 3 3 (some (3, 3)))).domain 0).launch = some (lSwept 3 3 (some (3, 3))) ∧ (lSwept 3 3 none).now = some (true, 3, 3) ∧
    (lSwept 3 3 none).prev ≠ some (3, 3) ∧ s.now < 168 := by decide +kernel
/-- A wait of core 0 in a launch that stops. -/
def sStopped (p : LPhase) (n : Nat) : State := { (sBar true [arr 3 0] n).updDomain 0 fun d => { d with launch := some { lPair with phase := p } } with now := n }
/-- Core 0's save area, a header alone, with a lanes field. -/
def area0 (lanes : Nat) : Area := { head := [BitVec.ofNat 64 (0x131565342 + lanes * 2 ^ 48), 0x80000, 0, 0, 0, 0, 0, 0], used := 64, draw := 0 }
def save0 : Save := { lpart := 1, launch := lGroup, cores := [(0, {})], units := [], jobs := [], loads := [], net := [], fins := [], areas := [(0, area0 64)], crcOk := true }
def sSaved (v : Save) : State := sIdle.updDomain 0 fun d => { d with saves := [(1, v)] }
theorem witness_preempt : let q := sAt (lAt (.quiet 0 5)); let r := sStopped (.quiet 0 5) 0
    takesB sIdle (cmd 4 0 0 0) 4 [] = true ∧ takesB (sAt lGroup) (cmd 4 0 0 0) 4 [] = true ∧ ((sAt lGroup).domain 0).launch = some lGroup ∧ ((sAt (lAt .setup)).domain 0).launch = some (lAt .setup) ∧
    ((sStopped (.stopping 168 0 5) 0).domain 0).launch = some { lPair with phase := .stopping 168 0 5 } ∧ (0 : Nat) < 168 ∧ (168 : Nat) ≤ (sStopped (.stopping 168 0 5) 168).now ∧
    ((sStopped (.stopped 4 0 5) 5).domain 0).launch = some { lPair with phase := .stopped 4 0 5 } ∧ (sStopped (.stopped 4 0 5) 5).now = 5 ∧
    (0, 0, wBar true) ∈ (sStopped (.stopped 4 0 5) 5).waits 0 ∧ (sStopped (.stopped 4 0 5) 5).committed { lPair with phase := .stopped 4 0 5 } 4 0 0 (wBar true) = false ∧
    (q.domain 0).launch = some (lAt (.quiet 0 5)) ∧ (lAt (.quiet 0 5)).closeAt = none ∧ q.waits 0 = [] ∧ (r.domain 0).launch = some { lPair with phase := .quiet 0 5 } ∧ r.waits 0 ≠ [] := by
  decide +kernel
theorem witness_resume : let s := sSaved save0
    takesB s (cmd 5 1 0 0) 5 [0xFFFF] = true ∧ ((sAt lGroup).domain 0).launch ≠ none ∧ (s.domain 0).launch = none ∧ AMap.find (s.domain 0).saves 1 = some save0 ∧ AMap.find (sIdle.domain 0).saves 1 = none ∧
    (∀ p ∈ s.domParts 0, (s.part p).down = false) ∧ (∃ p ∈ (s.updPart 0 fun q => { q with down := true }).domParts 0, ((s.updPart 0 fun q => { q with down := true }).part p).down = true) ∧
    { save0 with crcOk := false }.crcOk = false ∧ s.resumeBad 0 save0 = none ∧ (area0 64).ok {} 0 = true ∧ (area0 64).lanes {} = 64 ∧ (area0 64).checks {} = true ∧ (area0 64).ok {} 1 = false ∧ { area0 64 with wrote := [(8, 1)] }.checks {} = false ∧
    (area0 3).lanes {} ≠ 0 ∧ (area0 3).lanes {} ≠ 64 ∧ (save0.cores.map (·.1)).Nodup := by decide +kernel
/-- A deterministic launch whose cores have ended their quantum, some of them at the tap. -/
def lDet (c : Option Nat) : Launch := { lGroup with det := true, closeAt := c, groups := [] }
def sDet (c : Option Nat) (tapped : Nat → Bool) : State := { sAt (lDet c) with cores := (List.range 51).map fun i => (i, { tapped := tapped i }) }
theorem witness_taps : let s := sDet none fun _ => false; let a := sDet none fun i => i != 0
    base.tapReady 0 = false ∧ s.tapReady 0 = true ∧ (∃ e ∈ s.domCores 0, e ≠ 0 ∧ (s.core e).tapped = false) ∧ a.tapReady 0 = true ∧
    (∀ e ∈ a.domCores 0, e ≠ 0 → (a.core e).tapped = true) ∧ (a.domain 0).launch = some (lDet none) := by decide +kernel
theorem witness_close : let s := sDet (some 160) fun _ => true; let t := { s.updCore 0 fun k => k.setCtx 0 { k.ctx 0 with st := .stalled, stall := some .quantum } with now := 160 }
    (s.domain 0).launch = some (lDet (some 160)) ∧ s.now < 160 ∧ (lDet none).closeAt = none ∧ 160 ≤ t.now ∧ (∀ e ∈ t.domCores 0, (t.core e).lanes = []) ∧ t.loads = [] ∧ t.jobs = [] ∧ t.net = [] ∧
    (lDet (some 160)).groups = [] ∧ ((t.updSlot 0 fun q => { q with waits := true }).slot 0).waits = true ∧ (t.ctx 0 0).st = .stalled ∧ (t.ctx 0 0).stall = some .quantum := by decide +kernel
/-- An entry of a small page of frame f; a big page has bit 62. -/
def pte (f : Nat) : Nat := 2 ^ 63 + 3 * 2 ^ 58 + f
def mMap : List Word := [BitVec.allOnes 64, 0xFFFFFFFF, BitVec.allOnes 64]
theorem witness_map : let w := BitVec.ofNat 64 (pte 5); let bad := BitVec.ofNat 64 (pte 0xFFFFFF)
    takesB sIdle (cmd 6 0x10000 1 (pte 5)) 6 mMap = true ∧ entryOk w = true ∧ (sIdle.inRange 0 (bits w 40 12) = true ∧ sIdle.isCompute (bits w 40 12) = true) ∧ (0x10000 : Word).toNat < 2 ^ 57 ∧
    w.getLsbD 62 = false ∧ w.getLsbD 63 = true ∧ sIdle.frameOk 0 (bits w 0 24) = true ∧ takesB sIdle (cmd 6 0 1 (pte 5 + 2 ^ 24)) 6 mMap = true ∧
    entryOk (BitVec.ofNat 64 (pte 5 + 2 ^ 24)) = false ∧ takesB sIdle (cmd 6 (2 ^ 57) 1 (pte 5)) 6 mMap = true ∧ takesB sIdle (cmd 6 0 1 (pte 0xFFFFFF)) 6 mMap = true ∧ entryOk bad = true ∧
    bad.getLsbD 62 = false ∧ sIdle.frameOk 0 (bits bad 0 24) = false ∧ takesB sIdle (cmd 7 0x10000 1 0) 7 [BitVec.allOnes 64, 0x1FFFFFFFF] = true ∧
    takesB sIdle (cmd 8 0 0 0) 8 [BitVec.allOnes 64, 0xFFFFFFFF] = true := by decide +kernel
def cast0 (ended : Bool) : Broadcast := { q := 0, id := 5, lo := 0, count := 1, all := false, size := some false, frames := [(5, 1)], doneAt := 160, ended := ended }
def sCast (n : Nat) : State := { (sMap 0).updDomain 0 fun d => { d with casts := [cast0 false] } with now := n }
theorem witness_casts : let s := sCast 160; let u := s.updCore 0 fun k => { k with lanes := [laneE] }
    (s.domain 0).casts = [cast0 false] ∧ (sCast 0).now < (cast0 false).doneAt ∧ (cast0 false).doneAt ≤ s.now ∧ s.touches 0 (cast0 false).frames = false ∧ u.touches 0 (cast0 false).frames = true := by
  decide +kernel
/-- C0 waits for page 0, which the shared unit may hold; or its access is held. -/
def sPage (st : Stall) (shared : List (Nat × Bool × Word)) (n : Nat) : State :=
  { (base.updMe fun k => { k with st := .stalled, stall := some st }).updPart 0 fun p => { p with shared := shared, walks := [0] } with now := n }
theorem witness_pages : let s := sPage (.xlate 0) [(0, false, ent 0)] 0; let u := sPage (.xlate 0) [] 0; let h := sPage (.held 16 0) [] (1050 * 1000000)
    (s.ctx 0 0).st = .stalled ∧ (s.ctx 0 0).stall = some (.xlate 0) ∧ bufFind (s.part 0).shared (pageVa 0) = some (ent 0) ∧ bufFind (u.part 0).shared (pageVa 0) = none ∧ 0 ∈ (s.part 0).walks ∧
    (0, 0, 0) ∈ s.pageWaiters (s.baseOf 0) ∧ findEntry (s.domain 0).entries (pageVa 0) = none ∧ 1 ∉ (s.part 0).walks ∧ (h.ctx 0 0).stall = some (.held 16 0) ∧
    0 + 1050 * (h.domain (h.domOf 0)).holdUs ≤ h.now ∧ ¬0 + 1050 * (s.domain (s.domOf 0)).holdUs ≤ s.now := by decide +kernel
theorem witness_host : let s := sIdle
    (∀ i ∈ [0, 1, 2, 3, 4], takesB s (cmd 9 i 0 0) 9 [0xFF] = true ∧ arg (cmd 9 i 0 0) 8 1 = i) ∧ takesB s (cmd 10 14 0 0) 10 [0xFFFF] = true ∧ arg (cmd 10 14 0 0) 9 1 < 2 ^ (s.domain 0).log2 ∧
    2 ^ (s.domain 0).log2 ≤ arg (cmd 10 (14 + 256) 0 0) 9 1 ∧ takesB s (cmd 10 64 0 0) 10 [0xFFFF] = true ∧ 63 < arg (cmd 10 64 0 0) 8 1 ∧
    takesB s (cmd 11 (2 ^ 32 + 256) 0 0) 11 [0xFFFFFFFF0001FFFF] = true ∧ (∀ p, 0 ≤ p → p < 0 + 2 ^ 1 → (s.part p).down = false) ∧
    (∀ d ∈ s.domainsIn 0 2, d.2.idle = true ∧ 0 ≤ d.1 ∧ d.1 + 2 ^ d.2.log2 ≤ 0 + 2) ∧ (∃ d ∈ (sAt lGroup).domainsIn 0 2, d.2.idle = false) ∧
    ¬(arg (cmd 11 (2 ^ 32 + 7 * 256) 0 0) 9 1 ≤ 6) ∧ takesB s (cmd 12 0 0 0) 12 [0xFF] = true ∧ s.inDom 0 0 = true ∧ (s.domain 0).launch = none ∧ s.inDom 0 1 = false ∧
    (s.queue 0).cap ≠ 0 ∧ (s.queue 0).enabled = true ∧ (s.queue 1).enabled = false ∧ (∀ d ∈ s.domains, d.2.launch = none) ∧ s.window.toNat % 8 + 8 ≤ 8 ∧
    s.window.toNat + 8 ≤ 2 ^ 16 * 98304 * 64 ∧ s.badHbm 0 8 = none ∧ s.narrowBad 0 8 = false := by decide +kernel
/-- An envelope for another package in front of port 0, and a message that has reached a port. -/
def envWord : Word := BitVec.ofNat 64 (3 * 2 ^ 48 + 1 * 2 ^ 36 + 4 * 2 ^ 30)
def pEnv : Packet := { pk 48 (.words (header 48 0 0 5 0 2 7) [envWord, 9]) with src := 0 }
def pOut : Packet := pk (agent 0 2) (.words (hd 1 1 1) [9])
theorem witness_envelope : let s : State := { base with net := [pEnv] }; let u : State := { base with net := [pOut] }
    s.deliverable 9 = some pEnv ∧ isEnvelope pEnv (header 48 0 0 5 0 2 7) = true ∧ portOf pEnv.dst = none ∧ envelopeOk envWord = true ∧ s.linkUp (partOfKey pEnv.dst) 0 = true ∧
    ({ s.updPart 0 fun p => { p with portUp := [(0, false)] } with net := [pEnv] } : State).linkUp 0 0 = false ∧ pEnv.src < 4096 ∧ u.deliverable 9 = some pOut ∧ portOf pOut.dst = some 0 ∧
    u.linkUp (partOfKey pOut.dst) 0 = true := by decide +kernel
theorem witness_inbound : let s := base.updCore 1 fun k => { k with channels := [(4, chBound)] }; let h := hd 1 0 1; let d := s.baseOf 0 * 64 + hDest h
    s.linkUp 0 0 = true ∧ (s.part 0).down = false ∧ ([9] : List Word).length = hWords h ∧ hKind h = 0 ∧ (s.domain 0).launch ≠ none ∧ s.inRange 0 (hDest h) = true ∧ s.isUser d = true ∧
    d % 64 ≠ 63 ∧ d < 4096 ∧ s.domOf d = 0 ∧ s.det d = false ∧ s.net = [] ∧ (s.core d).clearing = false ∧ ((s.core d).chan (hDchan h)).bound = true ∧
    ((s.core d).chan (hDchan h)).used < ((s.core d).chan (hDchan h)).depth ∧ ((s.core d).chan (hDchan h)).free = some 0 ∧ s.leafWrites 1 8 8 = true ∧ s.baseOf 0 = s.domOf 1 ∧
    s.baseOf 1 ≠ s.domOf 1 := by decide +kernel
/-- Core 0 writes a word to another package through port 0. -/
def hPutx : Word := header 0 0 0 0 0x60 4 0
def pPutx : Packet := { pk 48 (.request hPutx [loc 8, BitVec.ofNat 64 (3 * 2 ^ 48 + 16), 8, 0]) with src := 0 }
def jPutx : CopyJob := { id := 9, kind := 0x60, core := 0, ctx := 15, hdr := hPutx, cnt := 0, src := loc 8, dst := BitVec.ofNat 64 (3 * 2 ^ 48 + 16), tile := false, wm := none }
theorem witness_putx : let s : State := { base with net := [pPutx] }
    s.deliverable 9 = some pPutx ∧ hKind hPutx = 0x60 ∧ (s.sink pPutx).putxBad jPutx 8 0 = none := by decide +kernel
theorem witness_power : (400 : Nat) ≤ 400 ∧ (400 < 449 ∧ 449 < 450) ∧ ((base.part 0).softErrs.filter fun u => decide (base.now < u + 2 ^ 36)).length + 1 ≤ 1024 ∧
    AMap.find ((sSaved save0).domain 0).saves 1 = some save0 := by decide +kernel
theorem witness_advised : let s := base.updPart 0 fun p => { p with softErrs := List.replicate 1024 0 }
    1024 < ((s.part 0).softErrs.filter fun u => decide (s.now < u + 2 ^ 36)).length + 1 := by decide +kernel

/-! ## Witnesses of what holds an access back -/

/-- C0 has posted an atomic at offset 8 of its own core. -/
def sPosted : State := { base with net := [{ pk 0 (.atom 0 (.pool 8) 8 1 0 0 7) with src := 0 }] }
theorem witness_own_atoms : base.ownAtoms 0 64 = [] ∧ sPosted.ownAtoms 0 16 = [7] ∧ sPosted.ownAtoms 0 8 = [] := by decide +kernel
/-- Offsets 0 to 63 lie under watermark channel 3. -/
def marked (s : State) : State := s.updCore 0 fun k => { k with wmarks := [(3, { base := 0, limit := 64, mark := 0, parts := [] })] }
theorem witness_marks : let s := marked (sTab 0); let u := marked sDesc
    s.src.rtab = some (loc 0, 2) ∧ s.src.rord.toNat < (2 : Word).toNat ∧ s.ownAtoms (offOf (loc 0)) 4 = [] ∧ s.myCore.marked (offOf (loc 0)) 4 = some 3 ∧
    (sTab 1).ownAtoms (offOf (loc 0) + 4) 4 = [] ∧ (sTab 1).myCore.marked (offOf (loc 0) + 4) 4 = none ∧
    (u.rs 1).toNat % 64 = 0 ∧ inScratch u.myCore (u.rs 1) 64 = true ∧ u.ownAtoms (offOf (u.rs 1)) 64 = [] ∧ u.myCore.marked (offOf (u.rs 1)) 64 = some 3 ∧
    sDesc.ownAtoms (offOf (sDesc.rs 1)) 64 = [] ∧ sDesc.myCore.marked (offOf (sDesc.rs 1)) 64 = none := by decide +kernel
/-- A beat of local elements, read by the pop. -/
theorem witness_near : stRead.pos % 64 = 0 ∧ stRead.fetched = [] ∧ stRead.part = [] ∧ (∀ e ∈ stRead.beatElems 0, let s := sBound
    inScratch s.myCore (stRead.addr e) 4 = true ∧ s.myCore.marked (offOf (stRead.addr e)) 4 = none ∧ s.badIn 0 (offOf (stRead.addr e)) 4 = none ∧
    s.atomsAt 0 0 (.pool (offOf (stRead.addr e))) = []) ∧ (∃ e ∈ stGlobal.beatElems 0, isLocal (stGlobal.addr e) = false) := by decide +kernel
/-- A beat that is fetched whole, one held under a watermark, and one with a fault that the pop waits for. -/
theorem witness_fetch : let s := fun (t : State) (T : Stream) => ((t.asIf 0 0).fetchBeat 2 T 0).2.1
    s sBound stRead = none ∧ s (marked sBound) stRead = some (.stall (.watermark 3 0 (loc 0))) ∧ s { sBound with bad := [.pool 0 0] } stRead = some (.fault { code := .ecc, addr := loc 0 }) := by
  decide +kernel
theorem witness_fetch_waits : let s := base.updMe fun k => { k with st := .stalled, stall := some (.beat 2), streams := [(2, stGlobal)] }
    (s.ctx 0 0).st = .stalled ∧ (s.ctx 0 0).stall = some (.beat 2) := by decide +kernel
theorem witness_lane_full : let s := (sMap 2).updCore 0 fun k => { k with lanes := List.replicate 64 laneE }
    s.laneRoom 1 = some .lanes ∧ (sMap 2).laneRoom 1 = none ∧ s.lookup 16 ⟨false, true⟩ = .ok 327696 2 (ent 2) := by decide +kernel
/-- An own store covers the word, and an earlier load of it is not served. -/
theorem witness_load_behind : let s := { (sMap 0).updCore 0 fun k => { k with lanes := [laneE] } with uid := 9, loads := [⟨4, 0, 0, 16, 327696, 8, 0, none, 0, 0, 0⟩] }
    s.loadsBefore 0 0 327696 9 ≠ [] ∧ (s.myCore.view.any fun l => l.pa / 8 == 327696 / 8) = true ∧ (sMap 0).loadsBefore 0 0 327696 (sMap 0).uid = [] := by decide +kernel
/-- A held write past its limit while the version store is full. -/
theorem witness_held_full : let s := { (sFullStore laneH).updMe fun k => { k with wlim := 1 } with now := 5000000 }
    s.hasRoom laneH.pa = false ∧ 0 + 2 ^ (s.ctx 0 laneH.ctx).wlim.toNat ≤ s.ticks 0 ∧ (s.core 0).lanes.find? (fun l => l.id == 3) = some laneH ∧
    (s.ctx 0 0).st ≠ .free ∧ (s.ctx 0 0).st ≠ .halted := by
  refine ⟨?_, by decide +kernel, by decide +kernel, by decide +kernel, by decide +kernel⟩
  have r : ((sFullStore laneH).part (sliceOf laneH.pa)).retained = List.replicate (Config.versionStoreMore + 6) (0, 0, 0) := rfl
  have h : (sFullStore laneH).hasRoom laneH.pa = false := by
    rw [State.hasRoom, r, List.length_replicate]
    exact decide_eq_false (by omega)
  exact h
/-- A context that keeps the slot it reserved, and rings where a slot freed in this cycle is the last. -/
theorem witness_reserved : let s := (sSend (hd 1 0 7)).updMe fun k => { k with resv := some 5 }; let full := { chBound with reserved := 1, freed := [0] }
    s.me.resv = some (hRchan (hd 1 0 7)) ∧ (s.updCore 0 fun k => { k with awaiting := 32 }).myCore.window ≤ (s.updCore 0 fun k => { k with awaiting := 32 }).myCore.awaiting ∧
    (sSend (hd 1 0 7)).me.resv = none ∧ full.room = false ∧ chBound.room = true ∧ chBound.pushed 0 = [] ∧ sContrib.me.resv ≠ some 5 := by decide +kernel
/-- A REPLY reaches ch60 of the station core. -/
def hSta : Word := header 63 4 1 60 1 1 7
theorem witness_station : let s := { base with net := [pk 63 (.words hSta [9])], queues := [(0, { sizes := 0x80000 })] }
    s.arrivingWords 9 = some (pk 63 (.words hSta [9]), hSta, [9]) ∧ hKind hSta = 1 ∧ hRchan hSta = 60 ∧ (s.queue (s.hostQueue 0)).held = [] ∧
    (s.queue (s.hostQueue 0)).ring.length < (s.queue (s.hostQueue 0)).cap := by decide +kernel
theorem witness_atom_frozen : let s := { base.updCore 1 fun k => { k with frozen := true } with net := [pAtom] }
    s.arriving 9 = some pAtom ∧ (s.core 1).frozen = true ∧ s.handlerHeld 1 = true ∧ base.handlerHeld 1 = false ∧
    (({ base with net := [pCadd] } : State).arriving 9 = some pCadd) := by decide +kernel
theorem witness_counter_ring : let s := sCtr (cellA 2) chBound
    s.badIn 0 ((s.cell 0 5).desc.toNat + 4) 1 = none ∧ (s.myCore.chan 4).room = true ∧ (s.myCore.chan 4).pushed s.now = [] ∧
    (sCtr (cellA 2) { chBound with reserved := 2 }).myCore.chan 4 = { chBound with reserved := 2 } ∧ { chBound with reserved := 2 }.room = false := by decide +kernel
theorem witness_use_free : ∀ y, y < 11 → (sContrib.ctx 0 y).wait = none := by decide +kernel
/-- Another member of the die has still to contribute. -/
theorem witness_more : let s := sGate {} [pCon]; let here := (s.group (gateCore 0) 1).members.filter fun r => s.phys (gateCore 0) r / 512 == 0 / 8
    pCon.src = 1 ∧ (∃ r ∈ here, s.phys (gateCore 0) r ≠ pCon.src ∧ ∀ e ∈ ([] : List Contrib), e.core ≠ s.phys (gateCore 0) r) := by decide +kernel
/-- A withdrawal while a first operation of its core has arrived and this one has not. -/
theorem witness_withdrawn_later : let s := sBar false [arr 3 0] 5000000
    s.expired 0 0 = some (wBar false) ∧ (∃ e ∈ (s.group 0 1).arrivals, e.core = 0) ∧ (s.group 0 1).whole = false ∧
    (sBar true [] 0).waitsBefore 0 1 0 = false := by decide +kernel
/-- The slot of a claim loaded anew. -/
theorem witness_claim_gen : let s := (sClaim 3).updCtx 1 0 fun k => { k with nests := [(0, { nest0 with gen := 1 })] }
    AMap.find (s.ctx 1 0).nests 0 = some { nest0 with gen := 1 } ∧ { nest0 with gen := 1 }.gen ≠ nest0.gen ∧ nest0.gen = nest0.gen := by decide +kernel
theorem witness_task_seen : let s := sTask 0x40 5; let d := { sTask 0x40 5 with bad := [.pool 0 64] }
    ((s.core 0).chan 4).seen s.now = (s.core 0).chan 4 ∧ (d.badIn 0 64 4).isSome = true ∧ s.badIn 0 64 4 = none := by decide +kernel
/-- A rollback that the cancel queue takes, and one that it does not. -/
theorem witness_cancels : let e := { eng with snaps := [snap0], sends := [rec0] }
    e.cancels.length + ((e.sends.drop snap0.sendN).filter fun r => !(e.flight.any fun f => f.pkt == r.pkt && f.again.isSome)).length ≤ 1024 ∧
    1024 < { e with cancels := List.replicate 1024 rec0 }.cancels.length + ((e.sends.drop snap0.sendN).filter fun r => !(e.flight.any fun f => f.pkt == r.pkt && f.again.isSome)).length := by
  decide +kernel
/-- A `TCVT` and an `AQADD` at the head of the tile unit's queue. -/
def sUnit (i : Instr) (b t : TReg) (w : List Nat) : State := sTile.updCore 0 fun k => { k with lanes := [laneE], tileQ := [{ cmdOf i with tb := b, tc := t, waits := w }] }
theorem witness_tile_unit : let A := tile 1 2 2 256; let B := tile 1 2 2 320; let C := tile 2 2 2 320; let T := tile 15 2 2 384
    let s := sUnit (.tcvt 2 1) A C []; let u := sUnit (.aqadd 3 1 2) B T []; let w := sUnit (.tcvt 2 1) A C [3]
    s.pendingIds 0 [] = false ∧ srcOk true A = true ∧ dstOk true A C = true ∧ tcvtFlt s 3 0 A C = none ∧ s.tileStoreEcc 0 C (moveWrites A C (s.engineRd 3 0 A) (s.engineRd 3 0 C 2)).1 = none ∧
    (let el : Elems := A.cells.map fun x => aqElem 8 (aqFmt T A) T.sat ((A.elem (u.engineRd 3 0 A) 0 x.1 x.2).getD 0) ((B.elem (u.engineRd 3 0 B 1) 0 x.1 x.2).getD 0)
      (A.expo (u.engineRd 3 0 A) x.1 x.2) (B.expo (u.engineRd 3 0 B 1) x.1 x.2) (T.expo (u.engineRd 3 0 T 2) 0 0); u.tileStoreEcc 0 T (T.writes (aqFmt T A) el) = none) ∧ isVerbatim A C = false ∧
    (landing A C (accMode A ((s.core 0).tileRd A))).colMajor = false ∧ (landing A C (accMode A ((s.core 0).tileRd A))).fmt ≠ 0 ∧ 16 ≤ C.dataOff ∧
    u.tileEcc 0 A A.fmt 0 (List.range A.lines) = none ∧ u.tileEcc 0 B B.fmt 0 (List.range B.lines) = none ∧ u.scaleEcc 0 T = none ∧ T.rows = A.rows ∧ T.cols = A.cols ∧
    T.spr = 0 ∧ T.scl ≤ 1 ∧ aqFmt T A ≤ 5 ∧ aqFmt T A ≠ 0 ∧ T.lineBytes (aqFmt T A) 0 ≤ 16 * T.pitch ∧ T.colMajor = false ∧ w.pendingIds 0 [3] = true := by decide +kernel
theorem witness_area_ecc : (sHead (.mma 3 1 1)).areaEcc 0 (tile 1 2 2 256) = none ∧ (sHead (.mma 3 1 1)).pendingIds 0 (cmdOf (.mma 3 1 1)).waits = false := by decide +kernel
theorem witness_leaving : (sCast 0).leaving 5 1 = true ∧ sIdle.leaving 5 1 = false := by decide +kernel
/-- A counter add to another package at port 0, and a write of one word that comes in by it. -/
def pFar : Packet := pk (agent 0 2) (.cadd 5 1 0 0 0x4001000000100005)
theorem witness_far : let u : State := { base with net := [pFar] }; let l : List Word := [0x1000000008, 8, 0, 77]; let d := base.baseOf 0 * 64 + bits (l.getD 0 0) 36 12
    u.deliverable 9 = some pFar ∧ portOf pFar.dst = some 0 ∧ u.linkUp (partOfKey pFar.dst) 0 = true ∧ hKind (header 1 0 0 0 0x60 4 0) = 0x60 ∧ base.linkUp 0 0 = true ∧
    (base.part 0).down = false ∧ base.savedDomain 0 = false ∧ base.inRange (base.baseOf 0 * 64) (bits (l.getD 0 0) 36 12) = true ∧
    base.leafWrites d (bits (l.getD 0 0) 0 20) (l.getD 1 0).toNat = true ∧ (l.getD 1 0).toNat ≤ 8 * (l.length - 3) ∧ base.det d = false ∧ l.getD 2 0 = 0 := by decide +kernel

/-! ## Witnesses of repetitions, streams, ports, pages and records -/
/-- Core 0 with words at 0 and 4. -/
def sWords (w0 w1 : Word32) : State := onCore fun k => { k with imem := Memory.store brkByte [] 0 (toBytes 4 w0.toNat ++ toBytes 4 w1.toNat) }


/-- A helper that its `START` lets issue behind a load of C0, and a task whose last bundle has still to put a store into its lane. -/
theorem witness_start_on : let s := sOuts.updCore 0 fun k => k.setCtx 1 { st := .ready, startOn := [7] }
    oLoad ∈ (s.ctx 0 0).outs ∧ oLoad.open_ = true ∧ oLoad.id ∈ (s.ctx 0 1).startOn ∧ s.det 0 = false ∧ (sEnding.ctx 0 1).push = [] ∧
    ((sEnding.updCtx 0 1 fun k => { k with push := [laneE] }).ctx 0 1).push ≠ [] := by decide +kernel
/-- A body of one word, twice repeated, and a word that no body holds. -/
def rep0 : Srep := { body := 0, n := 1, idx := 0, beta := 0, nrep := 2 }
theorem witness_body : let s := (sWords 0x80021840 0).updMe fun k => { k with srep := some rep0 }
    s.fetchBad 0 0 = false ∧ (s.core 0).form 0 = .one 0x80021840 ∧ decodeWord 0x80021840 = .ok (.add 1 3 2) ∧ (s.ctx 0 0).srep = some rep0 ∧
    (s.ctx 0 0).outstanding = 0 ∧ (s.begin 0 0).hazard [.add 1 3 2] = none ∧ bodyForbids (.add 1 3 2) = false ∧ bodyForbids .endt = true ∧
    rep0.n ≤ rep0.idx + 1 ∧ rep0.beta + 1 < rep0.nrep ∧ { rep0 with beta := 1 }.nrep ≤ { rep0 with beta := 1 }.beta + 1 ∧
    { rep0 with n := 2 }.idx + 1 < { rep0 with n := 2 }.n ∧ s.cur.fate = .retire := by decide +kernel
/-- A pair of bound registers of a 64-bit type with their beats, into an unbound pair; and bound registers at both ends. -/
theorem witness_pop_wide : let s := base.updMe fun k => { k with streams := [(2, stGlobal), (3, stGlobal)] }
    (∀ v ∈ vregs true 4, AMap.find s.me.streams v = none) ∧ (∀ v ∈ vregs true 2, v ∉ vregs true 4) ∧
    (∀ v ∈ vregs true 2, ∀ T ∈ AMap.find s.me.streams v, T.write = false ∧ T.pos < T.len ∧ T.fetched = [⟨List.replicate 64 9, none⟩]) ∧
    (∃ v ∈ vregs false 2, AMap.find s.me.streams v ≠ none) ∧ (∃ v ∈ vregs false 3, AMap.find sBound.me.streams v = some stWrite) := by decide +kernel
/-- A write stream of two words in page 0, whose elements go to the store lanes. -/
def stLanes : Stream := { stWrite with et := 4, base := 16, counts := [2], strides := [8] }
theorem witness_push_lanes : let s := (sMap 0).updMe fun k => { k with streams := [(2, stLanes)] }
    AMap.find s.me.streams 2 = some stLanes ∧ stLanes.pos < stLanes.len ∧
    (∀ e ∈ stLanes.stored (s.me.amask &&& stLanes.tail 0), isLocal (stLanes.addr e) = false ∧ pageOf (stLanes.addr e) = 0 ∧
      s.lookup (stLanes.addr e) ⟨false, true⟩ = .ok (327680 + (stLanes.addr e).toNat) 0 (ent 0) ∧
      s.atomsAt 0 0 (.phys (327680 + (stLanes.addr e).toNat) false) = []) ∧
    stLanes.stored (s.me.amask &&& stLanes.tail 0) ≠ [] ∧ s.me.push = [] ∧ s.myCore.laneCount 0 + 2 ≤ 64 := by decide +kernel
/-- A copy's write held at its core, and moments that an engine thread has seen. -/
theorem witness_held_copy : let j := { jGet with pieces := [{ src := loc 8, dst := 16, len := 8 }], held := some 0 }; let s := { sMap 1 with jobs := [j] }
    s.jobs.find? (fun k => k.id == j.id && k.core == 0) = some j ∧ (∀ l ∈ (s.core 0).lanes, l.id ≠ j.id) ∧ j.held ≠ none ∧
    s.copyXlate 0 16 ⟨false, true⟩ = .ok (327696, true) ∧ (loc 8).toNat % 8 = 0 := by decide +kernel
theorem witness_moments : let m : Moment := { at_ := 0, uid := 5, held := [], mem := [(0, 7)], pools := [] }
    HbmSeen { base with past := [m] } 3 [(0, 7)] ∧ PoolSeen base 3 0 (base.core 0) :=
  ⟨.inr ⟨_, List.mem_singleton.2 rfl, by decide, by decide, rfl⟩, .inl rfl⟩
/-- A message that came by a port, and a report behind another of its sender. -/
theorem witness_reply_port : let s := sReply { slotM with port := some (agent 0 2), pkg := 3 }
    s.myCore.slotAt 64 = some (4, 0, { slotM with port := some (agent 0 2), pkg := 3 }) ∧ s.ownAtoms 64 8 = [] ∧
    (sMsg pRep60 {}).reportBefore pRep60 = false := by decide +kernel
/-- In deterministic mode a handler thread serves other cores at a close alone. -/
theorem witness_close_work : let s := { sDet none fun _ => false with now := 5 }
    s.closeWork 0 (.atom 1 0 (.pool 8) 8 1 0 0 7) = true ∧ s.closeWork 0 (.atom 0 0 (.pool 8) 8 1 0 0 7) = false ∧ (lDet none).qstart ≠ s.now ∧
    base.closeWork 0 (.steal 1 4) = false := by decide +kernel
/-- Uses that `RDSEND` has had are not had again. -/
theorem witness_uses : (sContrib.updCore 0 fun k => { k with rdsends := [(1, [1, 3])] }).nextUse 0 1 = 2 ∧ sContrib.nextUse 0 1 = 1 := by decide +kernel
/-- A whole `PHASE` of two members, two schedules: the second is not tried yet. -/
def phased (n : Nat) : State := (sWhole n).updDomain 0 fun d =>
  { d with launch := some { lPair with groups := [(1, { members := [0, 1], phases := 1, arrivals := [{ arr 16 0 with ns := 2 }, { arr 16 1 with ns := 2 }] })] } }
theorem witness_phase : let G := (phased 168).group 0 1
    (∀ e ∈ G.arrivals, e.fn = 16 ∧ e.ns = 2 ∧ e.x = 9) ∧ G.phases ≠ 0 ∧ AMap.get false G.tried 1 = false ∧ AMap.get 0 G.cost 0 = 0 ∧
    (phased 100).now < lPair.start + 8 * ((0 - lPair.start) / 8 + 1) + 160 := by decide +kernel
/-- A frozen member at its limit, and a limit that is not over. -/
theorem witness_frozen_limit : let s := (sBar true [arr 3 0] 5000000).updCore 0 fun k => { k with frozen := true }
    s.limitOver 0 0 = some (wBar true) ∧ (s.core 0).frozen = true ∧ (sBar true [] 0).limitOver 0 0 = none ∧ (0 : Nat) < 0 + 2 := by decide +kernel
/-- A core that backs off from stealing. -/
theorem witness_backoff : (∃ u, ((sSteal fun k => { k with stealWait := some 300 }).core 0).stealWait = some u ∧ (sSteal id).ticks 0 < u) ∧
    ((sTask 0x40 5).core 0).frozen = false ∧ ((onCore fun k => { k with frozen := true }).core 0).frozen = true := ⟨⟨300, rfl, by decide +kernel⟩, by decide +kernel⟩
/-- Sizes that a queue may have, and what the pages of BAR2 hold. -/
theorem witness_pages_of_bar2 : let s := State.reset.updPart 2 fun p => { p with vlogN := 66, vlog := [[1, 2, 3, 4], [5, 6, 7, 8]] }
    sizesOk 0x100010 = true ∧ sizesOk 0x80010 = false ∧ (∀ e ∈ (s.part 2).vlog, e.length = 4) ∧ (s.part 2).vlog.length ≤ (s.part 2).vlogN ∧
    s.bar2 0x43000 = 66 ∧ s.bar2 (0x43000 + 32 + 32 * 1) = 5 ∧ s.bar2 (0x43000 + 32 + 8) = 2 ∧ s.bar2 0x43060 = 0 := by decide +kernel
theorem witness_window : let s := State.reset
    16 + 8 ≤ 2 ^ s.bar4Log ∧ s.reservedPa 16 = false ∧ 2 ^ s.bar4Log < 2 ^ s.bar4Log + 8 ∧ (s.updPart 0 fun p => { p with usable := 16 }).reservedPa (16 * 65536) = true := by
  decide +kernel
/-- A PUTX of eight bytes as it comes by a port: header, route word and data. -/
theorem witness_put_message : let msg := bytesOf [header 1 4 0 0 0x60 4 0, 0x30000, 9]
    portOf (agent 0 2) = some 0 ∧ partOfKey (agent 0 2) = 0 ∧ base.baseOf (partOfKey (agent 0 2)) = base.domOf 1 ∧ base.net = [] ∧ base.savedDomain 0 = false ∧ base.det 1 = false ∧
    (wordsOf 2 msg).getD 0 0 = header 1 4 0 0 0x60 4 0 ∧ msg.drop 16 = bytesOf [9] ∧ base.leafWrites 1 8 8 = true ∧ base.leafWrites 1 4 8 = false ∧
    base.baseOf (partOfKey (agent 40 2)) ≠ base.domOf 1 ∧ portOf 1 = none := by decide +kernel
/-- A counter that a PUTX from another package adds to, a range that it may not write, and a record for a partition that is down. -/
theorem witness_puts : let s := base.updCore 1 fun k => { k with counters := [(5, { value := 2 })] }
    s.putCell 0 0x0000000000100005 = .far 1 5 ∧ s.cellHere 0 1 = true ∧ (s.cell 1 5).armed = false ∧ (s.cell 1 5).value ≠ BitVec.allOnes 64 ∧ .stage 3 ∉ s.work ∧
    s.leafWrites 1 4 8 = false ∧ (s.core 1).clearing = false ∧ ((s.updPart 0 fun p => { p with down := true }).part 0).down = true ∧
    hKind (header 1 4 0 0 0x0C 0 7) = 0x0C ∧ (List.replicate 8 (0 : Word)).length = 8 := by decide +kernel
/-- A fault record on its way into a domain that ends, and none. -/
theorem witness_records_left : let s := { sAt (lSwept 3 3 (some (3, 3))) with net := [pFlt] }
    (∃ p ∈ s.net, p.body = .fault 4 (List.replicate 8 0) false ∧ s.baseOf (partOfKey p.dst) = 0) ∧ (sAt lGroup).net = [] := by
  exact ⟨⟨pFlt, List.mem_singleton.2 rfl, rfl, by decide +kernel⟩, by decide +kernel⟩

/-! ## Witnesses of what is held back, dropped or in error -/

/-- A load under an own store of three bytes, where the word in HBM is in error, and where it is not; and a line with a word in error. -/
theorem witness_view_bad : let s := fun (e : LaneEntry) (b : List ErrSite) => ({ (sMap 0).updCore 0 fun k => { k with lanes := [e] } with bad := b } : State)
    (s { laneE with n := 3 } [.hbm 327696]).viewBad 0 327696 8 = true ∧ (s laneE [.hbm 327696]).viewBad 0 327696 8 = false ∧ (s laneE []).viewBad 0 327696 8 = false ∧
    (sLoad (req 0 none) 0).badHbm (327696 / 64 * 64) 64 = none ∧ ({ sLoad (req 0 none) 0 with bad := [.hbm 327704] } : State).badHbm (327696 / 64 * 64) 64 ≠ none := by decide +kernel
/-- A page that is not VERSIONED, for `RECL`. -/
theorem witness_recl_plain : (16 : Word).toNat % 8 = 0 ∧ isLocal 16 = false ∧ (0 : BitVec 2) ≠ 1 ∧ (sMap 0).lookup 16 ⟨false, true⟩ = .ok 327696 0 (ent 0) := by decide +kernel
/-- A `POOL` to 128 accumulator banks whose scratchpad a ring and a table end beyond. -/
theorem witness_pool_area : let s := (withRegs [(1, 0x801)]).updCore 0 fun k => { k with channels := [(4, { chBound with ring := 200000 })], wmarks := [(2, { base := 0, limit := 64, mark := 0, parts := [] })], counters := [(5, cellA 2)] }
    s.poolReason = none ∧ (1 ≤ (s.rs 1).toNat % 16 ∧ (s.rs 1).toNat / 16 % 256 ≤ 128) ∧ (200000, 200128) ∈ s.myCore.areas ∧ (192 - 4 * 1 - 128) * 2048 < 200128 ∧
    (0, 64) ∈ s.myCore.areas ∧ (32, 64) ∈ s.myCore.areas ∧ (0, 8) ∈ (sTab 0).myCore.areas := by decide +kernel
/-- A core for each of the reasons of `POOLBUSY`, and a quiescent one. -/
theorem witness_pool_reasons : let h := onCore fun k => k.setCtx 3 { st := .ready }; let l := sTt held0 none; let e := sTile.updCore 0 fun k => { k with tileQ := [noCmd .endt] }
    let c := sPoll none [(0, slotM)]
    h.poolReason = some (1, 3) ∧ sFull.poolReason = some (2, 0) ∧ (sLane laneE).poolReason = some (2, 0) ∧ l.poolReason = some (3, 0) ∧ (l.slot 0).holds = true ∧
    e.engineBusy 0 ≠ 0 ∧ e.poolReason = some (4, 1) ∧ c.poolReason = some (5, 4) ∧ (sRecv [pTag]).poolReason = some (5, 64) ∧ sBound.poolReason = some (6, 0) ∧ base.poolReason = none := by
  decide +kernel
/-- A word of a run that its source meets, one that it does not, and a name that a port has not accepted. -/
theorem witness_meets : let s := sMap 0
    s.meet 0 pieceG.src pieceG.dst 8 = false ∧ s.meet 0 0 8 16 = true ∧ ({ jGet with pieces := [pieceG] } : CopyJob).part = 0 ∧
    ({ base with net := [{ pFar with src := 0, srcCtx := 0 }] } : State).atPorts 0 0 = [9] := by decide +kernel
/-- A mesh with its neighbours: two cores beside each other, two one above the other, and a row below ew. -/
theorem witness_mesh : let G : Group := { members := [0, 1], meshW := 2, meshH := 1 }; let V : Group := { members := [0, 1], meshW := 1, meshH := 2 }
    G.members.Nodup ∧ G.neighbour 0 1 = some 1 ∧ G.neighbour 1 3 = some 0 ∧ G.neighbour 0 0 = none ∧ V.neighbour 0 2 = some 1 ∧ V.neighbour 1 0 = some 0 ∧
    (sHalo.haloPieces (jHalo 1) (readBlock (wBlock 1)) 8).length = 1 ∧ (sHalo.haloPieces (jHalo 1) (readBlock (wBlock 1)) 16).map (·.src) = [loc 8] := by decide +kernel
/-- A report that the station holds, one that comes first, and one that comes behind it. -/
theorem witness_station_holds : let p := { pRep60 with came := some 3 }; let q := { pRep60 with id := 10 }; let s : State := { sMsg pRep60 {} with net := [p, q] }
    p.came ≠ none ∧ pRep60.came = none ∧ s.reportBefore p = false ∧ s.reportBefore q = true ∧ s.reportBefore { q with came := some 5 } = true ∧ s.reportBefore { q with came := some 2 } = false ∧
    ((sMsg pRep60 {}).queue 0).cap = 0 := by decide +kernel
/-- A core in the cycle in which its quantum begins, and in a later one; and in free mode, with adds of the cycle still to come. -/
theorem witness_quantum_start : let s := sDet none fun _ => false
    s.quantumStart 0 = true ∧ ({ s with now := 5 } : State).quantumStart 0 = false ∧ base.quantumStart 0 = false ∧ .stage 3 ∈ ({ base with work := [.stage 3] } : State).work := by decide +kernel
/-- A partial of a use whose mismatch is told. -/
theorem witness_past : let s := sGate { past := [1] } [pDie 0]
    s.arriving 9 = some (pDie 0) ∧ 1 ∈ (s.gate 0 1).past ∧ 1 ∉ (sGate {} [pDie 0] |>.gate 0 1).past := by decide +kernel
/-- Two members whose operations differ: the lowest goes to its ch63, the other to the host. -/
def sMixed : State := ((sWhole 168).updCore 0 fun k => { k with channels := [(63, chBound)], ctxs := [(0, { st := .waiting, wait := some (wBar true), s := [(1, 3), (2, 9)] })] }).updCore 1 fun k =>
  { k with ctxs := [(0, { st := .waiting, wait := some { wBar true with instr := .credMin 7 1 2 }, s := [(1, 3), (2, 9)] })] }
theorem witness_mixed : let s := sMixed; let xs := (s.group 0 3).arrivals
    arr 3 0 ∈ xs ∧ (s.domain 0).launch = some lPair ∧ lPair.det = false ∧ (xs.map (·.core)).Nodup ∧ (∀ e ∈ xs, (s.ctx e.core e.ctx).st = .waiting ∧ e.root = 0 ∧ (arr 3 0).core ≤ e.core) ∧
    (∃ e ∈ xs, e.fn ≠ (arr 3 0).fn) ∧ xs.length = (s.group 0 3).members.length ∧ lPair.start + 8 * ((0 - lPair.start) / 8 + 1) + 160 ≤ s.now ∧
    ((s.core 0).chan 63).bound = true ∧ ((s.core 0).chan 63).room = true ∧ ((s.core 0).chan 63).free = some 0 ∧ ((s.core 1).chan 63).bound = false := by decide +kernel
theorem witness_mixed_ops : (∃ o, (sMixed.ctx 0 0).wait = some (wBar true) ∧ (sMixed.asIf 0 0).catOp (wBar true).instr = some o ∧ o.g = 3) ∧
    ∃ o, (sMixed.asIf 1 0).catOp (.credMin 7 1 2) = some o ∧ o.g = 3 := ⟨⟨_, rfl, rfl, rfl⟩, _, rfl, rfl⟩
/-- `READY` reads the bytes of the ring and the priority, and no other. -/
theorem witness_ready_reads : let s := sLoop chBound; let off := offOf (s.rs 1)
    s.ownAtoms (off + 4) 2 = [] ∧ s.myCore.marked (off + 4) 2 = none ∧ s.badIn 0 (off + 4) 2 = none ∧ ({ s with bad := [.pool 0 40] } : State).badIn 0 (off + 4) 2 = none := by decide +kernel
/-- A spill of whole words, and one whose last half word is not in error. -/
theorem witness_spill : let s := sRun { held0 with holds := false, live := true, acc := [1, 2, 3, 4] } (some 0)
    (4 : Nat) * accBytes 0 % 8 = 0 ∧ s.storeEcc 0 accBase 4 = none ∧ ({ s with bad := [.pool 0 accBase] } : State).storeEcc 0 accBase 4 ≠ none := by decide +kernel
/-- Headers for each code of R130's table, a bad check and a handle's words. -/
theorem witness_header_codes : let w0 := tw0 1 2 2; let w1 := tw1 1 2 2; let ok := fun (a b : Word) => setField b 56 8 (hdrCheck a b)
    let code := fun (a b : Word) => match checkHdr 1 a (ok a b) with
      | .ok _ => 0
      | .error f => f.a.toNat
    checkHdr 1 w0 w1 = .ok () ∧ code (setField w0 0 4 3) w1 = 1 ∧ code (setField w0 4 4 9) w1 = 2 ∧ code (setField w0 8 4 6) w1 = 3 ∧ code (setField w0 12 2 2) w1 = 4 ∧
    code (setField w0 56 8 1) w1 = 5 ∧ code w0 (setField w1 50 6 1) = 5 ∧ code w0 (setField w1 32 16 0) = 6 ∧ code (setField w0 8 4 1) (setField w1 0 16 0) = 7 ∧
    (match checkHdr 1 w0 (w1 ^^^ 1) with
      | .ok _ => false
      | .error f => f.code == .hdrchk) = true ∧ bits w0 0 4 = 0xB ∧ checkHandle 1 w0 0 = .ok () := by decide +kernel
/-- An `MMA` for some of the codes of R143's table. -/
theorem witness_mma_shapes : let s := sIdx.updCore 0 fun k => { k with acc := 8 }; let A := s.rt 1; let C := s.rt 3
    let code := fun (B C : TReg) (v : Option (BitVec 5)) (i : Option (List Nat)) => match s.mmaCheck 0 1 1 3 A B C v i with
      | .ok m => (0, m)
      | .error f => (f.a.toNat, if f.code = .shape then 1 else 2)
    code A C none none = (0, 2) ∧ code (tile 1 4 2 256) C none none = (1, 1) ∧ code A (tile 15 4 2 384) none none = (2, 1) ∧ code A (tile 15 2 4 384) none none = (3, 1) ∧
    code A C (some 5) (some [0, 2]) = (6, 1) ∧ AMap.find s.src.streams 5 = none ∧ (s.slot 0).iRows ≠ 0 := by decide +kernel
/-- A `PREEMPT` before the launch runs, arrivals that a stop withdraws and one that it keeps. -/
theorem witness_stop_arrivals : let l := { lPair with phase := .stopping 168 0 5 }
    takesB (sAt (lAt .setup)) (cmd 4 0 0 0) 4 [] = true ∧ (lAt .setup).phase ≠ .running ∧ let G : Group := AMap.get {} l.groups 1; l.useCommitted 168 G = true ∧
    G.arrivals ≠ [] ∧ l.useCommitted 0 G = false := by decide +kernel
/-- `RESET` of a partition whose domain runs a launch, for the queue of the launch and for another. -/
theorem witness_reset_running : let s := sAt lGroup
    takesB s (cmd 12 0 0 0) 12 [0xFF] = true ∧ s.inDom 0 0 = true ∧ (s.domain 0).launch = some lGroup ∧ lGroup.q = 0 ∧ { lGroup with q := 1 }.q ≠ 0 := by decide +kernel
/-- Reserved fields of `LOAD`, `PREEMPT` and `QUERY`. -/
theorem witness_reserved_fields : let w := (1 : Word)
    reservedClear (cmd 1 0 0 0 |>.set 4 w) [BitVec.allOnes 64, BitVec.allOnes 64] = false ∧ file0.length = arg (cmd 1 0 64 0 |>.set 4 w) 16 8 ∧ reservedClear (cmd 4 1 0 0) [] = false ∧
    arg (cmd 4 1 0 0) 0 1 = 4 ∧ sIdle.canTake 0 = true ∧ reservedClear (cmd 9 256 0 0) [0xFF] = false ∧ arg (cmd 9 256 0 0) 8 1 = 0 ∧ reservedClear (cmd 9 0x107 0 0) [0xFF] = false ∧
    3 < arg (cmd 9 0x107 0 0) 8 1 := by decide +kernel
/-- What keeps a tap from arriving, and results that a close alone delivers. -/
theorem witness_tap_parts : let s := sDet none fun _ => false; let parked := fun (o : Outst) => s.updCtx 0 0 fun k => { k with st := .parked, outs := [o] }
    s.tapReady 0 = true ∧ (s.updCore 0 fun k => { k with clearing := true }).tapReady 0 = false ∧ (s.updCtx 0 0 fun k => { k with st := .ready }).tapReady 0 = false ∧
    (s.updCtx 0 0 fun k => { k with st := .ready, retiredQ := 16384 }).tapReady 0 = true ∧ s.atClose 0 { oLoad with kind := .jq } = true ∧ s.atClose 0 oLoad = false ∧
    (parked { oLoad with kind := .atomRemote }).tapReady 0 = true ∧ (parked oLoad).tapReady 0 = false ∧ s.enginesOver 0 = true := by decide +kernel
/-- In deterministic mode: a message that no core takes, and its answer at the quantum's start. -/
def pHeld : Packet := { pk 0 (.heldIn (header 63 4 0 5 0 1 7) 0 [9]) with src := agent 0 2 }
theorem witness_held_in : let s := sDet none fun _ => false; let h := header 64 4 0 5 0 1 7; let u : State := { s with net := [{ pHeld with body := .heldIn h 0 [9] }] }
    s.linkUp 0 0 = true ∧ (s.part 0).down = false ∧ ([9] : List Word).length = hWords h ∧ hKind h = 0 ∧ s.savedDomain (s.baseOf 0) = false ∧ s.det (0 * 64) = true ∧
    s.inRange (s.baseOf 0 * 64) (hDest h) = false ∧ u.deliverable 9 = some { pHeld with body := .heldIn h 0 [9] } ∧ portOf pHeld.dst = none ∧ partOfKey pHeld.src = 0 ∧ portOf pHeld.src = some 0 := by
  decide +kernel
/-- Two words as a pair: the second does not decode, names a pending register, or stands behind a marked one; and lanes that one writes and the
other reads. -/
theorem witness_pairs : let ill := sWords 0x00021840 0x2F000000; let good := sWords 0x00021840 0x27020001; let pend := good.updMe fun k => { k with outs := [oLoad], pending := [66] }
    decodeWord (((good.core 0).fetch 0)) = .ok (.add 1 3 2) ∧ (∃ i, decodeWord ((good.core 0).fetch 4) = .ok i ∧ pairBad (.add 1 3 2) i = false) ∧
    ((ill.core 0).fetch 4).getLsbD 29 = true ∧ ((ill.core 0).fetch 4).getLsbD 31 = false ∧ (∃ e, decodeWord 0x3F800000 = .error e) ∧ 64 + (2 : BitVec 6).toNat ∈ (pend.ctx 0 0).pending ∧
    (2 : BitVec 6) ∈ sRegs (.add 1 3 2) ∧ ((0x40021840 : Word32).getLsbD 30) = true ∧ decodeWord 0x40021840 = .ok (.add 1 3 2) ∧ (pend.ctx 0 0).outstanding ≠ 0 ∧
    base.unboundV ([3] ++ vregs VType.f32.wide 5 ++ vregs VType.f32.wide 3 ++ vregs VType.f32.wide 4) = true ∧ 3 ∉ vregs VType.f32.wide 5 ∧
    3 ∈ vregs VType.f32.wide 3 ++ vregs VType.f32.wide 4 := by
  refine ⟨by decide +kernel, ⟨_, rfl, by decide +kernel⟩, by decide +kernel, by decide +kernel, ⟨_, rfl⟩, by decide +kernel, by decide +kernel, by decide +kernel, by decide +kernel,
    by decide +kernel, by decide +kernel, by decide +kernel, by decide +kernel⟩
/-- An entry that a piece of work frees in a version store is offered to a held write; one that stays is not. -/
theorem witness_offers : let u := (sLane laneH).updPart 0 fun p => { p with retained := [(0, 0, 0)] }; let t := sLane laneH
    (∃ e ∈ (t.updPart 0 fun p => p).parts, e.2.retained.length < (u.part e.1).retained.length) ∧ .room 0 3 ∈ t.heldWrites ∧
    (∀ e ∈ u.parts, (u.part e.1).retained.length ≤ e.2.retained.length) := by decide +kernel

/-! ## Words, steps and the invariant -/

theorem witness_encoding : wellFormed (.add 1 2 3) = true ∧ isWord (.add 1 2 3) = true := by decide
theorem witness_identity : namesS63 (.add 63 1 2) = true ∧ encodeWith 1 0 (.add 63 1 2) = some 0x807E0840 ∧ base.rel 0 < 4096 ∧ base.cur.ctx < 16 ∧
    (sWords 0x807E0840 0).fetchBad 0 0 = false ∧ ((sWords 0x807E0840 0).core 0).fetch 0 = 0x807E0840 := by decide +kernel
theorem witness_bundles : let s := sWords 0x00021840 0x37800000; let k := s.core 0; let u := (sWords 0x80021840 0).updMe fun m => { m with pending := [66], outs := [oLoad] }
    s.fetchBad 0 0 = false ∧ (k.fetch 0).getLsbD 31 = false ∧ (0 % 8 ≠ 4) ∧ (k.fetch 0).getLsbD 29 = false ∧ (k.fetch 4).getLsbD 31 = false ∧ (k.fetch 4).getLsbD 29 = true ∧
    (k.fetch 4).getLsbD 30 = false ∧ decodeWord (k.fetch 0) = .ok (.add 1 3 2) ∧ decodeWord (k.fetch 4) = .ok .anop ∧ (((sWords 0x37800000 0).core 0).fetch 0).getLsbD 29 = true ∧
    (((sWords 0 0x80000000).core 0).fetch 4).getLsbD 31 = true ∧ (((sWords 0x9F800000 0).core 0).fetch 0).getLsbD 31 = true ∧ decodeWord 0x9F800000 = .error .op ∧
    ((u.core 0).fetch 0).getLsbD 31 = true ∧ ((u.core 0).fetch 0).getLsbD 30 = false ∧ decodeWord ((u.core 0).fetch 0) = .ok (.add 1 3 2) ∧ 2 ∈ sRegs (.add 1 3 2) ∧
    64 + (2 : BitVec 6).toNat ∈ (u.ctx 0 0).pending ∧ ((0xC0021840 : Word32).getLsbD 30) = true ∧ decodeWord 0xC0021840 = .ok (.add 1 3 2) ∧ (u.ctx 0 0).outstanding ≠ 0 ∧
    pairBad (.vbcast 3 1) (.vadd .f32 3 3 5) = true ∧ s.cur.snap = none ∧ s.cur.fate = .retire ∧ s.unboundV [1, 2, 3] = true := by decide +kernel
theorem witness_pair : (∃ u, exec (.trap 1) base = .next u ∧ u.cur.fate ≠ .retire) ∧ ∃ u, exec (.add 1 2 3) base = .next u ∧ u.cur.fate = .retire :=
  ⟨⟨_, rfl, by decide +kernel⟩, ⟨_, rfl, by decide +kernel⟩⟩
theorem witness_step : let s := State.reset.withFetchWord 32 0x80021840; let u := { s with work := [] }; let k := s.core 0; let b := u.begin 0 0
    s.work = [.issue 0] ∧ u.runs 0 = true ∧ k.frozen = false ∧ k.tapped = false ∧ k.busy ≤ s.now ∧ (List.range 11).map (fun j => (k.last + 1 + j) % 11) = [] ++ 0 :: [1, 2, 3, 4, 5, 6, 7, 8, 9, 10] ∧
    u.mayIssue 0 0 = true ∧ u.fetchBad 0 0 = false ∧ k.form 0 = .one 0x80021840 ∧ decodeWord 0x80021840 = .ok (.add 1 3 2) ∧ (s.ctx 0 0).srep = none ∧ (s.ctx 0 0).outstanding = 0 ∧
    b.hazard [.add 1 3 2] = none := by decide +kernel
theorem witness_async : isWord (.msgArrival 0) = false ∧ ({ sBar true [] 0 with work := [.poll 0 0] }.ctx 0 0).st = .waiting ∧
    ({ sBar true [] 0 with work := [.poll 0 0] }.ctx 0 0).wait = some (wBar true) ∧ State.reset.work = [] := by decide +kernel
theorem witness_canonical : State.reset.memWf = true := by decide +kernel
end Sys2Proof.Tests
end

section
/-! The state right after bring-up (R353): what each of its places holds, read by read, and the statement about the idle module. -/

namespace Sys2Proof

/-- A sparse file that lists its default at some keys reads as one that lists nothing. -/
theorem AMap.get_map_default {α : Type} (d : α) (l : List Nat) (k : Nat) : AMap.get d (l.map fun j => (j, d)) k = d := by
  induction l with
  | nil => rfl
  | cons j r ih => simp only [List.map_cons, AMap.get, ih, ite_self]

namespace Machine

/-! ## Places at their defaults -/

/-- A queue that is not enabled offers the firmware no command (R340). -/
theorem State.canTake_of_disabled {s : State} {q : Nat} (h : (s.queue q).enabled = false) : s.canTake q = false := by
  simp [State.canTake, Queue.hasOne, h]

/-- The pool of a core as it is made reads 0: no byte is listed, and none is left undefined (R353). -/
theorem Core.byte_default (a : Nat) : ({} : Core).byte a = 0 := rfl

/-! ## The places of the reset state -/

@[simp] theorem State.reset_core (c : Nat) : State.reset.core c = {} := rfl
@[simp] theorem State.reset_ctx (c x : Nat) : State.reset.ctx c x = {} := rfl
@[simp] theorem State.reset_cell (c n : Nat) : State.reset.cell c n = {} := rfl
@[simp] theorem State.reset_part (p : Nat) : State.reset.part p = {} := rfl
@[simp] theorem State.reset_queue (q : Nat) : State.reset.queue q = {} := rfl
@[simp] theorem State.reset_domain (p : Nat) : State.reset.domain p = {} := AMap.get_map_default ({} : Domain) (List.range 64) p

/-- A listed domain of the reset state is a new one. -/
theorem State.eq_default_of_mem_reset_domains {d : Nat × Domain} (h : d ∈ State.reset.domains) : d.2 = {} := by
  obtain ⟨_, _, rfl⟩ := List.mem_map.1 h
  rfl

/-- Each partition is a domain of its own (R16): a listed domain that covers it has one partition, so it is the one that begins there. -/
theorem State.reset_baseOf (p : Nat) : State.reset.baseOf p = p := by
  unfold State.baseOf
  split
  · next d hd =>
    have hnew : d.2 = {} := State.eq_default_of_mem_reset_domains (List.mem_of_find?_eq_some hd)
    have hcovers := List.find?_some hd
    simp only [hnew, Bool.and_eq_true, decide_eq_true_eq] at hcovers
    omega
  · rfl

/-- Right after bring-up no memory lists a byte: HBM, no core is listed, and no launch is saved. -/
theorem State.reset_memWf : State.reset.memWf = true := by
  have hsaves : ∀ d ∈ State.reset.domains, d.2.saves = [] := fun d hd => by
    rw [State.eq_default_of_mem_reset_domains hd]
  simp only [State.memWf, Bool.and_eq_true, List.all_eq_true]
  refine ⟨⟨rfl, fun _ hk => nomatch hk⟩, fun d hd v hv => ?_⟩
  rw [hsaves d hd] at hv
  nomatch hv

/-- Settles O58, by reading each place of the reset state. -/
theorem resetLeavesAnIdleModule : Obligations.ResetLeavesAnIdleModule := by
  unfold Obligations.ResetLeavesAnIdleModule
  have hdomains (p : Nat) : State.reset.baseOf p = p ∧ (State.reset.domain p).log2 = 0 ∧ (State.reset.domain p).launch = none ∧
      (State.reset.domain p).queued = [] ∧ (State.reset.domain p).saves = [] ∧ (State.reset.domain p).entries = [] ∧
      (State.reset.part p).down = false := by
    simp [State.reset_baseOf]
  have hqueues (q : Nat) : (State.reset.queue q).enabled = false ∧ State.reset.canTake q = false :=
    have hoff : (State.reset.queue q).enabled = false := by simp
    ⟨hoff, State.canTake_of_disabled hoff⟩
  exact ⟨rfl, State.reset_memWf, rfl, rfl, rfl, rfl, rfl, fun p _ => hdomains p, hqueues, State.reset_cell,
    fun c a => by rw [State.reset_core, Core.byte_default], fun c x => by simp, fun _ _ => rfl, fun _ => rfl⟩

end Machine
end Sys2Proof
end

section
/-! Starting a helper and ending a task (R92 to R95, R211, R212): what each part of the two operations does, and the statement
about them. -/

namespace Sys2Proof

/-- A key reads the default, or one of its entries. -/
theorem AMap.get_eq_default_or_mem {α : Type} (d : α) (m : AMap α) (k : Nat) : AMap.get d m k = d ∨ (k, AMap.get d m k) ∈ m := by
  induction m with
  | nil => exact .inl rfl
  | cons e r ih =>
    obtain ⟨j, v⟩ := e
    simp only [AMap.get]
    split
    · next h => exact .inr (h ▸ List.mem_cons_self)
    · exact ih.imp_right (List.mem_cons_of_mem _)

namespace Machine

/-! ## The lowest free helper (R24, R92) -/

/-- Context n is a helper that the pool word allows, and it is FREE. -/
def Core.HelperIsFree (k : Core) (n : Nat) : Prop := 1 ≤ n ∧ n < k.rfu ∧ (k.ctx n).st = .free

theorem Core.freeHelper_eq_none {k : Core} (h : ∀ n, ¬k.HelperIsFree n) : k.freeHelper = none := by
  simp only [Core.freeHelper, firstOf, List.find?_eq_none, List.mem_map, List.mem_range, decide_eq_true_eq]
  rintro _ ⟨i, hi, rfl⟩ hfree
  exact h (i + 1) ⟨by omega, by omega, hfree⟩

theorem Core.freeHelper_eq_some {k : Core} {n : Nat} (h : k.HelperIsFree n) (hmin : ∀ m, m < n → ¬k.HelperIsFree m) :
    k.freeHelper = some n := by
  obtain ⟨hpos, hrfu, hfree⟩ := h
  have hfirst : (List.range (k.rfu - 1)).find? ((fun x => decide ((k.ctx x).st = .free)) ∘ (· + 1)) = some (n - 1) := by
    rw [List.find?_range_eq_some]
    refine ⟨?_, List.mem_range.2 (by omega), fun j hj => ?_⟩
    · simpa [Nat.sub_add_cancel hpos] using hfree
    · have hbusy : (k.ctx (j + 1)).st ≠ .free := fun hj' => hmin (j + 1) (by omega) ⟨by omega, by omega, hj'⟩
      simpa using hbusy
  simp only [Core.freeHelper, firstOf, List.find?_map, hfirst, Option.map_some, Nat.sub_add_cancel hpos]

/-! ## The context of a helper as START leaves it (R12, R23) -/

/-- The context of helper n as START by the issuing context leaves it. -/
def State.startedCtx (s : State) (n pc : Nat) (msg : Word) : Ctx :=
  { (s.ctx s.cur.core n).begin_ pc msg (s.costNow s.cur.core n) with startOn := s.covered s.cur.core s.cur.ctx .core }

/-- Its scalar registers are zero, but `msg` in s60. -/
theorem State.sreg_of_startedCtx {s t : State} {c n m pc : Nat} {msg : Word} (h : t.ctx c n = s.startedCtx m pc msg) {r : BitVec 6}
    (h63 : r ≠ 63) : t.sreg c n r = if r = 60 then msg else 0 := by
  have hget (j : Nat) : AMap.get 0 (t.ctx c n).s j = if 60 = j then msg else 0 := by rw [h]; rfl
  have h60 : 60 = r.toNat ↔ r = 60 := ⟨fun e => BitVec.eq_of_toNat_eq e.symm, fun e => e ▸ rfl⟩
  simp only [State.sreg, if_neg h63, hget, h60]
  split
  · next h0 => rw [h0]; rfl
  · rfl

/-- Every v register of a context that lists none reads as zero. -/
theorem Ctx.vr_of_nil {k : Ctx} (h : k.v = []) (v : Nat) : k.vr v = zeroLanes := by
  simp only [Ctx.vr, h, AMap.get_nil]
  rfl

/-- Helper n of the issuing core is started. -/
def State.startHelper (s : State) (n pc : Nat) (msg : Word) : State := s.updCtx s.cur.core n fun _ => s.startedCtx n pc msg

theorem State.ctx_startHelper (s : State) (n pc y : Nat) (msg : Word) :
    (s.startHelper n pc msg).ctx s.cur.core y = if n = y then s.startedCtx n pc msg else s.ctx s.cur.core y :=
  State.ctx_updCtx s s.cur.core n y _
theorem onlyCore_startHelper (s : State) (n pc : Nat) (msg : Word) : OnlyCore s (s.startHelper n pc msg) s.cur.core :=
  onlyCore_updCore s s.cur.core fun k => k.setCtx n (s.startedCtx n pc msg)

/-! ## What a helper's first bundle waits for (R94) -/

section Release
variable {s : State} {c y : Nat} {o : Outst}

/-- A release outside deterministic mode covers each open access of its context. -/
theorem State.id_mem_covered {sc : Scope} (hdet : s.det c = false) (ho : o ∈ (s.ctx c y).outs) (hopen : o.open_ = true) :
    o.id ∈ s.covered c y sc := by
  have hown : o.id ∈ s.ownOpen c y sc := by
    simp only [State.ownOpen, hdet]
    exact List.mem_append_left _ (List.mem_map_of_mem (List.mem_filter.2 ⟨ho, hopen⟩))
  exact List.mem_append_left _ hown

/-- An open access of some context of the core is still pending. -/
theorem State.pendingIds_of_open {ids : List Nat} (ho : o ∈ (s.ctx c y).outs) (hopen : o.open_ = true) (hid : o.id ∈ ids) :
    s.pendingIds c ids = true := by
  have hlisted : (y, s.ctx c y) ∈ (s.core c).ctxs := by
    refine (AMap.get_eq_default_or_mem ({} : Ctx) (s.core c).ctxs y).resolve_left fun hnew => ?_
    have hnil : (s.ctx c y).outs = [] := congrArg Ctx.outs hnew
    simp [hnil] at ho
  have hany : (s.core c).ctxs.any (fun k => k.2.outs.any fun q => q.id == o.id && q.open_) = true :=
    List.any_eq_true.2 ⟨_, hlisted, List.any_eq_true.2 ⟨o, ho, by simp [hopen]⟩⟩
  exact List.any_eq_true.2 ⟨o.id, hid, by simp only [hany, Bool.or_true, Bool.true_or]⟩

/-- A context issues nothing while what its start waits for is pending. -/
theorem State.mayIssue_of_startOn_pending (h : s.pendingIds c (s.ctx c y).startOn = true) : s.mayIssue c y = false := by
  simp [State.mayIssue, h]

end Release

/-! ## START, case by case (R92) -/

section Start
variable {s : State} {d a b : BitVec 6}

theorem execStart_of_bad_target (h : 0xFFFC < (s.rs a).toNat ∨ (s.rs a).toNat % 4 ≠ 0) :
    execStart d a b s = .next (s.raise (flt .align 0 (s.rs a) 0)) := by
  simp only [execStart, gt_iff_lt, if_pos h]

theorem execStart_of_no_helper (hle : (s.rs a).toNat ≤ 0xFFFC) (hal : (s.rs a).toNat % 4 = 0) (h : s.myCore.freeHelper = none) :
    execStart d a b s = .next (s.ws d 0) := by
  have hgood : ¬((s.rs a).toNat > 0xFFFC ∨ (s.rs a).toNat % 4 ≠ 0) := by omega
  simp only [execStart, if_neg hgood, h]

theorem execStart_of_helper {n : Nat} (hle : (s.rs a).toNat ≤ 0xFFFC) (hal : (s.rs a).toNat % 4 = 0)
    (h : s.myCore.freeHelper = some n) :
    execStart d a b s = .next ((s.startHelper n (s.rs a).toNat (s.rs b)).ws d (nat64 n)) := by
  have hgood : ¬((s.rs a).toNat > 0xFFFC ∨ (s.rs a).toNat % 4 ≠ 0) := by omega
  simp only [execStart, if_neg hgood, h]
  rfl

end Start

/-- R92 to R94: the fault, the pool without a free helper, the start of the lowest free one, and what holds its first bundle back. -/
theorem startTakesTheLowestFreeHelper : StartTakesTheLowestFreeHelper := by
  intro s d a b
  refine ⟨fun hbad => ⟨_, execStart_of_bad_target hbad, rfl⟩,
    fun hle hal hnone => ⟨_, execStart_of_no_helper hle hal (Core.freeHelper_eq_none hnone), writes_ws s d 0⟩,
    fun hle hal hme n hfree hmin => ⟨_, execStart_of_helper hle hal (Core.freeHelper_eq_some hfree hmin), ?_⟩,
    fun n y o ho hopen hid => State.mayIssue_of_startOn_pending (State.pendingIds_of_open ho hopen hid)⟩
  have hn : n ≠ s.cur.ctx := by
    rintro rfl
    exact hme hfree.2.2
  obtain ⟨⟨⟨hcore, -, hothers⟩, -, -⟩, hd⟩ := writes_ws (s.startHelper n (s.rs a).toNat (s.rs b)) d (nat64 n)
  generalize (s.startHelper n (s.rs a).toNat (s.rs b)).ws d (nat64 n) = t at hcore hothers hd ⊢
  have hctx (y : Nat) (hy : y ≠ s.cur.ctx) :
      t.ctx s.cur.core y = if n = y then s.startedCtx n (s.rs a).toNat (s.rs b) else s.ctx s.cur.core y :=
    (hothers y hy).trans (s.ctx_startHelper n _ y _)
  have hnew : t.ctx s.cur.core n = s.startedCtx n (s.rs a).toNat (s.rs b) := (hctx n hn).trans (if_pos rfl)
  have hsreg (r : BitVec 6) (h63 : r ≠ 63) := State.sreg_of_startedCtx hnew h63
  refine ⟨(onlyCore_startHelper s n _ _).trans hcore, fun y hyn hy => (hctx y hy).trans (if_neg (Ne.symm hyn)), hd, ?_⟩
  simp only [hnew]
  exact ⟨rfl, rfl, (hsreg 60 (by decide)).trans (if_pos rfl), fun r h60 h63 => (hsreg r h63).trans (if_neg h60),
    Ctx.vr_of_nil rfl, fun _ => rfl, fun _ => rfl, rfl, rfl, rfl, rfl, rfl, rfl, rfl, rfl, rfl, rfl,
    fun hdet o ho hopen => State.id_mem_covered hdet ho hopen⟩

/-! ## Packets leave the cores and HBM alone -/

section Packets
variable (s : State)

@[simp] theorem State.count_cores (p e n : Nat) : (s.count p e n).cores = s.cores := by unfold State.count; split <;> rfl
@[simp] theorem State.count_mem (p e n : Nat) : (s.count p e n).mem = s.mem := by unfold State.count; split <;> rfl
@[simp] theorem State.transmit_cores (c x d : Nat) (b : Body) (w : List Nat) (sc : Scope) (now : Bool) :
    (s.transmit c x d b w sc now).cores = s.cores := State.count_cores _ _ _ _
@[simp] theorem State.transmit_mem (c x d : Nat) (b : Body) (w : List Nat) (sc : Scope) (now : Bool) :
    (s.transmit c x d b w sc now).mem = s.mem := State.count_mem _ _ _ _
@[simp] theorem State.sendRelease_cores (c : Nat) (h : Word) (port : Option Nat) (pkg : Nat) :
    (s.sendRelease c h port pkg).cores = s.cores := by
  cases port <;> exact State.transmit_cores _ _ _ _ _ _ _ _
@[simp] theorem State.sendRelease_mem (c : Nat) (h : Word) (port : Option Nat) (pkg : Nat) :
    (s.sendRelease c h port pkg).mem = s.mem := by
  cases port <;> exact State.transmit_mem _ _ _ _ _ _ _ _

end Packets

/-! ## Freeing a ring slot (R211 steps 1 and 2) -/

/-- Freeing a slot of a channel empties it and leaves the others. -/
theorem Channel.find_vacate (ch : Channel) (i j : Nat) :
    AMap.find (ch.vacate i).slots j = if i = j then none else AMap.find ch.slots j := by
  unfold Channel.vacate
  split
  · exact AMap.find_erase ch.slots i j
  · next h =>
    split
    · next e => simpa [e] using h
    · rfl

/-- RELEASE goes to the sender of the request in a slot, where nothing has answered it (R177). -/
def State.releaseSlot (s : State) (c h i : Nat) : State :=
  match AMap.find ((s.core c).chan h).slots i with
  | some t => if t.kind = SlotKind.msg ∧ t.answered = false then s.sendRelease c t.hdr t.port t.pkg else s
  | none => s

section Slots
variable (s : State) (c : Nat)

theorem State.releaseSlot_cases (h i : Nat) :
    s.releaseSlot c h i = s ∨ ∃ t : Slot, s.releaseSlot c h i = s.sendRelease c t.hdr t.port t.pkg := by
  unfold State.releaseSlot
  split
  · split
    · exact .inr ⟨_, rfl⟩
    · exact .inl rfl
  · exact .inl rfl
@[simp] theorem State.releaseSlot_cores (h i : Nat) : (s.releaseSlot c h i).cores = s.cores := by
  obtain e | ⟨t, e⟩ := s.releaseSlot_cases c h i <;> simp [e]
@[simp] theorem State.releaseSlot_mem (h i : Nat) : (s.releaseSlot c h i).mem = s.mem := by
  obtain e | ⟨t, e⟩ := s.releaseSlot_cases c h i <;> simp [e]

theorem State.freeSlot_eq (h i : Nat) : s.freeSlot c h i = (s.releaseSlot c h i).updCore c fun k => k.updChan h (·.vacate i) := rfl
theorem State.freeSlot_core (h i : Nat) : (s.freeSlot c h i).core c = (s.core c).updChan h (·.vacate i) := by
  have hcore : (s.releaseSlot c h i).core c = s.core c := congrArg (AMap.get ({} : Core) · c) (s.releaseSlot_cores c h i)
  rw [State.freeSlot_eq, State.core_updCore_same, hcore]

/-- Freeing the slot that a context holds, if any, empties that slot and leaves every other of the core's. -/
theorem State.freeSlot?_find (o : Option (Nat × Nat)) (h i : Nat) :
    AMap.find (((s.freeSlot? c o).core c).chan h).slots i =
      if o = some (h, i) then none else AMap.find ((s.core c).chan h).slots i := by
  cases o with
  | none => rfl
  | some p =>
    obtain ⟨g, j⟩ := p
    simp only [State.freeSlot?, State.freeSlot_core, Option.some.injEq, Prod.mk.injEq]
    by_cases hg : g = h
    · subst hg
      simp [Channel.find_vacate]
    · simp [Core.updChan, Core.chan_setChan, hg]
@[simp] theorem State.freeSlot?_byte (o : Option (Nat × Nat)) (a : Nat) :
    ((s.freeSlot? c o).core c).byte a = (s.core c).byte a := by
  cases o with
  | none => rfl
  | some p => exact congrArg (·.byte a) (s.freeSlot_core c p.1 p.2)
@[simp] theorem State.freeSlot?_mem (o : Option (Nat × Nat)) : (s.freeSlot? c o).mem = s.mem := by
  cases o with
  | none => rfl
  | some p => exact s.releaseSlot_mem c p.1 p.2

end Slots

/-! ## ENDT and TASK_END, case by case (R95, R211) -/

/-- The context of a task that has ended (R211 step 3). -/
def Ctx.endTask (k : Ctx) : Ctx :=
  { k with st := .free, ending := false, task := none, heldQ := none, streams := [], srep := none, nests := [], pending := [] }

/-! A context is apart from the channels and the pool of its core. -/

@[simp] theorem Core.setCtx_chan (k : Core) (x h : Nat) (v : Ctx) : (k.setCtx x v).chan h = k.chan h := rfl
@[simp] theorem Core.setCtx_byte (k : Core) (x a : Nat) (v : Ctx) : (k.setCtx x v).byte a = k.byte a := rfl

section End
variable {s : State} {c x : Nat}

theorem execEndt_of_outstanding (h : s.me.outstanding ≠ 0) : execEndt s = .next s.parkMe := by
  simp only [execEndt, if_pos h]
theorem execEndt_of_none_outstanding (h : s.me.outstanding = 0) :
    execEndt s = .next (s.updMe fun k => { k with st := .parked, ending := true, streams := [] }) := by
  simp [execEndt, h]

/-- A task that is not over stays: its context is not ending, results are outstanding, or pushes wait for room in the lanes (R116). -/
theorem execTaskEnd_of_unfinished (h : (s.ctx c x).ending = false ∨ (s.ctx c x).outs ≠ [] ∨ (s.ctx c x).push ≠ []) :
    execTaskEnd c x s = .next s := by
  have hnot : ¬((s.ctx c x).ending && (s.ctx c x).outs.isEmpty && (s.ctx c x).push.isEmpty) = true := by
    simp only [Bool.and_eq_true, List.isEmpty_iff]
    rintro ⟨⟨hend, houts⟩, hpush⟩
    simp [hend, houts, hpush] at h
  simp only [execTaskEnd, if_neg hnot]
theorem execTaskEnd_of_finished (hend : (s.ctx c x).ending = true) (houts : (s.ctx c x).outs = []) (hpush : (s.ctx c x).push = []) :
    execTaskEnd c x s =
      .next (((s.freeSlot? c (s.ctx c x).task).freeSlot? c (s.ctx c x).heldQ).updCtx c x Ctx.endTask) := by
  simp only [execTaskEnd, hend, houts, hpush, List.isEmpty_nil, Bool.and_self, if_true]
  rfl

end End

/-- R95, R96, R211, R212: NOP, both cases of ENDT, and TASK_END before and after the task is over. -/
theorem endtEndsTheTaskOnceNothingIsOutstanding : EndtEndsTheTaskOnceNothingIsOutstanding := by
  intro s c x
  refine ⟨⟨s, rfl, rfl⟩, fun h => ⟨_, execEndt_of_outstanding h, rfl⟩,
    fun h => ⟨_, execEndt_of_none_outstanding h, onlyMe_updMe s _, State.me_updMe s _⟩,
    fun h => ⟨s, execTaskEnd_of_unfinished h, rfl⟩,
    fun hend houts hpush => ⟨_, execTaskEnd_of_finished hend houts hpush, ?_⟩⟩
  simp only [State.ctx_updCtx_same, State.core_updCtx_same]
  refine ⟨rfl, rfl, rfl, rfl, fun h i htask => ?_, fun a => ?_, ?_⟩
  · simp [State.freeSlot?_find, htask]
  · simp
  · simp

/-- Settles O4, from its two parts: the start of a helper and the end of a task. -/
theorem tasksStartAndEnd : Obligations.TasksStartAndEnd :=
  ⟨startTakesTheLowestFreeHelper, endtEndsTheTaskOnceNothingIsOutstanding⟩

end Machine
end Sys2Proof
end

section
/-! What a step keeps: the canonical form of every memory, and, where an instruction word acts, everything outside its own core. -/

namespace Sys2Proof

/-- A check that holds of every entry of a file and of the default holds of what any key reads. -/
theorem AMap.all_get {α : Type} {d : α} {p : α → Bool} {m : AMap α} (hd : p d = true) (h : (m.all fun e => p e.2) = true) (k : Nat) :
    p (AMap.get d m k) = true := by
  obtain hget | hget := AMap.get_eq_default_or_mem d m k
  · rw [hget, hd]
  · exact List.all_eq_true.1 h _ hget

/-- A check that holds of every entry holds of those that stay. -/
theorem AMap.all_filter {α : Type} {p : α → Bool} {q : Nat × α → Bool} {m : AMap α} (h : (m.all fun e => p e.2) = true) :
    ((m.filter q).all fun e => p e.2) = true :=
  List.all_eq_true.2 fun e he => List.all_eq_true.1 h e (List.mem_of_mem_filter he)

/-- A check that holds of every entry holds of what is found. -/
theorem AMap.all_find {α : Type} {p : α → Bool} {m : AMap α} {k : Nat} {v : α} (h : (m.all fun e => p e.2) = true)
    (hf : AMap.find m k = some v) : p v = true := by
  induction m with
  | nil => cases hf
  | cons e r ih =>
    rw [List.all_cons, Bool.and_eq_true] at h
    obtain ⟨hw, hr⟩ := h
    simp only [AMap.find] at hf
    split at hf
    · exact Option.some.inj hf ▸ hw
    · exact ih hr hf

/-- A check that holds of every entry holds of them after a store of a value that meets it. -/
theorem AMap.all_set {α : Type} {p : α → Bool} {m : AMap α} {k : Nat} {v : α} (h : (m.all fun e => p e.2) = true) (hv : p v = true) :
    ((AMap.set m k v).all fun e => p e.2) = true := by
  induction m with
  | nil => simp [AMap.set, hv]
  | cons e r ih =>
    rw [List.all_cons, Bool.and_eq_true] at h
    obtain ⟨hw, hr⟩ := h
    simp only [AMap.set]
    split
    · simp [hv, hr]
    · split
      · simp [hv, hr, hw]
      · simp [ih hr, hw]

namespace Machine

/-! ## The two readings of what is kept -/

/-- The memories that a saved launch holds are in canonical form. -/
def Save.memWf (v : Save) : Bool := v.cores.all fun e => e.2.memWf
/-- The memories that the saved launches of a domain hold are in canonical form. -/
def Domain.memWf (d : Domain) : Bool := d.saves.all fun v => v.2.memWf

theorem State.memWf_iff (s : State) : s.memWf = true ↔
    Memory.wf zeroByte s.mem = true ∧ (s.cores.all fun e => e.2.memWf) = true ∧ (s.domains.all fun e => e.2.memWf) = true := by
  simp only [State.memWf, Bool.and_eq_true, and_assoc]
  rfl

/-- What a word that issues in r leaves as it is: HBM, every other core, where it issues, the clock, the work of the cycle, the copies and
what has left for other packages. -/
def SameOutside (r s : State) : Prop :=
  s.mem = r.mem ∧ (∀ d, d ≠ r.cur.core → s.core d = r.core d) ∧ s.cur.core = r.cur.core ∧ s.cur.ctx = r.cur.ctx ∧ s.now = r.now ∧
    s.work = r.work ∧ s.jobs = r.jobs ∧ s.flazar = r.flazar

/-- What an operation keeps, in two readings that go through the same operations: every memory is in canonical form; or, for a word that
issues in r, all that `SameOutside` names is as in r. -/
def State.Keeps (s : State) : Option State → Prop
  | none => s.memWf = true
  | some r => SameOutside r s

/-- The cores that an operation may change in a reading: any, or the core that issues in r. -/
def Reaches : Option State → Nat → Prop
  | none, _ => True
  | some r, c => c = r.cur.core

/-- An outcome is a next state of which a reading holds. -/
def KeepsOut (o : Out) (fr : Option State) : Prop := ∃ t, o = .next t ∧ t.Keeps fr

variable {fr : Option State} {s : State}

/-- What an operation that may fail answers meets p, where it does not fail. -/
def OnOk {ε α : Type} (p : α → Prop) : Except ε α → Prop
  | .ok a => p a
  | .error _ => True
theorem OnOk.of_eq {ε α : Type} {p : α → Prop} {r : Except ε α} {a : α} (h : OnOk p r) (e : r = .ok a) : p a := by
  rw [e] at h
  exact h

theorem KeepsOut.next (hs : s.Keeps fr) : KeepsOut (.next s) fr := ⟨s, rfl, hs⟩

/-- The issuing core is one that an operation may change. -/
theorem State.Keeps.reaches (hs : s.Keeps fr) : Reaches fr s.cur.core := by
  cases fr with
  | none => trivial
  | some r =>
    obtain ⟨-, -, hcore, -⟩ := hs
    exact hcore

/-! ## Updates of one place -/

theorem State.Keeps.core_memWf (hs : s.Keeps none) (c : Nat) : (s.core c).memWf = true := by
  obtain ⟨-, hcores, -⟩ := s.memWf_iff.1 hs
  exact AMap.all_get (d := {}) rfl hcores c

theorem State.Keeps.domain_memWf (hs : s.Keeps none) (b : Nat) : (s.domain b).memWf = true := by
  obtain ⟨-, -, hdomains⟩ := s.memWf_iff.1 hs
  exact AMap.all_get (d := ({} : Domain)) (p := Domain.memWf) rfl hdomains b

/-- An update of a core that may be changed, which keeps the canonical form of its memories. -/
theorem State.Keeps.updCore {c : Nat} {f : Core → Core} (hs : s.Keeps fr) (hf : ∀ k, k.memWf = true → (f k).memWf = true)
    (hc : Reaches fr c := by trivial) : (s.updCore c f).Keeps fr := by
  cases fr with
  | none =>
    obtain ⟨hmem, hcores, hdomains⟩ := s.memWf_iff.1 hs
    exact (State.memWf_iff _).2 ⟨hmem, AMap.all_set hcores (hf _ (hs.core_memWf c)), hdomains⟩
  | some r =>
    obtain ⟨hmem, hcores, hrest⟩ := hs
    refine ⟨hmem, fun d hd => ?_, hrest⟩
    have hcd : c ≠ d := fun e => hd (e.symm.trans hc)
    rw [State.core_updCore_ne s f hcd, hcores d hd]
/-- An update of a domain that keeps the canonical form of what its saved launches hold. -/
theorem State.Keeps.updDomain {b : Nat} {f : Domain → Domain} (hs : s.Keeps fr) (hf : ∀ d, d.memWf = true → (f d).memWf = true) :
    (s.updDomain b f).Keeps fr := by
  cases fr with
  | none =>
    obtain ⟨hmem, hcores, hdomains⟩ := s.memWf_iff.1 hs
    exact (State.memWf_iff _).2 ⟨hmem, hcores, AMap.all_set (p := Domain.memWf) hdomains (hf _ (hs.domain_memWf b))⟩
  | some r => exact hs
theorem State.Keeps.setCore {c : Nat} {k : Core} (hs : s.Keeps fr) (hk : k.memWf = true) (hc : Reaches fr c := by trivial) :
    (s.setCore c k).Keeps fr := hs.updCore (f := fun _ => k) (fun _ _ => hk)
theorem State.Keeps.updLaunch {b : Nat} {f : Launch → Launch} (hs : s.Keeps fr) : (s.updLaunch b f).Keeps fr := hs.updDomain fun _ hd => hd
theorem State.Keeps.setCtx {c x : Nat} {v : Ctx} (hs : s.Keeps fr) (hc : Reaches fr c := by trivial) : (s.setCtx c x v).Keeps fr :=
  hs.updCore fun _ hk => hk
theorem State.Keeps.updCtx {c x : Nat} {f : Ctx → Ctx} (hs : s.Keeps fr) (hc : Reaches fr c := by trivial) : (s.updCtx c x f).Keeps fr :=
  hs.setCtx
theorem State.Keeps.updMe {f : Ctx → Ctx} (hs : s.Keeps fr) : (s.updMe f).Keeps fr := hs.updCtx hs.reaches
theorem State.Keeps.setCell {c n : Nat} {v : Cell} (hs : s.Keeps fr) (hc : Reaches fr c := by trivial) : (s.setCell c n v).Keeps fr :=
  hs.updCore fun _ hk => hk
theorem State.Keeps.updPart {p : Nat} {f : Part → Part} (hs : s.Keeps fr) : (s.updPart p f).Keeps fr := by cases fr <;> exact hs
theorem State.Keeps.updQueue {q : Nat} {f : Queue → Queue} (hs : s.Keeps fr) : (s.updQueue q f).Keeps fr := by cases fr <;> exact hs

/-- The fields that neither reading speaks of. -/
theorem State.Keeps.elsewhere {ready : Bool} {package : BitVec 16} {window : Word} {bar4Log cap : Nat} {parts : AMap Part} {queues : AMap Queue}
    {bad : List ErrSite} {net : List Packet} {loads : List LoadReq} {fins : List Fin} {bar4 : Word} {uid free : Nat}
    {inputs : List (List Instr)} {past : List Moment} (hs : s.Keeps fr) :
    ({ s with ready := ready, package := package, window := window, bar4Log := bar4Log, cap := cap, parts := parts, queues := queues, bad := bad
              net := net, loads := loads, fins := fins, bar4 := bar4, uid := uid, free := free, inputs := inputs
              past := past } : State).Keeps fr := by
  cases fr <;> exact hs
/-- The fields that hold no memory. -/
theorem State.Keeps.memories {now : Nat} {ready : Bool} {package : BitVec 16} {window : Word} {bar4Log cap : Nat} {parts : AMap Part}
    {queues : AMap Queue} {bad : List ErrSite} {net : List Packet} {loads : List LoadReq} {jobs : List CopyJob} {fins : List Fin}
    {flazar : List (Nat × Nat × List Word)} {bar4 : Word} {cur : Cur} {uid free : Nat} {work : List Work} {inputs : List (List Instr)}
    {past : List Moment} (hs : s.Keeps none) :
    ({ s with now := now, ready := ready, package := package, window := window, bar4Log := bar4Log, cap := cap, parts := parts, queues := queues
              bad := bad, net := net, loads := loads, jobs := jobs, fins := fins, flazar := flazar, bar4 := bar4, cur := cur, uid := uid
              free := free, work := work, inputs := inputs, past := past } : State).Keeps none := hs

/-- A choice keeps what both of its branches keep. -/
theorem State.Keeps.ite {p : Prop} [Decidable p] {t u : State} (ht : t.Keeps fr) (hu : u.Keeps fr) : (if p then t else u).Keeps fr := by
  split
  · exact ht
  · exact hu
/-- A loop keeps what each of its rounds keeps. -/
theorem State.Keeps.foldl {α : Type} {f : State → α → State} (hs : s.Keeps fr) (hf : ∀ t a, t.Keeps fr → (f t a).Keeps fr) (l : List α) :
    (l.foldl f s).Keeps fr := List.foldlRecOn l f hs fun t ht a _ => hf t a ht

theorem State.Keeps.foldl_mem {α : Type} {f : State → α → State} {l : List α} (hs : s.Keeps fr)
    (hf : ∀ t, ∀ a ∈ l, t.Keeps fr → (f t a).Keeps fr) : (l.foldl f s).Keeps fr := List.foldlRecOn l f hs fun t ht a ha => hf t a ha ht

/-! ## Bytes of a pool -/

theorem Core.memWf_iff (k : Core) : k.memWf = true ↔ Memory.wf zeroByte k.pool = true ∧ Memory.wf brkByte k.imem = true := by
  simp only [Core.memWf, Bool.and_eq_true]
theorem Core.memWf_putByte {k : Core} (h : k.memWf = true) (a : Nat) (b : Byte) : (k.putByte a b).memWf = true := by
  rw [Core.memWf_iff] at h ⊢
  exact ⟨Memory.wf_write _ _ _ _ h.1, h.2⟩
theorem Core.memWf_put {k : Core} (h : k.memWf = true) (a : Nat) (bs : List Byte) : (k.put a bs).memWf = true := by
  induction bs generalizing k a with
  | nil => exact h
  | cons b r ih => exact ih (Core.memWf_putByte h a b) (a + 1)
theorem Core.memWf_blur {k : Core} (h : k.memWf = true) (a f n : Nat) : (k.blur a f n).memWf = true := by
  induction n generalizing k a f with
  | zero => exact h
  | succ n ih => exact ih (k := { k with undef := AMap.set k.undef a f }) h (a + 1) (f + 1)
theorem Core.memWf_land {k : Core} (h : k.memWf = true) (n : Nat) (t : Slot) (ws : List Word) (f : Nat) : (k.land n t ws f).memWf = true := by
  unfold Core.land
  dsimp only
  split
  · exact h
  · exact Core.memWf_blur (Core.memWf_put h _ _) _ _ _
theorem Core.memWf_haltAll {k : Core} (h : k.memWf = true) : k.haltAll.memWf = true :=
  List.foldlRecOn (motive := fun k : Core => k.memWf = true) _ _ h fun _ hk _ _ => hk
end Machine
end Sys2Proof
end

section
/-! What the operations that all instructions share keep: records, completions, packets, counters and accesses to memory. -/

-- One proof at a time: so many short ones side by side take more threads than the check's memory limit holds.
set_option Elab.async false

namespace Sys2Proof.Machine
open Sys2Proof
variable {fr : Option State} {s : State}
variable {c ctx d from_ h n off p pa who x : Nat} {va : Word} {b : Body} {reserved versioned : Bool} {f : Flt} {bs : List Byte}
variable {waits : List Nat} {rec : List Word} {chan : Option Nat} {sc : Scope} {k : State}

theorem State.Keeps.asIf (hs : s.Keeps none) : (s.asIf c x).Keeps none := hs
theorem State.Keeps.fare {f : Fate} (hs : s.Keeps fr) : (s.fare f).Keeps fr := hs
theorem State.Keeps.fresh (hs : s.Keeps fr) : (s.fresh).Keeps fr := hs
theorem State.Keeps.push {w : List Work} (hs : s.Keeps none) : (s.push w).Keeps none := hs
theorem State.Keeps.pushFirst {l : List Instr} (hs : s.Keeps none) : (s.pushFirst l).Keeps none := hs
theorem State.Keeps.count {e : Nat} (hs : s.Keeps fr) : (s.count p e n).Keeps fr := .ite hs (.updPart hs)
theorem State.Keeps.ws {n : BitVec 6} {v : Word} (hs : s.Keeps fr) : (s.ws n v).Keeps fr := .updMe hs
theorem State.Keeps.wt {n : BitVec 4} {v : TReg} (hs : s.Keeps fr) : (s.wt n v).Keeps fr := .updMe hs
theorem State.Keeps.raiseFlags {f : BitVec 6} (hs : s.Keeps fr) : (s.raiseFlags f).Keeps fr :=
  hs.updMe (f := fun k => { k with flags := k.flags ||| f })
theorem State.Keeps.clearBad (hs : s.Keeps fr) : (s.clearBad c off n).Keeps fr := hs
theorem State.Keeps.post {q : Nat} {es : List (List Word)} (hs : s.Keeps fr) : (s.post q es).Keeps fr := .updQueue hs
theorem State.Keeps.toHost (hs : s.Keeps fr) : (s.toHost p rec).Keeps fr := .post hs
theorem State.Keeps.land {slot : Slot} {ws : List Word} (hs : s.Keeps fr) (hc : Reaches fr c := by trivial) :
    (s.land c h slot ws).Keeps fr :=
  hs.updCore (f := fun k => k.land h { slot with landed := s.now } ws s.free) fun _ hk => Core.memWf_land hk _ _ _ _
/-- The state in which a record for core c finds its place: a reservation is given up, or none. -/
def State.placing (s : State) (c : Nat) (chan : Option Nat) (reserved : Bool) : State :=
  let t := s.count (c / 64) 15 1
  match chan with
  | some h => if reserved then t.updCore c (fun k => k.updChan h fun ch => { ch with reserved := ch.reserved - 1 }) else t
  | none => t
theorem State.Keeps.placing (hs : s.Keeps fr) (hc : Reaches fr c := by trivial) :
    (s.placing c chan reserved).Keeps fr := by
  unfold State.placing
  split
  · exact .ite (.updCore (.count hs) fun _ h => h) (.count hs)
  · exact .count hs
/-- A record of core c lands in the channel named or in ch63, or goes to the host (R178). -/
def State.placeRec (s : State) (c : Nat) (chan : Option Nat) (rec : List Word) : State × Bool :=
  let k := s.core c
  let slot : Slot := { kind := .fault }
  if k.frozen || (s.part (c / 64)).down then (s.toHost (c / 64) rec, true)
  else
    let fits := fun h => (k.chan h).bound && (k.chan h).room
    match chan with
    | some h =>
      if fits h then (s.land c h slot rec, false)
      else if fits 63 then (s.land c 63 slot rec, false) else (s.toHost (c / 64) rec, true)
    | none => if fits 63 then (s.land c 63 slot rec, false) else (s.toHost (c / 64) rec, true)
theorem State.place_eq (s : State) (c : Nat) (chan : Option Nat) (reserved : Bool) (rec : List Word) :
    s.place c chan reserved rec = (s.placing c chan reserved).placeRec c chan rec := rfl
theorem State.placeRec_cases (s : State) (c : Nat) (chan : Option Nat) (rec : List Word) :
    s.placeRec c chan rec = (s.toHost (c / 64) rec, true) ∨ ∃ h, s.placeRec c chan rec = (s.land c h { kind := .fault } rec, false) := by
  dsimp only [State.placeRec]
  split
  · exact .inl rfl
  · split
    · split
      · exact .inr ⟨_, rfl⟩
      · split
        · exact .inr ⟨63, rfl⟩
        · exact .inl rfl
    · split
      · exact .inr ⟨63, rfl⟩
      · exact .inl rfl
theorem State.Keeps.place (hs : s.Keeps fr) (hc : Reaches fr c := by trivial) :
    (s.place c chan reserved rec).1.Keeps fr := by
  rw [State.place_eq]
  obtain h | ⟨_, h⟩ := (s.placing c chan reserved).placeRec_cases c chan rec <;> rw [h]
  · exact .toHost (.placing hs)
  · exact .land (.placing hs)
theorem State.Keeps.dropResv (hs : s.Keeps fr) (hc : Reaches fr c := by trivial) : (s.dropResv c x).Keeps fr := by
  dsimp only [State.dropResv]
  split
  · exact .updCtx (.updCore hs (fun _ h => h))
  · exact hs
theorem State.Keeps.updTt {k : Nat} {f : Turntable → Turntable} (hs : s.Keeps fr) : (s.updTt p k f).Keeps fr := .updPart hs
theorem State.Keeps.updSlot {f : TSlot → TSlot} (hs : s.Keeps fr) : (s.updSlot c f).Keeps fr := .updTt hs
theorem State.Keeps.dropLease (hs : s.Keeps fr) : (s.dropLease c).Keeps fr := .ite (.updSlot hs) hs
theorem State.Keeps.fateOf {host : Bool} (hs : s.Keeps fr) (hc : Reaches fr c := by trivial) : (s.fateOf c x host).Keeps fr := by
  dsimp only [State.fateOf]
  refine .ite ?_ ?_
  · exact .updCore (.dropLease (.ite (.foldl hs (fun t e h => .dropResv h) _) (.dropResv hs))) (fun _ h => h)
  · refine .ite ?_ ?_
    · exact .updCtx (.dropLease (.ite (.foldl hs (fun t e h => .dropResv h) _) (.dropResv hs)))
    · exact .updCtx (.ite (.foldl hs (fun t e h => .dropResv h) _) (.dropResv hs))
theorem State.Keeps.takeFault {pc cls : Nat} (hs : s.Keeps fr) (hc : Reaches fr c := by trivial) : (s.takeFault c x pc cls f).Keeps fr :=
  show (State.fateOf (s.place c none false (s.record c x pc cls f)).1 c x _).Keeps fr from .fateOf (.place hs)
theorem State.Keeps.raise (hs : s.Keeps fr) : (s.raise f).Keeps fr := by
  have hc := hs.reaches
  exact .fare (.takeFault hs)
theorem State.Keeps.stallMe {r : Stall} (hs : s.Keeps fr) : (s.stallMe r).Keeps fr := .fare (.updMe hs)
theorem State.Keeps.parkMe {upTo : Nat} (hs : s.Keeps fr) : (s.parkMe upTo).Keeps fr := .fare (.updMe hs)
theorem State.Keeps.waitMe {w : Wait} (hs : s.Keeps fr) : (s.waitMe w).Keeps fr := .fare (.updMe hs)
theorem State.Keeps.transmit {now : Bool} (hs : s.Keeps fr) : (s.transmit c x d b waits sc now).Keeps fr :=
  .count hs
theorem State.Keeps.sendMe (hs : s.Keeps fr) : (s.sendMe d b).Keeps fr := .transmit hs
theorem State.Keeps.stamped {seq : Nat} {f : State → State} (hs : s.Keeps fr) (hf : ∀ t, t.Keeps fr → (f t).Keeps fr) :
    (s.stamped c seq f).Keeps fr := hf s hs
theorem State.Keeps.sendHw (hs : s.Keeps fr) : (s.sendHw c d b).Keeps fr := .transmit hs
theorem State.Keeps.sink {p : Packet} (hs : s.Keeps none) : (s.sink p).Keeps none := .count hs
theorem State.Keeps.answered (hs : s.Keeps fr) (hc : Reaches fr c := by trivial) : (s.answered c).Keeps fr := by
  refine hs.updCore (f := fun k =>
    if (Config.freeWord s.free).getLsbD 0 then { k with awaiting := k.awaiting - 1, window := Nat.max 1 (k.window / 2), unmarked := 0 }
    else if k.unmarked + 1 ≥ k.window then { k with awaiting := k.awaiting - 1, window := Nat.min 32 (k.window + 1), unmarked := 0 }
    else { k with awaiting := k.awaiting - 1, unmarked := k.unmarked + 1 }) fun _ hk => ?_
  split
  · exact hk
  · split <;> exact hk
theorem State.Keeps.postTo (hs : s.Keeps none) : (s.postTo from_ c chan reserved rec).Keeps none :=
  .ite (.place hs) (.sendHw hs)
theorem State.Keeps.pushDesc {ring desc : Nat} {ctr : Option Nat} (hs : s.Keeps fr) (hc : Reaches fr c := by trivial) :
    (s.pushDesc c ring desc sc ctr waits).Keeps fr :=
  .land hs
theorem State.Keeps.fire (hs : s.Keeps fr) (hc : Reaches fr c := by trivial) : (s.fire c n).Keeps fr := by
  dsimp only [State.fire]
  split
  · exact .place (.setCell hs)
  · split
    · exact .place (.setCell hs)
    · refine .ite (.updCore (.pushDesc (.setCell hs)) (fun _ h => h)) ?_
      split
      · exact .ite (.updCore (.setCell (.setCell hs)) (fun _ h => h)) (.setCell hs)
      · exact .setCell hs
theorem State.Keeps.overrun {d0 : Word} (hs : s.Keeps fr) (hc : Reaches fr c := by trivial) : (s.overrun c n d0).Keeps fr :=
  .place (.setCell hs)
theorem State.Keeps.counterAdd {x : Word} (hs : s.Keeps fr) (hc : Reaches fr c := by trivial) : (s.counterAdd c n x who ctx sc).Keeps fr :=
  .ite hs (.ite (.overrun (.setCell hs)) (.ite (.fire (.setCell hs)) (.setCell hs)))
theorem State.Keeps.addHere {x : Word} (hs : s.Keeps fr) (hc : Reaches fr c := by trivial) : (s.addHere c n x who ctx sc).Keeps fr :=
  .ite (.counterAdd hs) (.transmit hs)
theorem State.Keeps.addName {name : CName} {raw x : Word} {hw : Bool} (hs : s.Keeps fr) (hc : Reaches fr c := by trivial) :
    (s.addName from_ c ctx name raw x waits sc hw).Keeps fr := by
  dsimp only [State.addName]
  split
  · exact .ite (.counterAdd hs) (.transmit hs)
  · exact .transmit hs
  · exact .transmit hs
theorem State.Keeps.acquire (hs : s.Keeps fr) (hc : Reaches fr c := by trivial) : (s.acquire c sc).Keeps fr :=
  .ite (.updCore hs (fun _ h => h)) hs
theorem State.Keeps.reserve (hs : s.Keeps fr) (hc : Reaches fr c := by trivial) : OnOk (State.Keeps · fr) (s.reserve c h) := by
  dsimp only [State.reserve]
  split
  · exact State.Keeps.updCore hs fun _ h => h
  · trivial
theorem State.Keeps.unreserve (hs : s.Keeps none) : (s.unreserve c h).Keeps none := .updCore hs (fun _ h => h)
theorem State.Keeps.sendRelease {h : Word} {port : Option Nat} {pkg : Nat} (hs : s.Keeps fr) :
    (s.sendRelease from_ h port pkg).Keeps fr := by
  dsimp only [State.sendRelease]
  split <;> exact .sendHw hs
theorem State.Keeps.logViolation (hs : s.Keeps fr) : (s.logViolation c x f).Keeps fr :=
  .ite (.updPart hs) hs
theorem State.Keeps.startWalk {base : Nat} (hs : s.Keeps fr) : (s.startWalk base va).Keeps fr :=
  .ite hs (.count (.updPart hs))
theorem State.Keeps.xmissStall (hs : s.Keeps fr) : (s.xmissStall va).Keeps fr := by
  dsimp only [State.xmissStall]
  refine .stallMe ?_
  split
  · exact .count hs
  · exact .startWalk (.count hs)
theorem State.Keeps.pageReq (hs : s.Keeps fr) : (s.pageReq c va).Keeps fr := by
  dsimp only [State.pageReq]
  split
  · exact .post hs
  · exact hs
theorem State.Keeps.xlateFault (hs : s.Keeps fr) : (s.xlateFault f).Keeps fr :=
  .ite (.stallMe (.pageReq hs)) (.raise (.logViolation hs))
theorem State.Keeps.translate {n : Need} {k : Nat → BitVec 2 → Word → State → State} (hs : s.Keeps fr)
    (hk : ∀ pa a e t, t.Keeps fr → (k pa a e t).Keeps fr) : (s.translate va n k).Keeps fr := by
  have hc := hs.reaches
  unfold State.translate
  split
  · exact hk _ _ _ _ (.updCore hs fun _ hk => hk)
  · exact .xlateFault hs
  · exact .xmissStall hs
theorem State.Keeps.orRaise {α : Type} {r : Except Flt α} {k : α → State} (hs : s.Keeps fr) (hk : ∀ v, (k v).Keeps fr) :
    (s.orRaise r k).Keeps fr := by
  unfold State.orRaise
  split
  · exact .raise hs
  · exact hk _
theorem State.Keeps.check {ok : Bool} (hs : s.Keeps fr) (hk : k.Keeps fr) : (s.check ok f k).Keeps fr := by
  unfold State.check
  exact .ite hk (.raise hs)
theorem State.Keeps.hbmPut (hs : s.Keeps none) : (s.hbmPut pa bs).Keeps none := by
  obtain ⟨hmem, hrest⟩ := s.memWf_iff.1 hs
  exact (State.memWf_iff _).2 ⟨Memory.wf_store _ _ _ _ hmem, hrest⟩
theorem State.Keeps.performWrite (hs : s.Keeps none) : (s.performWrite pa bs versioned).Keeps none :=
  .ite (.hbmPut (.updPart (.count hs))) (.hbmPut (.count hs))
theorem State.Keeps.performWords (hs : s.Keeps none) : (s.performWords pa bs versioned).Keeps none :=
  .ite (.performWrite hs) (.performWrite (.performWrite hs))
theorem State.Keeps.performRecl {v : BitVec 16} (hs : s.Keeps none) : (s.performRecl pa v).Keeps none := .updPart hs
theorem State.Keeps.behindAtoms {pl : Place} (hs : s.Keeps fr) (hk : k.Keeps fr) : (s.behindAtoms pl k).Keeps fr := by
  unfold State.behindAtoms
  split
  · exact hk
  · exact .stallMe hs
theorem State.Keeps.fillLine (hs : s.Keeps fr) (hc : Reaches fr c := by trivial) : (s.fillLine c pa).Keeps fr :=
  .ite hs (.updCore hs (fun _ h => h))
theorem State.Keeps.prefill (hs : s.Keeps fr) : (s.prefill va).Keeps fr := by
  have hc := hs.reaches
  dsimp only [State.prefill]
  split
  · exact .count (.updCore hs (fun _ h => h))
  · exact hs
theorem State.Keeps.putLocal (hs : s.Keeps fr) (hc : Reaches fr c := by trivial) : (s.putLocal c off bs).Keeps fr :=
  .clearBad (.updCore hs fun _ hk => Core.memWf_put hk _ _)

end Sys2Proof.Machine
end

section
/-! What operands keep: stream beats, store lanes and the words whose registers streams are bound to. -/

set_option Elab.async false

namespace Sys2Proof.Machine
open Sys2Proof
variable {fr : Option State} {s : State}
variable {e n off pa pos v : Nat} {M a data va : Word} {versioned : Bool} {k : State} {t : Stream}

theorem State.Keeps.unmarked (hs : s.Keeps fr) (hk : k.Keeps fr) : (s.unmarked off n k).Keeps fr := by
  unfold State.unmarked
  split
  · exact .stallMe hs
  · exact hk
theorem State.Keeps.inOrder (hs : s.Keeps fr) (hk : k.Keeps fr) : (s.inOrder off n k).Keeps fr := by
  unfold State.inOrder
  split
  · exact .unmarked hs hk
  · exact .stallMe hs
theorem State.Keeps.loadLocal {k : List Byte → State} (hs : s.Keeps fr) (hk : ∀ bs, (k bs).Keeps fr) :
    (s.loadLocal a n k).Keeps fr := .inOrder hs (.orRaise hs hk)
/-- The line that an element of a stream has brought into the buffer, and the counts of what a slice has served. -/
theorem State.Keeps.elemGlobal {plain : Bool} (hs : s.Keeps fr) :
    OnOk (fun r => r.2.Keeps fr) (s.elemGlobal a pa n plain) := by
  have hc := hs.reaches
  have hslice (t : State) (ht : t.Keeps fr) : OnOk (fun r : Nat × State => r.2.Keeps fr)
      (if (s.badHbm pa n).isSome then (.error (Fate.fault (eccFlt a)) : Except Fate (Nat × State))
        else .ok (s.viewNum s.cur.core pa n, if plain then (t.fillLine s.cur.core pa).count (sliceOf pa) 4 64 else t.count (sliceOf pa) 4 n)) := by
    split
    · trivial
    · show State.Keeps (if plain then _ else _) fr
      split
      · exact .count (.fillLine ht)
      · exact .count ht
  dsimp only [State.elemGlobal]
  split
  · split
    · trivial
    · exact hs
  · split
    · split
      · exact hs
      · exact hslice _ hs
    · exact hslice _ hs
theorem State.Keeps.elemRead (hs : s.Keeps fr) :
    OnOk (fun r => r.2.Keeps fr) (s.elemRead v t pos e) := by
  have hc := hs.reaches
  have hpre : (s.prefill (t.addr e)).Keeps fr := .prefill hs
  have hc' := hpre.reaches
  unfold State.elemRead
  extract_lets a n u
  split
  · split
    · trivial
    · split
      · trivial
      · exact hs
  · split
    · trivial
    · trivial
    · split
      · trivial
      · split
        · trivial
        · trivial
        · exact State.Keeps.elemGlobal (.updCore hpre fun _ h => h)
theorem State.Keeps.readElems (l : List Nat) (hs : s.Keeps fr) : (s.readElems v t pos l).2.2.Keeps fr := by
  induction l generalizing s with
  | nil => exact hs
  | cons e r ih =>
    have hread := hs.elemRead (v := v) (pos := pos) (e := e) (t := t)
    unfold State.readElems
    split
    · exact hs
    · next x u h => exact ih (hread.of_eq h)
theorem State.Keeps.fetchBeat {k : Nat} (hs : s.Keeps fr) : (s.fetchBeat v t k).2.2.Keeps fr :=
  State.Keeps.readElems (v := v) (pos := 64 * k) (t := t) _ hs
theorem Core.memWf_entered {k : Core} (h : k.memWf = true) (e : LaneEntry) : (k.entered e).memWf = true := by
  unfold Core.entered
  split
  · exact h
  · split <;> exact h
theorem Core.memWf_pourIn {x : Nat} (l : List LaneEntry) {k : Core} (h : k.memWf = true) : (Core.pourIn x l k).memWf = true := by
  induction l generalizing k with
  | nil => exact h
  | cons e r ih =>
    unfold Core.pourIn
    split
    · exact ih (Core.memWf_entered (k := k.setCtx x _) h e)
    · exact h
theorem Core.memWf_refill {k : Core} (h : k.memWf = true) (x : Nat) : (k.refill x).memWf = true := by
  unfold Core.refill
  split
  · exact h
  · exact Core.memWf_pourIn _ h
theorem State.Keeps.enterLane {recl : Bool} (hs : s.Keeps fr) :
    (s.enterLane va pa n data versioned recl).Keeps fr := by
  have hc := hs.reaches
  exact .fresh (.updCore hs fun _ hk => Core.memWf_entered hk _)
theorem State.Keeps.streamStore (hs : s.Keeps fr) : (s.streamStore va pa n data versioned).Keeps fr := by
  dsimp only [State.streamStore]
  split
  · exact .fresh (.updMe hs)
  · exact .enterLane hs
theorem State.Keeps.elemWrite {x : Word32} (hs : s.Keeps fr) : OnOk (State.Keeps · fr) (s.elemWrite v t e x) := by
  have hc := hs.reaches
  unfold State.elemWrite
  extract_lets a n c
  split
  · split
    · trivial
    · split
      · trivial
      · exact State.Keeps.putLocal hs
  · split
    · trivial
    · trivial
    · split
      · trivial
      · split
        · trivial
        · exact State.Keeps.streamStore (.updCore hs fun _ h => h)
theorem State.Keeps.pushBeat {l : List Word32} (hs : s.Keeps fr) :
    OnOk (State.Keeps · fr) (s.pushBeat v t M l) := by
  unfold State.pushBeat
  have hfold := List.foldlRecOn (motive := OnOk (State.Keeps · fr)) (t.stored M)
    (fun (r : Except Fate State) (e : Nat) =>
          match r with
          | .error f => .error f
          | .ok s => s.elemWrite v t e (l.getD (e - t.pos) 0)) (b := .ok s) hs ?_
  split
  · trivial
  · split
    · trivial
    · next h => exact State.Keeps.updMe (hfold.of_eq h)
  · intro r hr e _
    split
    · trivial
    · exact State.Keeps.elemWrite hr
theorem State.Keeps.suffer {f : Fate} (hs : s.Keeps fr) : (s.suffer f).Keeps fr := by
  unfold State.suffer
  split
  · exact .xlateFault hs
  · exact .xmissStall hs
  · exact .stallMe hs
  · exact .parkMe hs
  · exact .waitMe hs
  · exact .fare hs
theorem State.Keeps.pushAll (l : List (Nat × List Word32)) (hs : s.Keeps fr) : OnOk (State.Keeps · fr) (pushAll s M l) := by
  induction l generalizing s with
  | nil => exact hs
  | cons e r ih =>
    unfold Machine.pushAll
    split
    · exact ih (.updMe hs)
    · split
      · trivial
      · next h => exact ih (.updMe (hs.pushBeat.of_eq h))
theorem State.Keeps.aWord {reads writes : List Nat} {f : VIn → VOut} (hs : s.Keeps fr)
    (hf : ∀ i t, t.Keeps fr → ((f i).also t).Keeps fr) : (s.aWord reads writes f).Keeps fr := by
  dsimp only [State.aWord]
  split
  · exact .suffer hs
  · split
    · exact .suffer hs
    · split
      · exact .suffer hs
      · split
        · exact .suffer hs
        · next h =>
          refine hf _ _ (.raiseFlags (OnOk.of_eq (p := (State.Keeps · fr)) (State.Keeps.pushAll _ ?_) h))
          exact .foldl hs (fun _ _ ht => .updMe ht) _
theorem State.Keeps.vop {wd wa : Bool} {d : BitVec 5} {srcs : List (BitVec 5)} {dRead : Bool}
    {f : Nat → Word → Word → Word → Word × Bits6} (hs : s.Keeps fr) : (s.vop wd wa d srcs dRead f).Keeps fr := .aWord hs fun _ _ ht => ht
end Sys2Proof.Machine
end

section
/-! What scalar, control, random, vector and stream words keep. -/

set_option Elab.async false

namespace Sys2Proof.Machine
open Sys2Proof
variable {fr : Option State} {s : State}
variable {c core ctx : Nat} {a b d sh : BitVec 6} {v : BitVec 5} {p : BitVec 3} {imm : BitVec 11} {op : RedOp} {t : VType}
variable {f : Word → Word → Word}

theorem State.Keeps.alu (hs : s.Keeps fr) : (s.alu d a b f).Keeps fr := .ws hs
theorem State.Keeps.aluImm (hs : s.Keeps fr) : (s.aluImm d a imm f).Keeps fr :=
  .ws hs
theorem State.Keeps.divide {signed quot : Bool} (hs : s.Keeps fr) : (s.divide d a b signed quot).Keeps fr :=
  .raiseFlags (.ws hs)
theorem execAdd_keeps (hs : s.Keeps fr) : KeepsOut (execAdd d a b s) fr := .next (.alu hs)
theorem execSub_keeps (hs : s.Keeps fr) : KeepsOut (execSub d a b s) fr := .next (.alu hs)
theorem execAnd_keeps (hs : s.Keeps fr) : KeepsOut (execAnd d a b s) fr := .next (.alu hs)
theorem execOr_keeps (hs : s.Keeps fr) : KeepsOut (execOr d a b s) fr := .next (.alu hs)
theorem execXor_keeps (hs : s.Keeps fr) : KeepsOut (execXor d a b s) fr := .next (.alu hs)
theorem execAndn_keeps (hs : s.Keeps fr) : KeepsOut (execAndn d a b s) fr := .next (.alu hs)
theorem execShl_keeps (hs : s.Keeps fr) : KeepsOut (execShl d a b s) fr := .next (.alu hs)
theorem execShr_keeps (hs : s.Keeps fr) : KeepsOut (execShr d a b s) fr := .next (.alu hs)
theorem execSar_keeps (hs : s.Keeps fr) : KeepsOut (execSar d a b s) fr := .next (.alu hs)
theorem execRol_keeps (hs : s.Keeps fr) : KeepsOut (execRol d a b s) fr := .next (.alu hs)
theorem execMin_keeps (hs : s.Keeps fr) : KeepsOut (execMin d a b s) fr := .next (.alu hs)
theorem execMax_keeps (hs : s.Keeps fr) : KeepsOut (execMax d a b s) fr := .next (.alu hs)
theorem execMinu_keeps (hs : s.Keeps fr) : KeepsOut (execMinu d a b s) fr := .next (.alu hs)
theorem execMaxu_keeps (hs : s.Keeps fr) : KeepsOut (execMaxu d a b s) fr := .next (.alu hs)
theorem execSlt_keeps (hs : s.Keeps fr) : KeepsOut (execSlt d a b s) fr := .next (.alu hs)
theorem execSltu_keeps (hs : s.Keeps fr) : KeepsOut (execSltu d a b s) fr := .next (.alu hs)
theorem execSeq_keeps (hs : s.Keeps fr) : KeepsOut (execSeq d a b s) fr := .next (.alu hs)
theorem execClz_keeps (hs : s.Keeps fr) : KeepsOut (execClz d a s) fr := .next (.ws hs)
theorem execPopc_keeps (hs : s.Keeps fr) : KeepsOut (execPopc d a s) fr := .next (.ws hs)
theorem execMul_keeps (hs : s.Keeps fr) : KeepsOut (execMul d a b s) fr := .next (.alu hs)
theorem execMulh_keeps (hs : s.Keeps fr) : KeepsOut (execMulh d a b s) fr := .next (.alu hs)
theorem execMulhu_keeps (hs : s.Keeps fr) : KeepsOut (execMulhu d a b s) fr := .next (.alu hs)
theorem execDiv_keeps (hs : s.Keeps fr) : KeepsOut (execDiv d a b s) fr := .next (.divide hs)
theorem execDivu_keeps (hs : s.Keeps fr) : KeepsOut (execDivu d a b s) fr := .next (.divide hs)
theorem execRem_keeps (hs : s.Keeps fr) : KeepsOut (execRem d a b s) fr := .next (.divide hs)
theorem execRemu_keeps (hs : s.Keeps fr) : KeepsOut (execRemu d a b s) fr := .next (.divide hs)
theorem execAddi_keeps (hs : s.Keeps fr) : KeepsOut (execAddi d a imm s) fr :=
  .next (.aluImm hs)
theorem execAndi_keeps (hs : s.Keeps fr) : KeepsOut (execAndi d a imm s) fr :=
  .next (.aluImm hs)
theorem execOri_keeps (hs : s.Keeps fr) : KeepsOut (execOri d a imm s) fr :=
  .next (.aluImm hs)
theorem execXori_keeps (hs : s.Keeps fr) : KeepsOut (execXori d a imm s) fr :=
  .next (.aluImm hs)
theorem execShli_keeps (hs : s.Keeps fr) : KeepsOut (execShli d a sh s) fr := .next (.ws hs)
theorem execShri_keeps (hs : s.Keeps fr) : KeepsOut (execShri d a sh s) fr := .next (.ws hs)
theorem execSari_keeps (hs : s.Keeps fr) : KeepsOut (execSari d a sh s) fr := .next (.ws hs)
theorem execSlti_keeps (hs : s.Keeps fr) : KeepsOut (execSlti d a imm s) fr :=
  .next (.aluImm hs)
theorem execLi_keeps {imm : BitVec 17} (hs : s.Keeps fr) : KeepsOut (execLi d imm s) fr := .next (.ws hs)
theorem execLih_keeps {imm : BitVec 17} (hs : s.Keeps fr) : KeepsOut (execLih d imm s) fr := .next (.ws hs)
theorem execSel_keeps (hs : s.Keeps fr) : KeepsOut (execSel d a b s) fr := .next (.ite (.ws hs) hs)
theorem execNop_keeps (hs : s.Keeps fr) : KeepsOut (execNop s) fr := .next hs
theorem State.Keeps.jump {t : Int} {link : State → State} (hs : s.Keeps fr) (hlink : ∀ u, u.Keeps fr → (link u).Keeps fr) :
    (s.jump t link).Keeps fr := by
  unfold State.jump
  exact .ite (.raise hs) (hlink s hs)
theorem execB_keeps {c : BCond} {disp : BitVec 8} (hs : s.Keeps fr) : KeepsOut (execB c a b disp s) fr := by
  refine .next ?_
  exact .ite (.jump hs fun _ h => h) hs
theorem execJ_keeps {imm : BitVec 23} (hs : s.Keeps fr) : KeepsOut (execJ imm s) fr := .next (.jump hs fun _ h => h)
theorem execJal_keeps {imm : BitVec 23} (hs : s.Keeps fr) : KeepsOut (execJal imm s) fr :=
  .next (.jump hs (fun _ ht => .ws ht))
theorem execJalr_keeps {off : BitVec 11} (hs : s.Keeps fr) : KeepsOut (execJalr d a off s) fr :=
  .next (.ite (.raise hs) (.jump hs fun _ ht => .ws ht))
theorem execStart_keeps (hs : s.Keeps fr) : KeepsOut (execStart d a b s) fr := by
  have hc := hs.reaches
  dsimp only [execStart]
  refine .next (.ite (.raise hs) ?_)
  split
  · exact .ws hs
  · exact .ws (.updCtx hs)
theorem execEndt_keeps (hs : s.Keeps fr) : KeepsOut (execEndt s) fr := .next (.ite (.parkMe hs) (.updMe hs))
theorem State.Keeps.freeSlot {h i : Nat} (hs : s.Keeps fr) (hc : Reaches fr c := by trivial) : (s.freeSlot c h i).Keeps fr := by
  dsimp only [State.freeSlot]
  refine .updCore ?_ (fun _ h => h)
  split
  · exact .ite (.sendRelease hs) hs
  · exact hs
theorem State.Keeps.freeSlot? {o : Option (Nat × Nat)} (hs : s.Keeps fr) (hc : Reaches fr c := by trivial) :
    (s.freeSlot? c o).Keeps fr := by
  cases o with
  | none => exact hs
  | some p => exact hs.freeSlot
theorem execTaskEnd_keeps (hs : s.Keeps none) : KeepsOut (execTaskEnd core ctx s) none :=
  .next (.ite (.updCtx (.freeSlot? (.freeSlot? hs))) hs)
theorem State.Keeps.advanceLanes {M : Word} (hs : s.Keeps fr) : (s.advanceLanes M).Keeps fr := by
  have hc := hs.reaches
  exact .updCore hs (fun _ h => h)
theorem execRkey_keeps (hs : s.Keeps fr) : KeepsOut (execRkey a b s) fr := by
  have hc := hs.reaches
  exact .next (.updCore (.updMe hs) (fun _ h => h))
theorem execRtab_keeps (hs : s.Keeps fr) : KeepsOut (execRtab a b s) fr :=
  .next (.ite (.updMe hs) (.ite (.raise hs) (.ite (.raise hs) (.updMe hs))))
theorem execRdraw_keeps (hs : s.Keeps fr) : KeepsOut (execRdraw d s) fr := by
  dsimp only [execRdraw]
  refine .next ?_
  split
  · exact .suffer hs
  · exact .updMe (.ws hs)
theorem State.Keeps.vbin {d a b : BitVec 5} {fo : Fmt → Nat → Nat → Nat × Bits6} {io : Int → Int → Int} (hs : s.Keeps fr) :
    (s.vbin t d a b fo io).Keeps fr :=
  .vop hs
theorem State.Keeps.vfused {d a b : BitVec 5} {np nd : Bool} (hs : s.Keeps fr) : (s.vfused t d a b np nd).Keeps fr :=
  .vop hs
theorem State.Keeps.vlogic {d a b : BitVec 5} (hs : s.Keeps fr) : (s.vlogic t d a b f).Keeps fr :=
  .vop hs
theorem State.Keeps.vone {d a : BitVec 5} {f : Word → Word × Bits6} (hs : s.Keeps fr) : (s.vone t d a f).Keeps fr :=
  .vop hs
theorem State.Keeps.vfun {d a : BitVec 5} {f : Nat → Nat × Bits6} (hs : s.Keeps fr) : (s.vfun d a f).Keeps fr := .vop hs
theorem execVadd_keeps {d a b : BitVec 5} (hs : s.Keeps fr) : KeepsOut (execVadd t d a b s) fr := .next (.vbin hs)
theorem execVsub_keeps {d a b : BitVec 5} (hs : s.Keeps fr) : KeepsOut (execVsub t d a b s) fr := .next (.vbin hs)
theorem execVmul_keeps {d a b : BitVec 5} (hs : s.Keeps fr) : KeepsOut (execVmul t d a b s) fr := .next (.vbin hs)
theorem execVfma_keeps {d a b : BitVec 5} (hs : s.Keeps fr) : KeepsOut (execVfma t d a b s) fr := .next (.vfused hs)
theorem execVfms_keeps {d a b : BitVec 5} (hs : s.Keeps fr) : KeepsOut (execVfms t d a b s) fr := .next (.vfused hs)
theorem execVnfma_keeps {d a b : BitVec 5} (hs : s.Keeps fr) : KeepsOut (execVnfma t d a b s) fr :=
  .next (.vfused hs)
theorem execVmin_keeps {d a b : BitVec 5} (hs : s.Keeps fr) : KeepsOut (execVmin t d a b s) fr := .next (.vop hs)
theorem execVmax_keeps {d a b : BitVec 5} (hs : s.Keeps fr) : KeepsOut (execVmax t d a b s) fr := .next (.vop hs)
theorem execVabs_keeps {d a : BitVec 5} (hs : s.Keeps fr) : KeepsOut (execVabs t d a s) fr := .next (.vone hs)
theorem execVneg_keeps {d a : BitVec 5} (hs : s.Keeps fr) : KeepsOut (execVneg t d a s) fr := .next (.vone hs)
theorem execVcmp_keeps {c : VCond} {a b : BitVec 5} (hs : s.Keeps fr) : KeepsOut (execVcmp c t p a b s) fr :=
  .next (.aWord hs fun _ _ ht => .updMe ht)
theorem execVsel_keeps {d a : BitVec 5} (hs : s.Keeps fr) : KeepsOut (execVsel t d a p s) fr :=
  .next (.vop hs)
theorem execVcvt_keeps {c : Cvt} {d a : BitVec 5} (hs : s.Keeps fr) : KeepsOut (execVcvt c d a s) fr := by
  refine .next (.aWord hs fun i t ht => ?_)
  show State.Keeps (if isSr c then t.advanceLanes i.mask else t) fr
  exact .ite (.advanceLanes ht) ht
theorem execVmov_keeps {d a : BitVec 5} (hs : s.Keeps fr) : KeepsOut (execVmov t d a s) fr := .next (.vone hs)
theorem execVidx_keeps {d : BitVec 5} (hs : s.Keeps fr) : KeepsOut (execVidx d s) fr := .next (.vop hs)
theorem execVdiv_keeps {d a b : BitVec 5} (hs : s.Keeps fr) : KeepsOut (execVdiv t d a b s) fr := .next (.vop hs)
theorem execVand_keeps {d a b : BitVec 5} (hs : s.Keeps fr) : KeepsOut (execVand t d a b s) fr := .next (.vlogic hs)
theorem execVor_keeps {d a b : BitVec 5} (hs : s.Keeps fr) : KeepsOut (execVor t d a b s) fr := .next (.vlogic hs)
theorem execVxor_keeps {d a b : BitVec 5} (hs : s.Keeps fr) : KeepsOut (execVxor t d a b s) fr := .next (.vlogic hs)
theorem execVnot_keeps {d a : BitVec 5} (hs : s.Keeps fr) : KeepsOut (execVnot t d a s) fr := .next (.vone hs)
theorem execVshl_keeps {d a b : BitVec 5} (hs : s.Keeps fr) : KeepsOut (execVshl t d a b s) fr := .next (.vlogic hs)
theorem execVshr_keeps {d a b : BitVec 5} (hs : s.Keeps fr) : KeepsOut (execVshr t d a b s) fr := .next (.vlogic hs)
theorem execVsar_keeps {d a b : BitVec 5} (hs : s.Keeps fr) : KeepsOut (execVsar t d a b s) fr := .next (.vop hs)
theorem execVmulh_keeps {d a b : BitVec 5} (hs : s.Keeps fr) : KeepsOut (execVmulh t d a b s) fr := .next (.vop hs)
theorem execVexp2_keeps {d a : BitVec 5} (hs : s.Keeps fr) : KeepsOut (execVexp2 d a s) fr := .next (.vfun hs)
theorem execVlog2_keeps {d a : BitVec 5} (hs : s.Keeps fr) : KeepsOut (execVlog2 d a s) fr := .next (.vfun hs)
theorem execVrcp_keeps {d a : BitVec 5} (hs : s.Keeps fr) : KeepsOut (execVrcp d a s) fr := .next (.vfun hs)
theorem execVrsq_keeps {d a : BitVec 5} (hs : s.Keeps fr) : KeepsOut (execVrsq d a s) fr := .next (.vfun hs)
theorem execVsqrt_keeps {d a : BitVec 5} (hs : s.Keeps fr) : KeepsOut (execVsqrt d a s) fr := .next (.vfun hs)
theorem execVperm_keeps {d a b : BitVec 5} (hs : s.Keeps fr) : KeepsOut (execVperm d a b s) fr :=
  .next (.aWord hs (fun _ _ h => h))
theorem execVred_keeps {d a : BitVec 5} (hs : s.Keeps fr) : KeepsOut (execVred op t d a s) fr :=
  .next (.aWord hs (fun _ _ h => h))
theorem execVscan_keeps {d a : BitVec 5} (hs : s.Keeps fr) : KeepsOut (execVscan op t d a s) fr :=
  .next (.aWord hs (fun _ _ h => h))
theorem State.Keeps.draws {d : BitVec 5} {f : Word32 → Word32} (hs : s.Keeps fr) : (s.draws d f).Keeps fr :=
  .aWord hs fun _ _ ht => .advanceLanes ht
theorem execVrnd_keeps {d : BitVec 5} (hs : s.Keeps fr) : KeepsOut (execVrnd d s) fr := .next (.draws hs)
theorem execVrndu_keeps {d : BitVec 5} (hs : s.Keeps fr) : KeepsOut (execVrndu d s) fr := .next (.draws hs)
theorem State.Keeps.wp {v : Word} (hs : s.Keeps fr) : (s.wp p v).Keeps fr := .updMe hs
theorem execPand_keeps {d a b : BitVec 3} (hs : s.Keeps fr) : KeepsOut (execPand d a b s) fr := .next (.wp hs)
theorem execPor_keeps {d a b : BitVec 3} (hs : s.Keeps fr) : KeepsOut (execPor d a b s) fr := .next (.wp hs)
theorem execPxor_keeps {d a b : BitVec 3} (hs : s.Keeps fr) : KeepsOut (execPxor d a b s) fr := .next (.wp hs)
theorem execPnot_keeps {d a : BitVec 3} (hs : s.Keeps fr) : KeepsOut (execPnot d a s) fr := .next (.wp hs)
theorem execPcnt_keeps {d : BitVec 5} (hs : s.Keeps fr) : KeepsOut (execPcnt d p s) fr := .next (.vop hs)
theorem execPfirst_keeps {d : BitVec 5} (hs : s.Keeps fr) : KeepsOut (execPfirst d p s) fr := .next (.vop hs)
theorem execPmask_keeps (hs : s.Keeps fr) : KeepsOut (execPmask p s) fr := .next (.updMe hs)
theorem execAnop_keeps (hs : s.Keeps fr) : KeepsOut (execAnop s) fr := .next hs
theorem State.Keeps.unbound {k : State} (hs : s.Keeps fr) (hk : k.Keeps fr) : (s.unbound v k).Keeps fr := by
  unfold State.unbound
  split
  · exact .raise hs
  · exact hk
theorem execVbcast_keeps (hs : s.Keeps fr) : KeepsOut (execVbcast v a s) fr :=
  .next (.unbound hs (.updMe hs))
theorem execVext_keeps (hs : s.Keeps fr) : KeepsOut (execVext d v b s) fr :=
  .next (.unbound hs (.ws hs))
theorem execVins_keeps (hs : s.Keeps fr) : KeepsOut (execVins v a b s) fr :=
  .next (.unbound hs (.updMe hs))
theorem execSbind_keeps {v : BitVec 3} (hs : s.Keeps fr) : KeepsOut (execSbind v a s) fr := by
  dsimp only [execSbind]
  refine .next (.ite (.raise hs) (.ite (.raise hs) (.loadLocal hs fun bs => ?_)))
  split
  · exact .raise hs
  · exact .fresh (.updMe hs)
theorem execSfree_keeps {v : BitVec 3} (hs : s.Keeps fr) : KeepsOut (execSfree v s) fr := .next (.updMe hs)
theorem execSpos_keeps {v : BitVec 3} (hs : s.Keeps fr) : KeepsOut (execSpos d v s) fr := .next (.ws hs)
theorem execSrep_keeps {n : BitVec 17} (hs : s.Keeps fr) : KeepsOut (execSrep n s) fr :=
  .next (.ite (.raise hs) (.ite hs (.updMe hs)))
theorem State.Keeps.putStream {v : Nat} {t : Stream} {wake : Bool} (hs : s.Keeps none) : (s.putStream core ctx v t wake).Keeps none :=
  .updCtx hs
theorem execStreamBeatArrival_keeps {v : Nat} (hs : s.Keeps none) : KeepsOut (execStreamBeatArrival core ctx v s) none := by
  have hfetch (t : Stream) (b : Nat) : ((s.asIf core ctx).fetchBeat v t b).2.2.Keeps none := .fetchBeat hs.asIf
  refine .next ?_
  dsimp only
  split
  · exact hs
  · next t _ =>
    refine .ite hs ?_
    have hu := hfetch t (t.pos / 64 + t.fetched.length)
    split
    · next h =>
      rw [h] at hu
      exact .putStream hu
    · next h =>
      rw [h] at hu
      split
      · split
        · exact .putStream hu
        · exact .suffer (.putStream hu)
      · exact .putStream hu

end Sys2Proof.Machine
end

section
/-! What tiles keep: headers, waits, Turntables, the engines' commands and the tile unit. -/

set_option Elab.async false

namespace Sys2Proof.Machine
open Sys2Proof
variable {fr : Option State} {s : State}
variable {c core id j k m p part x : Nat} {ccnt : Word} {a b d : BitVec 6} {t ta tb tc td : BitVec 4} {flags : Bits6}
variable {ws : List (Nat × List Byte)} {flt : Option Flt} {cmd : TCmd}

theorem State.Keeps.engineWrites (hs : s.Keeps none) : (s.engineWrites c ws).Keeps none :=
  .foldl hs (fun t e h => .putLocal h) _
theorem State.Keeps.hdrAddr {a : Word} {k : State} (hs : s.Keeps fr) (hk : k.Keeps fr) : (s.hdrAddr a k).Keeps fr := by
  unfold State.hdrAddr
  exact .ite (.raise hs) hk
theorem execThdr_keeps (hs : s.Keeps fr) : KeepsOut (execThdr t a s) fr :=
  .next (.hdrAddr hs (.inOrder hs (.orRaise hs fun _ => .orRaise hs fun _ => .wt hs)))
theorem execTsth_keeps (hs : s.Keeps fr) : KeepsOut (execTsth t a s) fr := by
  have hc := hs.reaches
  dsimp only [execTsth]
  exact .next (.hdrAddr hs (.inOrder hs (.putLocal hs)))
theorem execTmake_keeps (hs : s.Keeps fr) : KeepsOut (execTmake t a b s) fr :=
  .next (.orRaise hs (fun _ => .orRaise hs fun _ => .wt hs))
theorem execTset_keeps (hs : s.Keeps fr) : KeepsOut (execTset t a b s) fr := by
  dsimp only [execTset]
  refine .next (.ite ?_ ?_)
  · exact .orRaise hs fun v => .orRaise hs fun v_1 => .wt hs
  · exact .ite (.orRaise hs fun v => .wt hs) (.ite (.orRaise hs fun v => .wt hs) (.ite (.raise hs) (.orRaise hs fun v => .wt hs)))
theorem execTget_keeps (hs : s.Keeps fr) : KeepsOut (execTget d t s) fr := .next (.ws hs)
theorem State.Keeps.await {i : Instr} {w : BitVec 5} (hs : s.Keeps fr) : (s.await i w).Keeps fr := by
  dsimp only [State.await]
  split
  · exact .fare hs
  · exact .waitMe hs
theorem State.Keeps.retire {next words : Nat} (hs : s.Keeps none) : (s.retire c x next words).Keeps none :=
  .count (.updCtx hs)
theorem State.Keeps.repeats {was : Option Srep} (hs : s.Keeps none) : (s.repeats c x was).Keeps none := by
  dsimp only [State.repeats]
  split
  · exact hs
  · exact .updCtx hs
theorem State.Keeps.leaveWait (hs : s.Keeps none) : (s.leaveWait c x).Keeps none := .retire (.updCtx hs)
theorem State.Keeps.spill (hs : s.Keeps fr) (hc : Reaches fr c := by trivial) : (s.spill c).Keeps fr := by
  dsimp only [State.spill]
  refine .ite (.updSlot (.count ?_)) hs
  split
  · exact .putLocal (.sendHw hs)
  · exact .putLocal hs
theorem State.Keeps.beginRun (hs : s.Keeps fr) : (s.beginRun p k j).Keeps fr := .updTt hs
theorem State.Keeps.faultCounter {from_ : Nat} (hs : s.Keeps none) : (s.faultCounter from_ c ccnt).Keeps none := by
  dsimp only [State.faultCounter]
  split
  · exact .ite (.updCore hs (fun _ h => h)) (.sendHw hs)
  · exact .sendHw hs
  · exact .sendHw hs
  · exact hs
theorem State.Keeps.engineFault {f : Flt} (hs : s.Keeps none) : (s.engineFault c ccnt f).Keeps none :=
  .ite (.postTo (.logViolation hs)) (.faultCounter (.postTo (.logViolation hs)))
theorem State.Keeps.restore (hs : s.Keeps fr) : (s.restore c).Keeps fr := by
  dsimp only [State.restore]
  refine .ite ?_ hs
  split
  · exact .sendHw (.updSlot (.count hs))
  · exact .updSlot (.count hs)
theorem State.Keeps.switchTo (hs : s.Keeps fr)
    (hc : ∀ o, (s.tt p k).current = some o → Reaches fr (coreAt p k o) := by intros; trivial) : (s.switchTo p k j).Keeps fr := by
  refine .beginRun (.restore ?_)
  split
  · next o ho => exact .spill hs (hc o ho)
  · exact hs
theorem State.turns_current (s : State) (p k : Nat) : (s.turns p k).current = (s.tt p k).current := by
  unfold State.turns
  dsimp only
  split <;> rfl
theorem State.Keeps.choose (hs : s.Keeps fr)
    (hc : ∀ o, (s.tt p k).current = some o → Reaches fr (coreAt p k o) := by intros; trivial) : (s.choose p k).Keeps fr := by
  dsimp only [State.choose]
  split
  · split
    · next j hj =>
      exact .ite (.beginRun hs) (.updTt (.spill hs (hc j (s.turns_current p k ▸ hj))))
    · exact hs
  · exact .ite (.beginRun hs) (.switchTo hs hc)
theorem execTurntableRunEnd_keeps (hs : s.Keeps none) : KeepsOut (execTurntableRunEnd part k s) none :=
  .next (.ite (.choose hs) hs)
theorem coreAt_self (c : Nat) : coreAt (c / 64) (c % 64 / 8) (c % 8) = c := by
  unfold coreAt
  omega
theorem State.Keeps.leaseEnd (hs : s.Keeps fr) (hc : Reaches fr c := by trivial) : (s.leaseEnd c).Keeps fr := by
  dsimp only [State.leaseEnd]
  split
  · split
    · next h =>
      refine .choose (.updSlot hs) fun o ho => ?_
      obtain rfl : c % 8 = o := Option.some.inj (h.symm.trans ho)
      rwa [coreAt_self]
    · exact .updSlot hs
  · exact hs
theorem State.Keeps.ttCheck {k : Nat → State} (hs : s.Keeps fr) (hk : ∀ t, (k t).Keeps fr) : (s.ttCheck k).Keeps fr := by
  dsimp only [State.ttCheck]
  refine .ite (.raise hs) ?_
  split
  · exact .raise hs
  · exact hk _
theorem State.Keeps.leased {k : Nat → State} (hs : s.Keeps fr) (hk : ∀ t, (k t).Keeps fr) : (s.leased k).Keeps fr := by
  refine .ttCheck hs fun t => ?_
  dsimp only
  exact .ite (.raise hs) (hk t)
theorem execLease_keeps (hs : s.Keeps fr) : KeepsOut (execLease s) fr :=
  .next (.ttCheck hs (fun _ => .ite hs (.ite (.updSlot hs) (.await (.updSlot hs)))))
theorem State.Keeps.grantLeases {cores : List Nat} (hs : s.Keeps none) : (s.grantLeases cores).Keeps none :=
  .foldl hs (fun t e h => .ite (.updSlot (.ite h (.switchTo h))) h) _
theorem execLeaseExpiry_keeps {ctx : Nat} (hs : s.Keeps none) : KeepsOut (execLeaseExpiry core ctx s) none := by
  dsimp only [execLeaseExpiry]
  refine .next ?_
  split
  · exact .ite (.raise (.asIf (.leaseEnd (.updSlot hs)))) hs
  · exact hs
theorem execMrel_keeps (hs : s.Keeps fr) : KeepsOut (execMrel s) fr := by
  dsimp only [execMrel]
  refine .next (.ttCheck hs fun _ => ?_)
  exact .ite (.leaseEnd (.updSlot hs) hs.reaches) hs
theorem State.Keeps.enqueue {f : TSlot → TSlot} (hs : s.Keeps fr) : (s.enqueue cmd f).Keeps fr :=
  .ite (.stallMe hs) (.fresh (.updSlot hs))
theorem execMzero_keeps (hs : s.Keeps fr) : KeepsOut (execMzero tc s) fr :=
  .next (.leased hs (fun _ => .orRaise hs fun _ => .enqueue hs))
theorem execMma_keeps (hs : s.Keeps fr) : KeepsOut (execMma tc ta tb s) fr :=
  .next (.leased hs (fun _ => .orRaise hs fun _ => .enqueue hs))
theorem execMmag_keeps {k : BitVec 5} (hs : s.Keeps fr) : KeepsOut (execMmag tc ta tb k s) fr :=
  .next (.leased hs (fun _ => .orRaise hs fun _ => .enqueue hs))
theorem execMdrain_keeps (hs : s.Keeps fr) : KeepsOut (execMdrain tc a s) fr :=
  .next (.leased hs (fun _ => .orRaise hs fun _ => .enqueue hs))
theorem State.Keeps.finishTurn {merge : Bool} (hs : s.Keeps none) : (s.finishTurn p k c cmd flags flt merge ws).Keeps none :=
  .elsewhere (.updSlot (.updTt hs))
theorem execMzeroRun_keeps (hs : s.Keeps none) : KeepsOut (execMzeroRun part k s) none := by
  dsimp only [execMzeroRun]
  refine .next ?_
  split
  · split
    · exact .finishTurn (.updSlot hs)
    · exact hs
  · exact hs
theorem execMmaRun_keeps (hs : s.Keeps none) : KeepsOut (execMmaRun part k s) none := by
  dsimp only [execMmaRun]
  refine .next ?_
  split
  · split
    · split
      · exact .finishTurn (.updSlot hs)
      · exact .finishTurn (.count (.updSlot hs))
    · split
      · exact .finishTurn (.updSlot hs)
      · exact .finishTurn (.count (.updSlot hs))
    · exact hs
  · exact hs
theorem State.Keeps.sendMerge {a : Word} (hs : s.Keeps none) : OnOk (State.Keeps · none) (s.sendMerge c id a m) := by
  dsimp only [State.sendMerge]
  split
  · split
    · exact State.Keeps.updCore hs fun _ h => h
    · trivial
  · split
    · trivial
    · split
      · exact State.Keeps.updCore hs fun _ h => h
      · exact State.Keeps.stamped hs fun _ ht => .sendHw ht
theorem State.Keeps.holdMerge {a : Word} (hs : s.Keeps none) : (s.holdMerge c id m a).Keeps none :=
  .elsewhere (.pageReq hs)
theorem State.Keeps.retryMerge {f : Fin} (hs : s.Keeps none) : (s.retryMerge f).Keeps none := by
  dsimp only [State.retryMerge]
  split
  · exact hs
  · split
    · next h => exact State.Keeps.elsewhere (hs.sendMerge.of_eq h)
    · exact hs
theorem execMdrainRun_keeps (hs : s.Keeps none) : KeepsOut (execMdrainRun part k s) none := by
  dsimp only [execMdrainRun]
  refine .next ?_
  split
  · split
    · split
      · exact .finishTurn hs
      · split
        · exact .finishTurn hs
        · split
          · exact .finishTurn hs
          · split
            · next h => exact .finishTurn (hs.sendMerge.of_eq h)
            · exact .ite (.holdMerge (.finishTurn hs)) (.finishTurn hs)
    · exact hs
  · exact hs
theorem execMstat_keeps (hs : s.Keeps fr) : KeepsOut (execMstat d s) fr := .next (.ws hs)
theorem State.Keeps.writeOn (hs : s.Keeps none) : (s.writeOn).Keeps none :=
  .foldl hs (fun _ _ h => .elsewhere (.engineWrites h)) _
theorem State.Keeps.remember (hs : s.Keeps none) : (s.remember).Keeps none := by
  dsimp only [State.remember]
  split <;> exact hs
theorem execEngineCommandComplete_keeps (hs : s.Keeps none) : KeepsOut (execEngineCommandComplete id s) none := by
  dsimp only [execEngineCommandComplete]
  refine .next ?_
  split
  · refine .ite hs (.ite (.leaseEnd (.stamped (.engineWrites hs) (fun t ht => ?_))) (.stamped (.engineWrites hs) fun t ht => ?_))
    · split
      · exact .engineFault ht
      · split
        · exact .ite (.updCtx ht) (.addName (.updCtx ht))
        · exact .updCtx ht
    · split
      · exact .engineFault ht
      · split
        · exact .ite (.updCtx ht) (.addName (.updCtx ht))
        · exact .updCtx ht
  · exact hs
theorem execEngineFaultSetting_keeps (hs : s.Keeps none) : KeepsOut (execEngineFaultSetting id s) none := by
  dsimp only [execEngineFaultSetting]
  refine .next ?_
  split
  · split
    · exact .ite hs (.setCell (.sink hs))
    · exact hs
  · exact hs
theorem execDrainMerge_keeps (hs : s.Keeps none) : KeepsOut (execDrainMerge core s) none := by
  dsimp only [execDrainMerge]
  refine .next ?_
  split
  · refine .ite hs ?_
    split
    · split
      · exact .elsewhere (.count (.updCore hs (fun _ h => h)))
      · exact .elsewhere (.count (.updCore (.putLocal hs) (fun _ h => h)))
    · split
      · exact .elsewhere (.count (.updCore hs (fun _ h => h)))
      · exact .ite (.ite (.updCore hs (fun _ h => h)) hs) (.elsewhere (.count (.updCore (.performWrite (.count hs)) (fun _ h => h))))
  · exact hs
theorem State.Keeps.tileEnqueue (hs : s.Keeps fr) : (s.tileEnqueue cmd).Keeps fr := by
  have hc := hs.reaches
  dsimp only [State.tileEnqueue]
  exact .ite (.stallMe hs) (.fresh (.updCore hs (fun _ h => h)))
theorem execTcvt_keeps {ts : BitVec 4} (hs : s.Keeps fr) : KeepsOut (execTcvt td ts s) fr :=
  .next (.orRaise hs (fun _ => .tileEnqueue hs))
theorem execAqadd_keeps (hs : s.Keeps fr) : KeepsOut (execAqadd td ta tb s) fr :=
  .next (.orRaise hs (fun _ => .tileEnqueue hs))
theorem State.Keeps.finishTile (hs : s.Keeps none) : (s.finishTile c cmd flags flt ws).Keeps none :=
  .elsewhere (.updCore hs (fun _ h => h))
theorem execTileUnitRun_keeps (hs : s.Keeps none) : KeepsOut (execTileUnitRun core s) none := by
  dsimp only [execTileUnitRun]
  refine .next ?_
  split
  · exact hs
  · refine .ite hs ?_
    split
    · split
      · exact .finishTile hs
      · split <;> exact .finishTile hs
    · split
      · exact .finishTile hs
      · split <;> exact .finishTile hs
    · exact hs
theorem State.Keeps.ask {kind : OutKind} {dests : List (BitVec 6)} {size : Nat} {k : Nat → State → State} (hs : s.Keeps fr)
    (hk : ∀ id t, t.Keeps fr → (k id t).Keeps fr) : (s.ask kind dests size k).Keeps fr := by
  unfold State.ask
  exact .ite (.parkMe hs) (hk _ _ (.fresh (.updMe hs)))
theorem State.Keeps.settle {vals : Option (List Word)} {f : Option Flt} (hs : s.Keeps fr) (hc : Reaches fr c := by trivial) :
    (s.settle c x id vals f).Keeps fr :=
  .updCtx hs
theorem State.Keeps.untilDone (hs : s.Keeps fr) : (s.untilDone id).Keeps fr := .ite (.updMe hs) hs
theorem execJqnext_keeps (hs : s.Keeps fr) : KeepsOut (execJqnext d a s) fr :=
  .next (.ask hs (fun _ _ ht => .transmit ht))
theorem execJqnextServe_keeps (hs : s.Keeps none) : KeepsOut (execJqnextServe id s) none := by
  dsimp only [execJqnextServe]
  refine .next ?_
  split
  · split
    · exact .settle (.updPart (.sink hs))
    · exact hs
  · exact hs

end Sys2Proof.Machine
end

section
/-! What messages, counters and channels keep. -/

set_option Elab.async false

namespace Sys2Proof.Machine
open Sys2Proof
variable {fr : Option State} {s : State}
variable {c chan core ctx g gw id kind n op out src use : Nat} {h v : Word} {a b d : BitVec 6} {w : BitVec 5} {r : HReq} {ws : List Word}
variable {bad : Option (Nat × Nat)} {p : Packet}

theorem State.Keeps.awaits (hs : s.Keeps fr) (hc : Reaches fr c := by trivial) : (s.awaits c).Keeps fr :=
  .updCore hs (fun _ h => h)
theorem State.Keeps.request {h : Nat} {k : State → State} (hs : s.Keeps fr) (hk : ∀ t, t.Keeps fr → (k t).Keeps fr) :
    (s.request h k).Keeps fr := by
  have hreserved : OnOk (State.Keeps · fr) (if s.me.resv = some h then .ok s else s.reserve s.cur.core h) := by
    split
    · exact hs
    · exact State.Keeps.reserve hs hs.reaches
  unfold State.request State.orRaise
  split
  · exact .raise hs
  · next t ht =>
    have hkept : t.Keeps fr := hreserved.of_eq ht
    exact .ite (.stallMe (.updMe hkept)) (hk _ (.awaits (.updMe hkept) hs.reaches))
theorem State.Keeps.payload {a : Word} {k : List Word → State} (hs : s.Keeps fr) (hk : ∀ ws, (k ws).Keeps fr) :
    (s.payload a n k).Keeps fr := by
  unfold State.payload
  exact .ite (hk _) (.ite (.raise hs) (.ite (.raise hs) (.loadLocal hs fun _ => hk _)))
theorem execSend_keeps (hs : s.Keeps fr) : KeepsOut (execSend a b s) fr := by
  dsimp only [execSend]
  refine .next (.orRaise hs ?_)
  intro v
  refine .ite ?_ ?_
  · exact .raise hs
  · exact .ite (.raise hs) (.payload hs fun ws => .ite (.ite (.raise hs) (.request hs fun t ht => .sendMe ht)) (.sendMe hs))
theorem State.Keeps.refuse (hs : s.Keeps fr) : (s.refuse c src kind h ws).Keeps fr :=
  .count (.sendHw hs)
theorem State.Keeps.landMsg {ch : Nat} {slot : Slot} (hs : s.Keeps none) : (s.landMsg c ch slot h ws).Keeps none := by
  dsimp only [State.landMsg]
  split
  · exact .land hs
  · exact .putLocal (.land hs)
theorem State.Keeps.msgAt {sc : Scope} (hs : s.Keeps none) :
    (s.msgAt c h ws src sc).1.Keeps none := by
  dsimp only [State.msgAt]
  split
  · exact hs
  · split
    · exact hs
    · split
      · exact State.Keeps.landMsg hs
      · exact hs
theorem execMsgArrival_keeps (hs : s.Keeps none) : KeepsOut (execMsgArrival id s) none := by
  dsimp only [execMsgArrival]
  refine .next ?_
  split
  · next p h ws _ =>
    refine .ite hs ?_
    have hat := hs.sink.msgAt (c := p.dst) (h := h) (ws := ws) (src := p.src) (sc := p.scope) (s := s.sink p)
    split
    · next e =>
      rw [e] at hat
      exact hat
    · next e =>
      rw [e] at hat
      exact .refuse hat
  · exact hs
theorem State.Keeps.replyIn {kind : SlotKind} (hs : s.Keeps none) : (s.replyIn p h ws kind).Keeps none :=
  .landMsg (.updCore (.answered (.sink hs)) (fun _ h => h))
theorem State.Keeps.stationHold (hs : s.Keeps none) : (s.stationHold p).Keeps none := .ite hs (.fresh hs)
theorem State.Keeps.stationReply (hs : s.Keeps none) : (s.stationReply p h ws).Keeps none :=
  .ite (.post (.sink hs)) (.stationHold hs)
theorem State.Keeps.replyEvent {slot : SlotKind} (hs : s.Keeps none) : (s.replyEvent id kind slot).Keeps none := by
  dsimp only [State.replyEvent]
  split
  · exact .ite hs (.ite (.stationReply hs) (.ite (.sink hs) (.replyIn hs)))
  · exact hs
theorem execReplyArrival_keeps (hs : s.Keeps none) : KeepsOut (execReplyArrival id s) none := .next (.replyEvent hs)
theorem execRddata_keeps (hs : s.Keeps none) : KeepsOut (execRddata id s) none := .next (.replyEvent hs)
theorem State.Keeps.timedRefused {old : Word} {pkt : Nat} (hs : s.Keeps none) : (s.timedRefused p kind chan old pkt).Keeps none := by
  dsimp only [State.timedRefused]
  split
  · exact .unreserve (.answered (.sink hs))
  · refine .ite ?_ ?_
    · exact .place (.updCore (.unreserve (.answered (.sink hs))) (fun _ h => h))
    · refine .ite ?_ ?_
      · exact .updCore (.unreserve (.answered (.sink hs))) (fun _ h => h)
      · exact .updCore (.unreserve (.answered (.sink hs))) (fun _ h => h)
theorem State.Keeps.refusalEvent (hs : s.Keeps none) : (s.refusalEvent id kind).Keeps none := by
  dsimp only [State.refusalEvent]
  split
  · split
    · exact .ite (.timedRefused hs) hs
    · exact .replyEvent hs
  · exact hs
theorem execRefusedReply_keeps (hs : s.Keeps none) : KeepsOut (execRefusedReply id s) none := .next (.refusalEvent hs)
theorem execRefusedUnbound_keeps (hs : s.Keeps none) : KeepsOut (execRefusedUnbound id s) none :=
  .next (.refusalEvent hs)
theorem execRefusedNocore_keeps (hs : s.Keeps none) : KeepsOut (execRefusedNocore id s) none :=
  .next (.refusalEvent hs)
theorem execRefusedHalted_keeps (hs : s.Keeps none) : KeepsOut (execRefusedHalted id s) none := by
  dsimp only [execRefusedHalted]
  refine .next ?_
  split
  · split
    · exact .ite (.land (.settle (.answered (.sink hs)))) (.settle (.answered (.sink hs)))
    · exact .replyEvent hs
  · exact hs
theorem State.Keeps.takeRecord {rec : List Word} {reserved : Bool} (hs : s.Keeps none) : (s.takeRecord p chan rec reserved).Keeps none :=
  .ite (.sink hs) (.place (.ite (.answered (.sink hs)) (.sink hs)))
theorem execFaultRecord_keeps (hs : s.Keeps none) : KeepsOut (execFaultRecord id s) none := by
  dsimp only [execFaultRecord]
  refine .next ?_
  split
  · split
    · exact .takeRecord hs
    · exact hs
  · exact hs
theorem execReleaseArrival_keeps (hs : s.Keeps none) : KeepsOut (execReleaseArrival id s) none := by
  dsimp only [execReleaseArrival]
  refine .next ?_
  split
  · split
    · split
      · exact .updCore (.unreserve (.answered (.sink hs))) (fun _ h => h)
      · exact .unreserve (.answered (.sink hs))
    · exact hs
  · exact hs
theorem execHostReport_keeps (hs : s.Keeps none) : KeepsOut (execHostReport id s) none := by
  dsimp only [execHostReport]
  refine .next ?_
  split
  · split
    · exact .ite (.sendRelease (.post (.sink hs))) (.stationHold hs)
    · exact hs
  · exact hs
theorem State.Keeps.caddFault {x : Word} {who : BitVec 12} {name : Word} (hs : s.Keeps none) : (s.caddFault p n x who name).Keeps none :=
  .sendHw hs
theorem execStationMessage_keeps (hs : s.Keeps none) : KeepsOut (execStationMessage id s) none := by
  dsimp only [execStationMessage]
  refine .next ?_
  split
  · refine .ite hs ?_
    split
    · exact .ite hs (.ite (.refuse (.sink hs)) (.sink hs))
    · exact .refuse (.sink hs)
    · exact .caddFault (.sink hs)
    · exact .takeRecord hs
    · exact .sink hs
  · exact hs
theorem State.Keeps.answerTo {from_ : Nat} {t : Slot} (hs : s.Keeps fr) : (s.answerTo from_ t h ws).Keeps fr := by
  dsimp only [State.answerTo]
  split
  · exact .sendMe hs
  · exact .transmit hs
theorem execReply_keeps (hs : s.Keeps fr) : KeepsOut (execReply a b s) fr := by
  have hc := hs.reaches
  dsimp only [execReply]
  refine .next (.ite (.raise hs) ?_)
  split
  · exact .ite (.loadLocal hs fun bs => .ite (.raise hs) (.updCore (.answerTo hs) (fun _ h => h))) (.raise hs)
  · exact .raise hs
theorem State.Keeps.landTagged {r : Posted} (hs : s.Keeps fr)
    (hc : Reaches fr c := by trivial) : (s.landTagged c r p h ws).Keeps fr := by
  refine .sendRelease (.addHere ?_)
  exact .ite (.putLocal (.elsewhere (.updCore (.putLocal hs) fun _ hk => Core.memWf_blur hk _ _ _)))
    (.elsewhere (.updCore (.putLocal hs) fun _ hk => Core.memWf_blur hk _ _ _))
theorem execTaggedArrival_keeps (hs : s.Keeps none) : KeepsOut (execTaggedArrival id s) none := by
  dsimp only [execTaggedArrival]
  refine .next ?_
  split
  · refine .ite hs (.ite (.refuse (.sink hs)) ?_)
    split
    · exact .landTagged (.updCore (.sink hs) (fun _ h => h))
    · exact .ite (.updCore (.sink hs) (fun _ h => h)) (.place (.refuse (.sink hs)))
  · exact hs
theorem execRecvp_keeps (hs : s.Keeps fr) : KeepsOut (execRecvp a b s) fr := by
  have hc := hs.reaches
  dsimp only [execRecvp]
  refine .next (.ite (.raise hs) (.ite (.raise hs) (.ite (.raise hs) (.ite (.raise hs) ?_))))
  split
  · split
    · exact .landTagged (.updCore hs (fun _ h => h))
    · exact hs
  · exact .updCore hs (fun _ h => h)
theorem execRecvpCancel_keeps (hs : s.Keeps fr) : KeepsOut (execRecvpCancel a s) fr := by
  have hc := hs.reaches
  exact .next (.updCore hs (fun _ h => h))
theorem State.Keeps.atom (hs : s.Keeps fr) : (s.atom op d a b).Keeps fr := by
  have hc := hs.reaches
  dsimp only [State.atom]
  refine .ite ?_ ?_
  · exact .raise hs
  · refine .ite ?_ ?_
    · refine .ite ?_ ?_
      · exact .raise hs
      · refine .ite ?_ ?_
        · exact .raise hs
        · refine .ite ?_ ?_
          · exact .stallMe hs
          · exact .ask hs fun id t ht => .ite (.untilDone (.awaits (.transmit (.updMe ht)))) (.awaits (.transmit (.updMe ht)))
    · refine .translate hs ?_
      intro pa a_1 e t ht
      refine .ite ?_ ?_
      · exact .stallMe ht
      · exact .ask ht fun id t_1 hu => .ite (.untilDone (.awaits (.transmit (.updMe hu)))) (.awaits (.transmit (.updMe hu)))
theorem execAtomAdd_keeps (hs : s.Keeps fr) : KeepsOut (execAtomAdd d a b s) fr := .next (.atom hs)
theorem execAtomMax_keeps (hs : s.Keeps fr) : KeepsOut (execAtomMax d a b s) fr := .next (.atom hs)
theorem execAtomMin_keeps (hs : s.Keeps fr) : KeepsOut (execAtomMin d a b s) fr := .next (.atom hs)
theorem execAtomMaxu_keeps (hs : s.Keeps fr) : KeepsOut (execAtomMaxu d a b s) fr := .next (.atom hs)
theorem execAtomMinu_keeps (hs : s.Keeps fr) : KeepsOut (execAtomMinu d a b s) fr := .next (.atom hs)
theorem execAtomSwap_keeps (hs : s.Keeps fr) : KeepsOut (execAtomSwap d a b s) fr := .next (.atom hs)
theorem execAtomCas_keeps (hs : s.Keeps fr) : KeepsOut (execAtomCas d a b s) fr := .next (.atom hs)
theorem execAtomOr_keeps (hs : s.Keeps fr) : KeepsOut (execAtomOr d a b s) fr := .next (.atom hs)
theorem execAtomAnd_keeps (hs : s.Keeps fr) : KeepsOut (execAtomAnd d a b s) fr := .next (.atom hs)
theorem execAtomXor_keeps (hs : s.Keeps fr) : KeepsOut (execAtomXor d a b s) fr := .next (.atom hs)
theorem execAtomFmax32_keeps (hs : s.Keeps fr) : KeepsOut (execAtomFmax32 d a b s) fr := .next (.atom hs)
theorem State.Keeps.handlerPush (hs : s.Keeps fr) (hc : Reaches fr c := by trivial) : (s.handlerPush c r).Keeps fr :=
  .updCore hs (fun _ h => h)
theorem State.Keeps.refuseHalted (hs : s.Keeps fr) (hc : Reaches fr c := by trivial) : (s.refuseHalted c r).Keeps fr := by
  dsimp only [State.refuseHalted]
  split
  · exact .count (.transmit (.count hs))
  · exact .refuse (.count hs)
  · exact .handlerPush hs
theorem State.Keeps.handlerArrival {sort : HReq → Bool} (hs : s.Keeps none) : (s.handlerArrival id sort).Keeps none := by
  dsimp only [State.handlerArrival]
  split
  · split
    · exact .ite hs (.ite (.refuseHalted hs) (.ite hs (.handlerPush hs)))
    · exact hs
  · exact hs
theorem execAtomRequest_keeps (hs : s.Keeps none) : KeepsOut (execAtomRequest id s) none := .next (.handlerArrival hs)
theorem execRdreq_keeps (hs : s.Keeps none) : KeepsOut (execRdreq id s) none := by
  dsimp only [execRdreq]
  refine .next ?_
  split
  · split
    · exact .ite (.refuse (.sink hs)) (.handlerArrival hs)
    · exact hs
  · exact hs
theorem State.Keeps.handlerDone (hs : s.Keeps none) : (s.handlerDone c).Keeps none :=
  .count (.updCore hs (fun _ h => h))
theorem State.Keeps.sendAtomr {f : Option Flt} (hs : s.Keeps none) : (s.sendAtomr c src ctx out v f).Keeps none :=
  .transmit hs
theorem State.Keeps.atomEcc {a : Word} (hs : s.Keeps none) : (s.atomEcc c src ctx out a).Keeps none :=
  .elsewhere (.sendAtomr (.postTo hs))
theorem execAtomPerform_keeps (hs : s.Keeps none) : KeepsOut (execAtomPerform core s) none := by
  dsimp only [execAtomPerform]
  refine .next ?_
  split
  · refine .ite hs ?_
    split
    · split
      · exact .atomEcc (.handlerDone hs)
      · exact .sendAtomr (.putLocal (.handlerDone hs))
    · split
      · exact .atomEcc (.handlerDone hs)
      · exact .ite hs (.ite (.ite (.updCore hs (fun _ h => h)) hs) (.sendAtomr (.performWrite (.count (.handlerDone hs)))))
  · exact hs
theorem execAtomr_keeps (hs : s.Keeps none) : KeepsOut (execAtomr id s) none := by
  dsimp only [execAtomr]
  refine .next ?_
  split
  · split
    · exact .settle (.answered (.sink hs))
    · exact hs
  · exact hs
theorem execRdrem_keeps (hs : s.Keeps fr) : KeepsOut (execRdrem d a b s) fr :=
  .next (.ite (.raise hs) (.ite (.raise hs) (.ite (.raise hs) (.ite (.raise hs) (.request hs fun _ ht => .sendMe ht)))))
theorem execRdreqPerform_keeps (hs : s.Keeps none) : KeepsOut (execRdreqPerform core s) none := by
  dsimp only [execRdreqPerform]
  refine .next ?_
  split
  · refine .ite hs (.ite (.sendHw (.handlerDone hs)) ?_)
    split <;> exact .sendHw (.handlerDone hs)
  · exact hs
theorem State.Keeps.withCounter {k : Nat → State} (hs : s.Keeps fr) (hk : ∀ n, (k n).Keeps fr) : (s.withCounter a k).Keeps fr :=
  .orRaise hs hk
theorem execCadd_keeps (hs : s.Keeps fr) : KeepsOut (execCadd a b s) fr := by
  have hc := hs.reaches
  dsimp only [execCadd]
  exact .next (.orRaise hs (fun v => .addName hs))
theorem execCread_keeps (hs : s.Keeps fr) : KeepsOut (execCread d a s) fr :=
  .next (.withCounter hs (fun _ => .ws hs))
theorem execCarm_keeps (hs : s.Keeps fr) : KeepsOut (execCarm d a b s) fr := by
  have hc := hs.reaches
  dsimp only [execCarm]
  refine .next (.withCounter hs ?_)
  intro n
  refine .ite ?_ ?_
  · exact .setCell hs
  · refine .ite ?_ ?_
    · exact .raise hs
    · exact .ite (.raise hs) (.ite (.raise hs) (.ite (.fire (.setCell hs)) (.ite (.overrun (.setCell hs)) (.setCell hs))))
theorem execCset_keeps (hs : s.Keeps fr) : KeepsOut (execCset a b s) fr := by
  have hc := hs.reaches
  dsimp only [execCset]
  exact .next (.withCounter hs (fun n => .setCell hs))
theorem execCflt_keeps (hs : s.Keeps fr) : KeepsOut (execCflt d a s) fr := by
  have hc := hs.reaches
  dsimp only [execCflt]
  exact .next (.withCounter hs (fun n => .ws (.setCell hs)))
theorem execCwait_keeps (hs : s.Keeps fr) : KeepsOut (execCwait a b w s) fr := by
  have hc := hs.reaches
  dsimp only [execCwait]
  exact .next (.withCounter hs (fun n => .ite (.raise hs) (.ite (.acquire hs) (.await hs))))
theorem execCaddm_keeps (hs : s.Keeps none) : KeepsOut (execCaddm id s) none := by
  dsimp only [execCaddm]
  refine .next ?_
  split
  · split
    · exact .ite hs (.ite (.caddFault (.sink hs)) (.counterAdd (.sink hs)))
    · exact hs
  · exact hs
theorem execCounterPendingPush_keeps (hs : s.Keeps none) : KeepsOut (execCounterPendingPush core n s) none :=
  .next (.ite hs (.ite hs (.fire hs)))
theorem execChbind_keeps (hs : s.Keeps fr) : KeepsOut (execChbind d a b s) fr := by
  have hc := hs.reaches
  dsimp only [execChbind]
  refine .next (.ite ?_ ?_)
  · exact .raise hs
  · exact .ite (.raise hs) (.ite (.raise hs) (.ite (.raise hs) (.ite (.raise hs) (.ite (.raise hs) (.updCore hs (fun _ h => h))))))
theorem execChset_keeps (hs : s.Keeps fr) : KeepsOut (execChset d a b s) fr := by
  have hc := hs.reaches
  dsimp only [execChset]
  refine .next (.ite ?_ ?_)
  · exact .ite (.raise hs) (.updCore hs (fun _ h => h))
  · refine .ite ?_ ?_
    · exact .ite (.raise hs) (.ite (.raise hs) (.updCore hs (fun _ h => h)))
    · refine .ite ?_ ?_
      · exact .ite (.raise hs) (.ite (.raise hs) (.updCore hs (fun _ h => h)))
      · exact .ite (.ite (.raise hs) (.updCore hs (fun _ h => h))) (.raise hs)
theorem execChq_keeps (hs : s.Keeps fr) : KeepsOut (execChq d a b s) fr :=
  .next (.ite (.ws hs) (.ite (.ws hs) (.ite (.ws hs) (.raise hs))))
theorem State.Keeps.takeSlot {h i : Nat} (hs : s.Keeps fr) (hc : Reaches fr c := by trivial) : (s.takeSlot c h i).Keeps fr :=
  .updCore hs (fun _ h => h)
theorem execQwait_keeps (hs : s.Keeps fr) : KeepsOut (execQwait d a w s) fr := by
  have hc := hs.reaches
  dsimp only [execQwait]
  refine .next (.ite (.raise hs) ?_)
  split
  · exact .ws (.updMe (.acquire (.takeSlot (.freeSlot? hs))))
  · exact .await hs
theorem State.Keeps.updGate {p : Nat} {f : Gate → Gate} (hs : s.Keeps none) : (s.updGate p g f).Keeps none := .updPart hs
theorem execRdsend_keeps (hs : s.Keeps fr) : KeepsOut (execRdsend d a b s) fr := by
  have hc := hs.reaches
  dsimp only [execRdsend]
  refine .next ?_
  split
  · exact .ite (.updCore hs (fun _ h => h)) (.fare hs)
  · refine .ite ?_ ?_
    · exact .raise hs
    · exact .ite (.raise hs) (.ite (.raise hs) (.ite (.raise hs) (.check hs (.request hs fun t ht => .waitMe (.sendMe ht)))))
theorem State.Keeps.deliverUse {all : List Contrib} (hs : s.Keeps none) : (s.deliverUse gw g use all bad v).Keeps none := by
  dsimp only [State.deliverUse]
  refine .foldl (.foldl hs (fun t e h => ?_) _) (fun t e h => .updGate h) _
  split
  · exact .faultCounter (.sendHw h)
  · split
    · exact .addName (.putLocal h)
    · exact .putLocal h
theorem State.Keeps.rootTake {block die : Nat} {got : List Contrib} (hs : s.Keeps none) :
    (s.rootTake gw g block op use die v got bad).Keeps none :=
  .ite hs (.ite (.deliverUse (.updGate hs)) (.updGate hs))
theorem State.Keeps.combine (hs : s.Keeps none) : (s.combine gw g).Keeps none :=
  .ite hs (.ite (.rootTake hs) (.sendHw hs))
theorem State.Keeps.settleStrays (hs : s.Keeps none) : (s.settleStrays gw g use).Keeps none := by
  dsimp only [State.settleStrays]
  split
  · exact .ite (.deliverUse hs) hs
  · exact hs
theorem State.Keeps.acceptContrib (hs : s.Keeps none) : (s.acceptContrib gw p).Keeps none := by
  dsimp only [State.acceptContrib]
  split
  · exact .settleStrays (.combine (.sendHw (.count (.updCtx (.updGate hs)))))
  · exact hs
theorem execContrib_keeps (hs : s.Keeps none) : KeepsOut (execContrib id s) none := by
  dsimp only [execContrib]
  refine .next ?_
  split
  · split
    · exact .ite (.acceptContrib hs) (.updGate hs)
    · exact hs
  · exact hs
theorem execContribAccept_keeps {part : Nat} (hs : s.Keeps none) : KeepsOut (execContribAccept part g s) none := by
  dsimp only [execContribAccept]
  refine .next ?_
  split
  · exact .acceptContrib (.updGate hs)
  · exact hs
theorem execDiePartial_keeps (hs : s.Keeps none) : KeepsOut (execDiePartial id s) none := by
  dsimp only [execDiePartial]
  refine .next ?_
  split
  · split
    · exact .rootTake (.sink hs)
    · exact hs
  · exact hs
theorem State.Keeps.dropContrib {rchan : Nat} (hs : s.Keeps none) : (s.dropContrib c id rchan).Keeps none :=
  .count (.unreserve (.updCore hs (fun _ h => h)))
theorem execRdsendExpiry_keeps (hs : s.Keeps none) : KeepsOut (execRdsendExpiry core ctx s) none := by
  dsimp only [execRdsendExpiry]
  refine .next ?_
  split
  · split
    · exact .ite hs (.raise (.dropContrib (.asIf hs)))
    · exact hs
  · exact hs

end Sys2Proof.Machine
end

section
/-! What tasks, the Catenary and memory accesses keep. -/

set_option Elab.async false

namespace Sys2Proof.Machine
open Sys2Proof
variable {fr : Option State} {s : State}
variable {c core ctx dom g h id n pa x : Nat} {v : Word} {a b d : BitVec 6} {attr : BitVec 2} {off : BitVec 9} {f : Flt} {i : Instr}
variable {q : LoadReq} {sc : Scope} {sz : Size}

theorem State.Keeps.watchAll (hs : s.Keeps none) : (s.watchAll c).Keeps none := .updCore hs (fun _ h => h)
theorem State.Keeps.sawDispatch {p : Nat} (hs : s.Keeps none) : (s.sawDispatch c h p).Keeps none :=
  .updCore hs (fun _ h => h)
theorem State.Keeps.undispatched {i : Nat} (hs : s.Keeps none) : (s.undispatched c h i f).Keeps none :=
  .freeSlot (.place (.updCore hs (fun _ h => h)))
theorem execTaskDispatch_keeps (hs : s.Keeps none) : KeepsOut (execTaskDispatch core s) none := by
  dsimp only [execTaskDispatch]
  refine .next (.ite hs (.ite (.watchAll hs) ?_))
  split
  · split
    · exact .watchAll hs
    · split
      · exact .undispatched (.updCore (.takeSlot (.watchAll hs)) (fun _ h => h))
      · refine .ite ?_ ?_
        · exact .undispatched (.updCore (.takeSlot (.watchAll hs)) (fun _ h => h))
        · exact .acquire (.updCtx (.sawDispatch (.updCore (.takeSlot (.watchAll hs)) (fun _ h => h))))
  · exact .watchAll hs
theorem execStarve_keeps {ch : Nat} (hs : s.Keeps none) : KeepsOut (execStarve core ch s) none := by
  dsimp only [execStarve]
  refine .next ?_
  split
  · exact .ite (.place (.updCore hs (fun _ h => h))) hs
  · exact hs
theorem execStealAttempt_keeps (hs : s.Keeps none) : KeepsOut (execStealAttempt core s) none := by
  dsimp only [execStealAttempt]
  refine .next ?_
  split
  · exact .ite (.sendHw (.updCore hs (fun _ h => h))) hs
  · exact hs
theorem execStealBackoffExpiry_keeps (hs : s.Keeps none) : KeepsOut (execStealBackoffExpiry core s) none := by
  dsimp only [execStealBackoffExpiry]
  refine .next ?_
  split
  · exact .ite (.updCore hs (fun _ h => h)) hs
  · exact hs
theorem execStealRequest_keeps (hs : s.Keeps none) : KeepsOut (execStealRequest id s) none :=
  .next (.handlerArrival hs)
theorem State.Keeps.serveSteal {src ring : Nat} (hs : s.Keeps none) : (s.serveSteal core src ring).Keeps none := by
  dsimp only [State.serveSteal]
  split
  · split
    · split
      · exact .transmit (.place hs)
      · exact .transmit (.freeSlot hs)
    · exact hs
  · exact .transmit hs
theorem execStealServe_keeps (hs : s.Keeps none) : KeepsOut (execStealServe core s) none := by
  dsimp only [execStealServe]
  refine .next ?_
  split
  · exact .ite hs (.serveSteal (.handlerDone hs))
  · exact hs
theorem execStealAnswer_keeps (hs : s.Keeps none) : KeepsOut (execStealAnswer id s) none := by
  dsimp only [execStealAnswer]
  refine .next ?_
  split
  · split
    · split
      · exact .land (.updCore (.unreserve (.sink hs)) fun _ h => h)
      · refine .updCore (.unreserve (.sink hs)) fun _ hk => ?_
        split <;> exact hk
    · exact hs
  · exact hs
theorem State.Keeps.descAddr {a : Word} {k : State} (hs : s.Keeps fr) (hk : k.Keeps fr) : (s.descAddr a k).Keeps fr := by
  unfold State.descAddr
  exact .ite (.raise hs) (.ite (.raise hs) hk)
theorem execReady_keeps (hs : s.Keeps fr) : KeepsOut (execReady a s) fr := by
  have hc := hs.reaches
  dsimp only [execReady]
  exact .next (.descAddr hs (.loadLocal hs fun bs => .ite (.raise hs) (.ite (.raise hs) (.pushDesc hs))))
theorem execNest_keeps (hs : s.Keeps fr) : KeepsOut (execNest a b s) fr := by
  dsimp only [execNest]
  refine .next (.descAddr hs (.loadLocal hs fun bs => ?_))
  split
  · exact .raise hs
  · exact .ite (.raise hs) (.orRaise hs fun v => .fresh (.updMe hs))
theorem execNexti_keeps (hs : s.Keeps fr) : KeepsOut (execNexti d a s) fr := by
  have hc := hs.reaches
  dsimp only [execNexti]
  refine .next ?_
  split
  · exact .raise hs
  · refine .ask hs fun id t ht => .ite (.settle (.updMe ht)) ?_
    split
    · exact .transmit ht
    · exact .transmit ht
    · exact .settle ht
theorem State.Keeps.serveClaim {p : Packet} {name : Word} {total least k m out : Nat} (hs : s.Keeps none) :
    (s.serveClaim p name total least k m ctx out).Keeps none := by
  dsimp only [State.serveClaim]
  refine .ite (.settle (.caddFault (.sink hs))) (.ite (.settle (.sink hs)) ?_)
  split
  · exact .settle (.updCtx (.counterAdd (.sink hs)))
  · exact .counterAdd (.sink hs)
theorem execClaimServe_keeps (hs : s.Keeps none) : KeepsOut (execClaimServe id s) none := by
  dsimp only [execClaimServe]
  refine .next ?_
  split
  · split
    · exact .serveClaim hs
    · exact hs
  · exact hs
theorem State.Keeps.updGroup {f : Group → Group} (hs : s.Keeps fr) : (s.updGroup c g f).Keeps fr := .updLaunch hs
theorem State.Keeps.arrive (hs : s.Keeps fr) (hc : Reaches fr c := by trivial) : (s.arrive c x).Keeps fr := by
  dsimp only [State.arrive]
  split
  · exact hs
  · split
    · exact hs
    · split
      · exact hs
      · exact .ite hs (.updCtx (.updGroup hs))
theorem State.Keeps.catWait {ids : List Nat} (hs : s.Keeps fr) : (s.catWait i ids).Keeps fr := by
  have hc := hs.reaches
  dsimp only [State.catWait]
  split
  · exact .fare hs
  · exact .arrive (.fresh (.waitMe hs))
theorem State.Keeps.catenary {root : Option (BitVec 6)} {orders : Bool} (hs : s.Keeps fr) : (s.catenary i a root orders).Keeps fr :=
  .ite (.raise hs) (.ite (.raise hs) (.ite (.raise hs) (.catWait hs)))
theorem execCbar_keeps (hs : s.Keeps fr) : KeepsOut (execCbar a s) fr := .next (.catenary hs)
theorem execCbarx_keeps (hs : s.Keeps fr) : KeepsOut (execCbarx a s) fr := .next (.catenary hs)
theorem execCbcast_keeps (hs : s.Keeps fr) : KeepsOut (execCbcast d a b s) fr := .next (.catenary hs)
theorem execCredAdd_keeps (hs : s.Keeps fr) : KeepsOut (execCredAdd d a b s) fr := .next (.catenary hs)
theorem execCredMin_keeps (hs : s.Keeps fr) : KeepsOut (execCredMin d a b s) fr := .next (.catenary hs)
theorem execCredMax_keeps (hs : s.Keeps fr) : KeepsOut (execCredMax d a b s) fr := .next (.catenary hs)
theorem execCredOr_keeps (hs : s.Keeps fr) : KeepsOut (execCredOr d a b s) fr := .next (.catenary hs)
theorem execCredAnd_keeps (hs : s.Keeps fr) : KeepsOut (execCredAnd d a b s) fr := .next (.catenary hs)
theorem execPhase_keeps (hs : s.Keeps fr) : KeepsOut (execPhase d a b s) fr :=
  .next (.ite (.raise hs) (.ite (.raise hs) (.ite (.raise hs) (.catWait hs))))
theorem execGmem_keeps (hs : s.Keeps fr) : KeepsOut (execGmem d a s) fr :=
  .next (.ite (.raise hs) (.ws hs))
theorem State.Keeps.leaveUse {a : Arrival} (hs : s.Keeps none) : (s.leaveUse a g v sc).Keeps none := by
  dsimp only [State.leaveUse]
  split
  · refine .ite ?_ ?_
    · exact .updCtx (.leaveWait (.ite (.ite hs (.acquire hs)) (.updCtx (.ite hs (.acquire hs)))))
    · exact .leaveWait (.ite (.ite hs (.acquire hs)) (.updCtx (.ite hs (.acquire hs))))
  · exact hs
theorem State.Keeps.completeUse (hs : s.Keeps none) : (s.completeUse dom g).Keeps none := by
  dsimp only [State.completeUse]
  refine .foldl ?_ (fun t e h => ?_) _
  · refine .ite ?_ ?_
    · refine .foldl (.updGroup (.foldl hs (fun t e h => .count h) _)) (fun t e h => ?_) _
      split
      · exact .raise (.asIf h)
      · exact h
    · refine .ite ?_ ?_
      · exact .foldl (.updGroup (.updGroup (.foldl hs (fun t e h => .count h) _))) (fun t e h => .leaveUse h) _
      · exact .foldl (.updGroup (.foldl hs (fun t e h => .count h) _)) (fun t e h => .leaveUse h) _
  · exact .foldl h (fun t e h => .ite (.arrive h) h) _
theorem execCatenaryCompletion_keeps (hs : s.Keeps none) : KeepsOut (execCatenaryCompletion dom g s) none := by
  dsimp only [execCatenaryCompletion]
  refine .next ?_
  split
  · exact .ite (.completeUse hs) hs
  · exact hs
theorem execCatenaryArrival_keeps (hs : s.Keeps none) : KeepsOut (execCatenaryArrival core ctx s) none := by
  dsimp only [execCatenaryArrival]
  refine .next ?_
  split
  · exact .arrive hs
  · exact hs
theorem execCatenaryWithdrawal_keeps (hs : s.Keeps none) : KeepsOut (execCatenaryWithdrawal core ctx s) none := by
  dsimp only [execCatenaryWithdrawal]
  refine .next ?_
  split
  · split
    · exact .ite hs (.ite (.updCtx (.updGroup hs)) (.raise (.asIf (.updGroup hs))))
    · exact hs
  · exact hs
theorem State.Keeps.askSlice {kind : OutKind} {va : Word} {want : Option (BitVec 16)} (hs : s.Keeps fr) :
    (s.askSlice kind d va pa n attr want).Keeps fr :=
  .ask hs fun _ _ ht => ht
theorem State.Keeps.loadNow {v : Nat} {f : Option Flt} (hs : s.Keeps fr) : (s.loadNow d v f).Keeps fr :=
  .ask hs fun _ _ ht => .settle ht ht.reaches
theorem State.Keeps.globalLoad {a : Word} (hs : s.Keeps fr) : (s.globalLoad d a pa n attr).Keeps fr := by
  dsimp only [State.globalLoad]
  refine .behindAtoms hs (.ite (.untilDone (.askSlice hs)) (.ite (.ite (.loadNow hs) (.stallMe hs)) ?_))
  split
  · exact .ite (.loadNow hs) (.askSlice hs)
  · exact .askSlice hs
theorem State.Keeps.globalStore {a : Word} (hs : s.Keeps fr) : (s.globalStore a pa n v attr).Keeps fr := by
  dsimp only [State.globalStore]
  refine .behindAtoms hs ?_
  split
  · exact .stallMe hs
  · exact .ite (.untilDone (.enterLane hs)) (.enterLane hs)
theorem execLd_keeps (hs : s.Keeps fr) : KeepsOut (execLd d a sz off s) fr := by
  dsimp only [execLd]
  refine .next (.ite (.raise hs) (.ite (.orRaise hs fun v => ?_) (.translate hs fun pa a_1 e t ht => .globalLoad ht)))
  split
  · exact .ws hs
  · exact .behindAtoms hs (.unmarked hs (.orRaise hs fun v => .ws hs))
  · exact .behindAtoms hs (.unmarked hs (.orRaise hs fun v => .ws hs))
theorem execSt_keeps (hs : s.Keeps fr) : KeepsOut (execSt d a sz off s) fr := by
  have hc := hs.reaches
  dsimp only [execSt]
  refine .next (.ite ?_ ?_)
  · exact .raise hs
  · refine .ite (.orRaise hs fun v => .behindAtoms hs (.unmarked hs ?_)) (.translate hs fun pa a_1 e t ht => .globalStore ht)
    split
    · exact .raise hs
    · exact .putLocal hs
theorem State.Keeps.versioned {x : Word} {n : Need} {k : Nat → State → State} (hs : s.Keeps fr)
    (hk : ∀ pa t, t.Keeps fr → (k pa t).Keeps fr) : (s.versioned x n k).Keeps fr := by
  unfold State.versioned
  refine .ite (.raise hs) (.ite (.raise hs) ?_)
  refine .translate hs fun pa _ _ t ht => ?_
  exact .ite (.raise hs) (.behindAtoms ht (hk pa t ht))
theorem execLdv_keeps (hs : s.Keeps fr) : KeepsOut (execLdv d a off s) fr :=
  .next (.versioned hs (fun _ _ ht => .askSlice ht))
theorem execRecl_keeps (hs : s.Keeps fr) : KeepsOut (execRecl a b s) fr :=
  .next (.versioned hs (fun _ _ ht => .enterLane ht))
theorem execFence_keeps (hs : s.Keeps fr) : KeepsOut (execFence sc s) fr := by
  have hc := hs.reaches
  dsimp only [execFence]
  exact .next (.ite (.stallMe hs) (.acquire hs))
theorem State.Keeps.defer (hs : s.Keeps none) : (s.defer c x f).Keeps none :=
  .ite hs (.ite (.takeFault hs) (.updCtx hs))
theorem State.Keeps.unstall {p : Stall → Bool} (hs : s.Keeps fr) (hc : Reaches fr c := by trivial) : (s.unstall c x p).Keeps fr :=
  .updCtx hs
theorem State.Keeps.seqDone (hs : s.Keeps none) : (s.seqDone c x id).Keeps none := .unstall hs
theorem State.Keeps.performLane {e : LaneEntry} (hs : s.Keeps none) : (s.performLane c e).Keeps none := by
  have hlane : (s.updCore c fun k => Core.refill { k with lanes := k.lanes.filter fun l => l.id != e.id } e.ctx).Keeps none :=
    .updCore hs fun k hk => Core.memWf_refill (k := { k with lanes := k.lanes.filter fun l => l.id != e.id }) hk _
  dsimp only [State.performLane]
  refine .ite (.performRecl hlane) ?_
  refine .seqDone ?_
  exact .ite (.defer hlane) (.performWrite hlane)
theorem State.Keeps.served {r : Except Flt Word} (hs : s.Keeps none) : (s.served q r).Keeps none := by
  dsimp only [State.served]
  refine .seqDone ?_
  split <;> exact .settle hs
theorem State.Keeps.serveLoad (hs : s.Keeps none) : (s.serveLoad q).Keeps none := by
  dsimp only [State.serveLoad]
  split
  · exact .served hs
  · split
    · split
      · exact .count (.served hs)
      · exact .served hs
      · exact hs
    · exact .ite (.count (.fillLine (.served hs))) (.count (.served hs))
theorem execSliceLoadServe_keeps (hs : s.Keeps none) : KeepsOut (execSliceLoadServe id s) none := by
  dsimp only [execSliceLoadServe]
  refine .next ?_
  split
  · exact .ite hs (.serveLoad hs)
  · exact hs
theorem execLineEviction_keeps {line : Nat} (hs : s.Keeps none) : KeepsOut (execLineEviction core line s) none :=
  .next (.updCore hs (fun _ h => h))
theorem execLdvHoldExpiry_keeps (hs : s.Keeps none) : KeepsOut (execLdvHoldExpiry id s) none := by
  dsimp only [execLdvHoldExpiry]
  refine .next ?_
  split
  · split
    · exact .ite (.served hs) hs
    · exact hs
  · exact hs
theorem Core.memWf_unpark {k : Core} (h : k.memWf = true) (x : Nat) : (k.unpark x).memWf = true := by
  unfold Core.unpark
  dsimp only
  split <;> exact h
theorem execVariableLatencyResult_keeps (hs : s.Keeps none) : KeepsOut (execVariableLatencyResult id s) none := by
  refine .next ?_
  split
  · extract_lets vals
    refine .ite hs (.ite (.updCtx hs) ?_)
    split
    · exact .ite (.updCtx hs) (.defer (.updCtx hs))
    · refine .updCore ?_ fun _ hk => Core.memWf_unpark hk _
      show State.Keeps (if _ then _ else _) none
      exact .ite (.updCtx hs) (.updCtx (.updCtx hs))
  · exact hs
theorem execDeferredFault_keeps (hs : s.Keeps none) : KeepsOut (execDeferredFault core ctx s) none := by
  dsimp only [execDeferredFault]
  refine .next ?_
  split
  · exact .ite hs (.takeFault hs)
  · exact hs
theorem State.Keeps.retryMarks (hs : s.Keeps fr) (hc : Reaches fr c := by trivial) : (s.retryMarks c).Keeps fr :=
  .foldl hs (fun t e h => .unstall h) _
theorem execWmark_keeps {n : BitVec 3} (hs : s.Keeps fr) : KeepsOut (execWmark d a b n s) fr := by
  have hc := hs.reaches
  dsimp only [execWmark]
  refine .next ?_
  split
  · exact .raise hs
  · exact .ite (.raise hs) (.ite (.raise hs) (.ite (.raise hs) (.retryMarks (.updCore hs (fun _ h => h)))))
theorem State.Keeps.advanceMark {off : Nat} (hs : s.Keeps none) : (s.advanceMark c h off n).Keeps none :=
  .retryMarks (.updCore hs (fun _ h => h))
theorem execWatermarkStallExpiry_keeps (hs : s.Keeps none) : KeepsOut (execWatermarkStallExpiry core ctx s) none := by
  dsimp only [execWatermarkStallExpiry]
  refine .next ?_
  split
  · exact .ite (.raise (.asIf hs)) hs
  · exact hs
theorem State.Keeps.repool {rfu acc : Nat} (hs : s.Keeps fr) (hc : Reaches fr c := by trivial) : (s.repool c rfu acc).Keeps fr := by
  dsimp only [State.repool]
  split
  · refine .elsewhere (.updCore hs fun k hk => ?_)
    rw [Core.memWf_iff] at hk ⊢
    exact ⟨Memory.wf_filter _ _ _ hk.1, hk.2⟩
  · refine .updSlot (.elsewhere (.updCore hs fun k hk => ?_))
    rw [Core.memWf_iff] at hk ⊢
    exact ⟨Memory.wf_filter _ _ _ hk.1, hk.2⟩
theorem execPool_keeps (hs : s.Keeps fr) : KeepsOut (execPool a s) fr := by
  have hc := hs.reaches
  dsimp only [execPool]
  refine .next (.ite (.raise hs) ?_)
  split
  · exact .raise hs
  · split
    · exact .raise hs
    · exact .ite (.updMe (.repool hs)) (.repool hs)
theorem execPoolClearDone_keeps (hs : s.Keeps none) : KeepsOut (execPoolClearDone core s) none :=
  .next (.ite (.unstall (.updCore hs (fun _ h => h))) hs)

end Sys2Proof.Machine
end

section
/-! What copies and store lanes keep. -/

set_option Elab.async false

namespace Sys2Proof.Machine
open Sys2Proof
variable {fr : Option State} {s : State}
variable {c core dest id n : Nat} {a b d : BitVec 6} {j : CopyJob} {e : LaneEntry} {ws : List Word}

theorem State.Keeps.sendCopy {kind rchan : Nat} (hs : s.Keeps fr) : (s.sendCopy kind dest rchan ws).Keeps fr :=
  .ite (.raise hs) (.sendMe hs)
theorem State.Keeps.copyForm {src dst ctl : Word} {kind : Except Word Nat} (hs : s.Keeps fr) :
    (s.copyForm src dst ctl kind dest).Keeps fr := by
  dsimp only [State.copyForm]
  refine .ite (.raise hs) (.ite (.raise hs) (.ite (.raise hs) ?_))
  split
  · exact .raise hs
  · exact .ite (.raise hs) (.ite (.raise hs) (.orRaise hs fun v => .sendCopy hs))
theorem execCopy_keeps (hs : s.Keeps fr) : KeepsOut (execCopy d a b s) fr := .next (.copyForm hs)
theorem execCopyc_keeps (hs : s.Keeps fr) : KeepsOut (execCopyc d a b s) fr := .next (.copyForm hs)
theorem execHalo_keeps (hs : s.Keeps fr) : KeepsOut (execHalo d a b s) fr := by
  dsimp only [execHalo]
  refine .next (.ite ?_ ?_)
  · exact .raise hs
  · refine .ite ?_ ?_
    · exact .raise hs
    · refine .ite ?_ ?_
      · exact .raise hs
      · exact .ite (.raise hs) (.ite (.raise hs) (.ite (.raise hs) (.ite (.raise hs) (.orRaise hs fun v => .sendCopy hs))))
theorem State.Keeps.copyWrite {a : Word} {bs : List Byte} (hs : s.Keeps none) :
    OnOk (·.Keeps none) (s.copyWrite j a bs) := by
  dsimp only [State.copyWrite]
  split
  · split
    · trivial
    · exact .putLocal hs
  · split
    · trivial
    · split
      · trivial
      · split
        · show State.Keeps _ none
          exact .fresh (.fresh (.updCore hs fun _ h => h))
        · split
          · trivial
          · exact .performWords hs
theorem State.Keeps.dropJob (hs : s.Keeps none) : (s.dropJob j).Keeps none := hs
theorem State.Keeps.copyFail {f : Flt} (hs : s.Keeps none) : (s.copyFail j f).Keeps none :=
  .stamped hs fun _ ht => .ite (.postTo (.dropJob (.logViolation ht))) (.faultCounter (.postTo (.dropJob (.logViolation ht))))
theorem State.Keeps.copyDone (hs : s.Keeps none) : (s.copyDone j).Keeps none := by
  dsimp only [State.copyDone]
  refine .stamped hs fun t ht => .ite (.dropJob ht) ?_
  split
  · exact .addName (.dropJob ht)
  · exact .dropJob ht
theorem State.Keeps.requestAt {kind : Nat → Bool} {k : State → CopyJob → List Word → State} (hs : s.Keeps none)
    (hk : ∀ t j ws, t.Keeps none → (k t j ws).Keeps none) : (s.requestAt id kind k).Keeps none := by
  dsimp only [State.requestAt]
  split
  · split
    · exact .ite hs (.ite (.copyFail (.sink hs)) (hk _ _ _ (.sink hs)))
    · exact hs
  · exact hs
theorem State.Keeps.beginCopy (hs : s.Keeps none) : (s.beginCopy j ws).Keeps none := by
  dsimp only [State.beginCopy]
  split
  · exact .copyFail hs
  · exact hs
theorem State.Keeps.badKind (hs : s.Keeps none) : (s.badKind j).Keeps none := .copyFail hs
theorem execGet_keeps (hs : s.Keeps none) : KeepsOut (execGet id s) none :=
  .next (.requestAt hs (fun _ _ _ ht => .ite (.beginCopy ht) (.badKind ht)))
theorem execPut_keeps (hs : s.Keeps none) : KeepsOut (execPut id s) none :=
  .next (.requestAt hs (fun _ _ _ ht => .beginCopy ht))
theorem execGcopy_keeps (hs : s.Keeps none) : KeepsOut (execGcopy id s) none :=
  .next (.requestAt hs (fun _ _ _ ht => .beginCopy ht))
theorem execMove_keeps (hs : s.Keeps none) : KeepsOut (execMove id s) none :=
  .next (.requestAt hs (fun _ _ _ ht => .ite (.beginCopy ht) (.badKind ht)))
theorem execHaloRequest_keeps (hs : s.Keeps none) : KeepsOut (execHaloRequest id s) none := by
  dsimp only [execHaloRequest]
  refine .next (.requestAt hs (fun t j ws ht => ?_))
  split
  · exact .copyFail ht
  · exact .ite (.copyDone ht) ht
theorem State.Keeps.copyWord (hs : s.Keeps none) : OnOk (fun r => r.1.Keeps none) (s.copyWord j) := by
  unfold State.copyWord
  split
  · exact hs
  · extract_lets n ahead
    split
    · trivial
    · split
      · trivial
      · next t ht =>
        have ht : t.Keeps none := (hs.copyWrite).of_eq ht
        extract_lets u
        have hu : u.Keeps none := by
          dsimp only [u]
          split
          · exact .count ht
          · exact ht
        split
        · exact hu
        · next v _ =>
          dsimp only [v]
          split
          · exact .stamped hu fun _ h => .transmit h
          · exact hu
theorem State.Keeps.copyLine (hs : s.Keeps none) : (s.copyLine j n).1.Keeps none := by
  induction n generalizing s j with
  | zero => exact hs
  | succ n ih =>
    unfold State.copyLine
    split
    · exact hs
    · next ht =>
      have ht := (hs.copyWord).of_eq ht
      split
      · exact ht
      · split
        · exact ht
        · exact ih ht
theorem State.Keeps.setJob (hs : s.Keeps none) : (s.setJob j).Keeps none := hs
theorem State.Keeps.haltCopy {h : Halt} (hs : s.Keeps none) : (s.haltCopy j h).Keeps none := by
  dsimp only [State.haltCopy]
  split
  · exact .copyFail hs
  · exact .setJob hs
  · exact .setJob (.pageReq hs)
theorem State.Keeps.beatDone {at0 : Word} (hs : s.Keeps none) : (s.beatDone j at0 n).Keeps none := by
  dsimp only [State.beatDone]
  split
  · exact .ite (.advanceMark hs) hs
  · exact hs
theorem State.Keeps.copyOn (hs : s.Keeps none) : (s.copyOn j).Keeps none := by
  unfold State.copyOn
  extract_lets j at0
  have hline : (s.copyLine j (8 - Config.writesIn j.id s.now % 8)).1.Keeps none := .copyLine hs
  split
  next t k h ht =>
  rw [ht] at hline
  extract_lets n ends u k
  have hu : u.Keeps none := by
    dsimp only [u]
    exact .ite (.beatDone hline) hline
  split
  · exact .haltCopy hu
  · exact .ite (.copyDone hu) (.setJob hu)
theorem State.Keeps.countSpans {a : Word} {l : List (Nat × Nat)} (hs : s.Keeps none) : (s.countSpans j a l).Keeps none := by
  dsimp only [State.countSpans]
  refine .ite hs (.foldl hs (fun t e h => .foldl h (fun t e h => ?_) _) _)
  split
  · exact .count h
  · exact h
theorem State.Keeps.tileCounted (hs : s.Keeps none) : (s.tileCounted j).Keeps none := by
  dsimp only [State.tileCounted]
  split
  · exact .countSpans (.countSpans hs)
  · exact hs
theorem execCopyBeat_keeps {job : Nat} (hs : s.Keeps none) : KeepsOut (execCopyBeat job s) none := by
  dsimp only [execCopyBeat]
  refine .next ?_
  split
  · exact hs
  · refine .ite hs (.ite ?_ (.copyOn hs))
    split
    · exact .haltCopy hs
    · exact .setJob (.tileCounted hs)
theorem State.Keeps.dropLane (hs : s.Keeps none) : (s.dropLane c e).Keeps none := by
  refine .foldl (.updCore hs fun k hk => ?_) (fun _ _ ht => .seqDone ht) _
  split
  · exact hk
  · exact Core.memWf_refill (k := Core.setCtx { k with lanes := _ } _ _) hk _
theorem State.Keeps.performEntry (hs : s.Keeps none) : (s.performEntry c e).Keeps none := by
  dsimp only [State.performEntry]
  refine .ite ?_ (.performLane hs)
  split
  · exact .copyFail (.dropLane hs)
  · exact .postTo (.updCore hs (fun _ h => h))
theorem State.Keeps.tryLane (hs : s.Keeps none) : (s.tryLane c e).Keeps none :=
  .ite (.updCore hs (fun _ h => h)) (.performEntry hs)
theorem execStoreLanePerform_keeps (hs : s.Keeps none) : KeepsOut (execStoreLanePerform core id s) none := by
  dsimp only [execStoreLanePerform]
  refine .next ?_
  split
  · exact .ite hs (.tryLane hs)
  · exact hs
theorem execHeldWritePerform_keeps (hs : s.Keeps none) : KeepsOut (execHeldWritePerform core id s) none := by
  dsimp only [execHeldWritePerform]
  refine .next ?_
  split
  · exact .ite hs (.performLane hs)
  · split
    · split
      · split
        · exact .ite (.copyOn hs) hs
        · exact .copyOn hs
      · exact hs
    · exact hs
theorem execVersionHoldExpiry_keeps (hs : s.Keeps none) : KeepsOut (execVersionHoldExpiry core id s) none := by
  dsimp only [execVersionHoldExpiry]
  refine .next ?_
  split
  · split
    · exact hs
    · refine .ite ?_ (.ite (.defer (.dropLane hs)) hs)
      split
      · exact .ite (.copyFail (.dropLane hs)) hs
      · exact .ite (.dropLane hs) hs
  · split
    · split
      · refine .ite ?_ hs
        split
        · exact .ite hs (.copyFail hs)
        · exact .setJob hs
      · exact hs
    · split
      · exact .ite (.ite (.push (.settle (.answered (.handlerDone hs)))) (.sendAtomr (.handlerDone hs))) hs
      · exact .ite (.elsewhere (.handlerDone hs)) hs
      · exact hs

end Sys2Proof.Machine
end

section
/-! What the event engine keeps. -/

set_option Elab.async false

namespace Sys2Proof.Machine
open Sys2Proof
variable {fr : Option State} {s : State}
variable {c core id : Nat} {a b d : BitVec 6}

theorem State.Keeps.updEngine {f : EvEngine → EvEngine} (hs : s.Keeps fr) (hc : Reaches fr c := by trivial) : (s.updEngine c f).Keeps fr :=
  .updCore hs (fun _ h => h)
theorem State.Keeps.dropEntries {l : List InEntry} (hs : s.Keeps fr) (hc : Reaches fr c := by trivial) : (s.dropEntries c l).Keeps fr :=
  .updEngine (.foldl hs (fun t e h => .freeSlot h) _)
theorem State.Keeps.late {k : EvKey} (hs : s.Keeps fr) (hc : Reaches fr c := by trivial) : (s.late c k).Keeps fr :=
  .place hs
theorem State.Keeps.inboxArrival {kind : Nat} {k : State → Nat → InEntry → State} (hs : s.Keeps none)
    (hk : ∀ t c e, t.Keeps none → (k t c e).Keeps none) : (s.inboxArrival id kind k).Keeps none := by
  dsimp only [State.inboxArrival]
  split
  · refine .ite hs (.ite (.count (.sendHw (.sink hs))) (.ite (.count (.sendHw (.sink hs))) ?_))
    split
    · exact .count (.sendHw (.sink hs))
    · exact hk _ _ _ (.updEngine (.land (.sink hs)))
  · exact hs
theorem execTimedArrival_keeps (hs : s.Keeps none) : KeepsOut (execTimedArrival id s) none :=
  .next (.inboxArrival hs (fun _ _ _ ht => ht))
theorem execCancelArrival_keeps (hs : s.Keeps none) : KeepsOut (execCancelArrival id s) none := by
  dsimp only [execCancelArrival]
  refine .next (.inboxArrival hs (fun t c e ht => ?_))
  split
  · exact .ite (.dropEntries ht) (.late (.dropEntries ht))
  · exact .ite (.dropEntries ht) ht
theorem State.Keeps.undo {l : List LogEntry} (hs : s.Keeps fr) (hc : Reaches fr c := by trivial) : (s.undo c l).Keeps fr := by
  induction l generalizing s with
  | nil => exact hs
  | cons e r ih =>
    cases e with
    | leaf i old => exact ih (.updEngine hs)
    | bytes off old => exact ih (.putLocal hs)
theorem State.Keeps.rollback {K : EvKey} (hs : s.Keeps fr) (hc : Reaches fr c := by trivial) :
    OnOk (·.Keeps fr) (s.rollback c K) := by
  dsimp only [State.rollback]
  split
  · trivial
  · split
    · trivial
    · dsimp only [OnOk]
      split
      · exact .updCtx (.count (.updEngine (.undo hs)))
      · exact .count (.updEngine (.undo hs))
theorem State.Keeps.annihilate (hs : s.Keeps fr) (hc : Reaches fr c := by trivial) : (s.annihilate c).Keeps fr :=
  .dropEntries hs
theorem State.Keeps.rollAll {n : Nat} (hs : s.Keeps fr) (hc : Reaches fr c := by trivial) : (s.rollAll c n).1.Keeps fr := by
  induction n generalizing s with
  | zero => exact hs
  | succ n ih =>
    unfold State.rollAll
    split
    · exact hs
    · split
      · exact hs
      · next t ht =>
        have ht : t.Keeps fr := (hs.rollback).of_eq ht
        exact ih (.annihilate ht)
theorem State.Keeps.region {k : State} (hs : s.Keeps fr) (hk : k.Keeps fr) : (s.region k).Keeps fr := by
  unfold State.region
  exact .ite hk (.raise hs)
theorem execPtcfg_keeps (hs : s.Keeps fr) : KeepsOut (execPtcfg a b s) fr := by
  have hc := hs.reaches
  dsimp only [execPtcfg]
  exact .next (.ite (.raise hs) (.ite (.raise hs) (.ite (.raise hs) (.ite (.raise hs) (.updEngine hs)))))
theorem execPset_keeps (hs : s.Keeps fr) : KeepsOut (execPset a b s) fr := by
  have hc := hs.reaches
  dsimp only [execPset]
  exact .next (.region hs (.ite (.raise hs) (.ite (.raise hs) (.ite (.raise hs) (.ite (.raise hs) (.updEngine hs))))))
theorem execPget_keeps (hs : s.Keeps fr) : KeepsOut (execPget d a b s) fr :=
  .next (.region hs (.ite (.raise hs) (.ite (.raise hs) (.ws hs))))
theorem State.Keeps.payOwed (hs : s.Keeps fr) (hc : Reaches fr c := by trivial) : (s.payOwed c).Keeps fr :=
  .foldl (.updEngine hs) (fun t e h => .sendHw h) _
theorem execPsum_keeps (hs : s.Keeps fr) : KeepsOut (execPsum d a s) fr := by
  have hc := hs.reaches
  dsimp only [execPsum]
  refine .next (.region hs (.ite (.raise hs) (.ite ?_ (.ws hs))))
  split
  · exact .suffer hs
  · exact .payOwed (.ws hs)
theorem State.Keeps.nextEvent (hs : s.Keeps fr) (hc : Reaches fr c := by trivial) : (s.nextEvent d c).Keeps fr := by
  dsimp only [State.nextEvent]
  split
  · exact .suffer hs
  · refine .ite (.ws hs) ?_
    split
    · exact .ws (.acquire (.count (.updMe (.updEngine hs))))
    · split
      · exact .suffer hs
      · exact .ws (.count (.updMe (.updEngine hs)))
theorem execNextev_keeps {w : BitVec 5} (hs : s.Keeps fr) : KeepsOut (execNextev d w s) fr := by
  have hc := hs.reaches
  refine .next (.region hs ?_)
  extract_lets c
  have hroll : (s.rollAll c (s.engine.inbox.length + 1)).1.Keeps fr := .rollAll hs
  split
  next t f h =>
  rw [h] at hroll
  split
  · exact .raise (.elsewhere hroll)
  · exact .ite (.await hroll) (.nextEvent hroll)
theorem execEvsend_keeps (hs : s.Keeps fr) : KeepsOut (execEvsend a b s) fr := by
  have hc := hs.reaches
  dsimp only [execEvsend]
  refine .next (.region hs ?_)
  refine .ite ?_ ?_
  · exact .raise hs
  · refine .ite ?_ ?_
    · exact .raise hs
    · refine .ite ?_ ?_
      · exact .raise hs
      · exact .payload hs fun ws => .ite (.raise hs) (.ite (.raise hs) (.request hs fun t ht => .sendMe (.updEngine ht)))
theorem execSnap_keeps (hs : s.Keeps fr) : KeepsOut (execSnap s) fr := by
  have hc := hs.reaches
  dsimp only [execSnap]
  exact .next (.region hs (.ite (.raise hs) (.updEngine hs)))
theorem execRollb_keeps (hs : s.Keeps fr) : KeepsOut (execRollb a s) fr := by
  have hc := hs.reaches
  refine .next (.region hs ?_)
  extract_lets t
  refine .ite (.raise hs) ?_
  have hroll : OnOk (·.Keeps fr) (s.rollback s.cur.core { time := t }) := hs.rollback
  unfold State.orRaise
  split
  · exact .raise (.elsewhere hs)
  · next h => exact hroll.of_eq h
theorem execSlog_keeps (hs : s.Keeps fr) : KeepsOut (execSlog a b s) fr := by
  have hc := hs.reaches
  dsimp only [execSlog]
  refine .next (.region hs ?_)
  refine .ite ?_ ?_
  · exact .raise hs
  · refine .ite ?_ ?_
    · exact .raise hs
    · refine .orRaise hs ?_
      intro v
      exact .behindAtoms hs (.unmarked hs (.ite (.putLocal hs) (.ite (.raise hs) (.orRaise hs fun v_1 => .putLocal (.updEngine hs)))))
theorem State.Keeps.fossil (hs : s.Keeps fr) (hc : Reaches fr c := by trivial) : (s.fossil c).Keeps fr := by
  dsimp only [State.fossil]
  split
  · exact hs
  · exact .foldl (.updEngine (.dropEntries hs)) (fun t e h => .late (.dropEntries h)) _
theorem execFossil_keeps (hs : s.Keeps fr) : KeepsOut (execFossil a s) fr := by
  have hc := hs.reaches
  dsimp only [execFossil]
  exact .next (.region hs (.ite (.raise hs) (.fossil (.updEngine hs))))
theorem execHoriz_keeps (hs : s.Keeps fr) : KeepsOut (execHoriz a b s) fr := by
  have hc := hs.reaches
  dsimp only [execHoriz]
  exact .next (.region hs (.ite (.raise hs) (.ite (.raise hs) (.updEngine hs))))
theorem State.Keeps.engineSend {pkt : Nat} {h : Word} {ps : List Word} (hs : s.Keeps none) :
    ∀ t ∈ s.engineSend c pkt h ps, t.Keeps none := by
  intro t ht
  dsimp only [State.engineSend] at ht
  split at ht
  · cases ht
  · split at ht
    · cases ht
    · next u hu =>
      cases ht
      have hu : u.Keeps none := (hs.reserve).of_eq hu
      exact .awaits (.count (.elsewhere hu))
theorem execTimedResend_keeps (hs : s.Keeps none) : KeepsOut (execTimedResend core s) none := by
  refine .next ?_
  extract_lets e
  split
  · exact hs
  · next f t h =>
    obtain ⟨g, -, hg⟩ := List.exists_of_findSome?_eq_some h
    obtain ⟨u, hu, heq⟩ := Option.map_eq_some_iff.1 hg
    cases heq
    exact .fresh (.updEngine (hs.engineSend _ hu))
theorem execCancelSend_keeps (hs : s.Keeps none) : KeepsOut (execCancelSend core s) none := by
  refine .next ?_
  split
  · exact hs
  · extract_lets ps
    split
    · exact hs
    · next t ht => exact .fresh (.updEngine (hs.engineSend _ ht))

end Sys2Proof.Machine
end

section
/-! What CSRs, system words, the debugger and soft errors keep. -/

set_option Elab.async false

namespace Sys2Proof.Machine
open Sys2Proof
variable {fr : Option State} {s : State}
variable {core : Nat} {a csr d : BitVec 6}

theorem execCsrr_keeps (hs : s.Keeps fr) : KeepsOut (execCsrr d csr s) fr := .next (.ws hs)
theorem execCsrw_keeps {b : BitVec 6} (hs : s.Keeps fr) : KeepsOut (execCsrw csr b s) fr := by
  dsimp only [execCsrw]
  refine .next ?_
  split
  · exact .updMe hs
  · exact .updMe hs
  · exact .updMe hs
  · exact .ite (.raise hs) (.updMe hs)
  · exact .updMe hs
  · exact .updMe hs
  · exact .updMe hs
  · exact .ite (.raise hs) (.updMe hs)
  · exact .updMe hs
theorem execPmrd_keeps (hs : s.Keeps fr) : KeepsOut (execPmrd d a s) fr :=
  .next (.ite (.raise hs) (.ask hs fun _ _ ht => ht))
theorem execTrap_keeps (hs : s.Keeps fr) : KeepsOut (execTrap a s) fr := .next (.raise hs)
theorem State.Keeps.freezeCore {c : Nat} (hs : s.Keeps fr) (hc : Reaches fr c := by trivial) : (s.freezeCore c).Keeps fr := by
  dsimp only [State.freezeCore]
  refine .foldl (.updCore hs fun _ hk => ?_) (fun _ _ ht => .refuseHalted ht) _
  exact hk
theorem execBrk_keeps (hs : s.Keeps fr) : KeepsOut (execBrk s) fr := by
  have hc := hs.reaches
  dsimp only [execBrk]
  exact .next (.ite (.fare (.updCore (.freezeCore (.toHost (.count hs))) (fun _ h => h))) (.raise hs))
theorem execHalt_keeps (hs : s.Keeps fr) : KeepsOut (execHalt s) fr := .next (.ite (.parkMe hs) (.updMe hs))
theorem execUndecodableWord_keeps {w : Word32} {check : Nat} {second : Bool} (hs : s.Keeps none) :
    KeepsOut (execUndecodableWord w check second s) none :=
  .next (.raise hs)
theorem execFreeze_keeps (hs : s.Keeps none) : KeepsOut (execFreeze core s) none :=
  .next (.ite hs (.freezeCore hs))
theorem execThaw_keeps (hs : s.Keeps none) : KeepsOut (execThaw core s) none := by
  dsimp only [execThaw]
  refine .next (.ite hs ?_)
  split
  · exact .repeats (.retire (.updCore hs (fun _ h => h)))
  · exact .updCore hs (fun _ h => h)
theorem execDebugEnable_keeps (hs : s.Keeps none) : KeepsOut (execDebugEnable core s) none :=
  .next (.updCore hs (fun _ h => h))
theorem State.Keeps.advise {p : Nat} (hs : s.Keeps none) : (s.advise p).Keeps none :=
  .ite hs (.foldl (.updPart hs) (fun _ _ h => .post h) _)
theorem execSoftErrorCorrected_keeps {part : Nat} (hs : s.Keeps none) : KeepsOut (execSoftErrorCorrected part s) none :=
  .next (.ite (.advise (.updPart (.count hs))) (.updPart (.count hs)))
theorem execUncorrectableError_keeps {site : ErrSite} (hs : s.Keeps none) : KeepsOut (execUncorrectableError site s) none := by
  refine .next ?_
  split
  · exact .place (.setCell hs)
  · exact .updCore (.fateOf (.toHost (.count hs))) fun _ h => h
  · refine .updDomain hs fun d hd => ?_
    split
    · next v hv => exact AMap.all_set (p := Save.memWf) hd (AMap.all_find (p := Save.memWf) (v := v) hd hv)
    · exact hd
  · exact .ite hs (.elsewhere hs)
theorem execWaitExpiry_keeps {ctx : Nat} (hs : s.Keeps none) : KeepsOut (execWaitExpiry core ctx s) none := by
  dsimp only [execWaitExpiry]
  refine .next ?_
  split
  · exact hs
  · split
    · split
      · exact .raise (.asIf hs)
      · exact hs
    · exact .raise (.asIf hs)
    · split
      · exact .raise (.asIf hs)
      · exact hs
    · exact hs

end Sys2Proof.Machine
end

section
/-! What the taking of commands and translation keep. -/

set_option Elab.async false

namespace Sys2Proof.Machine
open Sys2Proof
variable {fr : Option State} {s : State}
variable {base c core ctx page q x : Nat} {e : Word} {b : Broadcast} {cmd : List Word}

theorem State.Keeps.done {id : Word32} {status : Nat} {ws : List Word} (hs : s.Keeps none) : (s.done q id status ws).Keeps none :=
  .post hs
theorem State.Keeps.took (hs : s.Keeps none) : (s.took q).Keeps none := .updQueue hs
theorem State.Keeps.command {op : Nat} {mask : List Word} {k : State → State} (hs : s.Keeps none)
    (hk : ∀ t, t.Keeps none → (k t).Keeps none) : (s.command q cmd op mask k).Keeps none := by
  dsimp only [State.command]
  exact .ite hs (.ite (.done (.took hs)) (.ite hs (.ite (hk _ (.took hs)) (.done (.took hs)))))
theorem State.Keeps.clearVersions {f n : Nat} (hs : s.Keeps none) : (s.clearVersions f n).Keeps none := .updPart hs
theorem State.Keeps.install (hs : s.Keeps none) : (s.install base e page).Keeps none := by
  dsimp only [State.install]
  exact .ite (.clearVersions (.updDomain hs fun _ h => h)) (.updDomain hs fun _ h => h)
theorem State.Keeps.remapped (hs : s.Keeps none) : (s.remapped base).Keeps none :=
  .memories (.foldl (.foldl hs (fun t e h => .foldl h (fun t e h => .updCtx (.unstall h)) _) _) (fun t e h => .retryMerge h) _)
theorem execMapPages_keeps (hs : s.Keeps none) : KeepsOut (execMapPages q cmd s) none := by
  refine .next (.command hs fun t ht => ?_)
  extract_lets base va n e u owner frame page
  exact .ite (.done ht) (.ite (.done ht) (.ite (.done ht) (.ite hs (.done (.remapped (.foldl ht (fun _ _ h => .install h) _))))))
theorem State.Keeps.startWalks (hs : s.Keeps none) : (s.startWalks base).Keeps none := by
  dsimp only [State.startWalks]
  refine .foldl hs (fun t e h => ?_) _
  split
  · exact h
  · exact .startWalk h
theorem State.Keeps.withdraw (hs : s.Keeps none) : (s.withdraw base b).Keeps none := by
  dsimp only [State.withdraw]
  refine .startWalks (.foldl (.updDomain hs fun _ hd => ?_) (fun _ _ h => .updPart h) _)
  exact hd
theorem execUnmapPages_keeps (hs : s.Keeps none) : KeepsOut (execUnmapPages q cmd s) none :=
  .next (.command hs (fun _ ht => .ite (.done ht) (.withdraw ht)))
theorem execTlbflush_keeps (hs : s.Keeps none) : KeepsOut (execTlbflush q cmd s) none :=
  .next (.command hs (fun _ ht => .ite (.done ht) (.withdraw ht)))
theorem State.Keeps.castStep (hs : s.Keeps none) : (s.castStep base b).Keeps none := by
  dsimp only [State.castStep]
  refine .ite ?_ ?_
  · exact hs
  · refine .ite ?_ ?_
    · refine .ite ?_ ?_
      · exact hs
      · refine .updDomain (.foldl hs (fun t e h => ?_) _) (fun _ h => h)
        exact .updCore h (fun _ h => h)
    · refine .done (.updDomain ?_ (fun _ h => h))
      refine .ite ?_ ?_
      · exact hs
      · refine .updDomain (.foldl hs (fun t e h => ?_) _) (fun _ h => h)
        exact .updCore h (fun _ h => h)
theorem execTranslationBroadcast_keeps {dom : Nat} (hs : s.Keeps none) : KeepsOut (execTranslationBroadcast dom s) none :=
  .next (.foldl hs (fun _ _ h => .castStep h) _)
theorem State.Keeps.fill (hs : s.Keeps none) : (s.fill c x page e).Keeps none :=
  .updCtx (.updCore hs (fun _ h => h))
theorem execTranslationFill_keeps (hs : s.Keeps none) : KeepsOut (execTranslationFill core ctx s) none := by
  dsimp only [execTranslationFill]
  refine .next ?_
  split
  · split
    · exact .unstall (.fill hs)
    · exact hs
  · exact hs
theorem State.Keeps.answerWalk (hs : s.Keeps none) : (s.answerWalk base c x page).Keeps none := by
  dsimp only [State.answerWalk]
  refine .unstall ?_
  split
  · exact .fill (.updPart hs)
  · exact .updCtx hs
theorem execWalkComplete_keeps {part region : Nat} (hs : s.Keeps none) : KeepsOut (execWalkComplete part region s) none :=
  .next (.ite hs (.startWalks (.foldl (.updPart hs) (fun _ _ h => .ite (.answerWalk h) h) _)))
theorem execPagereqHoldExpiry_keeps (hs : s.Keeps none) : KeepsOut (execPagereqHoldExpiry core ctx s) none := by
  dsimp only [execPagereqHoldExpiry]
  refine .next (.ite ?_ ?_)
  · split
    · split
      · exact .copyFail hs
      · exact hs
    · exact hs
  · split
    · exact .ite (.raise (.asIf hs)) hs
    · exact hs

end Sys2Proof.Machine
end

section
/-! What loading, launches and their ends keep. -/

set_option Elab.async false

namespace Sys2Proof.Machine
open Sys2Proof
variable {fr : Option State} {s : State}
variable {c dom q : Nat} {k : Core} {img : Image} {l : Launch} {cmd : List Word}

theorem execLoadImage_keeps {image : List Byte} (hs : s.Keeps none) : KeepsOut (execLoadImage q cmd image s) none :=
  .next (.ite hs (.command hs fun _ ht => .ite (.done ht) (.done (.updDomain ht (fun _ h => h)))))
theorem State.Keeps.arm {a : Nat × Nat × Word} (hs : s.Keeps none) : (s.arm c a).Keeps none :=
  .ite (.fire (.setCell hs)) (.setCell hs)
theorem Memory.wf_stores (d : Nat → Byte) (l : List (Nat × List Byte)) {m : Memory} (h : Memory.wf d m = true) :
    Memory.wf d (l.foldl (fun m e => Memory.store d m e.1 e.2) m) = true :=
  List.foldlRecOn (motive := fun m => Memory.wf d m = true) l _ h fun m hm e _ => Memory.wf_store d m e.1 e.2 hm
theorem Core.memWf_setup (h : k.memWf = true) (r : Role) (keep : Bool) (args : Word) (id lcount lpart : Nat) :
    (k.setup r keep args id lcount lpart).memWf = true := by
  rw [Core.memWf_iff] at h ⊢
  dsimp only [Core.setup]
  refine ⟨Memory.wf_stores _ _ rfl, ?_⟩
  split
  · exact h.2
  · exact Memory.wf_stores _ _ rfl
theorem State.Keeps.setUp {base : Nat} (hs : s.Keeps none) : (s.setUp base l img c).Keeps none := by
  dsimp only [State.setUp]
  split
  · exact .updCore hs fun _ h => h
  · exact .foldl (.elsewhere (.updCore hs fun _ hk => Core.memWf_setup hk _ _ _ _ _ _)) (fun _ _ ht => .arm ht) _
theorem execLaunch_keeps (hs : s.Keeps none) : KeepsOut (execLaunch q cmd s) none :=
  .next (.command hs (fun _ ht => .ite (.done ht) (.ite (.done ht) (.updDomain ht (fun _ h => h)))))
theorem execCancelLaunch_keeps (hs : s.Keeps none) : KeepsOut (execCancelLaunch q cmd s) none :=
  .next (.command hs (fun _ ht => .ite (.done (.done (.updDomain ht (fun _ h => h)))) (.ite (.done ht) (.done ht))))
/-- A launch that is dispatched: its DONE stands, and every core of the domain is set up (R344). -/
def State.beginLaunch (s : State) (dom q : Nat) (id : Word32) (l : Launch) (img : Image) : State :=
  let s := s.done q id stOk []
  let s := s.updDomain dom fun d => { d with launch := some l }
  let s := (s.domParts dom).foldl (fun s p => s.updPart p fun t => { t with pm := [], tts := [], jq := [], gates := [] }) s
  (s.domCores dom).foldl (fun s c => s.setUp dom l img c) s
theorem State.Keeps.beginLaunch {id : Word32} (hs : s.Keeps none) :
    (s.beginLaunch dom q id l img).Keeps none := by
  refine .foldl (.foldl (.updDomain (.done hs) fun _ hd => ?_) (fun _ _ ht => .updPart ht) _) (fun _ _ ht => .setUp ht) _
  exact hd
theorem execLaunchDispatch_keeps (hs : s.Keeps none) : KeepsOut (execLaunchDispatch dom s) none := by
  refine .next ?_
  extract_lets d
  split
  · refine .ite hs ?_
    extract_lets t
    have ht : t.Keeps none := .updDomain hs fun _ h => h
    split
    · exact .done ht
    · exact .ite (.done ht) (.ite (.done ht) (.beginLaunch ht))
  · exact hs
theorem execGo_keeps (hs : s.Keeps none) : KeepsOut (execGo dom s) none := by
  dsimp only [execGo]
  refine .next ?_
  split
  · split
    · exact .updLaunch hs
    · exact hs
  · exact hs
theorem execGoComplete_keeps (hs : s.Keeps none) : KeepsOut (execGoComplete dom s) none := by
  dsimp only [execGoComplete]
  refine .next ?_
  split
  · split
    · refine .ite ?_ ?_
      · exact hs
      · refine .ite ?_ ?_
        · refine .elsewhere (.foldl (.updLaunch hs) (fun t e h => ?_) _)
          exact .updCore h (fun _ h => h)
        · refine .foldl (.updLaunch hs) (fun t e h => ?_) _
          refine .ite ?_ ?_
          · exact .updCtx h
          · exact h
    · exact hs
  · exact hs
theorem execSweep_keeps (hs : s.Keeps none) : KeepsOut (execSweep dom s) none := by
  dsimp only [execSweep]
  refine .next ?_
  split
  · split
    · exact .ite (.updLaunch hs) hs
    · exact hs
  · exact hs
theorem State.Keeps.recordsOut (hs : s.Keeps none) : (s.recordsOut dom).Keeps none := by
  dsimp only [State.recordsOut]
  refine .foldl hs (fun t e h => ?_) _
  split
  · exact .ite (.toHost (.count h)) h
  · exact h
theorem Core.memWf_pushAll (h : k.memWf = true) : k.pushAll.memWf = true :=
  List.foldlRecOn (motive := fun k : Core => k.memWf = true) _ _ h fun _ hk _ _ => Core.memWf_entered hk _
theorem State.Keeps.endLaunch {status : Nat} (hs : s.Keeps none) : (s.endLaunch dom status).Keeps none := by
  dsimp only [State.endLaunch]
  split
  · refine .foldl (.updDomain (.memories (.post (.recordsOut hs))) fun _ hd => ?_) (fun _ _ ht => .updCore ht fun k hk => ?_) _
    · exact hd
    · exact Core.memWf_pushAll hk
  · exact hs
theorem execLaunchEnd_keeps (hs : s.Keeps none) : KeepsOut (execLaunchEnd dom s) none := by
  dsimp only [execLaunchEnd]
  refine .next ?_
  split
  · split
    · refine .ite hs (.ite ?_ (.updLaunch hs))
      split
      · exact .updLaunch hs
      · exact .endLaunch hs
    · exact hs
  · exact hs

end Sys2Proof.Machine
end

section
/-! What pre-emption, the save and the resume keep. -/

set_option Elab.async false

namespace Sys2Proof.Machine
open Sys2Proof
variable {fr : Option State} {s : State}
variable {base dom q : Nat} {cmd : List Word}

theorem execPreempt_keeps (hs : s.Keeps none) : KeepsOut (execPreempt q cmd s) none := by
  dsimp only [execPreempt]
  refine .next ?_
  split
  · exact .command hs fun t ht => .done ht
  · exact .ite hs (.command hs fun t ht => .updLaunch ht)
theorem State.Keeps.abandon {c x : Nat} {w : Wait} (hs : s.Keeps none) : (s.abandon c x w).Keeps none := by
  dsimp only [State.abandon]
  refine .updCtx ?_
  split
  · exact .dropLease hs
  · exact .ite hs (.dropContrib hs)
  · split
    · exact .updGroup hs
    · exact hs
theorem execPreemptStop_keeps (hs : s.Keeps none) : KeepsOut (execPreemptStop dom s) none := by
  dsimp only [execPreemptStop]
  refine .next ?_
  split
  · split
    · exact .ite hs (.foldl (.updLaunch hs) (fun t e h => .updCtx h) _)
    · exact .ite hs (.foldl hs (fun t e h => .abandon h) _)
    · exact hs
  · exact hs
theorem State.Keeps.spillAll (hs : s.Keeps none) : (s.spillAll base).Keeps none :=
  .foldl (.foldl hs (fun t e h => .ite (.spill h) h) _) (fun t e h => .updPart h) _
/-- The memories of a saved launch are those of its cores. -/
theorem State.Keeps.memWf_makeSave {l : Launch} (hs : s.Keeps none) : (s.makeSave base l).memWf = true := by
  refine List.all_eq_true.2 fun e he => ?_
  obtain ⟨c, -, rfl⟩ := List.mem_map.1 he
  exact hs.core_memWf c
/-- A domain after its launch has been saved: its cores hold nothing of it but their memories (R328). -/
def State.clearedBySave (s : State) (dom : Nat) : State :=
  let mine := fun (c : Nat) => s.domOf c == dom
  let t := { s with
    free := s.free + (18 + 2 ^ 17) * 4096
    jobs := s.jobs.filter fun j => !mine j.core
    loads := s.loads.filter fun q => !mine q.core
    net := s.net.filter fun p => s.baseOf (partOfKey p.src) != dom
    fins := s.fins.filter fun f => !mine f.core }
  let t := (s.domCores dom).foldl (fun t c => t.updCore c fun k => { k.blank with lanes := [] }) t
  (s.domParts dom).foldl (fun t p => t.updPart p fun u => { u with tts := [], jq := [], gates := [] }) t
theorem State.Keeps.clearedBySave (hs : s.Keeps none) : (s.clearedBySave dom).Keeps none := by
  refine .foldl (.foldl (.memories hs) (fun _ _ ht => .updCore ht fun _ hk => ?_) _) (fun _ _ ht => .updPart ht) _
  exact hk
theorem execContextSave_keeps (hs : s.Keeps none) : KeepsOut (execContextSave dom s) none := by
  refine .next ?_
  split
  · split
    · refine .ite hs ?_
      have hu : (s.spillAll dom).Keeps none := .spillAll hs
      have ht : ((s.spillAll dom).clearedBySave dom).Keeps none := .clearedBySave hu
      exact .done (.updDomain ht fun _ hd => AMap.all_set (p := Save.memWf) hd hu.memWf_makeSave)
    · exact hs
  · exact hs
theorem State.Keeps.restoreSave {h : Nat} {v : Save} (hs : s.Keeps none) (hv : v.memWf = true) : (s.restoreSave base h q v).Keeps none := by
  have hcores : ∀ t : State, ∀ e ∈ v.cores, t.Keeps none →
      (t.updCore (base * 64 + e.1) fun k => { e.2 with tlb := k.tlb, dbg := k.dbg, failed := k.failed }).Keeps none :=
    fun t e he ht => .updCore ht fun _ _ => List.all_eq_true.1 hv e he
  refine .updDomain (.memories (.foldl (.foldl_mem hs hcores) (fun _ _ ht => .updPart ht) _)) fun _ hd => ?_
  exact AMap.all_filter (p := Save.memWf) hd
theorem execResume_keeps (hs : s.Keeps none) : KeepsOut (execResume q cmd s) none := by
  refine .next (.command hs fun t ht => ?_)
  extract_lets base d h
  refine .ite (.done ht) ?_
  split
  · exact .done ht
  · next v hv =>
    refine .ite (.done ht) ?_
    split
    · exact .done ht
    · exact .done (.restoreSave ht (AMap.all_find (p := Save.memWf) (ht.domain_memWf base) hv))

end Sys2Proof.Machine
end

section
/-! What the quantum close keeps. -/

set_option Elab.async false

namespace Sys2Proof.Machine
open Sys2Proof
variable {fr : Option State} {s : State}
variable {base : Nat}

theorem next_keeps {o : Out} (h : KeepsOut o fr) : (next o s).Keeps fr := by
  obtain ⟨t, rfl, ht⟩ := h
  exact ht
theorem execQuantumTapArrival_keeps {core : Nat} (hs : s.Keeps none) : KeepsOut (execQuantumTapArrival core s) none :=
  .next (.ite (.ite (.updLaunch (.updCore hs (fun _ h => h))) (.updCore hs (fun _ h => h))) hs)
theorem State.Keeps.commit {e : Commit} (hs : s.Keeps none) : (s.commit e).Keeps none := by
  dsimp only [State.commit]
  refine .ite ?_ ?_
  · split
    · exact .pushFirst (.serveLoad hs)
    · exact hs
  · split
    · exact .ite (.tryLane hs) hs
    · exact hs
theorem State.Keeps.finishCopies (hs : s.Keeps none) : (s.finishCopies base).Keeps none :=
  .foldl hs (fun _ _ h => .ite h (.copyDone h)) _
theorem State.Keeps.closeUses {l : Launch} (hs : s.Keeps none) : (s.closeUses base l).Keeps none :=
  .foldl hs (fun _ _ h => .ite (.completeUse h) h) _
theorem State.Keeps.serveShared (hs : s.Keeps none) : (s.serveShared base).Keeps none := by
  dsimp only [State.serveShared]
  refine .foldl hs (fun t p ht => ?_) _
  split
  · exact .pushFirst (next_keeps (execJqnextServe_keeps (.elsewhere ht)))
  · exact .pushFirst (.serveClaim ht)
  · exact .ite ht (.serveSteal (.sink ht))
  · exact ht
theorem State.Keeps.deliverAll (hs : s.Keeps none) : (s.deliverAll base).Keeps none := .pushFirst hs
theorem State.Keeps.nextQuantum (hs : s.Keeps none) : (s.nextQuantum base).Keeps none := by
  dsimp only [State.nextQuantum]
  refine .foldl (.updLaunch hs) (fun t e h => ?_) _
  exact .updCore h (fun _ h => h)
theorem execQuantumClose_keeps {dom : Nat} (hs : s.Keeps none) : KeepsOut (execQuantumClose dom s) none := by
  dsimp only [execQuantumClose]
  refine .next ?_
  split
  · split
    · refine .ite ?_ ?_
      · exact hs
      · refine .deliverAll (.nextQuantum (.grantLeases (.serveShared (.closeUses (.finishCopies (.foldl (.updLaunch hs) (fun t e h => ?_) _))))))
        exact .commit h
    · exact hs
  · exact hs

end Sys2Proof.Machine
end

section
/-! What links, bring-up and the module's limits keep. -/

set_option Elab.async false

namespace Sys2Proof.Machine
open Sys2Proof
variable {fr : Option State} {s : State}
variable {chan core id off part port q : Nat} {cnt hdr route : Word} {bytes : List Byte} {cmd payload : List Word} {p : Packet}

theorem State.Keeps.flazarOut {ws : List Word} (hs : s.Keeps none) : (s.flazarOut part port ws).Keeps none :=
  hs
theorem State.Keeps.portFault {reserved : Bool} (hs : s.Keeps none) : (s.portFault part port p chan reserved).Keeps none :=
  .ite (.sendHw hs) hs
theorem State.Keeps.recordOut {c : Nat} {f : Flt} (hs : s.Keeps none) : (s.recordOut part port hdr route chan c f).Keeps none :=
  .flazarOut hs
theorem State.Keeps.takeNow (hs : s.Keeps none) : (s.takeNow p).Keeps none := by
  unfold State.takeNow
  split
  · exact next_keeps (execMsgArrival_keeps hs)
  · exact next_keeps (execTaggedArrival_keeps hs)
  · exact next_keeps (execReplyArrival_keeps hs)
  · exact next_keeps (execRefusedReply_keeps hs)
  · exact next_keeps (execRefusedUnbound_keeps hs)
  · exact next_keeps (execRefusedNocore_keeps hs)
  · exact next_keeps (execRefusedHalted_keeps hs)
  · exact next_keeps (execReleaseArrival_keeps hs)
  · exact next_keeps (execHostReport_keeps hs)
  · exact next_keeps (execStationMessage_keeps hs)
  · exact .ite hs (next_keeps (execCaddm_keeps hs))
  · exact next_keeps (execFaultRecord_keeps hs)
  · exact next_keeps (execEngineFaultSetting_keeps hs)
  · exact hs
theorem State.Keeps.putFail {code : FCode} (hs : s.Keeps none) : (s.putFail part port hdr route core off cnt code).Keeps none := by
  dsimp only [State.putFail]
  refine .ite (.recordOut hs) ?_
  split
  · exact .ite (.setCell (.recordOut hs)) (.recordOut hs)
  · exact .flazarOut (.recordOut hs)
theorem State.Keeps.putIn (hs : s.Keeps none) : (s.putIn part port hdr route core off bytes cnt).Keeps none := by
  dsimp only [State.putIn]
  refine .ite (.putFail hs) (.ite (.putLocal hs) ?_)
  split
  · exact .ite (.addHere (.elsewhere (.putLocal hs))) (.recordOut (.elsewhere (.putLocal hs)))
  · exact .flazarOut (.elsewhere (.putLocal hs))
theorem State.Keeps.inboundSaved (hs : s.Keeps none) : (s.inboundSaved part port hdr route payload).Keeps none :=
  .ite (.refuse hs) (.ite (.toHost hs) (.recordOut hs))
theorem State.Keeps.inboundMsg (hs : s.Keeps none) : (s.inboundMsg part port hdr route payload).Keeps none := by
  dsimp only [State.inboundMsg]
  refine .ite (.recordOut hs) (.ite (.ite (.refuse hs) (.ite (.toHost hs) hs)) (.ite (.transmit hs) ?_))
  split
  · exact .takeNow (.transmit hs)
  · exact .transmit hs
theorem execOutboundEnvelope_keeps (hs : s.Keeps none) : KeepsOut (execOutboundEnvelope id s) none := by
  dsimp only [execOutboundEnvelope]
  refine .next ?_
  split
  · exact hs
  · split
    · split
      · exact .ite (.flazarOut (.sink hs)) (.portFault (.sink hs))
      · exact .ite (.flazarOut (.sink hs)) (.portFault (.sink hs))
      · exact .ite (.flazarOut (.sink hs)) (.portFault (.sink hs))
      · exact hs
    · split
      · refine .ite hs ?_
        split
        · exact .ite (.flazarOut (.sink hs)) (.portFault (.sink hs))
        · exact .portFault (.sink hs)
      · exact .inboundMsg (.sink hs)
      · exact hs
theorem State.Keeps.putAt (hs : s.Keeps none) : (s.putAt part port hdr route core off bytes cnt).Keeps none :=
  .ite (.putFail hs) (.ite (.transmit hs) (.putIn hs))
theorem State.Keeps.inboundPut (hs : s.Keeps none) : (s.inboundPut part port hdr route payload).Keeps none :=
  .ite (.ite (.putAt hs) (.putFail hs)) (.putAt hs)
theorem execInboundMessage_keeps (hs : s.Keeps none) : KeepsOut (execInboundMessage part port hdr route payload s) none := by
  dsimp only [execInboundMessage]
  refine .next (.ite ?_ ?_)
  · exact hs
  · exact .ite (.ite (.toHost hs) hs) (.ite (.inboundPut hs) (.ite hs (.ite (.inboundSaved hs) (.ite (.transmit hs) (.inboundMsg hs)))))
theorem execInboundPutx_keeps {key : Nat} {msg : List Byte} (hs : s.Keeps none) :
    KeepsOut (execInboundPutx key core off msg cnt s) none := by
  dsimp only [execInboundPutx]
  refine .next ?_
  split
  · exact hs
  · split
    · exact .ite hs (.putIn (.sink hs))
    · exact .ite hs (.putAt hs)
theorem execPutx_keeps (hs : s.Keeps none) : KeepsOut (execPutx id s) none := by
  dsimp only [execPutx]
  refine .next (.requestAt hs (fun t j ws ht => .ite (.badKind ht) ?_))
  split
  · exact .copyFail ht
  · exact .flazarOut ht
theorem execLinkDown_keeps (hs : s.Keeps none) : KeepsOut (execLinkDown part port s) none :=
  .next (.updPart hs)
theorem State.Keeps.bringUp {p : Nat} (hs : s.Keeps none) : (s.bringUp p).Keeps none := by
  unfold State.bringUp
  extract_lets base m lost t u v
  have hu : u.Keeps none := .updDomain (.updPart hs) fun _ hd => hd
  have hv : v.Keeps none := by
    obtain ⟨hmem, hcores, hdomains⟩ := u.memWf_iff.1 hu
    exact (State.memWf_iff _).2 ⟨Memory.wf_filter _ _ _ hmem, AMap.all_filter hcores, hdomains⟩
  exact .ite (.advise hv) hv
theorem execPowerGood_keeps : KeepsOut (execPowerGood s) none :=
  .next (.memories (s := State.reset) State.reset_memWf)
theorem execReset_keeps (hs : s.Keeps none) : KeepsOut (execReset q cmd s) none := by
  refine .next (.command hs fun t ht => ?_)
  extract_lets base p
  exact .ite (.done ht) (.done (.bringUp (.updDomain (.endLaunch ht) fun _ _ => rfl)))
theorem State.Keeps.form {b k : Nat} {d : Domain} (hs : s.Keeps none) (hd : d.memWf = true) : (s.form b k d).Keeps none := by
  have ht : ((partsOf b k).foldl (fun s p => s.updPart p fun t => { t with pm := [], shared := [], walks := [] }) s).Keeps none :=
    .foldl hs (fun _ _ ht => .updPart ht) _
  obtain ⟨hmem, hcores, hdomains⟩ := (State.memWf_iff _).1 ht
  refine (State.memWf_iff _).2 ⟨hmem, List.all_eq_true.2 fun e he => ?_, AMap.all_set (p := Domain.memWf) (AMap.all_filter hdomains) hd⟩
  obtain ⟨c, hc, rfl⟩ := List.mem_map.1 he
  have hw := List.all_eq_true.1 hcores c hc
  dsimp only
  split
  · exact hw
  · exact hw
theorem execPartcfg_keeps (hs : s.Keeps none) : KeepsOut (execPartcfg q cmd s) none := by
  refine .next (.command hs fun t ht => ?_)
  extract_lets b k hold old
  exact .ite (.done ht) (.ite (.done ht) (.ite (.done ht) (.done (.form ht rfl))))
theorem execOvertemp_keeps (hs : s.Keeps none) : KeepsOut (execOvertemp s) none :=
  .next (.foldl (.foldl hs (fun _ _ h => .endLaunch h) _) (fun _ _ h => .updPart h) _)
theorem execCoolantLimitDerate_keeps {deciC : Nat} (hs : s.Keeps none) : KeepsOut (execCoolantLimitDerate deciC s) none :=
  .next hs

end Sys2Proof.Machine
end

section
/-! What the host's reads and writes keep. -/

set_option Elab.async false

namespace Sys2Proof.Machine
open Sys2Proof
variable {fr : Option State} {s : State}
variable {n off q : Nat} {value : Word} {cmd : List Word}

theorem State.Keeps.query {sel : Nat} {k : State → State} (hs : s.Keeps none)
    (hk : ∀ t, t.Keeps none → (k t).Keeps none) : (s.query q cmd sel k).Keeps none := by
  dsimp only [State.query]
  refine .ite hs ?_
  refine .command hs fun t ht => ?_
  exact .ite (hk t ht) (.done ht)
theorem State.Keeps.queryFree (hs : s.Keeps none) : (s.queryFree q cmd).Keeps none :=
  .elsewhere (.done hs)
theorem execQueryDomainState_keeps (hs : s.Keeps none) : KeepsOut (execQueryDomainState q cmd s) none :=
  .next (.query hs (fun _ ht => .queryFree ht))
theorem execQuerySliceCapacities_keeps (hs : s.Keeps none) : KeepsOut (execQuerySliceCapacities q cmd s) none :=
  .next (.query hs (fun _ ht => .done ht))
theorem execQueryHarvestState_keeps (hs : s.Keeps none) : KeepsOut (execQueryHarvestState q cmd s) none :=
  .next (.query hs (fun _ ht => .queryFree ht))
theorem execQueryPackageFigures_keeps (hs : s.Keeps none) : KeepsOut (execQueryPackageFigures q cmd s) none :=
  .next (.query hs (fun _ ht => .queryFree ht))
theorem execPmread_keeps (hs : s.Keeps none) : KeepsOut (execPmread q cmd s) none :=
  .next (.command hs (fun _ ht => .ite (.done ht) (.ite (.done ht) (.done ht))))
theorem execCqhead_keeps (hs : s.Keeps none) : KeepsOut (execCqhead q value s) none :=
  .next (.updQueue hs)
theorem execRegisterWrite_keeps {page : Nat} (hs : s.Keeps none) : KeepsOut (execRegisterWrite page off value s) none :=
  .next (.ite (.updQueue hs) (.ite (.updPart hs) (.ite hs (.ite hs (.ite hs hs)))))
theorem State.Keeps.areaWrite {pa : Nat} {bs : List Byte} (hs : s.Keeps none) : (s.areaWrite pa bs).Keeps none := by
  dsimp only [State.areaWrite]
  split
  · refine .updDomain hs fun d hd => List.all_eq_true.2 fun e he => ?_
    obtain ⟨v, hv, rfl⟩ := List.mem_map.1 he
    have hw := List.all_eq_true.1 hd v hv
    split
    · exact hw
    · exact hw
  · exact hs
theorem execBar4Read_keeps (hs : s.Keeps none) : KeepsOut (execBar4Read off n s) none := by
  dsimp only [execBar4Read]
  refine .next ?_
  split
  · exact .ite (.elsewhere (.count hs)) (.elsewhere (.count hs))
  · exact hs
theorem execBar4Write_keeps (hs : s.Keeps none) : KeepsOut (execBar4Write off n value s) none := by
  dsimp only [execBar4Write]
  refine .next ?_
  split
  · exact .ite hs (.ite (.areaWrite (.performWrite hs)) (.performWrite hs))
  · exact hs

end Sys2Proof.Machine
end

section
/-! Every instruction and step keeps what its operations keep, and so does every piece of a cycle's work. -/

set_option Elab.async false

namespace Sys2Proof.Machine
open Sys2Proof
variable {fr : Option State} {s : State}
variable {c words x : Nat} {i i0 : Instr} {was : Option Srep} {t : State}

/-- Every instruction word keeps, in either reading, what its own core's operations keep. -/
theorem exec_keeps_of_isWord (hw : isWord i = true) (hs : s.Keeps fr) : KeepsOut (exec i s) fr := by
  cases i with
  | add => exact execAdd_keeps hs
  | sub => exact execSub_keeps hs
  | and => exact execAnd_keeps hs
  | or => exact execOr_keeps hs
  | xor => exact execXor_keeps hs
  | andn => exact execAndn_keeps hs
  | shl => exact execShl_keeps hs
  | shr => exact execShr_keeps hs
  | sar => exact execSar_keeps hs
  | rol => exact execRol_keeps hs
  | min => exact execMin_keeps hs
  | max => exact execMax_keeps hs
  | minu => exact execMinu_keeps hs
  | maxu => exact execMaxu_keeps hs
  | slt => exact execSlt_keeps hs
  | sltu => exact execSltu_keeps hs
  | seq => exact execSeq_keeps hs
  | clz => exact execClz_keeps hs
  | popc => exact execPopc_keeps hs
  | mul => exact execMul_keeps hs
  | mulh => exact execMulh_keeps hs
  | mulhu => exact execMulhu_keeps hs
  | div => exact execDiv_keeps hs
  | divu => exact execDivu_keeps hs
  | rem => exact execRem_keeps hs
  | remu => exact execRemu_keeps hs
  | addi => exact execAddi_keeps hs
  | andi => exact execAndi_keeps hs
  | ori => exact execOri_keeps hs
  | xori => exact execXori_keeps hs
  | shli => exact execShli_keeps hs
  | shri => exact execShri_keeps hs
  | sari => exact execSari_keeps hs
  | slti => exact execSlti_keeps hs
  | li => exact execLi_keeps hs
  | lih => exact execLih_keeps hs
  | sel => exact execSel_keeps hs
  | b => exact execB_keeps hs
  | j => exact execJ_keeps hs
  | jal => exact execJal_keeps hs
  | jalr => exact execJalr_keeps hs
  | start => exact execStart_keeps hs
  | endt => exact execEndt_keeps hs
  | nop => exact execNop_keeps hs
  | ld => exact execLd_keeps hs
  | st => exact execSt_keeps hs
  | ldv => exact execLdv_keeps hs
  | recl => exact execRecl_keeps hs
  | fence => exact execFence_keeps hs
  | pool => exact execPool_keeps hs
  | copy => exact execCopy_keeps hs
  | copyc => exact execCopyc_keeps hs
  | halo => exact execHalo_keeps hs
  | wmark => exact execWmark_keeps hs
  | send => exact execSend_keeps hs
  | reply => exact execReply_keeps hs
  | recvp => exact execRecvp_keeps hs
  | recvpCancel => exact execRecvpCancel_keeps hs
  | atomAdd => exact execAtomAdd_keeps hs
  | atomMax => exact execAtomMax_keeps hs
  | atomMin => exact execAtomMin_keeps hs
  | atomMaxu => exact execAtomMaxu_keeps hs
  | atomMinu => exact execAtomMinu_keeps hs
  | atomSwap => exact execAtomSwap_keeps hs
  | atomCas => exact execAtomCas_keeps hs
  | atomOr => exact execAtomOr_keeps hs
  | atomAnd => exact execAtomAnd_keeps hs
  | atomXor => exact execAtomXor_keeps hs
  | atomFmax32 => exact execAtomFmax32_keeps hs
  | cadd => exact execCadd_keeps hs
  | cread => exact execCread_keeps hs
  | carm => exact execCarm_keeps hs
  | cset => exact execCset_keeps hs
  | cflt => exact execCflt_keeps hs
  | cwait => exact execCwait_keeps hs
  | qwait => exact execQwait_keeps hs
  | chbind => exact execChbind_keeps hs
  | chset => exact execChset_keeps hs
  | chq => exact execChq_keeps hs
  | rdrem => exact execRdrem_keeps hs
  | rdsend => exact execRdsend_keeps hs
  | thdr => exact execThdr_keeps hs
  | tsth => exact execTsth_keeps hs
  | tmake => exact execTmake_keeps hs
  | tset => exact execTset_keeps hs
  | tget => exact execTget_keeps hs
  | lease => exact execLease_keeps hs
  | mrel => exact execMrel_keeps hs
  | mstat => exact execMstat_keeps hs
  | mma => exact execMma_keeps hs
  | mmag => exact execMmag_keeps hs
  | mzero => exact execMzero_keeps hs
  | mdrain => exact execMdrain_keeps hs
  | tcvt => exact execTcvt_keeps hs
  | aqadd => exact execAqadd_keeps hs
  | jqnext => exact execJqnext_keeps hs
  | ptcfg => exact execPtcfg_keeps hs
  | pset => exact execPset_keeps hs
  | pget => exact execPget_keeps hs
  | psum => exact execPsum_keeps hs
  | nextev => exact execNextev_keeps hs
  | evsend => exact execEvsend_keeps hs
  | snap => exact execSnap_keeps hs
  | rollb => exact execRollb_keeps hs
  | slog => exact execSlog_keeps hs
  | fossil => exact execFossil_keeps hs
  | horiz => exact execHoriz_keeps hs
  | rkey => exact execRkey_keeps hs
  | rtab => exact execRtab_keeps hs
  | rdraw => exact execRdraw_keeps hs
  | ready => exact execReady_keeps hs
  | nest => exact execNest_keeps hs
  | nexti => exact execNexti_keeps hs
  | phase => exact execPhase_keeps hs
  | cbar => exact execCbar_keeps hs
  | cbarx => exact execCbarx_keeps hs
  | cbcast => exact execCbcast_keeps hs
  | credAdd => exact execCredAdd_keeps hs
  | credMin => exact execCredMin_keeps hs
  | credMax => exact execCredMax_keeps hs
  | credOr => exact execCredOr_keeps hs
  | credAnd => exact execCredAnd_keeps hs
  | gmem => exact execGmem_keeps hs
  | sbind => exact execSbind_keeps hs
  | sfree => exact execSfree_keeps hs
  | spos => exact execSpos_keeps hs
  | srep => exact execSrep_keeps hs
  | vbcast => exact execVbcast_keeps hs
  | vext => exact execVext_keeps hs
  | vins => exact execVins_keeps hs
  | trap => exact execTrap_keeps hs
  | brk => exact execBrk_keeps hs
  | halt => exact execHalt_keeps hs
  | csrr => exact execCsrr_keeps hs
  | csrw => exact execCsrw_keeps hs
  | pmrd => exact execPmrd_keeps hs
  | vadd => exact execVadd_keeps hs
  | vsub => exact execVsub_keeps hs
  | vmul => exact execVmul_keeps hs
  | vfma => exact execVfma_keeps hs
  | vfms => exact execVfms_keeps hs
  | vnfma => exact execVnfma_keeps hs
  | vmin => exact execVmin_keeps hs
  | vmax => exact execVmax_keeps hs
  | vabs => exact execVabs_keeps hs
  | vneg => exact execVneg_keeps hs
  | vcmp => exact execVcmp_keeps hs
  | vsel => exact execVsel_keeps hs
  | vcvt => exact execVcvt_keeps hs
  | vmov => exact execVmov_keeps hs
  | vidx => exact execVidx_keeps hs
  | vdiv => exact execVdiv_keeps hs
  | vand => exact execVand_keeps hs
  | vor => exact execVor_keeps hs
  | vxor => exact execVxor_keeps hs
  | vnot => exact execVnot_keeps hs
  | vshl => exact execVshl_keeps hs
  | vshr => exact execVshr_keeps hs
  | vsar => exact execVsar_keeps hs
  | vmulh => exact execVmulh_keeps hs
  | vexp2 => exact execVexp2_keeps hs
  | vlog2 => exact execVlog2_keeps hs
  | vrcp => exact execVrcp_keeps hs
  | vrsq => exact execVrsq_keeps hs
  | vsqrt => exact execVsqrt_keeps hs
  | vperm => exact execVperm_keeps hs
  | vred => exact execVred_keeps hs
  | vscan => exact execVscan_keeps hs
  | vrnd => exact execVrnd_keeps hs
  | vrndu => exact execVrndu_keeps hs
  | pand => exact execPand_keeps hs
  | por => exact execPor_keeps hs
  | pxor => exact execPxor_keeps hs
  | pnot => exact execPnot_keeps hs
  | pcnt => exact execPcnt_keeps hs
  | pfirst => exact execPfirst_keeps hs
  | pmask => exact execPmask_keeps hs
  | anop => exact execAnop_keeps hs
  | _ => cases hw
/-- Every instruction and every step of the machine keeps the memories in canonical form. -/
theorem exec_keeps (i : Instr) (hs : s.Keeps none) : KeepsOut (exec i s) none := by
  cases hw : isWord i with
  | true => exact exec_keeps_of_isWord hw hs
  | false =>
    cases i with
    | variableLatencyResult => exact execVariableLatencyResult_keeps hs
    | taskEnd => exact execTaskEnd_keeps hs
    | deferredFault => exact execDeferredFault_keeps hs
    | waitExpiry => exact execWaitExpiry_keeps hs
    | catenaryArrival => exact execCatenaryArrival_keeps hs
    | catenaryWithdrawal => exact execCatenaryWithdrawal_keeps hs
    | catenaryCompletion => exact execCatenaryCompletion_keeps hs
    | taskDispatch => exact execTaskDispatch_keeps hs
    | starve => exact execStarve_keeps hs
    | stealBackoffExpiry => exact execStealBackoffExpiry_keeps hs
    | stealRequest => exact execStealRequest_keeps hs
    | stealServe => exact execStealServe_keeps hs
    | stealAnswer => exact execStealAnswer_keeps hs
    | msgArrival => exact execMsgArrival_keeps hs
    | replyArrival => exact execReplyArrival_keeps hs
    | refusedReply => exact execRefusedReply_keeps hs
    | refusedHalted => exact execRefusedHalted_keeps hs
    | refusedUnbound => exact execRefusedUnbound_keeps hs
    | refusedNocore => exact execRefusedNocore_keeps hs
    | taggedArrival => exact execTaggedArrival_keeps hs
    | atomRequest => exact execAtomRequest_keeps hs
    | atomPerform => exact execAtomPerform_keeps hs
    | atomr => exact execAtomr_keeps hs
    | drainMerge => exact execDrainMerge_keeps hs
    | caddm => exact execCaddm_keeps hs
    | counterPendingPush => exact execCounterPendingPush_keeps hs
    | engineFaultSetting => exact execEngineFaultSetting_keeps hs
    | rdreq => exact execRdreq_keeps hs
    | rdreqPerform => exact execRdreqPerform_keeps hs
    | rddata => exact execRddata_keeps hs
    | contrib => exact execContrib_keeps hs
    | diePartial => exact execDiePartial_keeps hs
    | timedArrival => exact execTimedArrival_keeps hs
    | cancelArrival => exact execCancelArrival_keeps hs
    | faultRecord => exact execFaultRecord_keeps hs
    | releaseArrival => exact execReleaseArrival_keeps hs
    | hostReport => exact execHostReport_keeps hs
    | stationMessage => exact execStationMessage_keeps hs
    | get => exact execGet_keeps hs
    | put => exact execPut_keeps hs
    | gcopy => exact execGcopy_keeps hs
    | move => exact execMove_keeps hs
    | haloRequest => exact execHaloRequest_keeps hs
    | putx => exact execPutx_keeps hs
    | outboundEnvelope => exact execOutboundEnvelope_keeps hs
    | jqnextServe => exact execJqnextServe_keeps hs
    | claimServe => exact execClaimServe_keeps hs
    | versionHoldExpiry => exact execVersionHoldExpiry_keeps hs
    | ldvHoldExpiry => exact execLdvHoldExpiry_keeps hs
    | watermarkStallExpiry => exact execWatermarkStallExpiry_keeps hs
    | rdsendExpiry => exact execRdsendExpiry_keeps hs
    | leaseExpiry => exact execLeaseExpiry_keeps hs
    | pagereqHoldExpiry => exact execPagereqHoldExpiry_keeps hs
    | goComplete => exact execGoComplete_keeps hs
    | sweep => exact execSweep_keeps hs
    | launchEnd => exact execLaunchEnd_keeps hs
    | quantumTapArrival => exact execQuantumTapArrival_keeps hs
    | quantumClose => exact execQuantumClose_keeps hs
    | preemptStop => exact execPreemptStop_keeps hs
    | translationBroadcast => exact execTranslationBroadcast_keeps hs
    | undecodableWord => exact execUndecodableWord_keeps hs
    | inboundPutx => exact execInboundPutx_keeps hs
    | stealAttempt => exact execStealAttempt_keeps hs
    | contribAccept => exact execContribAccept_keeps hs
    | timedResend => exact execTimedResend_keeps hs
    | cancelSend => exact execCancelSend_keeps hs
    | copyBeat => exact execCopyBeat_keeps hs
    | inboundMessage => exact execInboundMessage_keeps hs
    | linkDown => exact execLinkDown_keeps hs
    | turntableRunEnd => exact execTurntableRunEnd_keeps hs
    | mzeroRun => exact execMzeroRun_keeps hs
    | mmaRun => exact execMmaRun_keeps hs
    | mdrainRun => exact execMdrainRun_keeps hs
    | tileUnitRun => exact execTileUnitRun_keeps hs
    | engineCommandComplete => exact execEngineCommandComplete_keeps hs
    | storeLanePerform => exact execStoreLanePerform_keeps hs
    | sliceLoadServe => exact execSliceLoadServe_keeps hs
    | heldWritePerform => exact execHeldWritePerform_keeps hs
    | lineEviction => exact execLineEviction_keeps hs
    | translationFill => exact execTranslationFill_keeps hs
    | walkComplete => exact execWalkComplete_keeps hs
    | poolClearDone => exact execPoolClearDone_keeps hs
    | softErrorCorrected => exact execSoftErrorCorrected_keeps hs
    | uncorrectableError => exact execUncorrectableError_keeps hs
    | launchDispatch => exact execLaunchDispatch_keeps hs
    | go => exact execGo_keeps hs
    | contextSave => exact execContextSave_keeps hs
    | loadImage => exact execLoadImage_keeps hs
    | launch => exact execLaunch_keeps hs
    | cancelLaunch => exact execCancelLaunch_keeps hs
    | preempt => exact execPreempt_keeps hs
    | resume => exact execResume_keeps hs
    | mapPages => exact execMapPages_keeps hs
    | unmapPages => exact execUnmapPages_keeps hs
    | tlbflush => exact execTlbflush_keeps hs
    | queryDomainState => exact execQueryDomainState_keeps hs
    | querySliceCapacities => exact execQuerySliceCapacities_keeps hs
    | queryHarvestState => exact execQueryHarvestState_keeps hs
    | queryPackageFigures => exact execQueryPackageFigures_keeps hs
    | pmread => exact execPmread_keeps hs
    | partcfg => exact execPartcfg_keeps hs
    | reset => exact execReset_keeps hs
    | cqhead => exact execCqhead_keeps hs
    | registerWrite => exact execRegisterWrite_keeps hs
    | bar4Read => exact execBar4Read_keeps hs
    | bar4Write => exact execBar4Write_keeps hs
    | freeze => exact execFreeze_keeps hs
    | thaw => exact execThaw_keeps hs
    | debugEnable => exact execDebugEnable_keeps hs
    | powerGood => exact execPowerGood_keeps
    | overtemp => exact execOvertemp_keeps hs
    | streamBeatArrival => exact execStreamBeatArrival_keeps hs
    | coolantLimitDerate => exact execCoolantLimitDerate_keeps hs
    | _ => cases hw
theorem State.Keeps.begin (hs : s.Keeps none) : (s.begin c x).Keeps none := hs
theorem State.Keeps.retireBundle (hs : s.Keeps none) : (s.retireBundle words was).Keeps none :=
  .repeats (.updCtx (.retire hs))
theorem State.Keeps.finish (hs : s.Keeps none) : (s.finish words was).Keeps none := by
  dsimp only [State.finish]
  split
  · exact .retireBundle hs
  · exact hs
theorem State.Keeps.runOne (hs : s.Keeps none) : (s.runOne i).Keeps none := next_keeps (exec_keeps i hs)
theorem State.Keeps.rebind (hs : s.Keeps none) : (s.rebind s1 i0).Keeps none := by
  dsimp only [State.rebind]
  split
  · exact .updMe hs
  · exact .updMe hs
  · exact .updMe hs
  · exact hs
theorem State.Keeps.runTwo {i1 : Instr} (hs : s.Keeps none) : (s.runTwo i0 i1).Keeps none := by
  unfold State.runTwo
  extract_lets _ t s1 _ sA _ _ s2 _ _
  have ht : t.Keeps none := .memories hs
  have h1 : s1.Keeps none := .runOne ht
  have hA : sA.Keeps none := .runOne (.memories ht)
  have h2 : s2.Keeps none := by
    dsimp only [s2]
    split
    · exact .runOne (.memories hA)
    · exact .runOne (.memories h1)
  split
  · split
    · split
      · exact .memories (.rebind h2)
      · exact .parkMe ht
      · exact .suffer ht
    · exact hA
  · exact h1
theorem State.Keeps.check_ {marked : Bool} {is : List Instr} {run : State → State} (hs : s.Keeps none)
    (hrun : ∀ t, t.Keeps none → (run t).Keeps none) : (s.check_ marked is run).Keeps none := by
  unfold State.check_
  refine .ite (.parkMe hs) ?_
  extract_lets t was
  have ht : t.Keeps none := by
    dsimp only [t]
    exact .ite (.updMe hs) hs
  clear_value was t
  split
  · exact .raise ht
  · split
    · exact .ite (.raise ht) (.finish (hrun t ht))
    · exact .finish (hrun t ht)
theorem State.Keeps.issueCtx (hs : s.Keeps none) : (s.issueCtx c x).Keeps none := by
  dsimp only [State.issueCtx]
  refine .ite (.raise (.begin hs)) ?_
  split
  · exact .raise (.begin hs)
  · split
    · exact .runOne (.begin hs)
    · exact .check_ (.begin hs) fun t ht => .runOne ht
  · split
    · exact .runOne (.begin hs)
    · exact .runOne (.begin hs)
    · exact .ite (.raise (.begin hs)) (.check_ (.begin hs) fun t ht => .runTwo ht)
theorem State.Keeps.noteWait (ht : t.Keeps none) : (s.noteWait t c x).Keeps none := by
  unfold State.noteWait
  split
  · split
    · split
      · exact .updCore ht fun _ hk => hk
      · exact ht
    · exact ht
  · exact ht
theorem State.Keeps.issueScan {l : List Nat} (hs : s.Keeps none) : (s.issueScan c l).Keeps none := by
  induction l generalizing s with
  | nil => exact hs
  | cons x r ih =>
    unfold State.issueScan
    split
    · extract_lets n t
      have ht : t.Keeps none := .issueCtx hs
      exact .ite (.updCore (.noteWait ht) fun _ hk => hk) (ih ht)
    · exact ih hs
theorem State.Keeps.issue (hs : s.Keeps none) : (s.issue c).Keeps none := .ite hs (.issueScan hs)
theorem State.Keeps.wake (hs : s.Keeps none) : (s.wake c).Keeps none := by
  unfold State.wake
  refine .ite hs ?_
  refine .foldl hs (fun t e ht => ?_) _
  split
  · exact .ite (.updCtx ht) ht
  · exact .updCore ht fun _ hk => Core.memWf_unpark hk _
  · exact ht
theorem Core.memWf_unfreed {k : Core} (h : k.memWf = true) : k.unfreed.memWf = true := by
  unfold Core.unfreed
  split <;> exact h
theorem State.Keeps.newCycle (hs : s.Keeps none) : s.newCycle.Keeps none := by
  unfold State.newCycle
  extract_lets t u
  have ht : t.Keeps none := by
    obtain ⟨hmem, hcores, hdomains⟩ := s.memWf_iff.1 hs
    refine (State.memWf_iff _).2 ⟨hmem, List.all_eq_true.2 fun e he => ?_, hdomains⟩
    obtain ⟨c, hc, rfl⟩ := List.mem_map.1 he
    exact Core.memWf_unfreed (List.all_eq_true.1 hcores c hc)
  refine .foldl (.remember (.writeOn ht)) (fun v l hv => ?_) _
  exact .ite (.foldl hv (fun _ _ h => .count h) _) hv
theorem State.Keeps.lateAcquire (hs : s.Keeps none) : (s.lateAcquire).Keeps none := by
  dsimp only [State.lateAcquire]
  refine .foldl hs (fun t e h => ?_) _
  split
  · exact .ite (.acquire h) h
  · exact h
theorem State.Keeps.stage {n : Nat} (hs : s.Keeps none) : (s.stage n).Keeps none := by
  dsimp only [State.stage]
  split
  · exact hs
  · exact hs
  · exact .memories (.foldl hs (fun t e h => .wake h) _)
  · exact hs
  · exact .memories (.lateAcquire hs)
  · exact hs
  · exact hs
  · exact hs
  · exact hs
theorem State.Keeps.pollCtx (hs : s.Keeps none) : (s.pollCtx c x).Keeps none := by
  unfold State.pollCtx
  split
  · extract_lets t
    have ht : t.Keeps none := .runOne (.asIf hs)
    split
    · exact .leaveWait ht
    · exact ht
    · exact .updCtx ht
    · split
      · exact ht
      · exact hs
    · exact hs
  · exact hs
theorem State.Keeps.event (hs : s.Keeps none) : (s.event i).Keeps none := by
  dsimp only [State.event]
  split
  · exact hs
  · exact .ite hs (.runOne hs)
theorem State.Keeps.offerRoom (ht : t.Keeps none) : (t.offerRoom s).Keeps none := by
  unfold State.offerRoom
  exact .ite (.memories ht) ht
theorem State.Keeps.doWork {w : Work} (hs : s.Keeps none) : (s.doWork w).Keeps none := by
  cases w with
  | stage n => exact .stage hs
  | ev i => exact .offerRoom (.event hs)
  | steps l =>
    unfold State.doWork
    dsimp only
    split
    · exact .memories hs
    · exact hs
  | issue c => exact .issue hs
  | poll c x => exact .pollCtx hs
  | room c id => exact .offerRoom (next_keeps (execHeldWritePerform_keeps hs))
theorem State.Keeps.advance (hs : s.Keeps none) : (s.advance).Keeps none := by
  dsimp only [State.advance]
  split
  · exact .memories (.newCycle hs)
  · exact .doWork hs

end Sys2Proof.Machine
end

section
/-! The two readings at every step (R24, R26, R248, R266). -/

namespace Sys2Proof
namespace Machine

/-- Settles O59: every operation of the model keeps the reading of `State.Keeps` that speaks of memories, so that each piece of work does. -/
theorem stepsKeepMemoriesCanonical : Obligations.StepsKeepMemoriesCanonical := by
  intro s t hs hstep
  cases hstep
  exact State.Keeps.advance (s := s) hs

/-- Settles O60: the word keeps all that `SameOutside` names as it was in the state that it issues in. -/
theorem instructionWordsActOnTheirOwnCore : Obligations.InstructionWordsActOnTheirOwnCore := by
  intro i s hw
  have hs : s.Keeps (some s) := ⟨rfl, fun _ _ => rfl, rfl, rfl, rfl, rfl, rfl, rfl⟩
  exact exec_keeps_of_isWord hw hs

end Machine
end Sys2Proof
end

section
/-! Loads and stores of the core's own windows (R26, R280, R282): the little-endian bytes of a store, what it leaves of a pool, the window that
an address lies in, and the statement about them. -/

namespace Sys2Proof
namespace Machine

/-! ## Little-endian bytes -/

@[simp] theorem length_toBytes (n v : Nat) : (toBytes n v).length = n := by
  induction n generalizing v with
  | zero => rfl
  | succ n ih => simp [toBytes, ih]
theorem getD_toBytes {n i : Nat} (h : i < n) (v : Nat) : (toBytes n v).getD i 0 = BitVec.ofNat 8 (v / 256 ^ i) := by
  induction n generalizing v i with
  | zero => omega
  | succ n ih =>
    cases i with
    | zero => simp [toBytes]
    | succ i =>
      rw [toBytes, List.getD_cons_succ, ih (by omega), Nat.div_div_eq_div_mul, Nat.pow_succ']
/-- Byte i of a word. -/
theorem ofNat_toNat_div (w : Word) (i : Nat) : BitVec.ofNat 8 (w.toNat / 256 ^ i) = (w >>> (8 * i)).setWidth 8 := by
  apply BitVec.eq_of_toNat_eq
  rw [BitVec.toNat_setWidth, BitVec.toNat_ushiftRight, Nat.shiftRight_eq_div_pow, BitVec.toNat_ofNat, Nat.pow_mul]

/-! ## Bytes of a pool -/

theorem Core.byte_putByte (k : Core) (a j : Nat) (b : Byte) : (k.putByte a b).byte j = if a = j then b else k.byte j := by
  by_cases h : a = j <;> simp [Core.byte, Core.putByte, AMap.find_erase, Memory.read_write, h]
/-- Each byte of a write lands at its place, and every other byte of the pool reads as before. -/
theorem Core.byte_put (k : Core) (a j : Nat) (bs : List Byte) :
    (k.put a bs).byte j = if a ≤ j ∧ j < a + bs.length then bs.getD (j - a) 0 else k.byte j := by
  induction bs generalizing k a with
  | nil => simp [Core.put]
  | cons b r ih =>
    rw [Core.put, ih, Core.byte_putByte, List.length_cons]
    obtain h | rfl | h := Nat.lt_trichotomy j a
    · rw [if_neg (by omega), if_neg (by omega), if_neg (by omega)]
    · rw [if_neg (by omega), if_pos rfl, if_pos (by omega), Nat.sub_self, List.getD_cons_zero]
    · rw [if_neg (show ¬a = j by omega), show j - a = (j - (a + 1)) + 1 by omega, List.getD_cons_succ]
      exact if_congr (by omega) rfl rfl
/-- A write to a pool changes nothing else of its core. -/
theorem Core.put_eq (k : Core) (a : Nat) (bs : List Byte) :
    k.put a bs = { k with pool := (k.put a bs).pool, undef := (k.put a bs).undef } := by
  induction bs generalizing k a with
  | nil => rfl
  | cons b r ih => exact ih (k.putByte a b) (a + 1)

@[simp] theorem State.core_putLocal_same (s : State) (c off : Nat) (bs : List Byte) :
    (s.putLocal c off bs).core c = (s.core c).put off bs := State.core_updCore_same s c fun k => k.put off bs
theorem State.core_putLocal_ne (s : State) {c e : Nat} (h : c ≠ e) (off : Nat) (bs : List Byte) : (s.putLocal c off bs).core e = s.core e :=
  State.core_updCore_ne s (fun k => k.put off bs) h
/-- A write to a pool keeps the bytes of that pool outside it. -/
theorem State.poolKept_putLocal (s : State) (c off : Nat) (bs : List Byte) : PoolKept s (s.putLocal c off bs) c off bs.length := by
  intro a ha
  rw [State.core_putLocal_same, Core.byte_put, if_neg (by omega)]

/-! ## The window of an address (R26, R280) -/

section Windows
variable {k : Core} {x : Word} {n : Nat} {load : Bool}

theorem Core.winOf_scratch (h : offOf x + n ≤ k.spSize) : k.winOf x n load = .ok (.scratch (offOf x)) := by
  simp [Core.winOf, h]
theorem Core.winOf_acc (hs : ¬offOf x + n ≤ k.spSize) (h : accBase ≤ offOf x ∧ offOf x + n ≤ accBase + k.accSize) :
    k.winOf x n load = if load then .ok (.acc (offOf x)) else .error (memPerm 76 x) := by
  simp only [Core.winOf, if_neg hs, if_pos h]
theorem Core.winOf_counter (hs : ¬offOf x + n ≤ k.spSize) (ha : ¬(accBase ≤ offOf x ∧ offOf x + n ≤ accBase + k.accSize))
    (h : ctrBase ≤ offOf x ∧ offOf x < ctrBase + 0x4000) :
    k.winOf x n load = if load = true ∧ n = 8 then .ok (.counter ((offOf x - ctrBase) / 8)) else .error (memPerm 76 x) := by
  simp only [Core.winOf, if_neg hs, if_neg ha, if_pos h]
theorem Core.winOf_none (hs : ¬offOf x + n ≤ k.spSize) (ha : ¬(accBase ≤ offOf x ∧ offOf x + n ≤ accBase + k.accSize))
    (hc : ¬(ctrBase ≤ offOf x ∧ offOf x < ctrBase + 0x4000)) : k.winOf x n load = .error (memFlt .pool x) := by
  simp only [Core.winOf, if_neg hs, if_neg ha, if_neg hc]

end Windows

/-! ## `LD` and `ST` by the check that decides them -/

/-- The address of an access of n bytes (R282). -/
def State.memAddr (s : State) (a : BitVec 6) (o : BitVec 9) (n : Nat) : Word := s.rs a + BitVec.ofInt 64 (o.toInt * n)
theorem State.memAddr_eq (s : State) (a : BitVec 6) (o : BitVec 9) (n : Nat) :
    s.rs a + o.signExtend 64 * nat64 n = s.memAddr a o n := by
  rw [State.memAddr, BitVec.ofInt_mul, BitVec.ofInt_natCast]
  rfl

section Accesses
variable {s : State} {d a : BitVec 6} {z : Size} {o : BitVec 9} {x : Word} {f : Flt}
variable (hx : s.memAddr a o (sizeBytes z) = x)
include hx

theorem execLd_misaligned (h : x.toNat % sizeBytes z ≠ 0) : execLd d a z o s = .next (s.raise (memFlt .align x)) := by
  simp only [execLd, State.memAddr_eq, hx, if_pos h]
theorem execSt_misaligned (h : x.toNat % sizeBytes z ≠ 0) : execSt d a z o s = .next (s.raise (memFlt .align x)) := by
  simp only [execSt, State.memAddr_eq, hx, if_pos h]

variable (hal : x.toNat % sizeBytes z = 0) (hloc : isLocal x = true)
include hal hloc

/-- A local load goes by the window of its address. -/
theorem execLd_local : execLd d a z o s = .next (s.orRaise (s.myCore.winOf x (sizeBytes z) true) fun w => match w with
    | .counter i => s.ws d (s.cell s.cur.core i).value
    | .scratch o | .acc o => s.behindAtoms (.pool o) (s.unmarked o (sizeBytes z)
        (s.orRaise (s.readLocal s.cur.core o (sizeBytes z)) fun bs => s.ws d (nat64 (ofBytes bs))))) := by
  simp only [execLd, State.memAddr_eq, hx, if_neg (not_not.2 hal), if_pos hloc] <;> rfl
theorem execLd_refused (h : s.myCore.winOf x (sizeBytes z) true = .error f) : execLd d a z o s = .next (s.raise f) := by
  simp only [execLd_local hx hal hloc, h, State.orRaise]
theorem execLd_counter {i : Nat} (h : s.myCore.winOf x (sizeBytes z) true = .ok (.counter i)) :
    execLd d a z o s = .next (s.ws d (s.cell s.cur.core i).value) := by
  simp only [execLd_local hx hal hloc, h, State.orRaise]
/-- A load of bytes that nothing holds writes what stands there. -/
theorem execLd_bytes {off : Nat} (h : s.myCore.winOf x (sizeBytes z) true = .ok (.scratch off) ∨ s.myCore.winOf x (sizeBytes z) true = .ok (.acc off))
    (hat : s.atomsAt s.cur.core s.cur.ctx (.pool off) = []) (hm : s.myCore.marked off (sizeBytes z) = none)
    (hbad : s.badIn s.cur.core off (sizeBytes z) = none) :
    execLd d a z o s = .next (s.ws d (BitVec.ofNat 64 (s.myCore.num off (sizeBytes z)))) := by
  have hread : s.readLocal s.cur.core off (sizeBytes z) = .ok (s.myCore.bytes off (sizeBytes z)) := by
    simp only [State.readLocal, hbad]
    rfl
  obtain h | h := h <;>
    simp only [execLd_local hx hal hloc, h, State.orRaise, State.behindAtoms, hat, State.unmarked, hm, hread] <;> rfl

theorem execSt_local : execSt d a z o s = .next (s.orRaise (s.myCore.winOf x (sizeBytes z) false) fun _ =>
    s.behindAtoms (.pool (offOf x)) (s.unmarked (offOf x) (sizeBytes z) (match s.storeEcc s.cur.core (offOf x) (sizeBytes z) with
      | some f => s.raise f
      | none => s.putLocal s.cur.core (offOf x) (toBytes (sizeBytes z) (s.rs d).toNat)))) := by
  simp only [execSt, State.memAddr_eq, hx, if_neg (not_not.2 hal), if_pos hloc] <;> rfl
theorem execSt_refused (h : s.myCore.winOf x (sizeBytes z) false = .error f) : execSt d a z o s = .next (s.raise f) := by
  simp only [execSt_local hx hal hloc, h, State.orRaise]
/-- A store to bytes that nothing holds puts them there. -/
theorem execSt_bytes {w : Win} (h : s.myCore.winOf x (sizeBytes z) false = .ok w)
    (hat : s.atomsAt s.cur.core s.cur.ctx (.pool (offOf x)) = []) (hm : s.myCore.marked (offOf x) (sizeBytes z) = none)
    (hecc : s.storeEcc s.cur.core (offOf x) (sizeBytes z) = none) :
    execSt d a z o s = .next (s.putLocal s.cur.core (offOf x) (toBytes (sizeBytes z) (s.rs d).toNat)) := by
  simp only [execSt_local hx hal hloc, h, State.orRaise, State.behindAtoms, hat, State.unmarked, hm, hecc]

end Accesses

theorem sizeBytes_eq_eight {z : Size} : sizeBytes z = 8 ↔ z = .d := by cases z <;> decide

theorem localLoadsWriteTheBytesTheyName : LocalLoadsWriteTheBytesTheyName := by
  intro s d a z o n x off k c fails inAcc clear
  have hx : s.memAddr a o (sizeBytes z) = x := rfl
  refine ⟨fun h => ⟨_, execLd_misaligned hx h, rfl⟩, fun hal hloc => ⟨?_, ?_, ?_, ?_⟩⟩
  · intro hin hclear
    obtain ⟨hat, hm, hbad⟩ := hclear
    refine ⟨_, execLd_bytes hx hal hloc ?_ hat hm hbad, writes_ws s d _⟩
    by_cases hs : offOf x + n ≤ k.spSize
    · exact .inl (Core.winOf_scratch hs)
    · exact .inr (Core.winOf_acc hs (hin.resolve_left hs))
  · intro hs ha hlo hhi hz
    refine ⟨_, execLd_counter hx hal hloc ?_, writes_ws s d _⟩
    rw [Core.winOf_counter (Nat.not_le.2 hs) ha ⟨hlo, hhi⟩, if_pos ⟨rfl, sizeBytes_eq_eight.2 hz⟩]
  · intro hs ha hlo hhi hz
    refine ⟨_, execLd_refused hx hal hloc ?_, rfl⟩
    rw [Core.winOf_counter (Nat.not_le.2 hs) ha ⟨hlo, hhi⟩, if_neg fun h => hz (sizeBytes_eq_eight.1 h.2)]
    rfl
  · intro hs ha hc
    exact ⟨_, execLd_refused hx hal hloc (Core.winOf_none (Nat.not_le.2 hs) ha hc), rfl⟩

theorem localStoresChangeOnlyTheirBytes : LocalStoresChangeOnlyTheirBytes := by
  intro s d a z o n x off k c fails inAcc inCtr
  have hx : s.memAddr a o (sizeBytes z) = x := rfl
  refine ⟨fun h => ⟨_, execSt_misaligned hx h, rfl⟩, fun hal hloc => ⟨?_, ?_, ?_⟩⟩
  · intro hs hat hm hecc
    refine ⟨_, execSt_bytes hx hal hloc (Core.winOf_scratch hs) hat hm hecc, rfl, fun e he => State.core_putLocal_ne s he.symm _ _, ?_, ?_, ?_⟩
    · rw [State.core_putLocal_same]
      exact Core.put_eq _ _ _
    · have hkept := s.poolKept_putLocal c off (toBytes n (s.rs d).toNat)
      rwa [length_toBytes] at hkept
    · intro i hi
      rw [State.core_putLocal_same, Core.byte_put, length_toBytes, if_pos ⟨Nat.le_add_right _ _, Nat.add_lt_add_left hi _⟩, Nat.add_sub_cancel_left,
        getD_toBytes hi, ofNat_toNat_div]
  · intro hs hin
    refine ⟨_, execSt_refused hx hal hloc ?_, rfl⟩
    by_cases ha : inAcc
    · exact Core.winOf_acc (Nat.not_le.2 hs) ha
    · rw [Core.winOf_counter (Nat.not_le.2 hs) ha (hin.resolve_left ha)]
      rfl
  · intro hs ha hc
    exact ⟨_, execSt_refused hx hal hloc (Core.winOf_none (Nat.not_le.2 hs) ha hc), rfl⟩

/-- Settles O16, by the window that the address lies in. -/
theorem localAccessesMoveTheBytesTheyName : Obligations.LocalAccessesMoveTheBytesTheyName :=
  ⟨localLoadsWriteTheBytesTheyName, localStoresChangeOnlyTheirBytes⟩

end Machine
end Sys2Proof
end

section
/-! A step and the instruction it decodes (R17, R33, R34, R54): the issue slot, asynchronous steps, waits that are looked at again, and the word that
`withFetchWord` places. -/

namespace Sys2Proof
namespace Machine

/-! ## The issue slot -/

section Slot
variable {s t : State} {c x : Nat} {w : Word32} {i : Instr}

theorem State.runOne_of_next (h : exec i s = .next t) : s.runOne i = t := by rw [State.runOne, h]; rfl
/-- A core that runs, whose slot is free, scans its contexts from the one past the last that issued. -/
theorem State.issue_eq_issueScan (hr : s.runs c = true) (hf : (s.core c).frozen = false) (ht : (s.core c).tapped = false)
    (hb : (s.core c).busy ≤ s.now) : s.issue c = s.issueScan c ((List.range 11).map fun j => ((s.core c).last + 1 + j) % 11) := by
  simp [State.issue, hr, hf, ht, hb]
/-- The scan passes the contexts that may not issue. -/
theorem State.issueScan_append {pre : List Nat} (post : List Nat) (h : ∀ y ∈ pre, s.mayIssue c y = false) :
    s.issueScan c (pre ++ post) = s.issueScan c post := by
  induction pre with
  | nil => rfl
  | cons y r ih =>
    rw [List.cons_append, State.issueScan, if_neg (by simp [h y (List.mem_cons_self ..)])]
    exact ih fun z hz => h z (List.mem_cons_of_mem _ hz)
theorem State.issueScan_cons_of_mayIssue (post : List Nat) (h : s.mayIssue c x = true) :
    s.issueScan c (x :: post) =
      if (s.issueCtx c x).cur.fate.takesSlot then
        (s.noteWait (s.issueCtx c x) c x).updCore c fun m =>
          { m with last := x, busy := s.now + (if (s.issueCtx c x).cur.fate = .retire then (s.core c).slotCycles (s.ctx c x).pc else 1) }
      else (s.issueCtx c x).issueScan c post := by
  rw [State.issueScan, if_pos h]
theorem Core.slotCycles_of_one {k : Core} {pc : Nat} (hf : k.form pc = .one w) (hw : decodeWord w = .ok i) : k.slotCycles pc = issueCycles i := by
  simp [Core.slotCycles, hf, hw]
theorem State.issueCtx_of_one (hb : s.fetchBad c (s.ctx c x).pc = false) (hf : (s.core c).form (s.ctx c x).pc = .one w) (hw : decodeWord w = .ok i) :
    s.issueCtx c x = (s.begin c x).check_ (wS w = 1) [i] fun u => u.runOne i := by
  have hb' : (s.begin c x).fetchBad c (s.begin c x).cur.pc = false := hb
  have hf' : ((s.begin c x).core c).form (s.begin c x).cur.pc = .one w := hf
  simp only [State.issueCtx, hb', hf', hw, Bool.false_eq_true, if_false]
theorem State.check_of_unmarked {is : List Instr} {run : State → State} {m : Bool} (hm : m = false) (hz : s.hazard is = none)
    (hr : s.me.srep = none) : s.check_ m is run = (run s).finish is.length none := by
  simp only [State.check_, hm, Bool.false_and, Bool.false_eq_true, if_false, hz, hr]
theorem State.check_of_marked {is : List Instr} {run : State → State} {m : Bool} (hm : m = true) (ho : s.me.outstanding = 0)
    (hz : (s.updMe fun k => { k with pending := [] }).hazard is = none) (hr : s.me.srep = none) :
    s.check_ m is run = (run (s.updMe fun k => { k with pending := [] })).finish is.length none := by
  have hr' : (s.updMe fun k => { k with pending := [] }).me.srep = none := by rw [me_updMe]; exact hr
  simp only [State.check_, hm, ho, bne_self_eq_false, Bool.and_false, Bool.false_eq_true, if_false, if_true, hz, hr']

end Slot

/-! ## Asynchronous steps -/

theorem State.event_eq_runOne {s : State} {i : Instr} (hw : isWord i = false) (hu : ∀ a b c, i ≠ .undecodableWord a b c) :
    s.event i = s.runOne i := by
  unfold State.event
  split
  · exact absurd rfl (hu _ _ _)
  · rw [hw]; rfl
theorem State.offerRoom_of_kept {s t : State} (h : ∀ e ∈ t.parts, (s.part e.1).retained.length ≤ e.2.retained.length) : t.offerRoom s = t := by
  rw [State.offerRoom, if_neg]
  simpa using h
theorem State.offerRoom_of_freed {s t : State} (h : ∃ e ∈ t.parts, e.2.retained.length < (s.part e.1).retained.length) :
    ∃ l, (∀ y ∈ l, y ∈ t.heldWrites) ∧ t.offerRoom s = { t with work := l ++ t.work } := by
  rw [State.offerRoom, if_pos (by simpa using h)]
  exact ⟨_, fun y hy => (List.mem_filter.1 hy).1, rfl⟩

/-! ## A word placed to be fetched next -/

/-- Little-endian bytes read back as the number that they were made of. -/
theorem ofBytes_toBytes (n v : Nat) : ofBytes (toBytes n v) = v % 256 ^ n := by
  induction n generalizing v with
  | zero => simp [toBytes, ofBytes, Nat.mod_one]
  | succ n ih =>
    have hb : (BitVec.ofNat 8 v).toNat = v % 256 := rfl
    rw [toBytes, ofBytes, ih, hb, Nat.pow_succ', Nat.mod_mul]
/-- The bytes at the address where bytes were stored. -/
theorem Memory.bytes_store (d : Nat → Byte) (m : Memory) (a i n : Nat) (bs : List Byte) (h : i + n ≤ bs.length) :
    Memory.bytes d (Memory.store d m a bs) (a + i) n = (bs.drop i).take n := by
  induction n generalizing i with
  | zero => simp [Memory.bytes]
  | succ n ih =>
    have hi : i < bs.length := by omega
    rw [Memory.bytes, Nat.add_assoc, ih (i + 1) (by omega), Memory.read_store, if_pos (by omega), Nat.add_sub_cancel_left,
      List.drop_eq_getElem_cons hi, List.take_succ_cons, List.getD_eq_getElem _ _ hi]
/-- A word that stands among the bytes stored is what is fetched at its place. -/
theorem Core.fetch_store (k : Core) (a i : Nat) (bs : List Byte) (w : Word32) (hl : i + 4 ≤ bs.length)
    (h : (bs.drop i).take 4 = toBytes 4 w.toNat) :
    ({ k with imem := Memory.store brkByte k.imem a bs } : Core).fetch (a + i) = w := by
  have hw : w.toNat < 2 ^ 32 := w.isLt
  have hb : ofBytes (toBytes 4 w.toNat) = w.toNat := by rw [ofBytes_toBytes]; omega
  simp only [Core.fetch, Memory.num, Memory.bytes_store brkByte k.imem a i 4 bs hl, h, hb, BitVec.ofNat_toNat, BitVec.setWidth_eq]

theorem State.baseOf_zero (s : State) : s.baseOf 0 = 0 := by
  unfold State.baseOf
  split
  · next d h =>
    have hd := List.find?_some h
    simp only [Bool.and_eq_true, decide_eq_true_eq] at hd
    exact Nat.le_zero.1 hd.1
  · rfl
@[simp] theorem State.domOf_zero (s : State) : s.domOf 0 = 0 := s.baseOf_zero

section Placed
variable (s : State) (code : List Byte)

/-- Core 0 as `readyAt0` leaves it. -/
def Core.placed (k : Core) (code : List Byte) : Core :=
  { k.setCtx 0 { k.ctx 0 with st := .ready, pc := 0, stall := none, wait := none, deferred := none, startOn := [], srep := none, retiredQ := 0 } with
    imem := Memory.store brkByte k.imem 0 code, frozen := false, tapped := false, busy := 0, last := 10 }
/-- The launch of core 0's domain, or the one that `readyAt0` stands in for it. -/
def State.placedLaunch (s : State) : Launch :=
  (s.domain 0).launch.getD { q := 0, id := 0, image := 0, det := false, quantum := 16384, args := 0, lcount := 48 }

@[simp] theorem State.core_readyAt0 : (s.readyAt0 code).core 0 = (s.core 0).placed code := by
  exact State.core_updCore_same s 0 fun k => k.placed code
theorem State.ctx_readyAt0 : (s.readyAt0 code).ctx 0 0 =
    { s.ctx 0 0 with st := .ready, pc := 0, stall := none, wait := none, deferred := none, startOn := [], srep := none, retiredQ := 0 } := by
  rw [State.ctx, State.core_readyAt0]
  exact AMap.get_set_same ..
/-- The launch of core 0 runs, with a quantum of at least one bundle. -/
theorem State.launchOf_readyAt0 : ∃ l, (s.readyAt0 code).launchOf 0 = some l ∧ l.phase = .running ∧ 0 < l.quantum := by
  have h : (s.readyAt0 code).launchOf 0 = some { s.placedLaunch with phase := .running, quantum := Nat.max s.placedLaunch.quantum 1 } := by
    rw [State.launchOf, State.domOf_zero]
    simp only [State.readyAt0, State.domOf_zero]
    exact congrArg Domain.launch (AMap.get_set_same ..)
  exact ⟨_, h, rfl, Nat.lt_of_lt_of_le Nat.zero_lt_one (Nat.le_max_right ..)⟩
theorem State.mayIssue_readyAt0 : (s.readyAt0 code).mayIssue 0 0 = true := by
  obtain ⟨l, hl, _, hq⟩ := s.launchOf_readyAt0 code
  simp [State.mayIssue, State.ctx_readyAt0, hl, State.pendingIds, hq]
theorem State.runs_readyAt0 : (s.readyAt0 code).runs 0 = true := by
  obtain ⟨l, hl, hp, _⟩ := s.launchOf_readyAt0 code
  simp only [State.runs, hl, hp]
theorem State.fetchBad_readyAt0 : (s.readyAt0 code).fetchBad 0 0 = false := by
  rw [State.fetchBad, List.any_eq_false]
  intro e he
  replace he := (List.mem_filter.1 he).2
  cases e with
  | imem k a =>
    simp only [Bool.not_eq_true', Bool.and_eq_false_iff, decide_eq_false_iff_not, beq_eq_false_iff_ne, Bool.and_eq_true,
      beq_iff_eq, not_and] at he ⊢
    omega
  | _ => simp
theorem State.fetch_readyAt0 (i : Nat) (w : Word32) (hl : i + 4 ≤ code.length) (h : (code.drop i).take 4 = toBytes 4 w.toNat) :
    ((s.readyAt0 code).core 0).fetch i = w := by
  rw [State.core_readyAt0]
  exact (congrArg _ (Nat.zero_add i).symm).trans (Core.fetch_store (s.core 0) 0 i code w hl h)

end Placed

theorem Core.form_eq_one {k : Core} {w : Word32} (h0 : k.fetch 0 = w) (hL : wL w = 1) : k.form 0 = .one w := by
  simp [Core.form, h0, hL]
theorem Core.form_eq_two {k : Core} {w0 w1 : Word32} (h0 : k.fetch 0 = w0) (h1 : k.fetch 4 = w1) (hL : wL w0 = 0) (hK : wK w0 = 0)
    (hL1 : wL w1 = 0) (hK1 : wK w1 = 1) (hS1 : wS w1 = 0) : k.form 0 = .two w0 w1 := by
  simp [Core.form, h0, h1, hL, hK, hL1, hK1, hS1]

/-- A lone word, or one with the `NOP` or `ANOP` that completes its pair, is what the issue slot finds at PC 0. -/
theorem State.form_readyAt0_placed (s : State) (w : Word32) :
    (wL w = 1 → ((s.readyAt0 (placed w)).core 0).form 0 = .one w) ∧
    (wL w = 0 → wK w = 0 → ((s.readyAt0 (placed w)).core 0).form 0 = .two w 0x37800000) ∧
    (wL w = 0 → wK w = 1 → wS w = 0 → ((s.readyAt0 (placed w)).core 0).form 0 = .two 0x0B000000 w) := by
  have take4 (a b : Nat) : (toBytes 4 a ++ toBytes 4 b).take 4 = toBytes 4 a := rfl
  have drop4 (a b : Nat) : ((toBytes 4 a ++ toBytes 4 b).drop 4).take 4 = toBytes 4 b := rfl
  refine ⟨fun h => ?_, fun hL hK => ?_, fun hL hK hS => ?_⟩
  · have hp : placed w = toBytes 4 w.toNat := by rw [placed, if_pos h]
    rw [hp]
    exact Core.form_eq_one (s.fetch_readyAt0 _ 0 w (Nat.le_refl 4) rfl) h
  · have hp : placed w = toBytes 4 w.toNat ++ toBytes 4 0x37800000 := by rw [placed, if_neg (by simp [hL]), if_pos hK]
    rw [hp]
    exact Core.form_eq_two (s.fetch_readyAt0 _ 0 w (by simp) (take4 ..)) (s.fetch_readyAt0 _ 4 0x37800000 (by simp) (drop4 ..)) hL hK rfl rfl rfl
  · have hp : placed w = toBytes 4 0x0B000000 ++ toBytes 4 w.toNat := by rw [placed, if_neg (by simp [hL]), if_neg (by simp [hK])]
    rw [hp]
    exact Core.form_eq_two (s.fetch_readyAt0 _ 0 0x0B000000 (by simp) (take4 ..)) (s.fetch_readyAt0 _ 4 w (by simp) (drop4 ..)) rfl rfl hL hK hS

/-! ## The statement -/

/-- The issue slot runs `exec` of the word that the first context to issue has at its program counter. -/
theorem State.issueCtx_eq_finish {s t : State} {c x : Nat} {w : Word32} {i : Instr} (hb : s.fetchBad c (s.ctx c x).pc = false)
    (hf : (s.core c).form (s.ctx c x).pc = .one w) (hw : decodeWord w = .ok i) (hr : (s.ctx c x).srep = none)
    (ho : wS w = 1 → (s.ctx c x).outstanding = 0) :
    let e := if wS w = 1 then (s.begin c x).updMe (fun m => { m with pending := [] }) else s.begin c x
    e.hazard [i] = none → exec i e = .next t → s.issueCtx c x = t.finish 1 none := by
  intro e hz he
  rw [State.issueCtx_of_one hb hf hw]
  by_cases hS : wS w = 1
  · rw [show e = (s.begin c x).updMe _ from if_pos hS] at hz he
    rw [State.check_of_marked (s := s.begin c x) (decide_eq_true hS) (ho hS) hz hr, State.runOne_of_next he]; rfl
  · rw [show e = s.begin c x from if_neg hS] at hz he
    rw [State.check_of_unmarked (decide_eq_false hS) hz hr, State.runOne_of_next he]; rfl
theorem State.pollCtx_of_waiting {s t : State} {c x : Nat} {W : Wait} (hs : (s.ctx c x).st = .waiting) (hw : (s.ctx c x).wait = some W)
    (he : exec W.instr (s.asIf c x) = .next t) :
    s.pollCtx c x = match t.cur.fate with
      | .retire => t.leaveWait c x
      | .fault _ => t
      | .stall _ => t.updCtx c x fun k => { k with wait := none }
      | .wait _ => (match W.instr with
        | .nextev _ _ => t
        | _ => s)
      | _ => s := by
  simp only [State.pollCtx, hs, hw, State.runOne_of_next he] <;> rfl

/-- Settles O57, by what the issue slot, an asynchronous step and a poll do with the state that `exec` of their instruction answers, and by the
bytes that `withFetchWord` places. -/
theorem aStepRunsTheDecodedInstruction : Obligations.AStepRunsTheDecodedInstruction := by
  unfold Obligations.AStepRunsTheDecodedInstruction
  intro s c x r pre post w i t u k
  refine ⟨?_, ?_, State.offerRoom_of_kept, State.offerRoom_of_freed, ?_, ?_, ?_⟩
  · intro hwork hruns hfrozen htapped hbusy hscan hpre hx hbad hform hdec hrep b e hout hhaz hexec v
    have hv : u.issueCtx c x = v := State.issueCtx_eq_finish (s := u) hbad hform hdec hrep hout hhaz hexec
    have hcycles : (u.core c).slotCycles (u.ctx c x).pc = issueCycles i := Core.slotCycles_of_one hform hdec
    have hstep : step s = .next (u.issue c) := by simp only [step, State.advance, hwork]; rfl
    rw [hstep, State.issue_eq_issueScan (s := u) hruns hfrozen htapped hbusy]
    change Host.Outcome.next (u.issueScan c ((List.range 11).map fun j => (k.last + 1 + j) % 11)) = _
    rw [hscan, State.issueScan_append _ hpre, State.issueScan_cons_of_mayIssue _ hx, hv, hcycles]
  · intro hwork hw hu hexec
    have hstep : step s = .next ((u.event i).offerRoom u) := by simp only [step, State.advance, hwork]; rfl
    rw [hstep, State.event_eq_runOne hw hu, State.runOne_of_next hexec]
  · intro W hwork hst hwait hexec
    have hstep : step s = .next (u.pollCtx c x) := by simp only [step, State.advance, hwork]; rfl
    rw [hstep, State.pollCtx_of_waiting (s := u) hst hwait hexec] <;> rfl
  · intro hwork
    simp only [step, State.advance, hwork]
  · have hp : s.withFetchWord 32 w.toNat = s.readyAt0 (placed w) := by
      rw [State.withFetchWord, Nat.mod_eq_of_lt w.isLt, BitVec.ofNat_toNat, BitVec.setWidth_eq]
    rw [hp]
    obtain ⟨hone, hpair, hapair⟩ := s.form_readyAt0_placed w
    exact ⟨rfl, by rw [State.ctx_readyAt0], s.mayIssue_readyAt0 _, s.runs_readyAt0 _, s.fetchBad_readyAt0 _, hone, hpair, hapair,
      by decide, by decide⟩

end Machine
end Sys2Proof
end

section
/-! The identity register (R21): what it reads as, the words that name it as their destination, and what a fault leaves of the scalar registers. -/

namespace Sys2Proof

/-! ## Fields of a word laid out -/

section Fields
variable (l s k : BitVec 1) (op d a b : BitVec 6) (f : BitVec 5) (i : BitVec 11) (j : BitVec 17) (z : BitVec 2) (o : BitVec 9)

@[simp] theorem wL_fRRR : wL (fRRR l s k op d a b f) = l := by
  ext n hn
  simp (disch := omega) only [wL, fRRR, BitVec.getElem_extractLsb', BitVec.getLsbD_append, if_neg]
  rw [← BitVec.getLsbD_eq_getElem]
  congr 1; omega
@[simp] theorem wK_fRRR : wK (fRRR l s k op d a b f) = k := by
  ext n hn
  simp (disch := omega) only [wK, fRRR, BitVec.getElem_extractLsb', BitVec.getLsbD_append, if_neg, if_pos]
  rw [← BitVec.getLsbD_eq_getElem]
  congr 1; omega
@[simp] theorem wOp_fRRR : wOp (fRRR l s k op d a b f) = op := by
  ext n hn
  simp (disch := omega) only [wOp, fRRR, BitVec.getElem_extractLsb', BitVec.getLsbD_append, if_neg, if_pos]
  rw [← BitVec.getLsbD_eq_getElem]
  congr 1; omega
@[simp] theorem wD_fRRR : wD (fRRR l s k op d a b f) = d := by
  ext n hn
  simp (disch := omega) only [wD, fRRR, BitVec.getElem_extractLsb', BitVec.getLsbD_append, if_neg, if_pos]
  rw [← BitVec.getLsbD_eq_getElem]
  congr 1; omega
@[simp] theorem wA_fRRR : wA (fRRR l s k op d a b f) = a := by
  ext n hn
  simp (disch := omega) only [wA, fRRR, BitVec.getElem_extractLsb', BitVec.getLsbD_append, if_neg, if_pos]
  rw [← BitVec.getLsbD_eq_getElem]
  congr 1; omega
@[simp] theorem wF_fRRR : wF (fRRR l s k op d a b f) = f := by
  ext n hn
  simp (disch := omega) only [wF, fRRR, BitVec.getElem_extractLsb', BitVec.getLsbD_append, if_pos]
  rw [← BitVec.getLsbD_eq_getElem]
  congr 1; omega

@[simp] theorem wL_fRRI : wL (fRRI l s op d a i) = l := by
  ext n hn
  simp (disch := omega) only [wL, fRRI, BitVec.getElem_extractLsb', BitVec.getLsbD_append, if_neg]
  rw [← BitVec.getLsbD_eq_getElem]
  congr 1; omega
@[simp] theorem wK_fRRI : wK (fRRI l s op d a i) = 0 := by
  ext n hn
  simp (disch := omega) only [wK, fRRI, BitVec.getElem_extractLsb', BitVec.getLsbD_append, if_neg, if_pos]
  rw [← BitVec.getLsbD_eq_getElem]
  congr 1; omega
@[simp] theorem wOp_fRRI : wOp (fRRI l s op d a i) = op := by
  ext n hn
  simp (disch := omega) only [wOp, fRRI, BitVec.getElem_extractLsb', BitVec.getLsbD_append, if_neg, if_pos]
  rw [← BitVec.getLsbD_eq_getElem]
  congr 1; omega
@[simp] theorem wD_fRRI : wD (fRRI l s op d a i) = d := by
  ext n hn
  simp (disch := omega) only [wD, fRRI, BitVec.getElem_extractLsb', BitVec.getLsbD_append, if_neg, if_pos]
  rw [← BitVec.getLsbD_eq_getElem]
  congr 1; omega

@[simp] theorem wL_fRI : wL (fRI l s op d j) = l := by
  ext n hn
  simp (disch := omega) only [wL, fRI, BitVec.getElem_extractLsb', BitVec.getLsbD_append, if_neg]
  rw [← BitVec.getLsbD_eq_getElem]
  congr 1; omega
@[simp] theorem wK_fRI : wK (fRI l s op d j) = 0 := by
  ext n hn
  simp (disch := omega) only [wK, fRI, BitVec.getElem_extractLsb', BitVec.getLsbD_append, if_neg, if_pos]
  rw [← BitVec.getLsbD_eq_getElem]
  congr 1; omega
@[simp] theorem wOp_fRI : wOp (fRI l s op d j) = op := by
  ext n hn
  simp (disch := omega) only [wOp, fRI, BitVec.getElem_extractLsb', BitVec.getLsbD_append, if_neg, if_pos]
  rw [← BitVec.getLsbD_eq_getElem]
  congr 1; omega
@[simp] theorem wD_fRI : wD (fRI l s op d j) = d := by
  ext n hn
  simp (disch := omega) only [wD, fRI, BitVec.getElem_extractLsb', BitVec.getLsbD_append, if_neg, if_pos]
  rw [← BitVec.getLsbD_eq_getElem]
  congr 1; omega

/-- A memory word is one of two registers and 11 bits, the size above the offset. -/
theorem fM_eq_fRRI : fM l s op d a z o = fRRI l s op d a (z ++ o) := by
  exact BitVec.append_assoc
@[simp] theorem wSz_fRRI_append : wSz (fRRI l s op d a (z ++ o)) = z := by
  rw [← fM_eq_fRRI]
  ext n hn
  simp (disch := omega) only [wSz, fM, BitVec.getElem_extractLsb', BitVec.getLsbD_append, if_neg, if_pos]
  rw [← BitVec.getLsbD_eq_getElem]
  congr 1; omega

end Fields

/-! ## Words that name s63 as their destination -/

/-- Such a word stands alone, and its register check fails, behind its op and fn (R61). -/
theorem wL_and_decodeWord_of_namesS63 {i : Instr} {m : BitVec 1} {w : Word32} (h : namesS63 i = true) (hw : encodeWith 1 m i = some w) :
    wL w = 1 ∧ decodeWord w = .error .reg := by
  cases i with
  | add d _ _ | sub d _ _ | and d _ _ | or d _ _ | xor d _ _ | andn d _ _ | shl d _ _ | shr d _ _ | sar d _ _ | rol d _ _
  | min d _ _ | max d _ _ | minu d _ _ | maxu d _ _ | slt d _ _ | sltu d _ _ | seq d _ _ | mul d _ _ | mulh d _ _ | mulhu d _ _
  | div d _ _ | divu d _ _ | rem d _ _ | remu d _ _ | sel d _ _ | start d _ _ | atomAdd d _ _ | atomMax d _ _ | atomMin d _ _
  | atomMaxu d _ _ | atomMinu d _ _ | atomSwap d _ _ | atomCas d _ _ | atomOr d _ _ | atomAnd d _ _ | atomXor d _ _ | atomFmax32 d _ _
  | chq d _ _ | pget d _ _ | phase d _ _ | cbcast d _ _ | credAdd d _ _ | credMin d _ _ | credMax d _ _ | credOr d _ _ | credAnd d _ _
  | clz d _ | popc d _ | cread d _ | cflt d _ | jqnext d _ | psum d _ | nexti d _ | gmem d _ | pmrd d _ | mstat d | rdraw d
  | addi d _ _ | andi d _ _ | ori d _ _ | xori d _ _ | slti d _ _ | jalr d _ _
  | shli d _ _ | shri d _ _ | sari d _ _ | li d _ | lih d _ | ld d _ _ _ | ldv d _ _
  | qwait d _ _ | tget d _ | nextev d _ | spos d _ | vext d _ _ =>
    obtain rfl : d = 63 := by simpa [namesS63] using h
    obtain rfl := Option.some.inj hw
    simp [decodeWord, decodeC, need, fM_eq_fRRI]
  | csrr d n => 
    simp only [namesS63, Bool.and_eq_true, beq_iff_eq] at h
    obtain ⟨rfl, hn⟩ := h
    obtain rfl := Option.some.inj hw
    simp [decodeWord, decodeC, need, hn]
  | _ => exact absurd h Bool.false_ne_true

namespace Machine

/-! ## What the register reads as -/

/-- The fields of the identity lie side by side, so that their union is their sum. -/
theorem State.identity_eq {s : State} {c x : Nat} (hr : s.rel c < 4096) (hx : x < 16) :
    s.identity c x = BitVec.ofNat 64 (s.package.toNat * 2 ^ 16 + s.rel c * 2 ^ 4 + x) := by
  have hp : s.package.toNat < 2 ^ 16 := s.package.isLt
  have h1 : s.package.toNat <<< 16 ||| s.rel c <<< 4 = s.package.toNat <<< 16 + s.rel c <<< 4 :=
    (Nat.shiftLeft_add_eq_or_of_lt (by rw [Nat.shiftLeft_eq]; omega) _).symm
  have h2 : (s.package.toNat * 2 ^ 12 + s.rel c) <<< 4 ||| x = (s.package.toNat * 2 ^ 12 + s.rel c) <<< 4 + x :=
    (Nat.shiftLeft_add_eq_or_of_lt hx _).symm
  have h3 : s.package.toNat <<< 16 + s.rel c <<< 4 = (s.package.toNat * 2 ^ 12 + s.rel c) <<< 4 := by
    simp only [Nat.shiftLeft_eq]; omega
  have h4 : (s.package.toNat * 2 ^ 12 + s.rel c) <<< 4 + x = s.package.toNat * 2 ^ 16 + s.rel c * 2 ^ 4 + x := by
    rw [Nat.shiftLeft_eq]; omega
  have at_eq (v lo : Nat) : at_ v lo = BitVec.ofNat 64 (v <<< lo) := by
    apply BitVec.eq_of_toNat_eq
    simp only [at_, BitVec.toNat_shiftLeft, BitVec.toNat_ofNat, Nat.shiftLeft_eq, Nat.mod_mul_mod]
  rw [State.identity, at_eq, at_eq, at_eq, ← BitVec.ofNat_or, ← BitVec.ofNat_or, h1, h3, Nat.shiftLeft_zero, h2, h4]

/-! ## What a fault leaves -/

theorem State.ctxs_updCore {s : State} {c : Nat} {f : Core → Core} (hf : (f (s.core c)).ctxs = (s.core c).ctxs) (d : Nat) :
    ((s.updCore c f).core d).ctxs = (s.core d).ctxs := by
  by_cases h : c = d
  · subst h; rw [State.core_updCore_same, hf]
  · rw [State.core_updCore_ne _ _ h]
theorem Core.ctxs_blur (k : Core) (a f n : Nat) : (k.blur a f n).ctxs = k.ctxs := by
  induction n generalizing k a f with
  | zero => rfl
  | succ n ih => exact ih ..
theorem Core.ctxs_put (k : Core) (a : Nat) (bs : List Byte) : (k.put a bs).ctxs = k.ctxs := by
  induction bs generalizing k a with
  | nil => rfl
  | cons b r ih => exact ih ..
theorem Core.ctxs_land (k : Core) (h : Nat) (slot : Slot) (ws : List Word) (f : Nat) : (k.land h slot ws f).ctxs = k.ctxs := by
  dsimp only [Core.land]
  split
  · rfl
  · exact (Core.ctxs_blur ..).trans (Core.ctxs_put ..)
theorem State.ctxs_land (s : State) (c h d : Nat) (slot : Slot) (ws : List Word) : ((s.land c h slot ws).core d).ctxs = (s.core d).ctxs :=
  State.ctxs_updCore (s := s) (f := fun k => k.land h { slot with landed := s.now } ws s.free) (Core.ctxs_land ..) d
theorem State.ctxs_count (s : State) (p e n d : Nat) : ((s.count p e n).core d).ctxs = (s.core d).ctxs := by
  dsimp only [State.count]
  split <;> rfl
theorem State.ctxs_placing (s : State) (c d : Nat) (chan : Option Nat) (reserved : Bool) :
    ((s.placing c chan reserved).core d).ctxs = (s.core d).ctxs := by
  dsimp only [State.placing]
  split
  · split
    · exact (State.ctxs_updCore (by rfl) d).trans (State.ctxs_count ..)
    · exact State.ctxs_count ..
  · exact State.ctxs_count ..
/-- A record that finds its place changes no context. -/
theorem State.ctxs_place (s : State) (c d : Nat) (chan : Option Nat) (reserved : Bool) (rec : List Word) :
    ((s.place c chan reserved rec).1.core d).ctxs = (s.core d).ctxs := by
  rw [State.place_eq]
  obtain h | ⟨j, h⟩ := (s.placing c chan reserved).placeRec_cases c chan rec
  · rw [h]; exact State.ctxs_placing ..
  · rw [h]; exact (State.ctxs_land ..).trans (State.ctxs_placing ..)

/-- Every context has the scalar registers that it had, and reads the identity that it read. -/
structure State.SameRegs (s t : State) : Prop where
  regs : ∀ c x, (t.ctx c x).s = (s.ctx c x).s
  domains : t.domains = s.domains
  package : t.package = s.package

namespace State.SameRegs
variable {s t u : State} {c x : Nat}

theorem refl (s : State) : s.SameRegs s := ⟨fun _ _ => rfl, rfl, rfl⟩
theorem trans (h : s.SameRegs t) (k : t.SameRegs u) : s.SameRegs u :=
  ⟨fun c x => (k.regs c x).trans (h.regs c x), k.domains.trans h.domains, k.package.trans h.package⟩
theorem sreg (h : s.SameRegs t) (c x : Nat) (n : BitVec 6) : t.sreg c x n = s.sreg c x n := by
  have hb (p : Nat) : t.baseOf p = s.baseOf p := by simp only [State.baseOf, h.domains]
  simp only [State.sreg, h.regs, State.identity, State.rel, State.domOf, hb, h.package]
theorem of_ctxs (h : ∀ d, (t.core d).ctxs = (s.core d).ctxs) (hd : t.domains = s.domains) (hp : t.package = s.package) : s.SameRegs t :=
  ⟨fun c x => by simp only [State.ctx, Core.ctx, h], hd, hp⟩
theorem updCore {f : Core → Core} (h : s.SameRegs t) (hf : ∀ k x, ((f k).ctx x).s = (k.ctx x).s) : s.SameRegs (t.updCore c f) := by
  refine h.trans ⟨fun d y => ?_, rfl, rfl⟩
  by_cases hd : c = d
  · subst hd; rw [State.ctx, State.core_updCore_same]; exact hf ..
  · rw [State.ctx, State.core_updCore_ne _ _ hd]; rfl
theorem updCtx {f : Ctx → Ctx} (h : s.SameRegs t) (hf : ∀ k, (f k).s = k.s) : s.SameRegs (t.updCtx c x f) := by
  refine h.trans ⟨fun d y => ?_, rfl, rfl⟩
  by_cases hd : c = d
  · subst hd
    rw [State.ctx_updCtx]
    split
    · next hx => rw [hf, hx]
    · rfl
  · rw [State.ctx_updCtx_core t x y f hd]
theorem ite {p : Prop} [Decidable p] (ht : s.SameRegs t) (hu : s.SameRegs u) : s.SameRegs (if p then t else u) := by split <;> assumption
theorem foldl {α : Type} {f : State → α → State} (hf : ∀ (u : State) a, u.SameRegs (f u a)) (l : List α) (h : s.SameRegs t) :
    s.SameRegs (l.foldl f t) := by
  induction l generalizing t with
  | nil => exact h
  | cons a r ih => exact ih (h.trans (hf t a))
theorem dropResv (h : s.SameRegs t) : s.SameRegs (t.dropResv c x) := by
  dsimp only [State.dropResv]
  split
  · next j _ => exact (h.updCore (f := fun k => k.updChan j fun ch => { ch with reserved := ch.reserved - 1 }) fun _ _ => rfl).updCtx fun _ => rfl
  · exact h
theorem dropLease (h : s.SameRegs t) : s.SameRegs (t.dropLease c) := by
  dsimp only [State.dropLease]
  split
  · exact h.trans ⟨fun _ _ => rfl, rfl, rfl⟩
  · exact h
theorem haltAll (h : s.SameRegs t) : s.SameRegs (t.updCore c Core.haltAll) := by
  refine h.updCore fun k x => ?_
  suffices hl : ∀ (l : List Nat) (j : Core),
      ((l.foldl (fun k x => k.setCtx x { (k.ctx x).stop .halted with ending := false }) j).ctx x).s = (j.ctx x).s from hl _ k
  intro l
  induction l with
  | nil => exact fun _ => rfl
  | cons y r ih =>
    intro j
    rw [List.foldl_cons, ih, Core.ctx_setCtx]
    split
    · next hy => rw [← hy]; rfl
    · rfl
theorem fateOf {host : Bool} (h : s.SameRegs t) : s.SameRegs (t.fateOf c x host) := by
  have hr : s.SameRegs (if host then (List.range 11).foldl (fun s y => s.dropResv c y) t else t.dropResv c x) :=
    .ite (h.foldl (fun u _ => (refl u).dropResv) _) h.dropResv
  refine .ite hr.dropLease.haltAll (.ite (hr.dropLease.updCtx fun _ => rfl) (hr.updCtx fun k => ?_))
  split <;> rfl
theorem count (p e n : Nat) : s.SameRegs (s.count p e n) := .ite (refl s) (of_ctxs (fun _ => rfl) rfl rfl)
theorem placing (chan : Option Nat) (reserved : Bool) : s.SameRegs (s.placing c chan reserved) := by
  dsimp only [State.placing]
  split
  · next j => exact .ite ((count ..).updCore (f := fun k => k.updChan j fun ch => { ch with reserved := ch.reserved - 1 }) fun _ _ => rfl) (count ..)
  · exact count ..
theorem place (chan : Option Nat) (reserved : Bool) (rec : List Word) : s.SameRegs (s.place c chan reserved rec).1 := by
  rw [State.place_eq]
  obtain h | ⟨j, h⟩ := (s.placing c chan reserved).placeRec_cases c chan rec
  · rw [h]; exact (placing ..).trans (of_ctxs (fun _ => rfl) rfl rfl)
  · rw [h]; exact (placing ..).trans (of_ctxs (fun d => State.ctxs_land ..) rfl rfl)
theorem raise (f : Flt) : s.SameRegs (s.raise f) := (place none false _).fateOf.trans ⟨fun _ _ => rfl, rfl, rfl⟩

end State.SameRegs

/-- An issue slot that finds a word that does not decode faults ILL with the check that fails. -/
theorem State.issueCtx_of_error {s : State} {c x : Nat} {w : Word32} {e : IllCheck} (hb : s.fetchBad c (s.ctx c x).pc = false)
    (hf : (s.core c).fetch (s.ctx c x).pc = w) (hL : wL w = 1) (hw : decodeWord w = .error e) :
    s.issueCtx c x = (s.begin c x).raise { code := .ill, a := nat64 e.code, d0 := w.setWidth 64 } := by
  have hb' : (s.begin c x).fetchBad c (s.begin c x).cur.pc = false := hb
  have hform : ((s.begin c x).core c).form (s.begin c x).cur.pc = .one w := by
    have hf' : ((s.begin c x).core c).fetch (s.begin c x).cur.pc = w := hf
    simp only [Core.form, hf', hL, if_true]
  simp only [State.issueCtx, hb', hform, hw, Bool.false_eq_true, if_false]
  rfl

/-- Settles O54, by the fields of the words that name s63 and the registers that a fault leaves. -/
theorem theIdentityRegisterIsNoDestination : Obligations.TheIdentityRegisterIsNoDestination := by
  unfold Obligations.TheIdentityRegisterIsNoDestination
  intro s c x i m w B
  refine ⟨fun hr hx => State.identity_eq hr hx, fun h hw => ?_⟩
  obtain ⟨hL, hdec⟩ := wL_and_decodeWord_of_namesS63 h hw
  refine ⟨hdec, fun hb hf => ?_⟩
  have hraise := State.issueCtx_of_error hb hf hL hdec
  refine ⟨hraise, fun e y n => ?_⟩
  rw [hraise]
  exact (State.SameRegs.raise _).sreg e y n

end Machine
end Sys2Proof
end

section
/-! `SEND` (R193): what a release covers of a state whose context has only been marked, the payload words, the reserved slot, and the statement. -/

namespace Sys2Proof
namespace Machine

/-! ## What a release covers -/

/-- A test of the values of a file answers as before after a set that it does not see. -/
theorem AMap.any_set {α : Type} (d : α) (P : α → Bool) (m : AMap α) (k : Nat) (v : α) (hd : P d = false) (hv : P v = P (AMap.get d m k)) :
    (AMap.set m k v).any (fun e => P e.2) = m.any fun e => P e.2 := by
  induction m with
  | nil => simpa [AMap.set, AMap.get, hd] using hv
  | cons e r ih =>
    obtain ⟨j, w⟩ := e
    simp only [AMap.set, AMap.get] at hv ⊢
    by_cases hk : k = j
    · subst hk
      simp only [if_true] at hv ⊢
      simp only [List.any_cons, hv]
    · rw [if_neg (Ne.symm hk)] at hv
      rw [if_neg hk]
      split
      · next h =>
        have hn : AMap.get d r k = d := by rw [AMap.get_eq_find, Option.isNone_iff_eq_none.1 h.2]; rfl
        rw [hn, hd] at hv
        simp only [List.any_cons, hv, Bool.false_or]
      · simp only [List.any_cons, ih hv]

/-- The state holds the accesses that another holds, of every core, and the packets and engine threads that wait. -/
structure State.SameAccesses (s t : State) : Prop where
  domains : t.domains = s.domains
  net : t.net = s.net
  parts : t.parts = s.parts
  outs : ∀ c x, (t.ctx c x).outs = (s.ctx c x).outs
  any : ∀ c (P : List Outst → Bool), P [] = false → (t.core c).ctxs.any (fun k => P k.2.outs) = (s.core c).ctxs.any fun k => P k.2.outs
  lanes : ∀ c, (t.core c).lanes = (s.core c).lanes
  tileQ : ∀ c, (t.core c).tileQ = (s.core c).tileQ

namespace State.SameAccesses
variable {s t u : State} {c : Nat}

theorem trans (h : s.SameAccesses t) (k : t.SameAccesses u) : s.SameAccesses u where
  domains := k.domains.trans h.domains
  net := k.net.trans h.net
  parts := k.parts.trans h.parts
  outs c x := (k.outs c x).trans (h.outs c x)
  any c P hP := (k.any c P hP).trans (h.any c P hP)
  lanes c := (k.lanes c).trans (h.lanes c)
  tileQ c := (k.tileQ c).trans (h.tileQ c)
theorem refl (s : State) : s.SameAccesses s := ⟨rfl, rfl, rfl, fun _ _ => rfl, fun _ _ _ => rfl, fun _ => rfl, fun _ => rfl⟩
/-- A change of a core outside its contexts, lanes and Turntable queue. -/
theorem updCore {f : Core → Core} (hx : ∀ k, (f k).ctxs = k.ctxs) (hl : ∀ k, (f k).lanes = k.lanes) (ht : ∀ k, (f k).tileQ = k.tileQ) :
    s.SameAccesses (s.updCore c f) := by
  have hc (d : Nat) : ((s.updCore c f).core d).ctxs = (s.core d).ctxs := State.ctxs_updCore (hx _) d
  refine ⟨rfl, rfl, rfl, fun d x => by simp only [State.ctx, Core.ctx, hc], fun d P _ => by rw [hc], fun d => ?_, fun d => ?_⟩ <;>
    rw [State.core_updCore] <;> split
  · next h => rw [hl, h]
  · rfl
  · next h => rw [ht, h]
  · rfl
/-- A change of a context outside its accesses. -/
theorem updMe {f : Ctx → Ctx} (hf : ∀ k, (f k).outs = k.outs) : s.SameAccesses (s.updMe f) := by
  refine ⟨rfl, rfl, rfl, fun d x => ?_, fun d P hP => ?_, fun d => ?_, fun d => ?_⟩
  · by_cases hd : s.cur.core = d
    · subst hd
      rw [State.updMe, State.ctx_updCtx]
      split
      · next h => rw [hf, h]
      · rfl
    · rw [State.updMe, State.ctx_updCtx_core _ _ _ _ hd]
  · by_cases hd : s.cur.core = d
    · subst hd
      rw [State.updMe, State.core_updCtx_same]
      exact AMap.any_set {} (fun k : Ctx => P k.outs) _ _ _ hP (by rw [hf]; rfl)
    · rw [State.updMe, State.core_updCtx_ne _ _ _ hd]
  · by_cases hd : s.cur.core = d
    · subst hd; rw [State.updMe, State.core_updCtx_same]; rfl
    · rw [State.updMe, State.core_updCtx_ne _ _ _ hd]
  · by_cases hd : s.cur.core = d
    · subst hd; rw [State.updMe, State.core_updCtx_same]; rfl
    · rw [State.updMe, State.core_updCtx_ne _ _ _ hd]

theorem pendingIds (h : s.SameAccesses t) (c : Nat) (ids : List Nat) : t.pendingIds c ids = s.pendingIds c ids := by
  have ha (i : Nat) := h.any c (fun l => l.any fun o => o.id == i && o.open_) rfl
  simp only [State.pendingIds, h.lanes, h.net, ha]
theorem covered (h : s.SameAccesses t) (c x : Nat) (sc : Scope) : t.covered c x sc = s.covered c x sc := by
  have hdom : t.domOf c = s.domOf c := by simp only [State.domOf, State.baseOf, h.domains]
  have hdet : t.det c = s.det c := by simp only [State.det, State.launchOf, hdom, State.domain, h.domains]
  have hslot : t.slot c = s.slot c := by simp only [State.slot, State.tt, State.part, h.parts]
  simp only [State.covered, State.ownOpen, State.unsent, hdet, h.outs, h.lanes, h.net, h.pendingIds, hslot, h.tileQ]

end State.SameAccesses

/-! ## The packet -/

section Packets
variable (s : State)

@[simp] theorem State.count_net (p e n : Nat) : (s.count p e n).net = s.net := by unfold State.count; split <;> rfl
/-- `sendMe` transmits one packet of the issuing context, behind what its release covers, and changes nothing of a core or of HBM. -/
theorem State.net_sendMe (d : Nat) (b : Body) : ∃ p : Packet, (s.sendMe d b).net = s.net ++ [p] ∧ p.src = s.cur.core ∧ p.srcCtx = s.cur.ctx ∧
    p.dst = d ∧ p.body = b ∧ p.scope = scopeTo s.cur.core d ∧ p.waits = s.covered s.cur.core s.cur.ctx p.scope := by
  refine ⟨_, State.count_net .., rfl, rfl, rfl, rfl, rfl, rfl⟩
@[simp] theorem State.sendMe_cores (d : Nat) (b : Body) : (s.sendMe d b).cores = s.cores := State.transmit_cores ..
@[simp] theorem State.sendMe_mem (d : Nat) (b : Body) : (s.sendMe d b).mem = s.mem := State.transmit_mem ..
@[simp] theorem State.sendMe_cur (d : Nat) (b : Body) : (s.sendMe d b).cur = s.cur := by
  unfold State.sendMe State.transmit State.count; split <;> rfl

end Packets

/-! ## The payload -/

theorem Core.length_bytes (k : Core) (a n : Nat) : (k.bytes a n).length = n := by
  induction n generalizing a with
  | zero => rfl
  | succ n ih => rw [Core.bytes, List.length_cons, ih]
theorem Core.bytes_drop_take (k : Core) (a i m n : Nat) (h : i + m ≤ n) : ((k.bytes a n).drop i).take m = k.bytes (a + i) m := by
  induction i generalizing a n with
  | zero =>
    rw [List.drop_zero, Nat.add_zero]
    induction m generalizing a n with
    | zero => rfl
    | succ m ih =>
      obtain ⟨n, rfl⟩ : ∃ j, n = j + 1 := ⟨n - 1, by omega⟩
      rw [Core.bytes, List.take_succ_cons, Core.bytes, ih _ _ (by omega)]
  | succ i ih =>
    obtain ⟨n, rfl⟩ : ∃ j, n = j + 1 := ⟨n - 1, by omega⟩
    rw [Core.bytes, List.drop_succ_cons, ih _ _ (by omega), Nat.add_assoc, Nat.add_comm 1 i]
/-- The bytes of a pool as words. -/
theorem Core.wordsOf_bytes (k : Core) (a n i : Nat) (h : i < n) : (wordsOf n (k.bytes a (8 * n))).getD i 0 = k.word (a + 8 * i) := by
  rw [wordsOf, List.getD_eq_getElem _ _ (by simpa using h), List.getElem_map, List.getElem_range,
    Core.bytes_drop_take k a (8 * i) 8 (8 * n) (by omega)]
  rfl

/-- A payload that may be read: none, or words of the scratchpad that nothing holds. -/
def State.Readable (s : State) (x : Word) (n : Nat) : Prop :=
  n = 0 ∨ (x.toNat % 8 = 0 ∧ inScratch s.myCore x (8 * n) = true ∧ s.ownAtoms (offOf x) (8 * n) = [] ∧ s.myCore.marked (offOf x) (8 * n) = none ∧
    s.badIn s.cur.core (offOf x) (8 * n) = none)
theorem State.payload_of_readable {s : State} {x : Word} {n : Nat} (h : s.Readable x n) (k : List Word → State) :
    ∃ ws, s.payload x n k = k ws ∧ ws.length = n ∧ ∀ i, i < n → ws.getD i 0 = s.myCore.word (offOf x + 8 * i) := by
  by_cases hn : n = 0
  · subst hn
    exact ⟨[], by simp [State.payload], rfl, fun i hi => absurd hi (Nat.not_lt_zero i)⟩
  · obtain ⟨halign, hin, hatoms, hmarked, hbad⟩ := h.resolve_left hn
    refine ⟨wordsOf n (s.myCore.bytes (offOf x) (8 * n)), ?_, by simp [wordsOf], fun i hi => Core.wordsOf_bytes _ _ _ _ hi⟩
    have hread : s.readLocal s.cur.core (offOf x) (8 * n) = .ok (s.myCore.bytes (offOf x) (8 * n)) := by
      simp only [State.readLocal, hbad]; rfl
    rw [State.payload, if_neg hn, if_neg (by simp [halign]), if_neg (by simp [hin]), State.loadLocal, State.inOrder_clear hatoms hmarked, hread]
    rfl

/-! ## The reserved slot -/

/-- The state with the slot that the bundle holds in ring h, reserved now where it has none yet. -/
def State.withSlot (s : State) (h : Nat) : State :=
  if s.me.resv = some h then s else s.updCore s.cur.core fun k => k.updChan h fun ch => { ch with reserved := ch.reserved + 1 }

section Slot
variable {s : State} {h : Nat}

theorem State.request_eq_of_room (k : State → State) (hs : s.me.resv = some h ∨ (s.myCore.chan h).used < (s.myCore.chan h).depth) :
    s.request h k = if s.windowFull then ((s.withSlot h).updMe fun c => { c with resv := some h }).stallMe .window
      else k (((s.withSlot h).updMe fun c => { c with resv := none }).awaits s.cur.core) := by
  rw [State.request, State.withSlot]
  by_cases hr : s.me.resv = some h
  · rw [if_pos hr, if_pos hr]; rfl
  · have hu := hs.resolve_left hr
    have hres : s.reserve s.cur.core h = .ok (s.updCore s.cur.core fun k => k.updChan h fun ch => { ch with reserved := ch.reserved + 1 }) :=
      if_pos hu
    rw [if_neg hr, if_neg hr, hres]; rfl
theorem State.request_eq_of_full (k : State → State) (hr : s.me.resv ≠ some h) (hs : (s.myCore.chan h).depth ≤ (s.myCore.chan h).used) :
    s.request h k = s.raise { code := .wait, obj := nat64 h, a := nat64 (s.myCore.chan h).used, b := nat64 (s.myCore.chan h).depth } := by
  have hres : s.reserve s.cur.core h = .error (flt .wait (nat64 h) (nat64 (s.myCore.chan h).used) (nat64 (s.myCore.chan h).depth)) :=
    if_neg (Nat.not_lt.2 hs)
  rw [State.request, if_neg hr, hres]; rfl

/-- The ring has one slot more reserved, or none, and nothing else of its core has changed. -/
theorem State.core_withSlot (s : State) (h : Nat) : ∃ l : AMap Channel, (s.withSlot h).core s.cur.core = { s.myCore with channels := l } ∧
    AMap.get {} l h = { s.myCore.chan h with reserved := (s.myCore.chan h).reserved + if s.me.resv = some h then 0 else 1 } ∧
    ∀ g, g ≠ h → AMap.get {} l g = s.myCore.chan g := by
  rw [State.withSlot]
  by_cases hr : s.me.resv = some h
  · rw [if_pos hr, if_pos hr]
    exact ⟨s.myCore.channels, rfl, rfl, fun _ _ => rfl⟩
  · rw [if_neg hr, if_neg hr, State.core_updCore_same]
    exact ⟨_, rfl, AMap.get_set_same .., fun g hg => AMap.get_set_ne _ _ _ hg.symm⟩
theorem State.core_withSlot_ne (s : State) (h : Nat) {d : Nat} (hd : d ≠ s.cur.core) : (s.withSlot h).core d = s.core d := by
  rw [State.withSlot]
  split
  · rfl
  · exact State.core_updCore_ne _ _ hd.symm
theorem State.withSlot_eq (s : State) (h : Nat) : s.withSlot h = { s with cores := (s.withSlot h).cores } := by
  rw [State.withSlot]
  split <;> rfl
theorem State.sameAccesses_withSlot (s : State) (h : Nat) : s.SameAccesses (s.withSlot h) := by
  rw [State.withSlot]
  split
  · exact .refl s
  · exact .updCore (fun _ => rfl) (fun _ => rfl) fun _ => rfl

/-- The state in which a request of ring h is transmitted: its slot reserved, and one more request awaited. -/
def State.requesting (s : State) (h : Nat) : State := ((s.withSlot h).updMe fun c => { c with resv := none }).awaits s.cur.core

theorem State.cur_withSlot (s : State) (h : Nat) : (s.withSlot h).cur = s.cur := by rw [State.withSlot_eq]
theorem State.me_withSlot (s : State) (h : Nat) : (s.withSlot h).me = s.me := by
  obtain ⟨l, hl, _⟩ := s.core_withSlot h
  rw [State.me, State.cur_withSlot, State.ctx, hl]; rfl
theorem State.sameAccesses_requesting (s : State) (h : Nat) : s.SameAccesses (s.requesting h) :=
  (s.sameAccesses_withSlot h).trans (State.SameAccesses.updMe (f := fun c => { c with resv := none }) (fun _ => rfl) |>.trans
    (State.SameAccesses.updCore (f := fun k => { k with awaiting := k.awaiting + 1 }) (fun _ => rfl) (fun _ => rfl) fun _ => rfl))
theorem State.requesting_eq (s : State) (h : Nat) : s.requesting h = { s with cores := (s.requesting h).cores } := by
  rw [State.requesting, State.withSlot_eq]; rfl
theorem State.core_requesting_ne (s : State) (h : Nat) {d : Nat} (hd : d ≠ s.cur.core) : (s.requesting h).core d = s.core d := by
  have hd' : (s.withSlot h).cur.core ≠ d := by rw [State.cur_withSlot]; exact hd.symm
  rw [State.requesting, State.awaits, State.core_updCore_ne _ _ hd.symm, State.updMe, State.core_updCtx_ne _ _ _ hd', State.core_withSlot_ne s h hd]
theorem State.core_requesting (s : State) (h : Nat) : ∃ l : AMap Channel,
    (s.requesting h).core s.cur.core =
      { s.myCore with channels := l, ctxs := AMap.set s.myCore.ctxs s.cur.ctx { s.me with resv := none }, awaiting := s.myCore.awaiting + 1 } ∧
    AMap.get {} l h = { s.myCore.chan h with reserved := (s.myCore.chan h).reserved + if s.me.resv = some h then 0 else 1 } ∧
    ∀ g, g ≠ h → AMap.get {} l g = s.myCore.chan g := by
  obtain ⟨l, hl, hsame, hne⟩ := s.core_withSlot h
  refine ⟨l, ?_, hsame, hne⟩
  rw [State.requesting, State.awaits, State.core_updCore_same, State.updMe, State.cur_withSlot, State.core_updCtx_same, hl]
  have hctx : (s.withSlot h).ctx s.cur.core s.cur.ctx = s.me := by rw [State.ctx, hl]; rfl
  rw [hctx]; rfl

end Slot

/-! ## `SEND` by the check that decides it -/

section Send
variable {s : State} {a b : BitVec 6}

theorem State.checkHeader_of_plain {c : Nat} {h : Word} (hd : s.inRange c (hDest h) = true) (hk : hKind h = 0 ∨ hKind h = 3) :
    s.checkHeader c h = .ok () := by
  simp only [State.checkHeader, hd]
  rw [if_neg (by simp), if_neg (by omega), if_neg (by omega), if_neg (by omega)]
theorem State.checkHeader_of_streamer {c : Nat} {h : Word} (hd : s.inRange c (hDest h) = true) (hlo : 0x20 ≤ hKind h) (hhi : hKind h ≤ 0x5F)
    (h64 : hDest h % 64 = 0) (hr : s.inRange c (hRcore h) = true) : s.checkHeader c h = .ok () := by
  simp only [State.checkHeader, hd, hr]
  rw [if_neg (by simp), if_neg (by omega), if_neg (by omega), if_neg (by simp)]
theorem State.checkHeader_of_port {c : Nat} {h : Word} (hd : s.inRange c (hDest h) = true) (hlo : 0x60 ≤ hKind h)
    (hc : hDest h = s.rel c) (hr : s.inRange c (hRcore h) = true) : s.checkHeader c h = .ok () := by
  simp only [State.checkHeader, hd, hr]
  rw [if_neg (by simp), if_neg (by omega), if_neg (by omega), if_neg (by simp)]
theorem State.checkHeader_of_other {c : Nat} {h : Word} (hd : s.inRange c (hDest h) = true)
    (hk : ¬(hKind h = 0 ∨ hKind h = 3 ∨ (0x20 ≤ hKind h ∧ hKind h ≤ 0x6F))) : s.checkHeader c h = .ok () := by
  simp only [State.checkHeader, hd]
  rw [if_neg (by simp), if_neg (by omega), if_neg (by omega), if_neg (by omega)]
theorem execSend_of_badHeader {f : Flt} (hh : s.checkHeader s.cur.core (s.rs a) = .error f) : exec (.send a b) s = .next (s.raise f) := by
  change execSend a b s = _
  simp only [execSend, hh, State.orRaise]
theorem execSend_of_badKind (hh : s.checkHeader s.cur.core (s.rs a) = .ok ()) (hk : sendKind s.cur.core (hKind (s.rs a)) = false) :
    exec (.send a b) s = .next (s.raise (perm 20 (nat64 (hKind (s.rs a))))) := by
  change execSend a b s = _
  simp only [execSend, hh, State.orRaise, hk, Bool.not_false, if_true]
theorem execSend_of_long (hh : s.checkHeader s.cur.core (s.rs a) = .ok ()) (hk : sendKind s.cur.core (hKind (s.rs a)) = true)
    (hn : 7 < hWords (s.rs a)) : exec (.send a b) s = .next (s.raise (perm 16 (nat64 (hWords (s.rs a))))) := by
  change execSend a b s = _
  simp only [execSend, hh, State.orRaise, hk, Bool.not_true, Bool.false_eq_true, if_false, if_pos hn]
theorem execSend_of_ok (hh : s.checkHeader s.cur.core (s.rs a) = .ok ()) (hk : sendKind s.cur.core (hKind (s.rs a)) = true)
    (hn : hWords (s.rs a) ≤ 7) (hp : s.Readable (s.rs b) (hWords (s.rs a))) :
    ∃ ws : List Word, ws.length = hWords (s.rs a) ∧ (∀ i, i < hWords (s.rs a) → ws.getD i 0 = s.myCore.word (offOf (s.rs b) + 8 * i)) ∧
      exec (.send a b) s = .next (
        if hKind (s.rs a) = 0 ∨ hKind (s.rs a) = 3 then
          if hRcore (s.rs a) ≠ s.rel s.cur.core then s.raise (perm 34 (nat64 (hRcore (s.rs a))))
          else s.request (hRchan (s.rs a)) fun t => t.sendMe (t.destOf (s.rs a)) (.words (s.rs a) ws)
        else s.sendMe (s.destOf (s.rs a)) (.request (s.rs a) ws)) := by
  obtain ⟨ws, hpay, hlen, hword⟩ := State.payload_of_readable hp fun ws =>
    if hKind (s.rs a) = 0 ∨ hKind (s.rs a) = 3 then
      if hRcore (s.rs a) ≠ s.rel s.cur.core then s.raise (perm 34 (nat64 (hRcore (s.rs a))))
      else s.request (hRchan (s.rs a)) fun t => t.sendMe (t.destOf (s.rs a)) (.words (s.rs a) ws)
    else s.sendMe (s.destOf (s.rs a)) (.request (s.rs a) ws)
  refine ⟨ws, hlen, hword, ?_⟩
  rw [← hpay]
  change execSend a b s = _
  simp only [execSend, hh, State.orRaise, hk, Bool.not_true, Bool.false_eq_true, if_false, if_neg (Nat.not_lt.2 hn)]

/-- A message that its ring and the window have room for leaves in a packet, with its slot reserved and one more request awaited. -/
theorem State.sendMe_requesting (s : State) (h : Nat) (d : Nat) (body : Body) :
    let t := (s.requesting h).sendMe d body; let c := s.cur.core
    (∃ p : Packet, t.net = s.net ++ [p] ∧ p.src = c ∧ p.srcCtx = s.cur.ctx ∧ p.dst = d ∧ p.body = body ∧ p.scope = scopeTo c d ∧
      p.waits = s.covered c s.cur.ctx p.scope) ∧ t.mem = s.mem ∧ (∀ e, e ≠ c → t.core e = s.core e) ∧
    t.core c = { s.myCore with channels := (t.core c).channels, ctxs := (t.core c).ctxs, awaiting := s.myCore.awaiting + 1 } ∧
    t.me = { s.me with resv := none } ∧ (∀ y, y ≠ s.cur.ctx → t.ctx c y = s.ctx c y) ∧
    (t.core c).chan h = { s.myCore.chan h with reserved := (s.myCore.chan h).reserved + if s.me.resv = some h then 0 else 1 } ∧
    ∀ g, g ≠ h → (t.core c).chan g = s.myCore.chan g := by
  intro t c
  have hcur : (s.requesting h).cur = s.cur := by rw [State.requesting_eq]
  have hcore (e : Nat) : t.core e = (s.requesting h).core e := by simp only [State.core, t, State.sendMe_cores]
  obtain ⟨l, hl, hsame, hne⟩ := s.core_requesting h
  have hc : t.core c = _ := (hcore c).trans hl
  obtain ⟨p, hnet, hsrc, hctx, hdst, hbody, hscope, hwaits⟩ := (s.requesting h).net_sendMe d body
  rw [hcur] at hsrc hctx hscope hwaits
  refine ⟨⟨p, ?_, hsrc, hctx, hdst, hbody, hscope, ?_⟩, ?_, fun e he => (hcore e).trans (State.core_requesting_ne s h he), ?_, ?_,
    fun y hy => ?_, ?_, fun g hg => ?_⟩
  · rw [hnet, (s.sameAccesses_requesting h).net]
  · rw [hwaits, (s.sameAccesses_requesting h).covered]
  · rw [State.sendMe_mem, State.requesting_eq]
  · rw [hc]
  · rw [State.me, State.sendMe_cur, hcur, State.ctx, hc]; exact AMap.get_set_same ..
  · rw [State.ctx, hc]; exact AMap.get_set_ne _ _ _ hy.symm
  · rw [hc]; exact hsame
  · rw [hc]; exact hne g hg
/-- A context that `stallMe` leaves. -/
def State.stalledCtx (s : State) (r : Stall) (k : Ctx) : Ctx :=
  { k with st := .stalled, stall := some r, oldest := if r = .lanes then s.myCore.oldestOf s.cur.ctx else k.oldest }
theorem State.me_stallMe (s : State) (r : Stall) : (s.stallMe r).me = s.stalledCtx r s.me := State.me_updMe s (s.stalledCtx r)
theorem State.chan_updMe (s : State) (f : Ctx → Ctx) (j : Nat) : ((s.updMe f).core s.cur.core).chan j = (s.core s.cur.core).chan j := by
  rw [State.updMe, State.core_updCtx_same]; rfl
theorem State.chan_stallMe (s : State) (r : Stall) (j : Nat) : ((s.stallMe r).core s.cur.core).chan j = (s.core s.cur.core).chan j :=
  s.chan_updMe (s.stalledCtx r) j
/-- A message that finds the window full leaves its context STALLED, with its slot reserved. -/
theorem State.stallMe_withSlot (s : State) (h : Nat) :
    let t := ((s.withSlot h).updMe fun c => { c with resv := some h }).stallMe .window
    t.me.st = .stalled ∧ t.me.stall = some .window ∧ t.me.resv = some h ∧ t.net = s.net ∧ t.mem = s.mem ∧
      (t.core s.cur.core).chan h = { s.myCore.chan h with reserved := (s.myCore.chan h).reserved + if s.me.resv = some h then 0 else 1 } := by
  intro t
  have hcur : (s.withSlot h).cur = s.cur := s.cur_withSlot h
  have hnet : (s.withSlot h).net = s.net := by rw [State.withSlot_eq]
  have hmem : (s.withSlot h).mem = s.mem := by rw [State.withSlot_eq]
  obtain ⟨l, hl, hsame, _⟩ := s.core_withSlot h
  have ho := ((s.withSlot h).updMe fun c => { c with resv := some h }).me_stallMe .window
  rw [State.me_updMe] at ho
  refine ⟨congrArg Ctx.st ho, congrArg Ctx.stall ho, congrArg Ctx.resv ho, hnet, hmem, ?_⟩
  have hstall := ((s.withSlot h).updMe fun c => { c with resv := some h }).chan_stallMe .window h
  have hme := (s.withSlot h).chan_updMe (fun c => { c with resv := some h }) h
  rw [State.updMe_cur] at hstall
  rw [hcur] at hstall hme
  exact hstall.trans (hme.trans (by rw [hl]; exact hsame))

end Send

/-! ## The statement -/

theorem State.destOf_requesting (s : State) (h : Nat) (w : Word) : (s.requesting h).destOf w = s.destOf w := by
  rw [State.requesting_eq]; rfl

/-- Settles O24, by the checks of R193 in their order: each that fails faults, and where none does the message takes its slot and leaves in one
packet. -/
theorem sendTransmitsItsMessage : Obligations.SendTransmitsItsMessage := by
  unfold Obligations.SendTransmitsItsMessage
  intro s a b h x c k n ch dst payload good words carries has new bad
  have plainKind (hk : k = 0 ∨ k = 3) : sendKind c k = true := by obtain hk | hk := hk <;> rw [hk] <;> rfl
  refine ⟨fun hk ⟨hd, hn, hp⟩ hrel => ⟨fun hroom hwin => ?_, fun hroom hwin => ?_, fun hnot hfull => ?_⟩, fun hlo hhi ⟨hd, hn, hp⟩ h64 hr => ?_,
    fun hlo hhi ⟨hd, hn, hp⟩ hc hrel hr => ?_, fun hd => ?_, fun hd hk => ?_, fun hd hk hn => ?_, fun hk ⟨hd, hn, hp⟩ hrel => ?_⟩
  · obtain ⟨ws, hlen, hword, hexec⟩ := execSend_of_ok (State.checkHeader_of_plain hd hk) (plainKind hk) hn hp
    obtain ⟨⟨p, hnet, hsrc, hctx, hdst, hbody, hscope, hwaits⟩, hmem, hrest⟩ := s.sendMe_requesting (hRchan h) dst (.words h ws)
    have hdest : s.destOf h = dst := if_pos (by omega)
    refine ⟨_, hexec.trans ?_, ⟨p, ws, ⟨hnet, hsrc, hctx, hscope.trans (by rw [hdst]), hwaits, hmem⟩, hdst, hbody, hlen, hword⟩, hrest⟩
    rw [if_pos hk, if_neg (not_not_intro hrel), State.request_eq_of_room _ hroom, if_neg (by simpa [State.windowFull] using hwin)]
    change Host.Outcome.next ((s.requesting (hRchan h)).sendMe ((s.requesting (hRchan h)).destOf h) (.words h ws)) = _
    rw [State.destOf_requesting, hdest]
  · obtain ⟨ws, hlen, hword, hexec⟩ := execSend_of_ok (State.checkHeader_of_plain hd hk) (plainKind hk) hn hp
    refine ⟨_, hexec.trans ?_, s.stallMe_withSlot (hRchan h)⟩
    rw [if_pos hk, if_neg (not_not_intro hrel), State.request_eq_of_room _ hroom, if_pos (by simpa [State.windowFull] using hwin)]
  · obtain ⟨ws, hlen, hword, hexec⟩ := execSend_of_ok (State.checkHeader_of_plain hd hk) (plainKind hk) hn hp
    refine ⟨_, hexec.trans ?_, rfl⟩
    rw [if_pos hk, if_neg (not_not_intro hrel), State.request_eq_of_full _ hnot hfull]; rfl
  · have hk : ¬(k = 0 ∨ k = 3) := by omega
    obtain ⟨ws, hlen, hword, hexec⟩ := execSend_of_ok (State.checkHeader_of_streamer hd hlo hhi h64 hr)
      (show sendKind c k = true by simp [sendKind]; omega) hn hp
    obtain ⟨p, hnet, hsrc, hctx, hdst, hbody, hscope, hwaits⟩ := s.net_sendMe (s.destOf h) (.request h ws)
    have hdest : s.destOf h = agent (dst / 64) (if k < 0x40 then 0 else 1) := by
      simp only [State.destOf]
      rw [if_neg (by omega)]
      split
      · rfl
      · rw [if_pos (by omega)]
    refine ⟨_, hexec.trans (by rw [if_neg hk]), State.sendMe_cores .., p, ws,
      ⟨hnet, hsrc, hctx, hscope.trans (by rw [hdst]), hwaits, State.sendMe_mem ..⟩, hdst.trans hdest, hbody, hlen, hword⟩
  · have hk : ¬(k = 0 ∨ k = 3) := by omega
    obtain ⟨ws, hlen, hword, hexec⟩ := execSend_of_ok (State.checkHeader_of_port hd hlo hrel hr)
      (show sendKind c k = true by simp [sendKind]; omega) hn hp
    obtain ⟨p, hnet, hsrc, hctx, hdst, hbody, hscope, hwaits⟩ := s.net_sendMe (s.destOf h) (.request h ws)
    have hdest : s.destOf h = agent (c / 64) (c % 64 - 46) := by
      simp only [State.destOf]
      rw [if_neg (by omega), if_neg (by omega), if_neg (by omega)]
      congr 1; omega
    refine ⟨_, hexec.trans (by rw [if_neg hk]), State.sendMe_cores .., p, ws,
      ⟨hnet, hsrc, hctx, hscope.trans (by rw [hdst]), hwaits, State.sendMe_mem ..⟩, hdst.trans hdest, hbody, hlen, hword⟩
  · exact ⟨_, execSend_of_badHeader (if_pos (by rw [hd]; rfl)), rfl⟩
  · have hs : sendKind c k = false := by simp [sendKind]; omega
    exact ⟨_, execSend_of_badKind (State.checkHeader_of_other hd hk) hs, rfl⟩
  · exact ⟨_, execSend_of_long (State.checkHeader_of_plain hd hk) (plainKind hk) hn, rfl⟩
  · obtain ⟨ws, hlen, hword, hexec⟩ := execSend_of_ok (State.checkHeader_of_plain hd hk) (plainKind hk) hn hp
    refine ⟨_, hexec.trans ?_, rfl⟩
    rw [if_pos hk, if_pos hrel]; rfl

end Machine
end Sys2Proof
end

section
/-! The picker (R213 to R215): what it sees of the channels, the slot and the helper that it takes, and the records that it posts. -/

namespace Sys2Proof

/-! ## Files whose values are mapped -/

theorem AMap.find_map {α β : Type} (f : Nat → α → β) (m : AMap α) (k : Nat) :
    AMap.find (m.map fun e => (e.1, f e.1 e.2)) k = (AMap.find m k).map (f k) := by
  induction m with
  | nil => rfl
  | cons e r ih =>
    obtain ⟨j, v⟩ := e
    simp only [List.map_cons, AMap.find, ih]
    split
    · next h => rw [h]; rfl
    · rfl

namespace Machine

/-! ## Channels but for their starvation counts -/

/-- A channel without its starvation count (R215). -/
def Channel.uncounted (ch : Channel) : Channel := { ch with waitFrom := none, waitMax := 8 }

theorem Channel.watch_uncounted (ch : Channel) (o : Option Nat) (t : Nat) : (ch.watch o t).uncounted = ch.uncounted := by
  unfold Channel.watch
  split <;> rfl
theorem Channel.seen_uncounted (ch : Channel) (now : Nat) : (ch.seen now).uncounted = ch.uncounted.seen now := by
  unfold Channel.seen Channel.uncounted
  dsimp only
  split
  · split <;> rfl
  · rfl
theorem State.dispatchable_uncounted (s : State) (c h : Nat) (ch : Channel) : s.dispatchable c h ch.uncounted = s.dispatchable c h ch := rfl

/-- What a core's channels hold where each entry keeps all but its starvation count. -/
theorem Core.chan_map_uncounted {k : Core} {f : Nat → Channel → Channel} (hf : ∀ h ch, (f h ch).uncounted = ch.uncounted) (h : Nat) :
    (AMap.get {} (k.channels.map fun e => (e.1, f e.1 e.2)) h).uncounted = (k.chan h).uncounted := by
  rw [Core.chan, AMap.get_eq_find, AMap.get_eq_find, AMap.find_map]
  cases AMap.find k.channels h with
  | none => rfl
  | some ch => exact hf h ch

/-! ## The decision (R213) -/

/-- An entry of the picker without the starvation count of its channel. -/
def bare (e : Nat × Channel × Nat) : Nat × Channel × Nat := (e.1, e.2.1.uncounted, e.2.2)
/-- The picker's choice among the entries that it may serve. -/
def pickFrom (det : Bool) (served : Nat → Nat) (l : List (Nat × Channel × Nat)) : Option (Nat × Channel × Nat) :=
  let p := (l.map fun e => e.2.1.prio).foldl Nat.max 0
  let e := l.filter fun x => x.2.1.prio == p
  if det then e.head? else (e.find? fun x => decide (served p < x.1)).or e.head?

theorem State.pick_eq_pickFrom (s : State) (c : Nat) : s.pick c = pickFrom (s.det c) (AMap.get 63 (s.core c).served) (s.pickable c) := rfl
/-- The choice does not turn on the starvation counts. -/
theorem pickFrom_map_bare (det : Bool) (served : Nat → Nat) (l : List (Nat × Channel × Nat)) :
    pickFrom det served (l.map bare) = (pickFrom det served l).map bare := by
  have hp : (l.map bare).map (fun e => e.2.1.prio) = l.map fun e => e.2.1.prio := by rw [List.map_map]; rfl
  simp only [pickFrom, hp, List.filter_map, List.head?_map, List.find?_map]
  split
  · rfl
  · rw [Option.map_or]; rfl
/-- The choice is an entry of the highest priority. -/
theorem mem_of_pickFrom {det : Bool} {served : Nat → Nat} {l : List (Nat × Channel × Nat)} {e : Nat × Channel × Nat}
    (h : pickFrom det served l = some e) : e ∈ l ∧ ∀ q ∈ l, q.2.1.prio ≤ e.2.1.prio := by
  have hmem : e ∈ l.filter fun x => x.2.1.prio == (l.map fun e => e.2.1.prio).foldl Nat.max 0 := by
    dsimp only [pickFrom] at h
    split at h
    · exact List.mem_of_head? h
    · obtain h | ⟨-, h⟩ := Option.or_eq_some_iff.1 h
      · exact List.mem_of_find?_eq_some h
      · exact List.mem_of_head? h
  obtain ⟨hl, hprio⟩ := List.mem_filter.1 hmem
  have hle (m : Nat) (ns : List Nat) : m ≤ ns.foldl Nat.max m ∧ ∀ n ∈ ns, n ≤ ns.foldl Nat.max m := by
    induction ns generalizing m with
    | nil => exact ⟨Nat.le_refl m, fun n hn => absurd hn List.not_mem_nil⟩
    | cons a r ih =>
      obtain ⟨hm, hr⟩ := ih (Nat.max m a)
      refine ⟨Nat.le_trans (Nat.le_max_left m a) hm, fun n hn => ?_⟩
      obtain rfl | hn := List.mem_cons.1 hn
      · exact Nat.le_trans (Nat.le_max_right m n) hm
      · exact hr n hn
  refine ⟨hl, fun q hq => ?_⟩
  rw [beq_iff_eq.1 hprio]
  exact (hle 0 _).2 _ (List.mem_map_of_mem hq)

section Pick
variable {s : State} {c : Nat}

/-- What the picker makes of one entry of the core's channels. -/
def State.pickEntry (s : State) (c : Nat) (e : Nat × Channel) : Option (Nat × Channel × Nat) :=
  if e.1 = 0 ∧ (c % 64 = 48 ∨ c % 64 = 49) then none
  else (s.dispatchable c e.1 (e.2.seen s.now)).map fun i => (e.1, e.2.seen s.now, i)
theorem State.pickable_eq (s : State) (c : Nat) : s.pickable c = (s.core c).channels.filterMap (s.pickEntry c) := by
  unfold State.pickable
  congr 1
  funext e
  simp only [State.pickEntry]
  split
  · rfl
  · split <;> next h => rw [h]; rfl
/-- What the picker may serve is the first slot of its channel that is ready. -/
theorem State.slot_of_pickable {e : Nat × Channel × Nat} (h : e ∈ s.pickable c) :
    ∃ u, AMap.find e.2.1.slots e.2.2 = some u ∧ s.slotReady c u = true := by
  rw [State.pickable_eq] at h
  obtain ⟨⟨g, ch⟩, -, he⟩ := List.mem_filterMap.1 h
  dsimp only [State.pickEntry] at he
  split at he
  · cases he
  · obtain ⟨i, hi, rfl⟩ := Option.map_eq_some_iff.1 he
    unfold State.dispatchable at hi
    split at hi
    · cases hi
    · have hfirst := List.find?_some hi
      split at hfirst
      · next u hu => exact ⟨u, hu, (Bool.and_eq_true_iff.1 hfirst).2⟩
      · cases hfirst
theorem State.core_watchAll (s : State) (c : Nat) : (s.watchAll c).core c =
    { s.core c with channels := (s.core c).channels.map fun e => (e.1, e.2.watch (s.dispatchable c e.1 e.2) (s.ticks c)) } :=
  State.core_updCore_same ..
theorem State.sameAccesses_watchAll (s : State) (c : Nat) : s.SameAccesses (s.watchAll c) := .updCore (fun _ => rfl) (fun _ => rfl) fun _ => rfl
theorem State.dispatchable_watchAll (s : State) (c h : Nat) (ch : Channel) : (s.watchAll c).dispatchable c h ch = s.dispatchable c h ch := by
  have hready : (s.watchAll c).slotReady c = s.slotReady c := by
    funext u
    simp only [State.slotReady, (s.sameAccesses_watchAll c).pendingIds]; rfl
  simp only [State.dispatchable, hready]
/-- Watching changes nothing of what the picker sees but starvation counts. -/
theorem State.pickable_watchAll (s : State) (c : Nat) : ((s.watchAll c).pickable c).map bare = (s.pickable c).map bare := by
  have hentry (e : Nat × Channel) (o : Option Nat) (t : Nat) :
      ((s.watchAll c).pickEntry c (e.1, e.2.watch o t)).map bare = (s.pickEntry c e).map bare := by
    have hseen : ((e.2.watch o t).seen s.now).uncounted = (e.2.seen s.now).uncounted := by
      rw [Channel.seen_uncounted, Channel.watch_uncounted, ← Channel.seen_uncounted]
    have hdisp : s.dispatchable c e.1 ((e.2.watch o t).seen s.now) = s.dispatchable c e.1 (e.2.seen s.now) := by
      rw [← State.dispatchable_uncounted, hseen, State.dispatchable_uncounted]
    have hnow : (s.watchAll c).now = s.now := rfl
    simp only [State.pickEntry, hnow, State.dispatchable_watchAll, hdisp]
    split
    · rfl
    · cases s.dispatchable c e.1 (e.2.seen s.now) with
      | none => rfl
      | some i => simp only [Option.map_some, bare, hseen]
  rw [State.pickable_eq, State.pickable_eq, State.core_watchAll, List.filterMap_map, List.map_filterMap, List.map_filterMap]
  exact congrArg (List.filterMap · _) (funext fun e => hentry e _ _)
/-- The picker chooses as it did before the channels were watched. -/
theorem State.pick_watchAll (s : State) (c : Nat) : ((s.watchAll c).pick c).map bare = (s.pick c).map bare := by
  have hdet : (s.watchAll c).det c = s.det c := rfl
  rw [State.pick_eq_pickFrom, State.pick_eq_pickFrom, ← pickFrom_map_bare, ← pickFrom_map_bare, State.pickable_watchAll, State.core_watchAll, hdet]

end Pick

end Machine
end Sys2Proof
end

section
/-! A record finds its place (R178): what it leaves of the core, and where it stands. -/

namespace Sys2Proof
namespace Machine

/-! ## Bytes and words of a pool after a write -/

theorem Core.bytes_put (k : Core) (a i n : Nat) (bs : List Byte) (h : i + n ≤ bs.length) : (k.put a bs).bytes (a + i) n = (bs.drop i).take n := by
  induction n generalizing i with
  | zero => simp [Core.bytes]
  | succ n ih =>
    have hi : i < bs.length := by omega
    rw [Core.bytes, Nat.add_assoc, ih (i + 1) (by omega), Core.byte_put, if_pos (by omega), Nat.add_sub_cancel_left,
      List.drop_eq_getElem_cons hi, List.take_succ_cons, List.getD_eq_getElem _ _ hi]
theorem drop_take_bytesOf {ws : List Word} {j : Nat} (h : j < ws.length) : ((bytesOf ws).drop (8 * j)).take 8 = toBytes 8 (ws.getD j 0).toNat := by
  induction ws generalizing j with
  | nil => cases h
  | cons w r ih =>
    have hcons : bytesOf (w :: r) = toBytes 8 w.toNat ++ bytesOf r := rfl
    have hlen : (toBytes 8 w.toNat).length = 8 := length_toBytes 8 _
    rw [hcons]
    cases j with
    | zero => rw [Nat.mul_zero, List.drop_zero, List.take_append_of_le_length hlen.ge, List.take_of_length_le hlen.le]; rfl
    | succ j =>
      have hj : 8 * (j + 1) - (toBytes 8 w.toNat).length = 8 * j := by omega
      rw [List.drop_append, List.drop_eq_nil_of_le (by omega), List.nil_append, hj, ih (Nat.lt_of_succ_lt_succ h), List.getD_cons_succ]
theorem length_bytesOf (ws : List Word) : (bytesOf ws).length = 8 * ws.length := by
  induction ws with
  | nil => rfl
  | cons w r ih =>
    have hcons : bytesOf (w :: r) = toBytes 8 w.toNat ++ bytesOf r := rfl
    rw [hcons, List.length_append, ih, length_toBytes, List.length_cons]; omega
theorem Core.word_put_bytesOf (k : Core) (a j : Nat) (ws : List Word) (h : j < ws.length) :
    (k.put a (bytesOf ws)).word (a + 8 * j) = ws.getD j 0 := by
  have hl : 8 * j + 8 ≤ (bytesOf ws).length := by rw [length_bytesOf]; omega
  have hb : (ws.getD j 0).toNat < 256 ^ 8 := (ws.getD j 0).isLt
  rw [Core.word, Core.num, Core.bytes_put k a (8 * j) 8 _ hl, drop_take_bytesOf h, ofBytes_toBytes,
    Nat.mod_eq_of_lt hb, BitVec.ofNat_toNat, BitVec.setWidth_eq]

/-! ## Landing -/

/-- What a full record of 64 bytes is when it lands in a ring with a free slot. -/
theorem Core.land_of_free {k : Core} {h i f : Nat} {slot : Slot} {ws : List Word} (hi : (k.chan h).free = some i) (hl : ws.length = 8) :
    k.land h slot ws f = (k.put ((k.chan h).slotAddr i) (bytesOf ws)).setChan h
      { k.chan h with slots := AMap.set (k.chan h).slots i slot, wr := (i + 1) % (k.chan h).depth } := by
  have ht : (bytesOf ws).take 64 = bytesOf ws := List.take_of_length_le (by rw [length_bytesOf, hl])
  simp only [Core.land, hi, ht, hl]; rfl

theorem State.core_land (s : State) (c h : Nat) (slot : Slot) (ws : List Word) :
    (s.land c h slot ws).core c = (s.core c).land h { slot with landed := s.now } ws s.free :=
  State.core_updCore_same s c fun k => k.land h { slot with landed := s.now } ws s.free
theorem State.core_land_ne (s : State) {c d : Nat} (hd : c ≠ d) (h : Nat) (slot : Slot) (ws : List Word) : (s.land c h slot ws).core d = s.core d :=
  State.core_updCore_ne s (fun k => k.land h { slot with landed := s.now } ws s.free) hd
/-- A channel in whose ring a slot has landed. -/
def Channel.landed (ch : Channel) (slot : Slot) : Channel :=
  match ch.free with
  | none => ch
  | some i => { ch with slots := AMap.set ch.slots i slot, wr := (i + 1) % ch.depth }
theorem Channel.landed_waitFrom (ch : Channel) (slot : Slot) : (ch.landed slot).waitFrom = ch.waitFrom := by
  unfold Channel.landed
  split <;> rfl
theorem Core.channels_blur (k : Core) (a f n : Nat) : (k.blur a f n).channels = k.channels := by
  induction n generalizing k a f with
  | zero => rfl
  | succ n ih => exact ih ..
/-- A landing leaves every channel but its own. -/
theorem Core.chan_land (k : Core) (h g f : Nat) (slot : Slot) (ws : List Word) :
    (k.land h slot ws f).chan g = if h = g then (k.chan h).landed slot else k.chan g := by
  simp only [Core.land, Channel.landed]
  cases (k.chan h).free with
  | none =>
    dsimp only
    split
    · next hg => rw [hg]
    · rfl
  | some i =>
    dsimp only
    rw [Core.chan_setChan]
    split
    · rfl
    · rw [Core.chan, Core.channels_blur, Core.put_eq]; rfl

/-! ## Completions -/

/-- What the completions of a queue are: those in its ring, and those that wait for room. -/
def Queue.entries (q : Queue) : List (List Word) := q.ring ++ q.held
theorem Queue.entries_flush (n : Nat) (q : Queue) : (Queue.flush n q).entries = q.entries := by
  induction n generalizing q with
  | zero => rfl
  | succ n ih =>
    unfold Queue.flush
    split
    · rfl
    · next e r he =>
      split
      · rw [ih]
        simp [Queue.entries, he]
      · rfl
theorem State.entries_post (s : State) (q : Nat) (es : List (List Word)) : ((s.post q es).queue q).entries = (s.queue q).entries ++ es := by
  rw [State.post, State.queue_updQueue_same, Queue.entries_flush]
  simp [Queue.entries]
/-- The head of an entry names its type. -/
theorem bits_entry_head (type part id status : Nat) (rest : List Word) (h : type < 256) :
    bits ((entry type part id status rest).headD 0) 0 8 = type := by
  have hat (v k : Nat) : (at_ v (8 + k)).toNat % 2 ^ 8 = 0 := by
    rw [at_, BitVec.toNat_shiftLeft, Nat.shiftLeft_eq, Nat.pow_add]
    have h8 : (2 : Nat) ^ 8 ∣ 2 ^ 64 := ⟨2 ^ 56, rfl⟩
    rw [Nat.mod_mod_of_dvd _ h8, Nat.mul_left_comm]
    exact Nat.mul_mod_right ..
  have htype : (at_ type 0).toNat % 2 ^ 8 = type := by
    rw [at_, BitVec.shiftLeft_zero, BitVec.toNat_ofNat]; omega
  change ((at_ type 0 ||| at_ part (8 + 8) ||| at_ id (8 + 24)) >>> 0).toNat % 2 ^ 8 = type
  rw [BitVec.ushiftRight_zero, BitVec.toNat_or, BitVec.toNat_or, Nat.or_mod_two_pow, Nat.or_mod_two_pow, hat, hat, htype, Nat.or_zero, Nat.or_zero]

/-! ## Placing a record that no handler of its own takes -/

/-- HBM and every core but c are as they were. -/
def State.KeepsOthers (s t : State) (c : Nat) : Prop := t.mem = s.mem ∧ ∀ d, d ≠ c → t.core d = s.core d

theorem State.KeepsOthers.updCore {s t : State} {c : Nat} (h : s.KeepsOthers t c) (f : Core → Core) : s.KeepsOthers (t.updCore c f) c :=
  ⟨h.1, fun d hd => (State.core_updCore_ne t f hd.symm).trans (h.2 d hd)⟩

section Place
variable (s : State) (c : Nat) (rec : List Word)

/-- The record has a place in ch63 (R178). -/
def State.Homes : Prop :=
  (s.core c).frozen = false ∧ (s.part (c / 64)).down = false ∧ ((s.core c).chan 63).bound = true ∧ ((s.core c).chan 63).room = true

theorem State.core_count (p e n d : Nat) : (s.count p e n).core d = s.core d := by
  rw [State.core, State.count_cores]; rfl
theorem State.down_count (p e n q : Nat) : ((s.count p e n).part q).down = (s.part q).down := by
  unfold State.count
  split
  · rfl
  · rw [State.part_updPart]
    split
    · next h => rw [h]
    · rfl
theorem State.place_of_homes (h : s.Homes c) : s.place c none false rec = ((s.count (c / 64) 15 1).land c 63 { kind := .fault } rec, false) := by
  obtain ⟨hfrozen, hdown, hbound, hroom⟩ := h
  simp only [State.place, State.core_count, State.down_count, hfrozen, hdown, hbound, hroom]
  rfl
theorem State.place_of_not_homes (h : ¬s.Homes c) : s.place c none false rec = ((s.count (c / 64) 15 1).toHost (c / 64) rec, true) := by
  simp only [State.place, State.core_count, State.down_count]
  split
  · rfl
  · next hup =>
    rw [if_neg fun hfits => h ?_]
    simp only [Bool.or_eq_true, not_or, Bool.not_eq_true, Bool.and_eq_true] at hup hfits
    exact ⟨hup.1, hup.2, hfits.1, hfits.2⟩

theorem State.keepsOthers_place : s.KeepsOthers (s.place c none false rec).1 c := by
  by_cases h : s.Homes c
  · rw [State.place_of_homes s c rec h]
    exact ⟨State.count_mem .., fun d hd => (State.core_land_ne _ hd.symm ..).trans (State.core_count ..)⟩
  · rw [State.place_of_not_homes s c rec h]
    exact ⟨State.count_mem .., fun d _ => s.core_count ..⟩
/-- The record changes no channel but ch63, and of that one not the starvation count. -/
theorem State.chan_place (g : Nat) : (((s.place c none false rec).1.core c).chan g).waitFrom = ((s.core c).chan g).waitFrom ∧
    (g ≠ 63 → ((s.place c none false rec).1.core c).chan g = (s.core c).chan g) := by
  by_cases h : s.Homes c
  · rw [State.place_of_homes s c rec h, State.core_land, Core.chan_land, State.core_count]
    split
    · next hg => exact ⟨by rw [Channel.landed_waitFrom, hg], fun hne => absurd hg.symm hne⟩
    · exact ⟨rfl, fun _ => rfl⟩
  · rw [State.place_of_not_homes s c rec h]
    change (((s.count (c / 64) 15 1).core c).chan g).waitFrom = _ ∧ (_ → ((s.count (c / 64) 15 1).core c).chan g = _)
    rw [State.core_count]
    exact ⟨rfl, fun _ => rfl⟩
/-- The record stands where R178 puts it. -/
theorem State.postsRecord_place (hl : rec.length = 8) : PostsRecord s (s.place c none false rec).1 c rec := by
  refine ⟨fun h i hi => ?_, fun h => ?_⟩
  · rw [State.place_of_homes s c rec h, State.core_land, State.core_count, Core.land_of_free hi hl]
    refine ⟨?_, fun j hj => ?_⟩
    · rw [Core.chan_setChan_same]
      dsimp only
      rw [AMap.find_set_same]; rfl
    · exact Core.word_put_bytesOf _ _ _ _ (by omega)
  · rw [State.place_of_not_homes s c rec h]
    have hq : (s.count (c / 64) 15 1).hostQueue (c / 64) = s.hostQueue (c / 64) := rfl
    have hs : (s.count (c / 64) 15 1).queue (s.hostQueue (c / 64)) = s.queue (s.hostQueue (c / 64)) := rfl
    refine ⟨entry 3 (c / 64) 0 0 [], ?_, bits_entry_head 3 _ _ _ _ (by decide)⟩
    have he := (s.count (c / 64) 15 1).entries_post (s.hostQueue (c / 64)) [entry 3 (c / 64) 0 0 [], rec]
    rw [hs] at he
    rw [State.toHost, hq]
    exact he

end Place

/-- A record that has found its place from a state with the same ring of ch63 and the same host queues. -/
theorem PostsRecord.of_sameRing {s u t : State} {c : Nat} {ws : List Word} (h : PostsRecord u t c ws)
    (hring : ((u.core c).chan 63).uncounted = ((s.core c).chan 63).uncounted) (hfrozen : (u.core c).frozen = (s.core c).frozen)
    (hout : u = { s with cores := u.cores }) : PostsRecord s t c ws := by
  have hpart : u.part = s.part := by rw [hout]; rfl
  have hhost : u.hostQueue = s.hostQueue := by rw [hout]; rfl
  have hqueue : u.queue = s.queue := by rw [hout]; rfl
  have hbound : ((u.core c).chan 63).bound = ((s.core c).chan 63).bound := by
    have h := congrArg Channel.bound hring
    exact h
  have hroom : ((u.core c).chan 63).room = ((s.core c).chan 63).room := by
    have h := congrArg Channel.room hring
    exact h
  have hfree : ((u.core c).chan 63).free = ((s.core c).chan 63).free := by
    have h := congrArg Channel.free hring
    exact h
  have haddr (i : Nat) : ((u.core c).chan 63).slotAddr i = ((s.core c).chan 63).slotAddr i := by
    have h := congrArg (Channel.slotAddr · i) hring
    exact h
  simpa only [PostsRecord, hpart, hhost, hqueue, hbound, hroom, hfree, haddr, hfrozen] using h
/-- A record stays where it stands under a change of other channels. -/
theorem PostsRecord.trans {s t u : State} {c : Nat} {ws : List Word} (h : PostsRecord s t c ws) (hring : (u.core c).chan 63 = (t.core c).chan 63)
    (hword : ∀ a, (u.core c).word a = (t.core c).word a) (hqueue : u.queues = t.queues) : PostsRecord s u c ws := by
  have hq : u.queue = t.queue := by funext q; rw [State.queue, hqueue]; rfl
  simpa only [PostsRecord, hring, hword, hq] using h

end Machine
end Sys2Proof
end

section
/-! Dispatch and starvation (R213 to R215): the slot and the helper that a decision takes, and the statement. -/

namespace Sys2Proof
namespace Machine

/-! ## The slot that a decision takes -/

/-- Where the task of a slot of a channel begins (R213). -/
def Core.entryOf (k : Core) (ch : Channel) : SlotKind → Nat
  | .desc off _ => k.num off 4
  | _ => ch.handler.toNat
/-- What the task finds in `msg`. -/
def Channel.msgOf (ch : Channel) (i : Nat) : SlotKind → Word
  | .desc off _ => localAddr off
  | _ => localAddr (ch.slotAddr i)
/-- The bad word that a descriptor's entry stands in (R324). -/
def State.badEntry (s : State) (c : Nat) : SlotKind → Option Nat
  | .desc off _ => s.badIn c off 4
  | _ => none
/-- A channel of which a task has taken a slot. -/
def Channel.taking (ch : Channel) (i : Nat) : Channel :=
  match AMap.find ch.slots i with
  | some t => { ch with slots := AMap.set ch.slots i { t with taken := true }, head := (i + 1) % ch.depth }
  | none => ch
theorem Channel.taking_uncounted (ch : Channel) (i : Nat) : (ch.taking i).uncounted = ch.uncounted.taking i := by
  unfold Channel.taking
  change _ = match AMap.find ch.slots i with | some t => _ | none => _
  cases AMap.find ch.slots i <;> rfl
/-- The state in which the picker has taken slot i of channel h. -/
def State.picked (s : State) (c h i prio : Nat) : State :=
  ((s.watchAll c).takeSlot c h i).updCore c fun k => { k with served := AMap.set k.served prio h }

section Picked
variable (s : State) (c h i prio : Nat)

theorem State.chan_watchAll (g : Nat) : (((s.watchAll c).core c).chan g).uncounted = ((s.core c).chan g).uncounted := by
  rw [State.core_watchAll]
  exact Core.chan_map_uncounted (fun _ _ => Channel.watch_uncounted ..) g
theorem State.core_picked : (s.picked c h i prio).core c =
    { (s.core c) with channels := AMap.set ((s.watchAll c).core c).channels h ((((s.watchAll c).core c).chan h).taking i)
                      served := AMap.set (s.core c).served prio h } := by
  rw [State.picked, State.core_updCore_same, State.takeSlot, State.core_updCore_same, State.core_watchAll]; rfl
theorem State.chan_picked_ne {g : Nat} (hg : g ≠ h) : (((s.picked c h i prio).core c).chan g).uncounted = ((s.core c).chan g).uncounted := by
  rw [State.core_picked, ← State.chan_watchAll s c g]
  exact congrArg _ (AMap.get_set_ne _ _ _ hg.symm)
theorem State.chan_picked : (((s.picked c h i prio).core c).chan h).uncounted = (((s.core c).chan h).taking i).uncounted := by
  rw [State.core_picked, Channel.taking_uncounted, ← State.chan_watchAll s c h, ← Channel.taking_uncounted]
  exact congrArg _ (AMap.get_set_same ..)
theorem State.keepsOthers_picked : s.KeepsOthers (s.picked c h i prio) c :=
  State.KeepsOthers.updCore (.updCore (.updCore ⟨rfl, fun _ _ => rfl⟩ _) _) _
theorem State.picked_eq : s.picked c h i prio = { s with cores := (s.picked c h i prio).cores } := rfl
theorem State.ctx_picked (y : Nat) : (s.picked c h i prio).ctx c y = s.ctx c y := by rw [State.ctx, State.core_picked]; rfl

end Picked

/-- The helper that takes the slot begins its task. -/
def State.dispatched (s : State) (c h i x : Nat) (ch : Channel) (e : Slot) : State :=
  let u := s.picked c h i ch.prio
  ((u.sawDispatch c h ch.prio).updCtx c x fun k =>
    { k.begin_ ((s.core c).entryOf ch e.kind) (ch.msgOf i e.kind) (u.costNow c x) with task := some (h, i) }).acquire c e.scope

/-- A decision takes the slot, and starts its task where the entry can be read and names a word. -/
theorem execTaskDispatch_of_pick {s : State} {c h i x : Nat} {ch : Channel} {e : Slot} (hrun : s.runs c = true) (hfrozen : (s.core c).frozen = false)
    (hx : (s.core c).freeHelper = some x) (hp : (s.watchAll c).pick c = some (h, ch, i)) (he : AMap.find ch.slots i = some e) :
    let u := s.picked c h i ch.prio; let pc := (s.core c).entryOf ch e.kind
    exec (.taskDispatch c) s = .next (
      match s.badEntry c e.kind with
      | some o => u.undispatched c h i (eccFlt (localAddr o))
      | none =>
        if 0xFFFC < pc ∨ pc % 4 ≠ 0 then u.undispatched c h i (flt .align (nat64 h) (nat64 pc) 0) else s.dispatched c h i x ch e) := by
  intro u pc
  change execTaskDispatch c s = _
  simp only [execTaskDispatch, hrun, hfrozen, hx, hp, he]
  obtain ⟨kind, _⟩ := e
  cases kind <;> rfl


/-! ## A slot that starts no task -/

theorem State.releaseSlot_queues (s : State) (c h i : Nat) : (s.releaseSlot c h i).queues = s.queues := by
  have hcount (u : State) (p e n : Nat) : (u.count p e n).queues = u.queues := by unfold State.count; split <;> rfl
  obtain hrel | ⟨e, hrel⟩ := s.releaseSlot_cases c h i
  · rw [hrel]
  · rw [hrel]
    unfold State.sendRelease
    split <;> exact hcount ..

section Undispatched
variable (s : State) (c h i : Nat)

/-- A slot of another channel than ch63 that starts no task is freed with a record. -/
theorem State.undispatched_facts (f : Flt) : let t := s.undispatched c h i f
    (∀ y, t.ctx c y = s.ctx c y) ∧ t.mem = s.mem ∧ (h ≠ 63 → AMap.find ((t.core c).chan h).slots i = none ∧
      PostsRecord s t c (s.record c 15 0xFFFF clsEngine f)) := by
  let v := s.updCore c fun k => k.updChan h fun ch => { ch with waitFrom := none, waitMax := 8 }
  let w := (v.place c none false (s.record c 15 0xFFFF clsEngine f)).1
  have hv : v.core c = (s.core c).updChan h fun ch => { ch with waitFrom := none, waitMax := 8 } := State.core_updCore_same ..
  intro t
  have hcore : t.core c = (w.core c).updChan h (·.vacate i) := w.freeSlot_core c h i
  refine ⟨fun y => ?_, ?_, fun h63 => ⟨?_, ?_⟩⟩
  · have hctxs : (w.core c).ctxs = (s.core c).ctxs := (v.ctxs_place ..).trans (by rw [hv]; rfl)
    rw [State.ctx, hcore]
    exact congrArg (fun m : AMap Ctx => AMap.get {} m y) hctxs
  · exact (w.releaseSlot_mem c h i).trans (v.keepsOthers_place c _).1
  · rw [hcore, Core.chan_updChan_same]
    rw [Channel.find_vacate, if_pos rfl]
  · refine .trans (.of_sameRing (u := v) (State.postsRecord_place v c _ rfl) ?_ ?_ rfl) ?_ (fun a => ?_) ?_
    · rw [hv]
      exact congrArg _ (AMap.get_set_ne _ _ _ h63)
    · rw [hv]; rfl
    · rw [hcore]
      exact AMap.get_set_ne _ _ _ h63
    · rw [hcore]; rfl
    · exact w.releaseSlot_queues c h i

end Undispatched

/-! ## A helper that begins a task -/

section Dispatched
variable (s : State) (c h i x : Nat) (ch : Channel) (e : Slot)

/-- The helper's context at the start of its task. -/
def State.dispatchedCtx : Ctx :=
  { (s.ctx c x).begin_ ((s.core c).entryOf ch e.kind) (ch.msgOf i e.kind) ((s.picked c h i ch.prio).costNow c x) with task := some (h, i) }
theorem State.core_acquire (c : Nat) (sc : Scope) : ∃ l, (s.acquire c sc).core c = { s.core c with lbuf := l } := by
  unfold State.acquire
  split
  · exact ⟨[], State.core_updCore_same ..⟩
  · exact ⟨_, rfl⟩
theorem State.KeepsOthers.acquire {s t : State} {c : Nat} (h : s.KeepsOthers t c) (sc : Scope) : s.KeepsOthers (t.acquire c sc) c := by
  unfold State.acquire
  split
  · exact h.updCore _
  · exact h
theorem State.keepsOthers_dispatched : s.KeepsOthers (s.dispatched c h i x ch e) c :=
  State.KeepsOthers.acquire (.updCore (.updCore (s.keepsOthers_picked c h i ch.prio) _) _) e.scope
theorem State.chan_sawDispatch (p : Nat) (g : Nat) : (((s.sawDispatch c h p).core c).chan g).uncounted = ((s.core c).chan g).uncounted := by
  rw [State.sawDispatch, State.core_updCore_same]
  refine Core.chan_map_uncounted (f := fun g ch => if g = h then { ch with waitFrom := none, waitMax := 8 }
    else if ch.waitMax = 8 ∨ ch.waitMax < p then { ch with waitMax := p } else ch) (fun g ch => ?_) g
  split
  · rfl
  · split <;> rfl
theorem State.core_dispatched : ∃ l m n, (s.dispatched c h i x ch e).core c =
    { s.core c with ctxs := AMap.set (s.core c).ctxs x (s.dispatchedCtx c h i x ch e), channels := l, served := m, lbuf := n } ∧
    (AMap.get {} l h).uncounted = (((s.core c).chan h).taking i).uncounted := by
  let u := s.picked c h i ch.prio
  have hsaw := u.chan_sawDispatch c h ch.prio h
  obtain ⟨n, hn⟩ := ((u.sawDispatch c h ch.prio).updCtx c x fun k =>
    { k.begin_ ((s.core c).entryOf ch e.kind) (ch.msgOf i e.kind) (u.costNow c x) with task := some (h, i) }).core_acquire c e.scope
  have hctx : (u.sawDispatch c h ch.prio).ctx c x = s.ctx c x := by
    rw [State.ctx, State.sawDispatch, State.core_updCore_same]
    exact s.ctx_picked c h i ch.prio x
  rw [State.core_updCtx_same, hctx] at hn
  refine ⟨((u.sawDispatch c h ch.prio).core c).channels, (u.core c).served, n, hn.trans ?_, ?_⟩
  · rw [State.sawDispatch, State.core_updCore_same, State.core_picked]; rfl
  · exact hsaw.trans (State.chan_picked ..)

end Dispatched

/-! ## The statement -/

/-- No helper below the lowest free one is free. -/
theorem Core.busy_of_freeHelper {k : Core} {x m : Nat} (h : k.freeHelper = some x) (hm : m < x) (hpos : 1 ≤ m) : (k.ctx m).st ≠ .free := by
  rw [Core.freeHelper, firstOf, List.find?_map] at h
  obtain ⟨n, hn, rfl⟩ := Option.map_eq_some_iff.1 h
  obtain ⟨-, -, hmin⟩ := List.find?_range_eq_some.1 hn
  have hbusy := hmin (m - 1) (by omega)
  simpa [Nat.sub_add_cancel hpos] using hbusy
/-- A context whose only register is `msg`. -/
theorem State.sreg_of_msg {t : State} {c x : Nat} {m : Word} (h : (t.ctx c x).s = [(60, m)]) {r : BitVec 6} (h63 : r ≠ 63) :
    t.sreg c x r = if r = 60 then m else 0 := by
  have hget (j : Nat) : AMap.get 0 (t.ctx c x).s j = if 60 = j then m else 0 := by rw [h]; rfl
  have h60 : 60 = r.toNat ↔ r = 60 := ⟨fun e => BitVec.eq_of_toNat_eq e.symm, fun e => e ▸ rfl⟩
  simp only [State.sreg, if_neg h63, hget, h60]
  split
  · next h0 => rw [h0]; rfl
  · rfl
theorem Channel.seen_eq (ch : Channel) (now : Nat) : ch.seen now = { ch with handler := (ch.seen now).handler, prio := (ch.seen now).prio } := by
  unfold Channel.seen
  split
  · split <;> rfl
  · rfl
theorem State.badEntry_eq_none {s : State} {c : Nat} {kind : SlotKind} (h : ∀ off f, kind = .desc off f → s.badIn c off 4 = none) :
    s.badEntry c kind = none := by
  cases kind with
  | desc off f => exact h off f rfl
  | _ => rfl
theorem Channel.find_taking {ch : Channel} {i : Nat} {e : Slot} (he : AMap.find ch.slots i = some e) :
    (AMap.find (ch.taking i).slots i).map (·.taken) = some true ∧ (ch.taking i).head = (i + 1) % ch.depth := by
  simp only [Channel.taking, he]
  exact ⟨by rw [AMap.find_set_same, Option.map_some], trivial⟩
/-- The picker finds, once the channels are watched, what it found before. -/
theorem State.pick_watchAll_eq_some {s : State} {c h i : Nat} {ch : Channel} (hp : s.pick c = some (h, ch, i)) :
    ∃ ch', (s.watchAll c).pick c = some (h, ch', i) ∧ ch'.uncounted = ch.uncounted := by
  have hbare := s.pick_watchAll c
  rw [hp] at hbare
  obtain ⟨⟨h', ch', i'⟩, hp', heq⟩ := Option.map_eq_some_iff.1 hbare
  simp only [bare, Prod.mk.injEq] at heq
  obtain ⟨rfl, hring, rfl⟩ := heq
  exact ⟨ch', hp', hring⟩
theorem State.pick_watchAll_eq_none {s : State} {c : Nat} (hp : s.pick c = none) : (s.watchAll c).pick c = none := by
  have hbare := s.pick_watchAll c
  rw [hp] at hbare
  exact Option.map_eq_none_iff.1 hbare
theorem execTaskDispatch_of_idle {s : State} {c : Nat} (hrun : s.runs c = true)
    (hidle : (s.core c).frozen = true ∨ (s.core c).freeHelper = none ∨ s.pick c = none) : exec (.taskDispatch c) s = .next (s.watchAll c) := by
  change execTaskDispatch c s = _
  cases hf : (s.core c).frozen with
  | true => simp only [execTaskDispatch, hrun, hf]; rfl
  | false =>
    simp only [execTaskDispatch, hrun, hf]
    obtain hidle | hidle | hidle := hidle
    · rw [hf] at hidle; cases hidle
    · rw [hidle]; rfl
    · rw [State.pick_watchAll_eq_none hidle]
      cases (s.core c).freeHelper <;> rfl

/-- A channel whose wait has lasted 2^20 ticks begins another and posts its record (R215). -/
theorem execStarve_of_starved {s : State} {c g i t0 : Nat} (hw : ((s.core c).chan g).waitFrom = some (i, t0)) (ht : t0 + 2 ^ 20 ≤ s.ticks c) :
    exec (.starve c g) s = .next ((s.updCore c fun k => k.updChan g fun ch => { ch with waitFrom := some (i, s.ticks c), waitMax := 8 }).place c none
      false (s.record c 15 0xFFFF clsInfo (flt .starve (nat64 g) (nat64 ((s.core c).chan g).prio) (nat64 ((s.core c).chan g).waitMax)))).1 := by
  change execStarve c g s = _
  simp only [execStarve, hw, if_pos ht]; rfl
theorem execStarve_of_not_starved {s : State} {c g : Nat}
    (h : ((s.core c).chan g).waitFrom = none ∨ ∃ j u, ((s.core c).chan g).waitFrom = some (j, u) ∧ s.ticks c < u + 2 ^ 20) :
    exec (.starve c g) s = .next s := by
  change execStarve c g s = _
  obtain h | ⟨j, u, h, hu⟩ := h
  · simp only [execStarve, h]
  · simp only [execStarve, h, if_neg (Nat.not_le.2 hu)]

/-- Settles O36, by what the picker sees of the channels whatever their starvation counts, and by the slot, the helper and the record of its
decision. -/
theorem tasksAreDispatchedByPriority : Obligations.TasksAreDispatchedByPriority := by
  unfold Obligations.TasksAreDispatchedByPriority
  intro s c h x i g t0 ch e k kept entry msg posts
  refine ⟨fun hp => ?_, fun hrun hfrozen hx hp hseen he => ?_, fun hrun hidle => ?_, fun hrun => ?_, fun hw ht => ?_, fun hw => ?_⟩
  · obtain ⟨hmem, hmax⟩ := mem_of_pickFrom hp
    obtain ⟨u, hu, hready⟩ := State.slot_of_pickable hmem
    simp only [State.slotReady, Bool.and_eq_true, Bool.not_eq_true', decide_eq_true_eq] at hready
    obtain ⟨⟨htaken, hlanded⟩, hwaits⟩ := hready
    exact ⟨hmax, u, hu, htaken, hlanded, hwaits⟩
  · obtain ⟨ch', hp', hring⟩ := State.pick_watchAll_eq_some hp
    have hslots : ch'.slots = ch.slots := by
      have hr := congrArg Channel.slots hring
      exact hr
    have hhandler : ch'.handler = ch.handler := by
      have hr := congrArg Channel.handler hring
      exact hr
    have haddr : ch'.slotAddr i = ch.slotAddr i := by
      have hr := congrArg (Channel.slotAddr · i) hring
      exact hr
    have hentry : k.entryOf ch' e.kind = entry := by
      simp only [entry]
      cases e.kind <;> simp only [Core.entryOf, hhandler]
    have hmsg : ch'.msgOf i e.kind = msg := by
      simp only [msg]
      cases e.kind <;> simp only [Channel.msgOf, haddr] <;> rfl
    have hk := (k.chan h).seen_eq s.now
    rw [hseen] at hk
    have he' : AMap.find (k.chan h).slots i = some e := by rw [hk] at he; exact he
    have hdepth : (k.chan h).depth = ch.depth := by rw [hk]
    have hexec := execTaskDispatch_of_pick hrun hfrozen hx hp' (hslots ▸ he)
    dsimp only at hexec
    rw [show (s.core c).entryOf ch' e.kind = entry from hentry] at hexec
    refine ⟨fun hle hal hbad => ?_, fun off f o hkind hbad => ?_, fun hbadpc hbad => ?_⟩
    · rw [State.badEntry_eq_none hbad] at hexec
      dsimp only at hexec
      rw [if_neg (by omega)] at hexec
      obtain ⟨l, m, n, hcore, hchan⟩ := s.core_dispatched c h i x ch' e
      have hctx (y : Nat) : (s.dispatched c h i x ch' e).ctx c y = if x = y then s.dispatchedCtx c h i x ch' e else s.ctx c y := by
        rw [State.ctx, hcore]; exact AMap.get_set ..
      have hnew := (hctx x).trans (if_pos rfl)
      obtain ⟨htaken, hhead⟩ := Channel.find_taking he'
      have hsreg {r : BitVec 6} (h63 : r ≠ 63) : (s.dispatched c h i x ch' e).sreg c x r = if r = 60 then msg else 0 :=
        State.sreg_of_msg (by rw [hnew, ← hmsg]; rfl) h63
      have hslots' : ((s.dispatched c h i x ch' e).core c).chan h = AMap.get {} l h := by rw [hcore]; rfl
      have hslot := congrArg Channel.slots hchan
      have hpast := congrArg Channel.head hchan
      dsimp only [Channel.uncounted] at hslot hpast
      refine ⟨_, hexec, s.keepsOthers_dispatched c h i x ch' e, ?_, ?_, ?_, (hsreg (by decide)).trans (if_pos rfl),
        fun r h60 h63 => (hsreg h63).trans (if_neg h60), ?_, ?_, ?_, ?_, ?_, ?_, ?_, ?_, ?_, fun y hy => (hctx y).trans (if_neg hy.symm),
        fun m hm hpos => Core.busy_of_freeHelper hx hm hpos, ?_, ?_⟩
      · rw [hnew]; rfl
      · rw [hnew]; exact hentry
      · rw [hnew]; rfl
      · rw [hnew]; exact Ctx.vr_of_nil rfl
      · rw [hnew]; exact fun _ => rfl
      · rw [hnew]; exact fun _ => rfl
      · rw [hnew]; rfl
      · rw [hnew]; rfl
      · rw [hnew]; rfl
      · rw [hnew]; rfl
      · rw [hnew]; rfl
      · rw [hnew]; rfl
      · rw [hslots', hslot]; exact htaken
      · rw [hslots', hpast, hhead, hdepth]
    · rw [show s.badEntry c e.kind = some o by rw [hkind]; exact hbad] at hexec
      obtain ⟨hctxs, hmem, hrest⟩ := (s.picked c h i ch'.prio).undispatched_facts c h i (eccFlt (localAddr o))
      refine ⟨_, hexec, fun y => (hctxs y).trans (s.ctx_picked ..), hmem, fun h63 => ?_⟩
      obtain ⟨hfind, hrec⟩ := hrest h63
      exact ⟨hfind, hrec.of_sameRing (State.chan_picked_ne s c h i ch'.prio h63.symm) (by rw [State.core_picked]) rfl⟩
    · rw [State.badEntry_eq_none hbad] at hexec
      dsimp only at hexec
      rw [if_pos hbadpc] at hexec
      obtain ⟨hctxs, hmem, hrest⟩ := (s.picked c h i ch'.prio).undispatched_facts c h i (flt .align (nat64 h) (nat64 entry) 0)
      refine ⟨_, hexec, fun y => (hctxs y).trans (s.ctx_picked ..), hmem, fun h63 => ?_⟩
      obtain ⟨hfind, hrec⟩ := hrest h63
      exact ⟨hfind, hrec.of_sameRing (State.chan_picked_ne s c h i ch'.prio h63.symm) (by rw [State.core_picked]) rfl⟩
  · have hcore := s.core_watchAll c
    refine ⟨_, execTaskDispatch_of_idle hrun hidle, State.KeepsOthers.updCore ⟨rfl, fun _ _ => rfl⟩ _, fun y => ?_, fun q => ?_⟩
    · rw [State.ctx, hcore]; rfl
    · rw [hcore]; rfl
  · refine ⟨s, ?_, rfl⟩
    change execTaskDispatch c s = _
    simp only [execTaskDispatch, hrun]; rfl
  · let v := s.updCore c fun k => k.updChan g fun ch => { ch with waitFrom := some (i, s.ticks c), waitMax := 8 }
    have hv : v.core c = (s.core c).updChan g fun ch => { ch with waitFrom := some (i, s.ticks c), waitMax := 8 } := State.core_updCore_same ..
    have hothers : s.KeepsOthers v c := State.KeepsOthers.updCore ⟨rfl, fun _ _ => rfl⟩ _
    refine ⟨_, execStarve_of_starved hw ht, ?_, ?_, fun y => ?_, ?_⟩
    · obtain ⟨hmem, hcores⟩ := v.keepsOthers_place c
        (s.record c 15 0xFFFF clsInfo (flt .starve (nat64 g) (nat64 ((s.core c).chan g).prio) (nat64 ((s.core c).chan g).waitMax)))
      exact ⟨hmem, fun d hd => (hcores d hd).trans (hothers.2 d hd)⟩
    · rw [(v.chan_place c _ g).1, hv, Core.chan_updChan_same]
    · have hctxs := (v.ctxs_place c c none false
        (s.record c 15 0xFFFF clsInfo (flt .starve (nat64 g) (nat64 ((s.core c).chan g).prio) (nat64 ((s.core c).chan g).waitMax)))).trans
          (show (v.core c).ctxs = (s.core c).ctxs by rw [hv]; rfl)
      exact congrArg (fun m : AMap Ctx => AMap.get {} m y) hctxs
    · refine .of_sameRing (u := v) (State.postsRecord_place v c _ rfl) ?_ ?_ rfl
      · rw [hv, Core.updChan, Core.chan_setChan]
        split
        · next h63 => rw [h63]; rfl
        · rfl
      · rw [hv]; rfl
  · exact ⟨s, execStarve_of_not_starved hw, rfl⟩

end Machine
end Sys2Proof
end

section
/-! Host commands: what taking one and completing it do to its queue (R340 to R342), and LOAD, LAUNCH and CANCEL (R341, R344). -/

namespace Sys2Proof
namespace Machine

/-! ## Completions -/

/-- A DONE entry as the host reads it. -/
theorem entry_one_eq_doneEntry (q : Nat) (id : Word32) (status : Nat) (ws : List Word) :
    entry 1 (q / 1024) id.toNat status ws = doneEntry q id status ws := by
  have hrest : (ws ++ List.replicate 8 (0 : Word)).take 6 = (ws ++ List.replicate 6 0).take 6 := by
    rw [List.take_append, List.take_append, List.take_replicate, List.take_replicate, Nat.min_eq_left (by omega), Nat.min_eq_left (by omega)]
  have htake (a b : Word) (l : List Word) : ([a, b] ++ l).take 8 = [a, b] ++ l.take 6 := rfl
  rw [entry, List.append_assoc, htake, hrest]
  rfl
theorem Queue.sqhead_flush (n : Nat) (q : Queue) : (Queue.flush n q).sqhead = q.sqhead := by
  induction n generalizing q with
  | zero => rfl
  | succ n ih =>
    unfold Queue.flush
    split
    · rfl
    · split
      · rw [ih]
      · rfl

section Commands
variable {s t : State} {q : Nat} {cmd : List Word} {es : List (List Word)}

theorem State.entries_done (s : State) (q : Nat) (id : Word32) (status : Nat) (ws : List Word) :
    ((s.done q id status ws).queue q).entries = (s.queue q).entries ++ [doneEntry q id status ws] := by
  rw [State.done, State.entries_post, entry_one_eq_doneEntry]
theorem State.queue_post_ne (s : State) {p q : Nat} (h : q ≠ p) (es : List (List Word)) : (s.post q es).queue p = s.queue p := by
  rw [State.post, State.queue_updQueue, if_neg h]
theorem Completes.done (h : Completes s t q es) (id : Word32) (status : Nat) (ws : List Word) :
    Completes s (t.done q id status ws) q (es ++ [doneEntry q id status ws]) := by
  obtain ⟨hhead, hentries⟩ := h
  refine ⟨?_, ?_⟩
  · rw [State.done, State.post, State.queue_updQueue_same, Queue.sqhead_flush, ← hhead]
  · rw [← List.append_assoc, ← hentries]
    exact t.entries_done q id status ws
theorem completes_of_queues (h : t.queues = (s.took q).queues) : Completes s t q [] := by
  have hq : t.queue q = (s.took q).queue q := by rw [State.queue, h]; rfl
  rw [Completes, hq, State.took, State.queue_updQueue_same, List.append_nil]
  exact ⟨rfl, rfl⟩
theorem onlyDone_took (s : State) (q : Nat) (cmd : List Word) (status : Nat) (ws : List Word) :
    OnlyDone s ((s.took q).done q (cmdId cmd) status ws) q cmd status ws := by
  refine ⟨(completes_of_queues rfl).done _ _ _, rfl, fun p hp => ?_⟩
  rw [State.done, State.queue_post_ne _ hp.symm, State.took, State.queue_updQueue, if_neg hp.symm]
/-- A command that a queue has to take is taken. -/
theorem State.command_of_takes {op : Nat} {mask : List Word} (h : Takes s q cmd op mask) (hlo : 1 ≤ op) (hhi : op ≤ 12) (k : State → State) :
    s.command q cmd op mask k = k (s.took q) := by
  obtain ⟨htake, hop, hclear⟩ := h
  simp only [State.command, htake, hop, hclear]
  rw [if_neg (by simp), if_neg (by omega), if_neg (by simp), if_pos trivial]

end Commands

/-! ## LOAD, LAUNCH and CANCEL -/

section Queue
variable {s : State} {q : Nat} {cmd : List Word}

theorem execLoadImage_of_takes {file : List Byte} (h : Takes s q cmd 0x01 [BitVec.allOnes 64, BitVec.allOnes 64]) (hl : file.length = arg cmd 16 8) :
    exec (.loadImage q cmd file) s = .next (
      if imageOk file then
        ((s.took q).updDomain (s.queueDom q) fun d => { d with
          images := AMap.set d.images (s.domain (s.queueDom q)).nextImg (readImage file), nextImg := (s.domain (s.queueDom q)).nextImg + 1 }).done
          q (cmdId cmd) stOk [nat64 (s.domain (s.queueDom q)).nextImg]
      else (s.took q).done q (cmdId cmd) stBadimg []) := by
  change execLoadImage q cmd file s = _
  rw [execLoadImage, if_neg (not_not_intro hl), State.command_of_takes h (by decide) (by decide)]
  cases imageOk file <;> rfl
theorem execLaunch_of_takes (h : Takes s q cmd 0x02 [0xFFFFFFFF0001FFFF, BitVec.allOnes 64]) :
    let n := arg cmd 12 4; let img := arg cmd 8 2
    exec (.launch q cmd) s = .next (
      if n ≠ 0 ∧ (n < 1024 ∨ 2 ^ 20 < n) then (s.took q).done q (cmdId cmd) stBadcmd []
      else if (AMap.find (s.domain (s.queueDom q)).images img).isNone then (s.took q).done q (cmdId cmd) stNohandle []
      else (s.took q).updDomain (s.queueDom q) fun d => { d with
        queued := d.queued ++ [(q, cmdId cmd, img, (cmd.getD 1 0).getLsbD 16, if n = 0 then 16384 else n, cmd.getD 2 0)] }) := by
  intro n img
  change execLaunch q cmd s = _
  rw [execLaunch, State.command_of_takes h (by decide) (by decide)]
  rfl
/-- The launch that a CANCEL names. -/
def isLaunch (q : Nat) (id : Word32) (l : Launch) : Bool := l.q == q && l.id == id
theorem execCancelLaunch_of_takes (h : Takes s q cmd 0x03 [0xFFFFFFFF]) :
    let id : Word32 := BitVec.ofNat 32 (arg cmd 8 4); let d := s.domain (s.queueDom q)
    exec (.cancelLaunch q cmd) s = .next (
      if d.queued.any (fun e => e.1 == q && e.2.1 == id) then
        (((s.took q).updDomain (s.queueDom q) fun d => { d with queued := d.queued.eraseP fun e => e.1 == q && e.2.1 == id }).done
          q id stCancelled []).done q (cmdId cmd) stOk []
      else if (d.launch.any (isLaunch q id)) || d.saves.any (fun e => isLaunch q id e.2.launch) then (s.took q).done q (cmdId cmd) stTooLate []
      else (s.took q).done q (cmdId cmd) stNotfound []) := by
  intro id d
  change execCancelLaunch q cmd s = _
  rw [execCancelLaunch, State.command_of_takes h (by decide) (by decide)]
  rfl

end Queue

end Machine
end Sys2Proof
end

section
/-! The dispatch of a launch (R23, R47, R52, R238): which cores a domain has, and what setting them up leaves. -/

namespace Sys2Proof

/-- A search that sees of each entry its key and something that a set keeps finds as much. -/
theorem AMap.find?_set {α β : Type} (g : Nat → α → β) (p : Nat → β → Bool) (d : α) (m : AMap α) (k : Nat) (v : α)
    (hk : (AMap.find m k).isSome = true) (hv : g k v = g k (AMap.get d m k)) :
    ((AMap.set m k v).find? fun e => p e.1 (g e.1 e.2)).map (fun e => e.1) = (m.find? fun e => p e.1 (g e.1 e.2)).map fun e => e.1 := by
  induction m with
  | nil => cases hk
  | cons e r ih =>
    obtain ⟨j, w⟩ := e
    simp only [AMap.set, AMap.get, AMap.find] at hk hv ⊢
    by_cases hj : k = j
    · subst hj
      simp only [if_true] at hv ⊢
      simp only [List.find?_cons, hv]
      split <;> rfl
    · rw [if_neg (Ne.symm hj)] at hk hv
      rw [if_neg hj, if_neg (by simp [Option.isSome_iff_ne_none.1 hk])]
      simp only [List.find?_cons]
      split
      · rfl
      · exact ih hk hv

namespace Machine

/-! ## The cores of a domain -/

theorem nodup_partsOf (b n : Nat) : (partsOf b n).Nodup := List.nodup_range.map fun _ _ h => Nat.add_left_cancel h
theorem State.nodup_domCores (s : State) (b : Nat) : (s.domCores b).Nodup := by
  refine List.nodup_flatMap.2 ⟨fun p _ => (List.nodup_range.map fun _ _ h => Nat.add_left_cancel h).filter _, ?_⟩
  refine (nodup_partsOf b _).imp fun {p q} hpq => ?_
  rw [Function.onFun, List.disjoint_left]
  intro c hp hq
  obtain ⟨i, hi, rfl⟩ := List.mem_map.1 (List.mem_of_mem_filter hp)
  obtain ⟨j, hj, hc⟩ := List.mem_map.1 (List.mem_of_mem_filter hq)
  rw [List.mem_range] at hi hj
  exact hpq (by omega)

/-- What the domains and partitions of a state give of the places of its cores: where a domain begins, how far it reaches, and the compute cores
of a partition. -/
structure State.SamePlaces (s t : State) : Prop where
  base : ∀ p, t.baseOf p = s.baseOf p
  log2 : ∀ b, (t.domain b).log2 = (s.domain b).log2
  compute : ∀ p, (t.part p).compute = (s.part p).compute

namespace State.SamePlaces
variable {s t u : State}

theorem refl (s : State) : s.SamePlaces s := ⟨fun _ => rfl, fun _ => rfl, fun _ => rfl⟩
theorem trans (h : s.SamePlaces t) (k : t.SamePlaces u) : s.SamePlaces u :=
  ⟨fun p => (k.base p).trans (h.base p), fun b => (k.log2 b).trans (h.log2 b), fun p => (k.compute p).trans (h.compute p)⟩
theorem of_eq (hd : t.domains = s.domains) (hp : t.parts = s.parts) : s.SamePlaces t :=
  ⟨fun p => by simp only [State.baseOf, hd], fun b => by simp only [State.domain, hd], fun p => by simp only [State.part, hp]⟩
theorem updPart {p : Nat} {f : Part → Part} (hf : ∀ q, (f q).compute = q.compute) : s.SamePlaces (s.updPart p f) := by
  refine ⟨fun _ => rfl, fun _ => rfl, fun q => ?_⟩
  rw [State.part_updPart]
  split
  · next h => rw [hf, h]
  · rfl
/-- A change of a listed domain that keeps its size. -/
theorem updDomain {b : Nat} {f : Domain → Domain} (hb : (AMap.find s.domains b).isSome = true) (hf : ∀ d, (f d).log2 = d.log2) :
    s.SamePlaces (s.updDomain b f) := by
  refine ⟨fun p => ?_, fun a => ?_, fun _ => rfl⟩
  · have h := AMap.find?_set (fun _ (d : Domain) => d.log2) (fun a n => decide (a ≤ p) && decide (p < a + 2 ^ n)) {} s.domains b
      (f (s.domain b)) hb (hf _)
    have hbase (u : State) : u.baseOf p =
        ((u.domains.find? fun d => decide (d.1 ≤ p) && decide (p < d.1 + 2 ^ d.2.log2)).map fun e => e.1).getD p := by
      unfold State.baseOf
      split <;> next hd => rw [hd]; rfl
    rw [hbase, hbase]
    exact congrArg (Option.getD · p) h
  · rw [State.domain_updDomain]
    split
    · next h => rw [hf, h]
    · rfl

theorem domParts (h : s.SamePlaces t) (b : Nat) : t.domParts b = s.domParts b := by simp only [State.domParts, h.log2]
theorem isUser (h : s.SamePlaces t) (c : Nat) : t.isUser c = s.isUser c := by simp only [State.isUser, State.isCompute, h.compute]
theorem domCores (h : s.SamePlaces t) (b : Nat) : t.domCores b = s.domCores b := by
  simp only [State.domCores, h.domParts, funext h.isUser]
theorem rel (h : s.SamePlaces t) (c : Nat) : t.rel c = s.rel c := by simp only [State.rel, State.domOf, h.base]
theorem computeCount (h : s.SamePlaces t) (b : Nat) : t.computeCount b = s.computeCount b := by simp only [State.computeCount, h.domParts, h.compute]
theorem specIds (h : s.SamePlaces t) (b : Nat) (p : Spec) : t.specIds b p = s.specIds b p := by
  simp only [State.specIds, h.log2, h.compute, funext h.isUser]
theorem rolesAt (h : s.SamePlaces t) (b : Nat) (img : Image) (r : Nat) : t.rolesAt b img r = s.rolesAt b img r := by
  simp only [State.rolesAt, h.specIds]
theorem resolveGroups (h : s.SamePlaces t) (b : Nat) (img : Image) : t.resolveGroups b img = s.resolveGroups b img := by
  simp only [State.resolveGroups, State.resolveGroup, funext (h.specIds b)]
theorem placementBad (h : s.SamePlaces t) (b : Nat) (img : Image) : t.placementBad b img = s.placementBad b img := by
  have hroles : t.rolesAt b img = s.rolesAt b img := funext (h.rolesAt b img)
  have hrel : t.rel = s.rel := funext h.rel
  rw [State.placementBad, State.placementBad, h.resolveGroups, h.domCores, hroles, hrel]

end State.SamePlaces

theorem State.find_domain_of_ne {s : State} {b : Nat} (h : s.domain b ≠ {}) : (AMap.find s.domains b).isSome = true := by
  rw [State.domain, AMap.get_eq_find] at h
  cases hf : AMap.find s.domains b with
  | none => rw [hf] at h; exact absurd rfl h
  | some d => rfl

end Machine
end Sys2Proof
end

section
/-! Setting up a core (R23, R46, R51, R52): what the arms of its role leave, and its registers. -/

namespace Sys2Proof
namespace Machine

/-! ## What setting up a core leaves -/

/-- Nothing has changed but core c, what waits in its host queues, the counts of its partitions and its check bits. -/
structure State.Leaves (s t : State) (c : Nat) : Prop where
  domains : t.domains = s.domains
  compute : ∀ p, (t.part p).compute = (s.part p).compute
  mem : t.mem = s.mem
  others : ∀ d, d ≠ c → t.core d = s.core d
  entries : ∀ q, (s.queue q).entries <+: (t.queue q).entries

/-- Neither has the pool split of core c, nor any of its contexts. -/
structure State.Arms (s t : State) (c : Nat) : Prop extends State.Leaves s t c where
  frame : (t.core c).rfu = (s.core c).rfu ∧ (t.core c).acc = (s.core c).acc ∧ (t.core c).ctxs = (s.core c).ctxs

theorem State.Leaves.trans {s t u : State} {c : Nat} (h : s.Leaves t c) (k : t.Leaves u c) : s.Leaves u c where
  domains := k.domains.trans h.domains
  compute p := (k.compute p).trans (h.compute p)
  mem := k.mem.trans h.mem
  others d hd := (k.others d hd).trans (h.others d hd)
  entries q := (h.entries q).trans (k.entries q)
theorem State.Leaves.updCore (s : State) (c : Nat) (f : Core → Core) : s.Leaves (s.updCore c f) c :=
  ⟨rfl, fun _ => rfl, rfl, fun _ hd => State.core_updCore_ne s f hd.symm, fun _ => List.prefix_rfl⟩
theorem State.Leaves.samePlaces {s t : State} {c : Nat} (h : s.Leaves t c) : s.SamePlaces t :=
  ⟨fun p => by simp only [State.baseOf, h.domains], fun b => by simp only [State.domain, h.domains], h.compute⟩

theorem Core.blur_eq (k : Core) (a f n : Nat) : k.blur a f n = { k with undef := (k.blur a f n).undef } := by
  induction n generalizing k a f with
  | zero => rfl
  | succ n ih => exact ih { k with undef := AMap.set k.undef a f } (a + 1) (f + 1)
theorem Core.frame_land (k : Core) (h f : Nat) (slot : Slot) (ws : List Word) :
    (k.land h slot ws f).rfu = k.rfu ∧ (k.land h slot ws f).acc = k.acc ∧ (k.land h slot ws f).ctxs = k.ctxs := by
  simp only [Core.land]
  cases (k.chan h).free with
  | none => exact ⟨rfl, rfl, rfl⟩
  | some i =>
    dsimp only
    rw [Core.blur_eq, Core.put_eq]
    exact ⟨rfl, rfl, rfl⟩

namespace State.Arms
variable {s t u : State} {c n h : Nat}

theorem refl (s : State) (c : Nat) : s.Arms s c := ⟨⟨rfl, fun _ => rfl, rfl, fun _ _ => rfl, fun _ => List.prefix_rfl⟩, rfl, rfl, rfl⟩
theorem trans (h : s.Arms t c) (k : t.Arms u c) : s.Arms u c := by
  obtain ⟨hrfu, hacc, hctxs⟩ := h.frame
  obtain ⟨krfu, kacc, kctxs⟩ := k.frame
  exact ⟨h.toLeaves.trans k.toLeaves, krfu.trans hrfu, kacc.trans hacc, kctxs.trans hctxs⟩
theorem updCore {f : Core → Core} (h : s.Arms t c) (hf : ∀ k : Core, (f k).rfu = k.rfu ∧ (f k).acc = k.acc ∧ (f k).ctxs = k.ctxs) :
    s.Arms (t.updCore c f) c := by
  refine h.trans ⟨.updCore t c f, ?_⟩
  rw [State.core_updCore_same]
  exact hf _
theorem ite {p : Prop} [Decidable p] (ht : s.Arms t c) (hu : s.Arms u c) : s.Arms (if p then t else u) c := by split <;> assumption
theorem setCell {v : Cell} (h : s.Arms t c) : s.Arms (t.setCell c n v) c := h.updCore fun _ => ⟨rfl, rfl, rfl⟩
theorem count (p e n : Nat) : s.Arms (s.count p e n) c := by
  refine .ite (refl s c) ⟨⟨rfl, fun q => ?_, rfl, fun _ _ => rfl, fun _ => List.prefix_rfl⟩, rfl, rfl, rfl⟩
  rw [State.part_updPart]
  split
  · next h => rw [h]
  · rfl
theorem land {slot : Slot} {ws : List Word} (h : s.Arms t c) (g : Nat) : s.Arms (t.land c g slot ws) c := by
  have hu := h.updCore fun k => Core.frame_land k g t.free { slot with landed := t.now } ws
  exact ⟨⟨hu.domains, hu.compute, hu.mem, hu.others, hu.entries⟩, hu.frame⟩
theorem toHost (s : State) (c p : Nat) (rec : List Word) : s.Arms (s.toHost p rec) c := by
  refine ⟨⟨rfl, fun _ => rfl, rfl, fun _ _ => rfl, fun q => ?_⟩, rfl, rfl, rfl⟩
  by_cases hq : s.hostQueue p = q
  · subst hq
    rw [State.toHost, State.entries_post]
    exact List.prefix_append ..
  · rw [State.toHost, State.queue_post_ne _ hq]
theorem place {rec : List Word} (h : s.Arms t c) : s.Arms (t.place c none false rec).1 c := by
  refine h.trans ?_
  by_cases hh : t.Homes c
  · rw [State.place_of_homes t c rec hh]
    exact (count ..).land 63
  · rw [State.place_of_not_homes t c rec hh]
    exact (count ..).trans (toHost ..)
theorem fire (h : s.Arms t c) : s.Arms (t.fire c n) c := by
  refine h.trans ?_
  dsimp only [State.fire]
  split
  · exact place (.setCell (refl t c))
  · split
    · exact place (.setCell (refl t c))
    · refine .ite (.updCore (.land (.setCell (refl t c)) _) fun _ => ⟨rfl, rfl, rfl⟩) ?_
      split
      · exact .ite (.updCore (.setCell (.setCell (refl t c))) fun _ => ⟨rfl, rfl, rfl⟩) (.setCell (refl t c))
      · exact .setCell (refl t c)
theorem arms (h : s.Arms t c) (l : List (Nat × Nat × Word)) : s.Arms (l.foldl (fun s a => s.arm c a) t) c := by
  induction l generalizing t with
  | nil => exact h
  | cons a r ih => exact ih (.ite (.fire (.setCell h)) (.setCell h))

end State.Arms

/-! ## Setting up -/

section SetUp
variable (s : State) (base : Nat) (l : Launch) (img : Image) (c : Nat)

/-- Role i has been written to core c, its arms apart, and the check bits b stand (R324). -/
def State.withRole (i : Nat) (b : List ErrSite) : State :=
  { s.updCore c fun k => k.setup (AMap.get {} img.roles i) img.keep l.args (s.rel c) l.lcount (2 ^ (s.domain base).log2) with bad := b }
theorem State.setUp_of_role {i : Nat} (hi : (s.rolesAt base img (s.rel c)).head? = some i) : ∃ b, s.setUp base l img c =
    (AMap.get {} img.roles i).arms.foldl (fun s a => s.arm c a) (s.withRole base l img c i b) := by
  simp only [State.setUp, hi]
  exact ⟨_, rfl⟩
theorem State.core_withRole (i : Nat) (b : List ErrSite) : (s.withRole base l img c i b).core c =
    (s.core c).setup (AMap.get {} img.roles i) img.keep l.args (s.rel c) l.lcount (2 ^ (s.domain base).log2) :=
  s.core_updCore_same c fun k => k.setup (AMap.get {} img.roles i) img.keep l.args (s.rel c) l.lcount (2 ^ (s.domain base).log2)
theorem State.leaves_withRole (i : Nat) (b : List ErrSite) : s.Leaves (s.withRole base l img c i b) c := by
  obtain ⟨hdomains, hcompute, hmem, hothers, hentries⟩ := State.Leaves.updCore s c fun k =>
    k.setup (AMap.get {} img.roles i) img.keep l.args (s.rel c) l.lcount (2 ^ (s.domain base).log2)
  exact ⟨hdomains, hcompute, hmem, hothers, hentries⟩
theorem State.leaves_setUp : s.Leaves (s.setUp base l img c) c := by
  cases hi : (s.rolesAt base img (s.rel c)).head? with
  | none =>
    simp only [State.setUp, hi]
    exact .updCore s c _
  | some i =>
    obtain ⟨b, hb⟩ := s.setUp_of_role base l img c hi
    rw [hb]
    exact (s.leaves_withRole base l img c i b).trans ((State.Arms.refl _ c).arms _).toLeaves
/-- A placed core holds what its role gives (R23). -/
theorem State.core_setUp {i : Nat} (hi : (s.rolesAt base img (s.rel c)).head? = some i) :
    let r := AMap.get {} img.roles i; let k := (s.setUp base l img c).core c
    k.rfu = bits r.poolw 0 4 ∧ k.acc = bits r.poolw 4 8 ∧
      k.ctxs = r.contexts l.args (s.rel c) l.lcount (2 ^ (s.domain base).log2) (bits r.poolw 12 8 * 2048) := by
  obtain ⟨b, hb⟩ := s.setUp_of_role base l img c hi
  have hcore := s.core_withRole base l img c i b
  obtain ⟨hrfu, hacc, hctxs⟩ := ((State.Arms.refl (s.withRole base l img c i b) c).arms (AMap.get {} img.roles i).arms).frame
  rw [hb]
  exact ⟨hrfu.trans (congrArg Core.rfu hcore), hacc.trans (congrArg Core.acc hcore), hctxs.trans (congrArg Core.ctxs hcore)⟩

end SetUp

end Machine
end Sys2Proof
end

section
/-! The dispatch of a launch: every core of its domain is set up, one after another (R344). -/

namespace Sys2Proof
namespace Machine

/-! ## Loops over the cores of a domain -/

section Loop
variable {g : State → Nat → State} {I : State → Prop} {l : List Nat} {s : State} {c : Nat}

theorem State.foldl_core_of_not_mem (hI : ∀ u d, I u → I (g u d)) (hg : ∀ u d e, I u → e ≠ d → (g u d).core e = u.core e) (hc : c ∉ l) (hs : I s) :
    (l.foldl g s).core c = s.core c := by
  induction l generalizing s with
  | nil => rfl
  | cons d r ih =>
    have hcd : c ≠ d := fun e => hc (e ▸ List.mem_cons_self)
    exact (ih (fun hr => hc (List.mem_cons_of_mem d hr)) (hI s d hs)).trans (hg s d c hs hcd)
/-- A core that a loop comes to once is what its round makes of it. -/
theorem State.foldl_core (hI : ∀ u d, I u → I (g u d)) (hg : ∀ u d e, I u → e ≠ d → (g u d).core e = u.core e) (hn : l.Nodup)
    (hc : c ∈ l) (hs : I s) :
    ∃ u, I u ∧ u.core c = s.core c ∧ (l.foldl g s).core c = (g u c).core c := by
  induction l generalizing s with
  | nil => cases hc
  | cons d r ih =>
    obtain ⟨hd, hr⟩ := List.nodup_cons.1 hn
    obtain rfl | hcr := List.mem_cons.1 hc
    · exact ⟨s, hs, rfl, State.foldl_core_of_not_mem hI hg hd (hI s c hs)⟩
    · obtain ⟨u, hu, hcore, hfold⟩ := ih hr hcr (hI s d hs)
      have hne : c ≠ d := fun e => hd (e ▸ hcr)
      exact ⟨u, hu, hcore.trans (hg s d c hs hne), hfold⟩
theorem State.foldl_inv (hI : ∀ u d, I u → I (g u d)) (hs : I s) (l : List Nat) : I (l.foldl g s) := by
  induction l generalizing s with
  | nil => exact hs
  | cons d r ih => exact ih (hI s d hs)

end Loop

/-! ## The registers of a placed core (R23) -/

section Contexts
variable (r : Role) (args : Word) (id lcount lpart sp : Nat)

theorem Role.st_contexts (x : Nat) : (AMap.get {} (r.contexts args id lcount lpart sp) x : Ctx).st = .free := by
  obtain h | h := AMap.get_eq_default_or_mem ({} : Ctx) (r.contexts args id lcount lpart sp) x
  · rw [h]
  · obtain ⟨j, -, hj⟩ := List.mem_map.1 h
    have hctx := (Prod.ext_iff.1 hj).2
    dsimp only at hctx
    rw [← hctx]
    split <;> rfl
theorem Role.ctx_zero_contexts : (AMap.get {} (r.contexts args id lcount lpart sp) 0 : Ctx) =
    { rkey0 := r.rkey0, rkey1 := r.rkey1, pc := if r.entry = 0xFFFFFFFF then 0 else r.entry.toNat
      s := [(1, args), (2, nat64 id), (3, nat64 lcount), (4, nat64 lpart), (62, localAddr sp)] } := rfl

end Contexts

/-! ## Dispatch -/

section Begin
variable (s : State) (dom q : Nat) (id : Word32) (l : Launch) (img : Image)

/-- What a dispatch keeps of the state v in which its cores begin to be set up. -/
structure State.SetsUp (v t : State) : Prop where
  domains : t.domains = v.domains
  compute : ∀ p, (t.part p).compute = (v.part p).compute
  mem : t.mem = v.mem
  entries : ∀ q, (v.queue q).entries <+: (t.queue q).entries

/-- The state in which the cores of a dispatched launch begin to be set up. -/
def State.launched (s : State) : State :=
  let s := s.done q id stOk []
  let s := s.updDomain dom fun d => { d with launch := some l }
  (s.domParts dom).foldl (fun s p => s.updPart p fun t => { t with pm := [], tts := [], jq := [], gates := [] }) s

theorem State.beginLaunch_eq : s.beginLaunch dom q id l img =
    ((s.launched dom q id l).domCores dom).foldl (fun s c => s.setUp dom l img c) (s.launched dom q id l) := rfl

theorem State.launched_facts (hd : (AMap.find s.domains dom).isSome = true) : let v := s.launched dom q id l
    s.SamePlaces v ∧ v.domain dom = { s.domain dom with launch := some l } ∧ v.mem = s.mem ∧ doneEntry q id 0 [] ∈ (v.queue q).entries := by
  intro v
  let u := (s.done q id stOk []).updDomain dom fun d => { d with launch := some l }
  let I := fun w : State => u.SamePlaces w ∧ w.domains = u.domains ∧ w.mem = u.mem ∧ w.queues = u.queues
  have hv : I v := by
    refine State.foldl_inv (I := I) (fun w p hw => ?_) ⟨.refl u, rfl, rfl, rfl⟩ _
    obtain ⟨hplaces, hdomains, hmem, hqueues⟩ := hw
    exact ⟨hplaces.trans (.updPart fun _ => rfl), hdomains, hmem, hqueues⟩
  obtain ⟨hplaces, hdomains, hmem, hqueues⟩ := hv
  have hdone : s.SamePlaces (s.done q id stOk []) := .of_eq rfl rfl
  have hu : s.SamePlaces u := hdone.trans (.updDomain (f := fun d => { d with launch := some l }) hd fun _ => rfl)
  refine ⟨hu.trans hplaces, ?_, hmem, ?_⟩
  · rw [State.domain, hdomains]
    exact State.domain_updDomain_same (s := s.done q id stOk []) ..
  · have hq : v.queue q = (s.done q id stOk []).queue q := by rw [State.queue, hqueues]; rfl
    rw [hq, State.entries_done]
    exact List.mem_append_right _ (List.mem_singleton_self _)

theorem State.SetsUp.setUp {v t : State} (h : v.SetsUp t) (c : Nat) : v.SetsUp (t.setUp dom l img c) := by
  obtain ⟨hdomains, hcompute, hmem, -, hentries⟩ := t.leaves_setUp dom l img c
  exact ⟨hdomains.trans h.domains, fun p => (hcompute p).trans (h.compute p), hmem.trans h.mem, fun q => (h.entries q).trans (hentries q)⟩
theorem State.SetsUp.samePlaces {v t : State} (h : v.SetsUp t) : v.SamePlaces t :=
  ⟨fun p => by simp only [State.baseOf, h.domains], fun b => by simp only [State.domain, h.domains], h.compute⟩

/-- A dispatched launch stands in its domain with its DONE posted, and every core of the domain that has a role holds what the role gives. -/
theorem State.beginLaunch_facts (hd : (AMap.find s.domains dom).isSome = true) : let t := s.beginLaunch dom q id l img
    t.domain dom = { s.domain dom with launch := some l } ∧ t.mem = s.mem ∧ doneEntry q id 0 [] ∈ (t.queue q).entries ∧
    ∀ c ∈ s.domCores dom, ∀ i, (s.rolesAt dom img (s.rel c)).head? = some i → let r := AMap.get {} img.roles i
      (t.core c).rfu = bits r.poolw 0 4 ∧ (t.core c).acc = bits r.poolw 4 8 ∧
        (t.core c).ctxs = r.contexts l.args (s.rel c) l.lcount (2 ^ (s.domain dom).log2) (bits r.poolw 12 8 * 2048) := by
  intro t
  obtain ⟨hplaces, hdomain, hmem, hdone⟩ := s.launched_facts dom q id l hd
  generalize hv : s.launched dom q id l = v at hplaces hdomain hmem hdone
  have ht : t = (s.domCores dom).foldl (fun s c => s.setUp dom l img c) v := by
    rw [← hplaces.domCores, ← hv]; rfl
  have hI : ∀ u d, v.SetsUp u → v.SetsUp (u.setUp dom l img d) := fun u d hu => hu.setUp dom l img d
  have hvv : v.SetsUp v := ⟨rfl, fun _ => rfl, rfl, fun _ => List.prefix_rfl⟩
  have hall : v.SetsUp t := ht ▸ State.foldl_inv hI hvv _
  refine ⟨?_, hall.mem.trans hmem, (hall.entries q).subset hdone, fun c hc i hi => ?_⟩
  · rw [← hdomain, State.domain, hall.domains]; rfl
  · obtain ⟨u, hu, -, hcore⟩ := State.foldl_core hI (fun u d e _ he => (u.leaves_setUp dom l img d).others e he) (s.nodup_domCores dom) hc hvv
    have hsu := hplaces.trans hu.samePlaces
    have hrole : (u.rolesAt dom img (u.rel c)).head? = some i := by rw [hsu.rel, hsu.rolesAt, hi]
    obtain ⟨hrfu, hacc, hctxs⟩ := u.core_setUp dom l img c hrole
    rw [hsu.rel, hsu.log2] at hctxs
    rw [ht, hcore]
    exact ⟨hrfu, hacc, hctxs⟩

end Begin

section Dispatch
variable {s : State} {dom : Nat}

theorem execLaunchDispatch_of_queued {p h N : Nat} {k : Word32} {det : Bool} {args : Word} {rest : List (Nat × Word32 × Nat × Bool × Nat × Word)}
    {I : Image} (hq : (s.domain dom).queued = (p, k, h, det, N, args) :: rest) (hl : (s.domain dom).launch = none) (hs : (s.domain dom).saves = [])
    (hi : AMap.find (s.domain dom).images h = some I) (hup : ∀ x ∈ s.domParts dom, (s.part x).down = false)
    (hplace : s.placementBad dom I = false) (hd : (AMap.find s.domains dom).isSome = true) :
    exec (.launchDispatch dom) s = .next ((s.updDomain dom fun d => { d with queued := rest }).beginLaunch dom p k
      { q := p, id := k, image := h, det := det, quantum := N, args := args, lcount := s.computeCount dom, groups := s.resolveGroups dom I } I) := by
  have hsame : s.SamePlaces (s.updDomain dom fun d => { d with queued := rest }) := .updDomain hd fun _ => rfl
  have hdown : (s.domParts dom).any (fun x => (s.part x).down) = false := List.any_eq_false.2 fun x hx => by simp [hup x hx]
  have hpart : (s.updDomain dom fun d => { d with queued := rest }).part = s.part := rfl
  change execLaunchDispatch dom s = _
  simp only [execLaunchDispatch, hq, hl, hs, hi, hsame.domParts, hpart, hdown, hsame.placementBad, hplace, hsame.computeCount, hsame.resolveGroups]
  rfl
theorem execLaunchDispatch_of_idle (h : (s.domain dom).queued = [] ∨ (s.domain dom).launch ≠ none ∨ (s.domain dom).saves ≠ []) :
    exec (.launchDispatch dom) s = .next s := by
  change execLaunchDispatch dom s = _
  unfold execLaunchDispatch
  dsimp only
  split
  · next hq =>
    rw [if_pos]
    rw [hq] at h
    obtain h | h | h := h
    · cases h
    · simp [Option.isSome_iff_ne_none.2 h]
    · simp [h]
  · rfl

end Dispatch

end Machine
end Sys2Proof
end

section
/-! The go, the sweeps and the end of a launch (R13, R178, R238 to R240), and the statement about launches. -/

namespace Sys2Proof
namespace Machine

/-! ## The go (R238) -/

section Go
variable {s : State} {dom : Nat} {l : Launch}

theorem State.launch_updLaunch (h : (s.domain dom).launch = some l) (f : Launch → Launch) :
    ((s.updLaunch dom f).domain dom).launch = some (f l) := by
  rw [State.updLaunch, State.domain_updDomain_same, h]; rfl
theorem execGo_of_setup (h : (s.domain dom).launch = some l) (hp : l.phase = .setup) :
    exec (.go dom) s = .next (s.updLaunch dom fun l => { l with phase := .going (8 * (s.now / 8 + 1) + 160) }) := by
  change execGo dom s = _
  simp only [execGo, h, hp]
theorem execGo_of_other (h : (s.domain dom).launch = some l) (hp : l.phase ≠ .setup) : exec (.go dom) s = .next s := by
  change execGo dom s = _
  simp only [execGo, h]
/-- C0 of a core that has an entry point becomes READY. -/
def State.readyC0 (s : State) (c : Nat) : State := if (s.core c).starts then s.updCtx c 0 fun k => { k with st := .ready } else s
theorem State.core_readyC0_ne (s : State) {c d : Nat} (h : d ≠ c) : (s.readyC0 c).core d = s.core d := by
  unfold State.readyC0
  split
  · exact State.core_updCtx_ne _ _ _ h.symm
  · rfl
theorem execGoComplete_of_going {g : Nat} (h : (s.domain dom).launch = some l) (hp : l.phase = .going g) (hg : g ≤ s.now) (hr : l.resumed = false) :
    exec (.goComplete dom) s = .next ((s.domCores dom).foldl State.readyC0
      (s.updLaunch dom fun l => { l with phase := .running, start := s.now, qstart := if l.resumed then l.qstart else s.now })) := by
  change execGoComplete dom s = _
  simp only [execGoComplete, h, hp, if_neg (Nat.not_lt.2 hg), hr]
  rfl
theorem execGoComplete_of_early {g : Nat} (h : (s.domain dom).launch = some l) (hp : l.phase = .going g) (hg : s.now < g) :
    exec (.goComplete dom) s = .next s := by
  change execGoComplete dom s = _
  simp only [execGoComplete, h, hp, if_pos hg]
theorem State.foldl_readyC0 (v : State) (cs : List Nat) (hn : cs.Nodup) : let t := cs.foldl State.readyC0 v
    t.domains = v.domains ∧ t.mem = v.mem ∧
      ∀ c ∈ cs, (v.core c).starts = true → (t.ctx c 0).st = .ready ∧ ∀ x, x ≠ 0 → t.ctx c x = v.ctx c x := by
  have hI : ∀ (u : State) (d : Nat), (u.domains = v.domains ∧ u.mem = v.mem) → (u.readyC0 d).domains = v.domains ∧ (u.readyC0 d).mem = v.mem := by
    intro u d hu
    unfold State.readyC0
    split <;> exact hu
  obtain ⟨hdomains, hmem⟩ := State.foldl_inv hI ⟨rfl, rfl⟩ cs
  refine ⟨hdomains, hmem, fun c hc hstarts => ?_⟩
  obtain ⟨u, -, hu, hcore⟩ := State.foldl_core hI (fun u d e _ he => u.core_readyC0_ne he) hn hc ⟨rfl, rfl⟩
  have hready : u.readyC0 c = u.updCtx c 0 fun k => { k with st := .ready } := if_pos (by rw [hu]; exact hstarts)
  have hctx (x : Nat) : (cs.foldl State.readyC0 v).ctx c x = if 0 = x then { v.ctx c 0 with st := .ready } else v.ctx c x := by
    rw [State.ctx, hcore, hready]
    change (u.updCtx c 0 _).ctx c x = _
    rw [State.ctx_updCtx, State.ctx, State.ctx, hu]; rfl
  exact ⟨by rw [hctx, if_pos rfl], fun x hx => by rw [hctx, if_neg hx.symm]⟩

end Go

/-! ## Sweeps (R239, R240) -/

section Sweep
variable {s : State} {dom : Nat} {l : Launch}

theorem execSweep_of_running (h : (s.domain dom).launch = some l) (hp : l.phase = .running) (hdet : l.det = false) (hat : (s.now - l.start) % 8 = 0)
    (hs : l.sweep = none) : exec (.sweep dom) s = .next (
      if s.tapIdle dom l false then
        s.updLaunch dom fun l => { l with sweep := some (s.now + 168), now := some (true, (s.traffic dom).1, (s.traffic dom).2) }
      else s) := by
  change execSweep dom s = _
  simp only [execSweep, h, hp, LPhase.sweeps, hdet, hat, hs]
  rfl
theorem execLaunchEnd_of_early {t0 a b : Nat} (h : (s.domain dom).launch = some l) (hs : l.sweep = some t0) (hn : l.now = some (true, a, b))
    (ht : s.now < t0) : exec (.launchEnd dom) s = .next s := by
  change execLaunchEnd dom s = _
  simp only [execLaunchEnd, h, hs, hn, if_pos ht]
theorem execLaunchEnd_of_unsettled {t0 a b : Nat} (h : (s.domain dom).launch = some l) (hs : l.sweep = some t0) (hn : l.now = some (true, a, b))
    (ht : t0 ≤ s.now) (hab : a ≠ b ∨ l.prev ≠ some (a, b)) :
    exec (.launchEnd dom) s = .next (s.updLaunch dom fun l => { l with sweep := none, now := none, prev := some (a, b) }) := by
  change execLaunchEnd dom s = _
  simp only [execLaunchEnd, h, hs, hn, if_neg (Nat.not_lt.2 ht)]
  rw [if_neg]
  · rfl
  · simpa [imp_iff_not_or] using hab
theorem execLaunchEnd_of_settled {t0 a b : Nat} (h : (s.domain dom).launch = some l) (hp : l.phase = .running) (hs : l.sweep = some t0)
    (hn : l.now = some (true, a, b)) (ht : t0 ≤ s.now) (hab : a = b) (hprev : l.prev = some (a, b)) :
    exec (.launchEnd dom) s = .next (s.endLaunch dom stOk) := by
  change execLaunchEnd dom s = _
  simp only [execLaunchEnd, h, hs, hn, if_neg (Nat.not_lt.2 ht), hab, hprev, hp]
  simp

end Sweep

/-! ## Records on their way at the end (R178) -/

/-- A record on its way in a domain that ends goes to the host. -/
def State.endRecord (s : State) (dom : Nat) (p : Packet) : State :=
  match p.body with
  | .fault _ rec _ => if s.baseOf (partOfKey p.dst) == dom then (s.count (partOfKey p.dst) 15 1).toHost (partOfKey p.dst) rec else s
  | _ => s
theorem State.recordsOut_eq (s : State) (dom : Nat) : s.recordsOut dom = s.net.foldl (fun s p => s.endRecord dom p) s := rfl

/-- Nothing has changed but the counts of the partitions, and what waits in the host queues behind what waited there. -/
structure State.Reports (s t : State) : Prop where
  eq : t = { s with parts := t.parts, queues := t.queues }
  compute : ∀ p, (t.part p).compute = (s.part p).compute
  entries : ∀ q, (s.queue q).entries <+: (t.queue q).entries

section Records
variable {s t u : State} {dom : Nat} {l : Launch}

theorem State.Reports.trans (h : s.Reports t) (k : t.Reports u) : s.Reports u := by
  refine ⟨?_, fun p => (k.compute p).trans (h.compute p), fun q => (h.entries q).trans (k.entries q)⟩
  have hk := k.eq
  rw [h.eq] at hk
  exact hk
theorem State.Reports.refl (s : State) : s.Reports s := ⟨rfl, fun _ => rfl, fun _ => List.prefix_rfl⟩
theorem State.Reports.hostQueue (h : s.Reports t) (hl : (s.domain dom).launch = some l) {p : Nat} (hp : s.baseOf p = dom) :
    t.hostQueue p = l.hostq.getD l.q := by
  have hb : t.baseOf p = dom := by rw [h.eq]; exact hp
  have hd : (t.domain dom).launch = some l := by rw [h.eq]; exact hl
  simp only [State.hostQueue, hb, hd]
theorem State.reports_count_toHost (s : State) (p : Nat) (rec : List Word) : s.Reports ((s.count p 15 1).toHost p rec) := by
  have harms := (State.Arms.count (s := s) (c := 0) p 15 1).trans (State.Arms.toHost _ 0 p rec)
  exact ⟨rfl, harms.compute, harms.entries⟩
theorem State.reports_endRecord (s : State) (dom : Nat) (p : Packet) : s.Reports (s.endRecord dom p) := by
  unfold State.endRecord
  split
  · split
    · exact s.reports_count_toHost ..
    · exact .refl s
  · exact .refl s
theorem State.reports_foldl (ps : List Packet) (h : s.Reports t) : s.Reports (ps.foldl (fun s p => s.endRecord dom p) t) := by
  induction ps generalizing t with
  | nil => exact h
  | cons p r ih => exact ih (h.trans (t.reports_endRecord dom p))
/-- Each record of the domain stands in the launch's host queue. -/
theorem State.mem_entries_foldl_endRecord (ps : List Packet) (h : s.Reports t) (hl : (s.domain dom).launch = some l) {g : Nat} {w : List Word}
    {r : Bool} {p : Packet} (hp : p ∈ ps) (hbody : p.body = .fault g w r) (hdom : s.baseOf (partOfKey p.dst) = dom) :
    w ∈ ((ps.foldl (fun s p => s.endRecord dom p) t).queue (l.hostq.getD l.q)).entries := by
  induction ps generalizing t with
  | nil => cases hp
  | cons q rest ih =>
    have hq := h.trans (t.reports_endRecord dom q)
    obtain rfl | hp := List.mem_cons.1 hp
    · refine (State.reports_foldl rest (.refl (t.endRecord dom p))).entries _ |>.subset ?_
      have hb : t.baseOf (partOfKey p.dst) = dom := by rw [h.eq]; exact hdom
      have hout : t.endRecord dom p = (t.count (partOfKey p.dst) 15 1).toHost (partOfKey p.dst) w := by
        simp only [State.endRecord, hbody, hb, beq_self_eq_true, if_true]
      have hhost : (t.count (partOfKey p.dst) 15 1).hostQueue (partOfKey p.dst) = l.hostq.getD l.q := h.hostQueue hl hdom
      rw [hout, State.toHost, hhost, State.entries_post]
      exact List.mem_append_right _ (List.mem_cons_of_mem _ (List.mem_singleton_self _))
    · exact ih hq hp
theorem State.foldl_endRecord_eq (ps : List Packet) (h : ∀ g w r, ∀ p ∈ ps, p.body = .fault g w r → s.baseOf (partOfKey p.dst) ≠ dom) :
    ps.foldl (fun s p => s.endRecord dom p) s = s := by
  induction ps with
  | nil => rfl
  | cons p r ih =>
    have hp : s.endRecord dom p = s := by
      unfold State.endRecord
      split
      · next hb => rw [if_neg (by simpa using h _ _ _ p List.mem_cons_self hb)]
      · rfl
    rw [List.foldl_cons, hp]
    exact ih fun g w r q hq => h g w r q (List.mem_cons_of_mem _ hq)

end Records

/-! ## The end (R13, R240) -/

/-- A core of a launch that has ended. -/
def Core.ended (k : Core) : Core :=
  { k.pushAll.idle with handler := [], tileQ := [], event := { k.event with owner := none }, stealOut := none, hheld := none, tapped := false }
theorem Core.ctxs_entered (k : Core) (e : LaneEntry) : (k.entered e).ctxs = k.ctxs := by
  unfold Core.entered
  split
  · rfl
  · split <;> rfl
theorem Core.ctxs_foldl_entered (es : List LaneEntry) (k : Core) : (es.foldl Core.entered k).ctxs = k.ctxs := by
  induction es generalizing k with
  | nil => rfl
  | cons e r ih => exact (ih _).trans (k.ctxs_entered e)
theorem Core.ctxs_pushAll (k : Core) : k.pushAll.ctxs = k.ctxs := Core.ctxs_foldl_entered ..
theorem Core.ctx_ended (k : Core) (x : Nat) : (k.ended.ctx x).st = .free ∧ (k.ended.ctx x).s = (k.ctx x).s ∧ (k.ended.ctx x).rord = (k.ctx x).rord ∧
    (k.ended.ctx x).flags = (k.ctx x).flags := by
  have hctxs : k.ended.ctxs = k.ctxs.map fun e => (e.1, e.2.idle) := by rw [← k.ctxs_pushAll]; rfl
  have hfind := AMap.find_map (fun _ => Ctx.idle) k.ctxs x
  rw [Core.ctx, Core.ctx, hctxs, AMap.get_eq_find, AMap.get_eq_find, hfind]
  cases AMap.find k.ctxs x <;> exact ⟨rfl, rfl, rfl, rfl⟩

section End
variable {s : State} {dom : Nat} {l : Launch}

/-- The entry with which a launch ends (R342). -/
def State.endEntry (s : State) (dom status : Nat) (l : Launch) : List Word := entry 2 dom l.id.toNat status [nat64 (s.cycles dom)]
/-- Nothing of a domain is on its way. -/
def State.without (s : State) (dom : Nat) : State :=
  let inD := fun (c : Nat) => s.baseOf (partOfKey c) == dom
  { s with
    net := s.net.filter fun p => !inD p.src && !inD p.dst
    loads := s.loads.filter fun q => !inD q.core
    jobs := s.jobs.filter fun j => !inD j.core
    fins := s.fins.filter fun f => !inD f.core }
/-- The state in which a launch is over, its cores still to be emptied. -/
def State.overLaunch (s : State) (dom status : Nat) (l : Launch) : State :=
  (((s.recordsOut dom).post l.q [s.endEntry dom status l]).without dom).updDomain dom fun d => { d with launch := none }
theorem State.endLaunch_eq (status : Nat) (h : (s.domain dom).launch = some l) :
    s.endLaunch dom status = ((s.overLaunch dom status l).domCores dom).foldl (fun t c => t.updCore c Core.ended) (s.overLaunch dom status l) := by
  simp only [State.endLaunch, h]
  rfl

end End

end Machine
end Sys2Proof
end

section
/-! What the end of a launch leaves (R13, R178, R240). -/

namespace Sys2Proof
namespace Machine

section End
variable {s : State} {dom : Nat} {l : Launch} (status : Nat)

theorem State.reports_recordsOut (s : State) (dom : Nat) : s.Reports (s.recordsOut dom) := by
  rw [State.recordsOut_eq]
  exact State.reports_foldl _ (.refl s)
theorem State.Reports.samePlaces {t : State} (h : s.Reports t) : s.SamePlaces t := by
  have hdomains : t.domains = s.domains := by rw [h.eq]
  exact ⟨fun p => by simp only [State.baseOf, hdomains], fun b => by simp only [State.domain, hdomains], h.compute⟩

theorem State.overLaunch_facts (h : (s.domain dom).launch = some l) : let v := s.overLaunch dom status l
    s.SamePlaces v ∧ (v.domain dom).launch = none ∧ v.mem = s.mem ∧ v.cores = s.cores ∧
      v.queues = ((s.recordsOut dom).post l.q [s.endEntry dom status l]).queues := by
  have hrep := s.reports_recordsOut dom
  have hne : s.domain dom ≠ {} := fun hd => by rw [hd] at h; cases h
  let u := ((s.recordsOut dom).post l.q [s.endEntry dom status l]).without dom
  have hu : s.SamePlaces u := hrep.samePlaces.trans (.of_eq rfl rfl)
  have hlisted : (AMap.find u.domains dom).isSome = true := by
    have hdomains : u.domains = s.domains := (congrArg State.domains hrep.eq :)
    rw [hdomains]
    exact State.find_domain_of_ne hne
  refine ⟨hu.trans (.updDomain hlisted fun _ => rfl), ?_, ?_, ?_, rfl⟩
  · rw [State.overLaunch, State.domain_updDomain_same]
  · exact (congrArg State.mem hrep.eq :)
  · exact (congrArg State.cores hrep.eq :)

/-- The launch is over, each core of its domain has ended, and its host queue holds the records on their way and the LAUNCHEND. -/
theorem State.endLaunch_facts (h : (s.domain dom).launch = some l) : let t := s.endLaunch dom status
    (t.domain dom).launch = none ∧ t.mem = s.mem ∧ t.queues = ((s.recordsOut dom).post l.q [s.endEntry dom status l]).queues ∧
      ∀ c ∈ s.domCores dom, t.core c = (s.core c).ended := by
  obtain ⟨hplaces, hlaunch, hmem, hcores, hqueues⟩ := State.overLaunch_facts status h
  rw [State.endLaunch_eq status h, hplaces.domCores]
  generalize s.overLaunch dom status l = v at hlaunch hmem hcores hqueues
  have hI : ∀ (u : State) (c : Nat), (u.domains = v.domains ∧ u.mem = v.mem ∧ u.queues = v.queues) →
      (u.updCore c Core.ended).domains = v.domains ∧ (u.updCore c Core.ended).mem = v.mem ∧ (u.updCore c Core.ended).queues = v.queues :=
    fun _ _ hu => hu
  obtain ⟨hd, hm, hq⟩ := State.foldl_inv hI ⟨rfl, rfl, rfl⟩ (s.domCores dom)
  refine ⟨?_, hm.trans hmem, hq.trans hqueues, fun c hc => ?_⟩
  · rw [← hlaunch, State.domain, hd]; rfl
  · obtain ⟨u, -, hu, hcore⟩ := State.foldl_core hI (fun u d e _ he => State.core_updCore_ne u _ he.symm) (s.nodup_domCores dom) hc ⟨rfl, rfl, rfl⟩
    have hv : v.core c = s.core c := by rw [State.core, hcores]; rfl
    rw [hcore, State.core_updCore_same, hu, hv]

/-- What stood in a queue after the records on their way stands there at the end. -/
theorem State.subset_entries_endLaunch (h : (s.domain dom).launch = some l) (q : Nat) :
    ((s.recordsOut dom).queue q).entries ⊆ ((s.endLaunch dom status).queue q).entries := by
  obtain ⟨-, -, hqueues, -⟩ := State.endLaunch_facts status h
  have hq : (s.endLaunch dom status).queue q = ((s.recordsOut dom).post l.q [s.endEntry dom status l]).queue q := by rw [State.queue, hqueues]; rfl
  rw [hq]
  by_cases hlq : l.q = q
  · subst hlq
    rw [State.entries_post]
    exact List.subset_append_left _ _
  · rw [State.queue_post_ne _ hlq]
    exact List.Subset.refl _
theorem State.mem_entries_endLaunch (h : (s.domain dom).launch = some l) {g : Nat} {w : List Word} {r : Bool} {p : Packet} (hp : p ∈ s.net)
    (hbody : p.body = .fault g w r) (hdom : s.baseOf (partOfKey p.dst) = dom) :
    w ∈ ((s.endLaunch dom status).queue (s.hostQueue (partOfKey p.dst))).entries := by
  have hhost : s.hostQueue (partOfKey p.dst) = l.hostq.getD l.q := (State.Reports.refl s).hostQueue h hdom
  refine State.subset_entries_endLaunch status h _ ?_
  rw [hhost, State.recordsOut_eq]
  exact State.mem_entries_foldl_endRecord s.net (.refl s) h hp hbody hdom
/-- The LAUNCHEND stands behind the records that were on their way, and alone where there were none. -/
theorem State.entries_endLaunch (h : (s.domain dom).launch = some l) :
    ∃ es, ((s.endLaunch dom status).queue l.q).entries = (s.queue l.q).entries ++ es ++ [s.endEntry dom status l] ∧
      ((∀ g w r, ∀ p ∈ s.net, p.body = .fault g w r → s.baseOf (partOfKey p.dst) ≠ dom) → es = []) := by
  obtain ⟨-, -, hqueues, -⟩ := State.endLaunch_facts status h
  have hq : (s.endLaunch dom status).queue l.q = ((s.recordsOut dom).post l.q [s.endEntry dom status l]).queue l.q := by
    rw [State.queue, hqueues]; rfl
  obtain ⟨es, hes⟩ := (s.reports_recordsOut dom).entries l.q
  refine ⟨es, by rw [hq, State.entries_post, hes], fun hnone => ?_⟩
  have hsame : s.recordsOut dom = s := (s.recordsOut_eq dom).trans (State.foldl_endRecord_eq s.net hnone)
  rw [hsame] at hes
  exact List.append_right_eq_self.1 hes

end End

end Machine
end Sys2Proof
end

section
/-! The statement about launches: from the queue to the end (R238 to R240, R341, R344). -/

namespace Sys2Proof
namespace Machine

theorem answers_of_eq {i : Instr} {s t u : State} {P : State → Prop} (h : exec i s = .next t) (ht : t = u) (hp : P u) : Answers i s P :=
  ⟨u, ht ▸ h, hp⟩

section Statement
variable {s : State} {q dom : Nat} {cmd : List Word} {l : Launch}

/-- LOAD of an image gives it the next handle. -/
theorem loadImage_of_image {file : List Byte} (h : Takes s q cmd 0x01 [BitVec.allOnes 64, BitVec.allOnes 64]) (hl : file.length = arg cmd 16 8)
    (hf : imageOk file = true) : let base := s.queueDom q; let D := s.domain base
    Answers (.loadImage q cmd file) s fun t => Done s t q cmd 0 [BitVec.ofNat 64 D.nextImg] ∧
      AMap.find (t.domain base).images D.nextImg = some (readImage file) ∧ (t.domain base).nextImg = D.nextImg + 1 ∧
      t.cores = s.cores ∧ t.mem = s.mem := by
  intro base D
  let f := fun (d : Domain) => { d with images := AMap.set D.images D.nextImg (readImage file), nextImg := D.nextImg + 1 }
  let u := (s.took q).updDomain base f
  let t := u.done q (cmdId cmd) stOk [nat64 D.nextImg]
  have hdomain : t.domain base = f D := State.domain_updDomain_same (s.took q) base f
  refine answers_of_eq (u := t) (execLoadImage_of_takes h hl) (if_pos hf) ⟨(completes_of_queues rfl).done _ _ _, ?_, ?_, rfl, rfl⟩
  · rw [hdomain]
    exact AMap.find_set_same ..
  · rw [hdomain]
theorem loadImage_of_no_image {file : List Byte} (h : Takes s q cmd 0x01 [BitVec.allOnes 64, BitVec.allOnes 64]) (hl : file.length = arg cmd 16 8)
    (hf : imageOk file = false) : Answers (.loadImage q cmd file) s (OnlyDone s · q cmd 2 []) :=
  answers_of_eq (execLoadImage_of_takes h hl) (if_neg (by simp [hf])) (onlyDone_took ..)

/-- LAUNCH of a known image is queued behind the launches that wait. -/
theorem launch_of_image (h : Takes s q cmd 0x02 [0xFFFFFFFF0001FFFF, BitVec.allOnes 64])
    (hn : arg cmd 12 4 = 0 ∨ (1024 ≤ arg cmd 12 4 ∧ arg cmd 12 4 ≤ 2 ^ 20))
    (hi : (AMap.find (s.domain (s.queueDom q)).images (arg cmd 8 2)).isSome = true) :
    Answers (.launch q cmd) s fun t => Completes s t q [] ∧ t.cores = s.cores ∧ (t.domain (s.queueDom q)).queued = (s.domain (s.queueDom q)).queued ++
        [(q, cmdId cmd, arg cmd 8 2, (cmd.getD 1 0).getLsbD 16, if arg cmd 12 4 = 0 then 16384 else arg cmd 12 4, cmd.getD 2 0)] := by
  have himage : ¬(AMap.find (s.domain (s.queueDom q)).images (arg cmd 8 2)).isNone = true :=
    mt Option.isNone_iff_eq_none.1 (Option.isSome_iff_ne_none.1 hi)
  refine answers_of_eq (execLaunch_of_takes h) ((if_neg (by omega)).trans (if_neg himage)) ⟨completes_of_queues rfl, rfl, ?_⟩
  rw [State.domain_updDomain_same]
  rfl
theorem launch_of_no_image (h : Takes s q cmd 0x02 [0xFFFFFFFF0001FFFF, BitVec.allOnes 64])
    (hn : arg cmd 12 4 = 0 ∨ (1024 ≤ arg cmd 12 4 ∧ arg cmd 12 4 ≤ 2 ^ 20)) (hi : AMap.find (s.domain (s.queueDom q)).images (arg cmd 8 2) = none) :
    Answers (.launch q cmd) s (OnlyDone s · q cmd 3 []) :=
  answers_of_eq (execLaunch_of_takes h) ((if_neg (by omega)).trans (if_pos (by rw [hi]; rfl))) (onlyDone_took ..)
theorem launch_of_bad_quantum (h : Takes s q cmd 0x02 [0xFFFFFFFF0001FFFF, BitVec.allOnes 64]) (hn : arg cmd 12 4 ≠ 0)
    (hr : arg cmd 12 4 < 1024 ∨ 2 ^ 20 < arg cmd 12 4) : Answers (.launch q cmd) s (OnlyDone s · q cmd 1 []) :=
  answers_of_eq (execLaunch_of_takes h) (if_pos ⟨hn, hr⟩) (onlyDone_took ..)

/-- CANCEL takes the launch that it names out of the queue. -/
theorem cancel_of_queued (h : Takes s q cmd 0x03 [0xFFFFFFFF]) :
    let base := s.queueDom q; let D := s.domain base; let id : Word32 := BitVec.ofNat 32 (arg cmd 8 4)
    (∃ e ∈ D.queued, e.1 = q ∧ e.2.1 = id) → Answers (.cancelLaunch q cmd) s fun t =>
      Completes s t q [doneEntry q id 13 [], doneEntry q (cmdId cmd) 0 []] ∧
      (t.domain base).queued.length + 1 = D.queued.length ∧ t.cores = s.cores := by
  rintro base D id ⟨e, he, hq, hid⟩
  have hany : D.queued.any (fun e => e.1 == q && e.2.1 == id) = true := List.any_eq_true.2 ⟨e, he, by simp [hq, hid]⟩
  refine answers_of_eq (execCancelLaunch_of_takes h) (if_pos hany) ⟨((completes_of_queues rfl).done _ _ _).done _ _ _, ?_, rfl⟩
  let u := (s.took q).updDomain base fun d => { d with queued := d.queued.eraseP fun e => e.1 == q && e.2.1 == id }
  have hqueued : (u.domain base).queued = D.queued.eraseP fun e => e.1 == q && e.2.1 == id := by
    rw [State.domain_updDomain_same]
    rfl
  change (u.domain base).queued.length + 1 = _
  rw [hqueued, List.length_eraseP_of_mem he (by simp [hq, hid])]
  exact Nat.sub_add_cancel (List.length_pos_of_mem he)
/-- What no launch in the queue answers to has begun, or is not known. -/
theorem cancel_of_not_queued (h : Takes s q cmd 0x03 [0xFFFFFFFF]) :
    let D := s.domain (s.queueDom q); let id : Word32 := BitVec.ofNat 32 (arg cmd 8 4)
    (∀ e ∈ D.queued, ¬(e.1 = q ∧ e.2.1 = id)) →
      (D.launch.any (isLaunch q id) = true → Answers (.cancelLaunch q cmd) s (OnlyDone s · q cmd 6 [])) ∧
      (D.launch.any (isLaunch q id) = false → D.saves = [] → Answers (.cancelLaunch q cmd) s (OnlyDone s · q cmd 7 [])) := by
  intro D id hnone
  have hany : ¬D.queued.any (fun e => e.1 == q && e.2.1 == id) = true := by
    rw [List.any_eq_true]
    rintro ⟨e, he, hb⟩
    exact hnone e he (by simpa using hb)
  have hcancel := execCancelLaunch_of_takes h
  exact ⟨fun hl => answers_of_eq hcancel ((if_neg hany).trans (if_pos (by rw [hl]; rfl))) (onlyDone_took ..),
    fun hl hs => answers_of_eq hcancel ((if_neg hany).trans (if_neg (by rw [hl, hs]; simp))) (onlyDone_took ..)⟩

/-- The oldest launch in the queue is dispatched, and every core with a role holds what the role gives it (R23). -/
theorem launchDispatch_of_queued {p k h det N args rest I} (hq : (s.domain dom).queued = (p, k, h, det, N, args) :: rest)
    (hl : (s.domain dom).launch = none) (hs : (s.domain dom).saves = []) (hi : AMap.find (s.domain dom).images h = some I)
    (hup : ∀ x ∈ s.domParts dom, (s.part x).down = false) (hplace : s.placementBad dom I = false) : Answers (.launchDispatch dom) s fun t =>
    (∃ l, (t.domain dom).launch = some l ∧ l.phase = .setup ∧ l.q = p ∧ l.id = k ∧ l.det = det ∧ l.quantum = N ∧ l.args = args) ∧
    (t.domain dom).queued = rest ∧ doneEntry p k 0 [] ∈ (t.queue p).ring ++ (t.queue p).held ∧ t.mem = s.mem ∧
    ∀ c ∈ s.domCores dom, ∀ i, (s.rolesAt dom I (s.rel c)).head? = some i → let r := AMap.get {} I.roles i
      (t.core c).rfu = bits r.poolw 0 4 ∧ (t.core c).acc = bits r.poolw 4 8 ∧ (∀ x, (t.ctx c x).st = .free) ∧
      (r.entry ≠ 0xFFFFFFFF → (t.ctx c 0).pc = r.entry.toNat) ∧ t.sreg c 0 1 = args ∧ t.sreg c 0 2 = BitVec.ofNat 64 (s.rel c) ∧
      t.sreg c 0 3 = BitVec.ofNat 64 (s.computeCount dom) ∧ t.sreg c 0 4 = BitVec.ofNat 64 (2 ^ (s.domain dom).log2) ∧
      t.sreg c 0 62 = BitVec.ofNat 64 (2 ^ 63 + bits r.poolw 12 8 * 2048) ∧ (t.ctx c 0).rkey0 = r.rkey0 ∧ (t.ctx c 0).rkey1 = r.rkey1 := by
  have hlisted : (AMap.find s.domains dom).isSome = true := State.find_domain_of_ne fun hd => by rw [hd] at hq; cases hq
  let u := s.updDomain dom fun d => { d with queued := rest }
  have hu : s.SamePlaces u := .updDomain hlisted fun _ => rfl
  have hulisted : (AMap.find u.domains dom).isSome = true := by
    change (AMap.find (AMap.set s.domains dom _) dom).isSome = true
    rw [AMap.find_set_same]; rfl
  refine ⟨_, execLaunchDispatch_of_queued hq hl hs hi hup hplace hlisted, ?_⟩
  obtain ⟨hdomain, hmem, hdone, hcores⟩ := u.beginLaunch_facts dom p k
    { q := p, id := k, image := h, det := det, quantum := N, args := args, lcount := s.computeCount dom, groups := s.resolveGroups dom I } I hulisted
  have hqueued : (u.domain dom).queued = rest := by rw [State.domain_updDomain_same]
  have hrest := (congrArg Domain.queued hdomain).trans hqueued
  refine ⟨⟨_, congrArg Domain.launch hdomain, rfl, rfl, rfl, rfl, rfl, rfl⟩, hrest, hdone, hmem, fun c hc i hi => ?_⟩
  intro r
  obtain ⟨hrfu, hacc, hctxs⟩ := hcores c (by rwa [hu.domCores]) i (by rwa [hu.rel, hu.rolesAt])
  rw [hu.rel, hu.log2] at hctxs
  generalize u.beginLaunch dom p k _ I = t at hrfu hacc hctxs
  have hctx (x : Nat) : t.ctx c x =
      AMap.get {} (r.contexts args (s.rel c) (s.computeCount dom) (2 ^ (s.domain dom).log2) (bits r.poolw 12 8 * 2048)) x :=
    congrArg (fun m => AMap.get ({} : Ctx) m x) hctxs
  have hzero := (hctx 0).trans (r.ctx_zero_contexts ..)
  refine ⟨hrfu, hacc, fun x => by rw [hctx]; exact r.st_contexts .., fun he => by rw [hzero]; exact if_neg he, ?_, ?_, ?_, ?_, ?_, ?_, ?_⟩
  all_goals (simp only [State.sreg, hzero] <;> rfl)

/-- The go makes C0 of every core that has an entry point READY. -/
theorem goComplete_of_going {g : Nat} (h : (s.domain dom).launch = some l) (hp : l.phase = .going g) (hg : g ≤ s.now) (hr : l.resumed = false) :
    Answers (.goComplete dom) s fun t =>
      (∃ m, (t.domain dom).launch = some m ∧ m.phase = .running ∧ m.start = s.now) ∧ t.mem = s.mem ∧
      ∀ c ∈ s.domCores dom, (s.core c).starts = true → (t.ctx c 0).st = .ready ∧ ∀ x, x ≠ 0 → t.ctx c x = s.ctx c x := by
  let v := s.updLaunch dom fun l => { l with phase := .running, start := s.now, qstart := if l.resumed then l.qstart else s.now }
  have hv : (v.domain dom).launch = some { l with phase := .running, start := s.now, qstart := if l.resumed then l.qstart else s.now } :=
    State.launch_updLaunch h _
  obtain ⟨hdomains, hmem, hcores⟩ := State.foldl_readyC0 v (s.domCores dom) (s.nodup_domCores dom)
  have hlaunch := hv
  rw [State.domain, ← hdomains] at hlaunch
  refine ⟨_, execGoComplete_of_going h hp hg hr, ⟨_, hlaunch, rfl, rfl⟩, hmem, hcores⟩

/-- A launch that two sweeps have found settled ends. -/
theorem launchEnd_of_settled {t0 a b : Nat} (h : (s.domain dom).launch = some l) (hp : l.phase = .running) (hs : l.sweep = some t0)
    (hn : l.now = some (true, a, b)) (ht : t0 ≤ s.now) (hab : a = b) (hprev : l.prev = some (a, b)) : Answers (.launchEnd dom) s fun t =>
    (t.domain dom).launch = none ∧ t.mem = s.mem ∧
    (∀ g w r, ∀ p ∈ s.net, p.body = .fault g w r → s.baseOf (partOfKey p.dst) = dom →
      w ∈ (t.queue (s.hostQueue (partOfKey p.dst))).ring ++ (t.queue (s.hostQueue (partOfKey p.dst))).held) ∧
    (∃ es, (t.queue l.q).ring ++ (t.queue l.q).held = (s.queue l.q).ring ++ (s.queue l.q).held ++ es ++
        [[2#64 ||| BitVec.ofNat 64 dom <<< 16 ||| BitVec.ofNat 64 l.id.toNat <<< 32, 0, BitVec.ofNat 64 (s.cycles dom)] ++ List.replicate 5 0] ∧
      ((∀ g w r, ∀ x ∈ s.net, x.body = .fault g w r → s.baseOf (partOfKey x.dst) ≠ dom) → es = [])) ∧
    ∀ c ∈ s.domCores dom, (t.core c).event = { (s.core c).event with owner := none } ∧
      ∀ x, (t.ctx c x).st = .free ∧ (t.ctx c x).s = (s.ctx c x).s ∧ (t.ctx c x).rord = (s.ctx c x).rord ∧ (t.ctx c x).flags = (s.ctx c x).flags := by
  obtain ⟨hlaunch, hmem, -, hcores⟩ := State.endLaunch_facts stOk h
  refine ⟨_, execLaunchEnd_of_settled h hp hs hn ht hab hprev, hlaunch, hmem, fun g w r p hp' hbody hdom => ?_, State.entries_endLaunch stOk h,
    fun c hc => ?_⟩
  · exact State.mem_entries_endLaunch stOk h hp' hbody hdom
  · have hcore := hcores c hc
    rw [State.core] at hcore
    refine ⟨by rw [State.core, hcore]; rfl, fun x => ?_⟩
    rw [State.ctx, State.core, hcore]
    exact (s.core c).ctx_ended x

end Statement

/-- Settles O46: each command by what taking it does, the dispatch by the arms of every role, the end by what empties its cores. -/
theorem launchesRunFromQueueToEnd : Obligations.LaunchesRunFromQueueToEnd := by
  unfold Obligations.LaunchesRunFromQueueToEnd
  intro s q dom cmd file base D d n img id posts
  refine ⟨fun htakes hlen => ⟨loadImage_of_image htakes hlen, loadImage_of_no_image htakes hlen⟩,
    fun htakes => ⟨launch_of_image htakes, launch_of_no_image htakes, launch_of_bad_quantum htakes⟩,
    fun htakes => ⟨cancel_of_queued htakes, fun hnone => (cancel_of_not_queued htakes hnone).1, fun hnone => (cancel_of_not_queued htakes hnone).2⟩,
    fun p k h det N args rest I => launchDispatch_of_queued, fun hidle => ⟨s, execLaunchDispatch_of_idle hidle, rfl⟩,
    fun l hl => ⟨?_, ?_, ?_, ?_, ?_, ?_⟩⟩
  · exact fun hp => ⟨_, execGo_of_setup hl hp, State.launch_updLaunch hl _, rfl⟩
  · exact fun hp => ⟨s, execGo_of_other hl hp, rfl⟩
  · exact fun g hp hg => ⟨s, execGoComplete_of_early hl hp hg, rfl⟩
  · exact fun g => goComplete_of_going hl
  · intro hp hdet hat hs
    have hsweep := execSweep_of_running hl hp hdet hat hs
    exact ⟨fun hidle => answers_of_eq hsweep (if_pos hidle) ⟨rfl, State.launch_updLaunch hl _⟩,
      fun hidle => answers_of_eq hsweep (if_neg (by simp [hidle])) rfl⟩
  · intro t0 a b hp hs hn
    exact ⟨fun ht => ⟨s, execLaunchEnd_of_early hl hs hn ht, rfl⟩,
      fun ht hab => ⟨_, execLaunchEnd_of_unsettled hl hs hn ht hab, rfl, State.launch_updLaunch hl _⟩,
      launchEnd_of_settled hl hp hs hn⟩

end Machine
end Sys2Proof
end

section
/-! Words and instructions (R33 to R41, R55 to R61): the fields of each layout, the decoder on the word of every instruction, and the one
instruction of every word that decodes. -/

namespace Sys2Proof

/-! ## Fields of a word laid out -/

section Fields
variable (l s k : BitVec 1) (op d a b : BitVec 6) (f : BitVec 5) (i : BitVec 11) (j : BitVec 17) (n : BitVec 23) (c : BitVec 3)
variable (e : BitVec 8) (z : BitVec 2) (o : BitVec 9)

@[simp] theorem wS_fRRR : wS (fRRR l s k op d a b f) = s := by
  rw [wS, fRRR]
  simp (disch := omega) only [BitVec.extractLsb'_append_eq_of_le, BitVec.extractLsb'_append_eq_of_add_le]
  exact BitVec.extractLsb'_eq_self
@[simp] theorem wB_fRRR : wB (fRRR l s k op d a b f) = b := by
  rw [wB, fRRR]
  simp (disch := omega) only [BitVec.extractLsb'_append_eq_of_le, BitVec.extractLsb'_append_eq_of_add_le]
  exact BitVec.extractLsb'_eq_self
@[simp] theorem wS_fRRI : wS (fRRI l s op d a i) = s := by
  rw [wS, fRRI]
  simp (disch := omega) only [BitVec.extractLsb'_append_eq_of_le, BitVec.extractLsb'_append_eq_of_add_le]
  exact BitVec.extractLsb'_eq_self
@[simp] theorem wA_fRRI : wA (fRRI l s op d a i) = a := by
  rw [wA, fRRI]
  simp (disch := omega) only [BitVec.extractLsb'_append_eq_of_le, BitVec.extractLsb'_append_eq_of_add_le]
  exact BitVec.extractLsb'_eq_self
@[simp] theorem wI11_fRRI : wI11 (fRRI l s op d a i) = i := by
  rw [wI11, fRRI]
  simp (disch := omega) only [BitVec.extractLsb'_append_eq_of_add_le]
  exact BitVec.extractLsb'_eq_self
@[simp] theorem wS_fRI : wS (fRI l s op d j) = s := by
  rw [wS, fRI]
  simp (disch := omega) only [BitVec.extractLsb'_append_eq_of_le, BitVec.extractLsb'_append_eq_of_add_le]
  exact BitVec.extractLsb'_eq_self
@[simp] theorem wI17_fRI : wI17 (fRI l s op d j) = j := by
  rw [wI17, fRI]
  simp (disch := omega) only [BitVec.extractLsb'_append_eq_of_add_le]
  exact BitVec.extractLsb'_eq_self
@[simp] theorem wL_fJ : wL (fJ l s op n) = l := by
  rw [wL, fJ]
  simp (disch := omega) only [BitVec.extractLsb'_append_eq_of_le]
  exact BitVec.extractLsb'_eq_self
@[simp] theorem wS_fJ : wS (fJ l s op n) = s := by
  rw [wS, fJ]
  simp (disch := omega) only [BitVec.extractLsb'_append_eq_of_le, BitVec.extractLsb'_append_eq_of_add_le]
  exact BitVec.extractLsb'_eq_self
@[simp] theorem wK_fJ : wK (fJ l s op n) = 0 := by
  rw [wK, fJ]
  simp (disch := omega) only [BitVec.extractLsb'_append_eq_of_le, BitVec.extractLsb'_append_eq_of_add_le]
  exact BitVec.extractLsb'_eq_self
@[simp] theorem wOp_fJ : wOp (fJ l s op n) = op := by
  rw [wOp, fJ]
  simp (disch := omega) only [BitVec.extractLsb'_append_eq_of_le, BitVec.extractLsb'_append_eq_of_add_le]
  exact BitVec.extractLsb'_eq_self
@[simp] theorem wI23_fJ : wI23 (fJ l s op n) = n := by
  rw [wI23, fJ]
  simp (disch := omega) only [BitVec.extractLsb'_append_eq_of_add_le]
  exact BitVec.extractLsb'_eq_self
@[simp] theorem wL_fCB : wL (fCB l s op c a b e) = l := by
  rw [wL, fCB]
  simp (disch := omega) only [BitVec.extractLsb'_append_eq_of_le]
  exact BitVec.extractLsb'_eq_self
@[simp] theorem wS_fCB : wS (fCB l s op c a b e) = s := by
  rw [wS, fCB]
  simp (disch := omega) only [BitVec.extractLsb'_append_eq_of_le, BitVec.extractLsb'_append_eq_of_add_le]
  exact BitVec.extractLsb'_eq_self
@[simp] theorem wK_fCB : wK (fCB l s op c a b e) = 0 := by
  rw [wK, fCB]
  simp (disch := omega) only [BitVec.extractLsb'_append_eq_of_le, BitVec.extractLsb'_append_eq_of_add_le]
  exact BitVec.extractLsb'_eq_self
@[simp] theorem wOp_fCB : wOp (fCB l s op c a b e) = op := by
  rw [wOp, fCB]
  simp (disch := omega) only [BitVec.extractLsb'_append_eq_of_le, BitVec.extractLsb'_append_eq_of_add_le]
  exact BitVec.extractLsb'_eq_self
@[simp] theorem wC_fCB : wC (fCB l s op c a b e) = c := by
  rw [wC, fCB]
  simp (disch := omega) only [BitVec.extractLsb'_append_eq_of_le, BitVec.extractLsb'_append_eq_of_add_le]
  exact BitVec.extractLsb'_eq_self
@[simp] theorem wCA_fCB : wCA (fCB l s op c a b e) = a := by
  rw [wCA, fCB]
  simp (disch := omega) only [BitVec.extractLsb'_append_eq_of_le, BitVec.extractLsb'_append_eq_of_add_le]
  exact BitVec.extractLsb'_eq_self
@[simp] theorem wCB_fCB : wCB (fCB l s op c a b e) = b := by
  rw [wCB, fCB]
  simp (disch := omega) only [BitVec.extractLsb'_append_eq_of_le, BitVec.extractLsb'_append_eq_of_add_le]
  exact BitVec.extractLsb'_eq_self
@[simp] theorem wDisp_fCB : wDisp (fCB l s op c a b e) = e := by
  rw [wDisp, fCB]
  simp (disch := omega) only [BitVec.extractLsb'_append_eq_of_add_le]
  exact BitVec.extractLsb'_eq_self
@[simp] theorem wOff_fRRI_append : wOff (fRRI l s op d a (z ++ o)) = o := by
  rw [wOff, fRRI]
  simp (disch := omega) only [BitVec.extractLsb'_append_eq_of_add_le]
  exact BitVec.extractLsb'_eq_self

end Fields

/-! ## A word laid out again from its fields -/

section Rebuild
variable (w : Word32)

theorem fRRR_fields : fRRR (wL w) (wS w) (wK w) (wOp w) (wD w) (wA w) (wB w) (wF w) = w := by
  rw [fRRR, wL, wS, wK, wOp, wD, wA, wB, wF]
  simp (disch := rfl) only [BitVec.extractLsb'_append_extractLsb'_eq_extractLsb']
  exact BitVec.extractLsb'_eq_self
variable {w} (hK : wK w = 0)
include hK
theorem fRRI_fields : fRRI (wL w) (wS w) (wOp w) (wD w) (wA w) (wI11 w) = w := by
  rw [fRRI, show (0#1) = wK w from hK.symm, wL, wS, wK, wOp, wD, wA, wI11]
  simp (disch := rfl) only [BitVec.extractLsb'_append_extractLsb'_eq_extractLsb']
  exact BitVec.extractLsb'_eq_self
theorem fRI_fields : fRI (wL w) (wS w) (wOp w) (wD w) (wI17 w) = w := by
  rw [fRI, show (0#1) = wK w from hK.symm, wL, wS, wK, wOp, wD, wI17]
  simp (disch := rfl) only [BitVec.extractLsb'_append_extractLsb'_eq_extractLsb']
  exact BitVec.extractLsb'_eq_self
theorem fJ_fields : fJ (wL w) (wS w) (wOp w) (wI23 w) = w := by
  rw [fJ, show (0#1) = wK w from hK.symm, wL, wS, wK, wOp, wI23]
  simp (disch := rfl) only [BitVec.extractLsb'_append_extractLsb'_eq_extractLsb']
  exact BitVec.extractLsb'_eq_self
theorem fCB_fields : fCB (wL w) (wS w) (wOp w) (wC w) (wCA w) (wCB w) (wDisp w) = w := by
  rw [fCB, show (0#1) = wK w from hK.symm, wL, wS, wK, wOp, wC, wCA, wCB, wDisp]
  simp (disch := rfl) only [BitVec.extractLsb'_append_extractLsb'_eq_extractLsb']
  exact BitVec.extractLsb'_eq_self
theorem fM_fields : fM (wL w) (wS w) (wOp w) (wD w) (wA w) (wSz w) (wOff w) = w := by
  rw [fM, show (0#1) = wK w from hK.symm, wL, wS, wK, wOp, wD, wA, wSz, wOff]
  simp (disch := rfl) only [BitVec.extractLsb'_append_extractLsb'_eq_extractLsb']
  exact BitVec.extractLsb'_eq_self

end Rebuild

/-! ## Registers and types in their fields -/

@[simp] theorem isV_rv (v : BitVec 5) (pair : Bool) : isV (rv v) pair = fitsIf pair v := by
  revert v pair; decide
@[simp] theorem setWidth_rv (v : BitVec 5) : (rv v).setWidth 5 = v := by
  revert v; decide
@[simp] theorem rv_ult (v : BitVec 5) : (rv v).ult 32#6 = true := by
  revert v; decide
@[simp] theorem isP_rp (p : BitVec 3) : isP (rp p) = true := by
  revert p; decide
@[simp] theorem setWidth_rp (p : BitVec 3) : (rp p).setWidth 3 = p := by
  revert p; decide
@[simp] theorem rt_ult (t : BitVec 4) : (rt t).ult 16#6 = true := by
  revert t; decide
@[simp] theorem rt_ne (t : BitVec 4) : rt t ≠ 63#6 := by
  revert t; decide
@[simp] theorem setWidth_rt (t : BitVec 4) : (rt t).setWidth 4 = t := by
  revert t; decide
@[simp] theorem rv7_ult (v : BitVec 3) : (rv7 v).ult 8#6 = true := by
  revert v; decide
@[simp] theorem setWidth_rv7 (v : BitVec 3) : (rv7 v).setWidth 3 = v := by
  revert v; decide
@[simp] theorem setWidth_tf (sub : BitVec 2) (ty : VType) : (tf sub ty).setWidth 3 = ty.code := by
  cases ty <;> revert sub <;> decide
@[simp] theorem extractLsb'_tf (sub : BitVec 2) (ty : VType) : (tf sub ty).extractLsb' 3 2 = sub := by
  cases ty <;> revert sub <;> decide
@[simp] theorem VType.of_code (ty : VType) : VType.of ty.code = some ty := by cases ty <;> rfl
@[simp] theorem VCond.of_code (c : VCond) : VCond.of c.code = c := by cases c <;> rfl
@[simp] theorem RedOp.of_code (r : RedOp) : RedOp.of r.code = some r := by cases r <;> rfl
@[simp] theorem BCond.of_code (c : BCond) : BCond.of c.code = some c := by cases c <;> rfl
@[simp] theorem Size.of_code (z : Size) : Size.of z.code = z := by cases z <;> rfl
@[simp] theorem Scope.of_code (c : Scope) : Scope.of c.code = some c := by cases c <;> rfl
@[simp] theorem Cvt.of_code (c : Cvt) : Cvt.of c.code = some c := by cases c <;> rfl

@[simp] theorem fitsIf_false (v : BitVec 5) : fitsIf false v = true := rfl
theorem VType.fits_eq_fitsIf (ty : VType) (v : BitVec 5) : ty.fits v = fitsIf ty.wide v := rfl
@[simp] theorem VType.of_zero : VType.of 0#3 = some .f32 := rfl
@[simp] theorem VType.of_one : VType.of 1#3 = some .i32 := rfl

/-- A widened field has nothing above its own bits. -/
@[simp] theorem extractLsb'_setWidth_above {n m : Nat} (x : BitVec n) (len : Nat) : (x.setWidth m).extractLsb' n len = 0#len := by
  ext i hi
  simp [BitVec.getLsbD_of_ge]

/-! ## Fields that hold registers and types -/

section Codes
variable {x : BitVec 6} {f : BitVec 5} {c : BitVec 3} {z : BitVec 2}

theorem rt_setWidth (h : x.ult 16 = true) : rt (x.setWidth 4) = x := by
  revert x; decide
theorem rv7_setWidth (h : x.ult 8 = true) : rv7 (x.setWidth 3) = x := by
  revert x; decide
theorem rv_setWidth (h : x.ult 32 = true) : rv (x.setWidth 5) = x := by
  revert x; decide
theorem rv_setWidth_and_fitsIf_of_isV {pair : Bool} (h : isV x pair = true) :
    rv (x.setWidth 5) = x ∧ fitsIf pair (x.setWidth 5) = true := by
  revert x pair; decide
theorem rp_setWidth (h : isP x = true) : rp (x.setWidth 3) = x := by
  revert x; decide
theorem VType.eq_code_iff {ty : VType} : c = ty.code ↔ VType.of c = some ty := by
  revert c; cases ty <;> decide
theorem RedOp.eq_code_iff {r : RedOp} : z = r.code ↔ RedOp.of z = some r := by
  revert z; cases r <;> decide
theorem BCond.eq_code_iff {b : BCond} : c = b.code ↔ BCond.of c = some b := by
  revert c; cases b <;> decide
theorem Scope.eq_code_iff {k : Scope} : f = k.code ↔ Scope.of f = some k := by
  revert f; cases k <;> decide
theorem Cvt.eq_code_iff {k : Cvt} : f = k.code ↔ Cvt.of f = some k := by
  revert f; cases k <;> decide
theorem VCond.code_of (z : BitVec 2) : (VCond.of z).code = z := by
  revert z; decide
theorem Size.code_of (z : BitVec 2) : (Size.of z).code = z := by
  revert z; decide
/-- The type field of an A-class word: the sub-operation above the code of the type. -/
theorem eq_tf_iff {ty : VType} : f = tf z ty ↔ f.extractLsb' 3 2 = z ∧ VType.of (f.setWidth 3) = some ty := by
  rw [← VType.eq_code_iff]
  constructor
  · rintro rfl
    exact ⟨extractLsb'_tf z ty, setWidth_tf z ty⟩
  · rintro ⟨rfl, hty⟩
    rw [tf, ← hty]
    exact (by decide : ∀ g : BitVec 5, g = g.extractLsb' 3 2 ++ g.setWidth 3) f
@[simp] theorem tf_zero_f32 : tf 0 .f32 = 0 := rfl
@[simp] theorem tf_zero_i32 : tf 0 .i32 = 1 := rfl

end Codes

/-! ## From an instruction to its word -/

/-- Every well-formed instruction has a word, which the decoder follows back to it, and which keeps its L and S. -/
theorem exists_encodeWith_and_decodeWord {i : Instr} (l s : BitVec 1) (hwf : wellFormed i = true) (hw : isWord i = true) :
    ∃ w, encodeWith l s i = some w ∧ decodeWord w = .ok i ∧ wL w = l ∧ wS w = s := by
  cases i with
  | add | sub | and | or | xor | andn | shl | shr | sar | rol | min | max | minu | maxu | slt | sltu | seq | clz | popc | mul
  | mulh | mulhu | div | divu | rem | remu | addi | andi | ori | xori | shli | shri | sari | slti | li | lih | sel | b | j | jal
  | jalr | start | endt | nop | ld | st | ldv | recl | fence | pool | copy | copyc | halo | wmark | send | reply | recvp
  | recvpCancel | atomAdd | atomMax | atomMin | atomMaxu | atomMinu | atomSwap | atomCas | atomOr | atomAnd | atomXor
  | atomFmax32 | cadd | cread | carm | cset | cflt | cwait | qwait | chbind | chset | chq | rdrem | rdsend | thdr | tsth | tmake
  | tset | tget | lease | mrel | mstat | mma | mmag | mzero | mdrain | tcvt | aqadd | jqnext | ptcfg | pset | pget | psum
  | nextev | evsend | snap | rollb | slog | fossil | horiz | rkey | rtab | rdraw | ready | nest | nexti | phase | cbar | cbarx
  | cbcast | credAdd | credMin | credMax | credOr | credAnd | gmem | sbind | sfree | spos | srep | vbcast | vext | vins | trap
  | brk | halt | csrr | csrw | pmrd =>
    refine ⟨_, rfl, ?_⟩
    simp [wellFormed] at hwf
    simp [decodeWord, decodeC, need, fM_eq_fRRI, hwf]
  | vadd | vsub | vmul | vfma | vfms | vnfma | vmin | vmax | vabs | vneg | vcmp | vsel | vcvt | vmov | vidx | vdiv | vand | vor
  | vxor | vnot | vshl | vshr | vsar | vmulh | vexp2 | vlog2 | vrcp | vrsq | vsqrt | vperm | vred | vscan | vrnd | vrndu | pand
  | por | pxor | pnot | pcnt | pfirst | pmask | anop =>
    refine ⟨_, rfl, ?_⟩
    simp [wellFormed, VType.fits_eq_fitsIf] at hwf
    simp [decodeWord, decodeA, need, withType, hwf]
  | _ => exact absurd hw Bool.false_ne_true

/-- Settles O52, by the decoder on the word of each instruction. -/
theorem encodedInstructionsDecodeToThemselves : Obligations.EncodedInstructionsDecodeToThemselves := by
  unfold Obligations.EncodedInstructionsDecodeToThemselves
  exact fun i l s => exists_encodeWith_and_decodeWord l s

/-! ## From a word to its instruction -/

/-- w is the word of i with its own L and S, and i is well-formed. -/
def EncodesTo (w : Word32) (i : Instr) : Prop := wellFormed i = true ∧ isWord i = true ∧ encodeWith (wL w) (wS w) i = some w
/-- What a decoder answers for w is an instruction whose word w is, or an error. -/
def Sound (w : Word32) (d : Dec) : Prop := ∀ i, d = .ok i → EncodesTo w i

section Layouts
variable {w : Word32} {k : BitVec 1} {op d a b x y : BitVec 6} {f : BitVec 5} {i : BitVec 11} {j : BitVec 17} {n : BitVec 23} {c : BitVec 3}
variable {e : BitVec 8} {z : BitVec 2} {o : BitVec 9}

theorem fRRR_eq (hK : wK w = k) (hop : wOp w = op) (hd : wD w = d) (ha : wA w = a) (hb : wB w = b) (hf : wF w = f) :
    fRRR (wL w) (wS w) k op d a b f = w := by subst_vars; exact fRRR_fields w
theorem fRRI_eq (hK : wK w = 0) (hop : wOp w = op) (hd : wD w = d) (ha : wA w = a) (hi : wI11 w = i) :
    fRRI (wL w) (wS w) op d a i = w := by subst_vars; exact fRRI_fields hK
theorem fRI_eq (hK : wK w = 0) (hop : wOp w = op) (hd : wD w = d) (hj : wI17 w = j) : fRI (wL w) (wS w) op d j = w := by
  subst_vars; exact fRI_fields hK
theorem fJ_eq (hK : wK w = 0) (hop : wOp w = op) (hn : wI23 w = n) : fJ (wL w) (wS w) op n = w := by subst_vars; exact fJ_fields hK
theorem fCB_eq (hK : wK w = 0) (hop : wOp w = op) (hc : wC w = c) (hx : wCA w = x) (hy : wCB w = y) (he : wDisp w = e) :
    fCB (wL w) (wS w) op c x y e = w := by subst_vars; exact fCB_fields hK
theorem fM_eq (hK : wK w = 0) (hop : wOp w = op) (hd : wD w = d) (ha : wA w = a) (hz : wSz w = z) (ho : wOff w = o) :
    fM (wL w) (wS w) op d a z o = w := by subst_vars; exact fM_fields hK
end Layouts

/-- A field whose high bits are zero is its low bits widened. -/
theorem setWidth_setWidth_of_high {n m k : Nat} {x : BitVec m} (hm : n + k = m) (h : x.extractLsb' n k = 0) : (x.setWidth n).setWidth m = x := by
  ext i hi
  simp only [BitVec.getElem_setWidth, BitVec.getLsbD_setWidth]
  by_cases hin : i < n
  · simp [hin, BitVec.getLsbD_eq_getElem hi]
  · have hz := congrArg (·.getLsbD (i - n)) h
    have hk : i - n < k := by omega
    simp only [BitVec.getLsbD_extractLsb', hk, decide_true, Bool.true_and, Nat.add_sub_cancel' (Nat.le_of_not_lt hin)] at hz
    simpa [hin, BitVec.getLsbD_eq_getElem hi] using hz.symm
theorem setWidth_6_11 {x : BitVec 11} (h : x.extractLsb' 6 5 = 0) : (x.setWidth 6).setWidth 11 = x := setWidth_setWidth_of_high rfl h
theorem setWidth_5_11 {x : BitVec 11} (h : x.extractLsb' 5 6 = 0) : (x.setWidth 5).setWidth 11 = x := setWidth_setWidth_of_high rfl h
theorem setWidth_3_5 {x : BitVec 5} (h : x.extractLsb' 3 2 = 0) : (x.setWidth 3).setWidth 5 = x := setWidth_setWidth_of_high rfl h

section Sound
variable {w : Word32} {d e : Dec} {i j : Instr} {k : IllCheck} {p : Prop} [Decidable p]
theorem Sound.ok (h : EncodesTo w i) : Sound w (.ok i) := fun _ hj => Except.ok.inj hj ▸ h
theorem Sound.error : Sound w (.error k) := fun _ h => nomatch h
theorem Sound.ite (hd : p → Sound w d) (he : Sound w e) : Sound w (if p then d else e) := by
  split
  · exact hd ‹_›
  · exact he
theorem Sound.ite_ok (hi : p → EncodesTo w i) (hj : ¬p → EncodesTo w j) : Sound w (if p then .ok i else .ok j) := by
  split
  · exact .ok (hi ‹_›)
  · exact .ok (hj ‹_›)

/-! What each check of a field lets pass. -/

section Need
variable {x : BitVec 6}
theorem Sound.need {c : Bool} (h : c = true → Sound w d) : Sound w (need c k d) := .ite h .error
theorem Sound.need_and {a b : Bool} (h : Sound w (Sys2Proof.need a k (Sys2Proof.need b k d))) : Sound w (Sys2Proof.need (a && b) k d) := by
  cases a
  · exact .error
  · exact h
theorem Sound.need_eq {α : Type} [BEq α] [LawfulBEq α] {x y : α} (h : x = y → Sound w d) : Sound w (Sys2Proof.need (x == y) k d) :=
  .need fun hc => h (eq_of_beq hc)
theorem Sound.need_t (h : rt (x.setWidth 4) = x → Sound w d) : Sound w (Sys2Proof.need (x.ult 16) k d) := .need fun hc => h (rt_setWidth hc)
theorem Sound.need_v (h : rv (x.setWidth 5) = x → Sound w d) : Sound w (Sys2Proof.need (x.ult 32) k d) := .need fun hc => h (rv_setWidth hc)
theorem Sound.need_v7 (h : rv7 (x.setWidth 3) = x → Sound w d) : Sound w (Sys2Proof.need (x.ult 8) k d) := .need fun hc => h (rv7_setWidth hc)
theorem Sound.need_isV {pair : Bool} (h : rv (x.setWidth 5) = x → fitsIf pair (x.setWidth 5) = true → Sound w d) :
    Sound w (Sys2Proof.need (isV x pair) k d) := .need fun hc => h (rv_setWidth_and_fitsIf_of_isV hc).1 (rv_setWidth_and_fitsIf_of_isV hc).2
theorem Sound.need_isP (h : rp (x.setWidth 3) = x → Sound w d) : Sound w (Sys2Proof.need (isP x) k d) := .need fun hc => h (rp_setWidth hc)
end Need
/-- The type of a word whose op has no sub-operation is all of fn. -/
theorem Sound.withType {ok : VType → Bool} {g : VType → Dec} (h : ∀ ty, wF w = tf 0 ty → Sound w (Sys2Proof.need (ok ty) .type (g ty))) :
    Sound w (withType w ok false g) := by
  unfold Sys2Proof.withType
  refine .need_eq fun hsub => ?_
  split
  · exact .error
  · next ty hty => exact h ty (eq_tf_iff.2 ⟨hsub, hty⟩)
/-- The type of a word whose op has sub-operations is the low part of fn. -/
theorem Sound.withType_sub {ok : VType → Bool} {g : VType → Dec}
    (h : ∀ ty, VType.of ((wF w).setWidth 3) = some ty → Sound w (Sys2Proof.need (ok ty) .type (g ty))) : Sound w (Sys2Proof.withType w ok true g) := by
  unfold Sys2Proof.withType
  refine .need fun _ => ?_
  split
  · exact .error
  · next ty hty => exact h ty hty
end Sound

/-- The decision tree of the C class, followed to its leaves: what the checks on the way let pass are the fields of the word. -/
theorem sound_decodeC {w : Word32} (hK : wK w = 0) : Sound w (decodeC w) := by
  unfold decodeC
  repeat' first
    | with_reducible exact .error
    | with_reducible refine .ite_ok (fun _ => ?_) fun _ => ?_
    | with_reducible refine .ite (fun _ => ?_) ?_
    | with_reducible refine .need_eq fun _ => ?_
    | with_reducible refine .need_t fun _ => ?_
    | with_reducible refine .need_v fun _ => ?_
    | with_reducible refine .need_v7 fun _ => ?_
    | with_reducible refine .need fun _ => ?_
    | with_reducible refine .ok ?_
    | split
  all_goals refine ⟨?_, rfl, ?_⟩
  all_goals simp only [wellFormed, encodeWith, Bool.and_self, bne_iff_ne, ne_eq, not_false_eq_true, fRRR_eq, fRRI_eq, fRI_eq, fJ_eq, fCB_eq, fM_eq,
    setWidth_6_11, setWidth_5_11, setWidth_3_5, BCond.eq_code_iff, Scope.eq_code_iff, Size.code_of, *]

/-- The words of K = 1: each row of the opcode map in turn, by the operands that its decoder reads. -/
theorem sound_decodeA {w : Word32} (hK : wK w ≠ 0) : Sound w (decodeA w) := by
  have hK1 : wK w = 1 := (by decide : ∀ k : BitVec 1, k ≠ 0 → k = 1) _ hK
  unfold decodeA
  repeat' first
    | with_reducible exact .error
    | with_reducible refine .ite (fun _ => ?_) ?_
    | with_reducible refine .withType fun _ _ => ?_
    | with_reducible refine .withType_sub fun _ _ => ?_
    | with_reducible refine .need_and ?_
    | with_reducible refine .need_eq fun _ => ?_
    | with_reducible refine .need_isV fun _ _ => ?_
    | with_reducible refine .need_isP fun _ => ?_
    | with_reducible refine .need fun _ => ?_
    | with_reducible refine .ok ?_
    | split
  all_goals refine ⟨?_, rfl, ?_⟩
  all_goals simp only [wellFormed, encodeWith, VType.fits_eq_fitsIf, Bool.and_self, fRRR_eq, eq_tf_iff, and_self, RedOp.eq_code_iff,
    Cvt.eq_code_iff, VCond.code_of, tf_zero_f32, tf_zero_i32, *]

/-- Settles O53, by the decision trees of the two classes. -/
theorem everyDecodedWordIsItsInstructionsEncoding : Obligations.EveryDecodedWordIsItsInstructionsEncoding := by
  unfold Obligations.EveryDecodedWordIsItsInstructionsEncoding
  intro w i h
  rw [decodeWord] at h
  split at h
  · next hK => exact sound_decodeC hK i h
  · next hK => exact sound_decodeA hK i h

/-! ## Words laid out by hand -/

/-- Settles O55: the decoder is run on each of the words. -/
theorem handLaidWordsDecode : Obligations.HandLaidWordsDecode := by
  unfold Obligations.HandLaidWordsDecode
  decide

end Sys2Proof
end

section
/-! A precise fault (R54, R178, R319, R322): what its fate does to the contexts of its core, what it leaves, and the statement. -/

namespace Sys2Proof
namespace Machine

/-! ## Words and bytes -/

theorem Core.bytes_congr {k j : Core} (h : k.byte = j.byte) (a n : Nat) : k.bytes a n = j.bytes a n := by
  induction n generalizing a with
  | zero => rfl
  | succ n ih => rw [Core.bytes, Core.bytes, h, ih]
theorem Core.word_congr {k j : Core} (h : k.byte = j.byte) (a : Nat) : k.word a = j.word a := by
  rw [Core.word, Core.num, Core.bytes_congr h, Core.word, Core.num]

/-! ## What a fate leaves outside the contexts -/

/-- HBM, the host queues, every other core, and of core c the bytes of the pool and the slots of every ring are as they were. -/
structure State.KeepsRings (s t : State) (c : Nat) : Prop where
  mem : t.mem = s.mem
  queues : t.queues = s.queues
  others : ∀ d, d ≠ c → t.core d = s.core d
  byte : (t.core c).byte = (s.core c).byte
  slots : ∀ h, ((t.core c).chan h).slots = ((s.core c).chan h).slots

namespace State.KeepsRings
variable {s t u : State} {c : Nat}

theorem refl (s : State) (c : Nat) : s.KeepsRings s c := ⟨rfl, rfl, fun _ _ => rfl, rfl, fun _ => rfl⟩
theorem trans (h : s.KeepsRings t c) (g : t.KeepsRings u c) : s.KeepsRings u c where
  mem := g.mem.trans h.mem
  queues := g.queues.trans h.queues
  others d hd := (g.others d hd).trans (h.others d hd)
  byte := g.byte.trans h.byte
  slots i := (g.slots i).trans (h.slots i)
theorem updCore {f : Core → Core} (hbyte : (f (s.core c)).byte = (s.core c).byte)
    (hslots : ∀ h, ((f (s.core c)).chan h).slots = ((s.core c).chan h).slots) : s.KeepsRings (s.updCore c f) c where
  mem := rfl
  queues := rfl
  others d hd := State.core_updCore_ne _ _ hd.symm
  byte := by rw [State.core_updCore_same, hbyte]
  slots h := by rw [State.core_updCore_same, hslots]
theorem updCtx (s : State) (c x : Nat) (f : Ctx → Ctx) : s.KeepsRings (s.updCtx c x f) c :=
  updCore (f := fun k => k.setCtx x (f (s.ctx c x))) rfl fun _ => rfl
theorem updReserved (s : State) (c h : Nat) :
    s.KeepsRings (s.updCore c fun k => k.updChan h fun ch => { ch with reserved := ch.reserved - 1 }) c := by
  refine updCore (by rfl) fun i => ?_
  rw [Core.updChan, Core.chan_setChan]
  split
  · next hi => rw [hi]
  · rfl
theorem dropResv (s : State) (c x : Nat) : s.KeepsRings (s.dropResv c x) c := by
  unfold State.dropResv
  split
  · exact (updReserved s c _).trans (updCtx ..)
  · exact refl s c
theorem dropResvs (s : State) (c : Nat) (l : List Nat) : s.KeepsRings (l.foldl (fun s y => s.dropResv c y) s) c := by
  induction l generalizing s with
  | nil => exact refl s c
  | cons y r ih => exact (dropResv s c y).trans (ih _)
theorem dropLease (s : State) (c d : Nat) : s.KeepsRings (s.dropLease d) c := by
  dsimp only [State.dropLease]
  split
  · exact ⟨rfl, rfl, fun _ _ => rfl, rfl, fun _ => rfl⟩
  · exact refl s c
end State.KeepsRings

theorem Core.haltAll_eq (k : Core) : k.haltAll = { k with ctxs := k.haltAll.ctxs } := by
  suffices h : ∀ (l : List Nat) (j : Core), ∃ m,
      l.foldl (fun k x => k.setCtx x { (k.ctx x).stop .halted with ending := false }) j = { j with ctxs := m } by
    obtain ⟨m, hm⟩ := h (List.range 11) k
    rw [Core.haltAll, hm]
  intro l
  induction l with
  | nil => exact fun j => ⟨j.ctxs, rfl⟩
  | cons y r ih => exact fun j => ih (j.setCtx y _)
theorem State.KeepsRings.haltAll (s : State) (c : Nat) : s.KeepsRings (s.updCore c Core.haltAll) c := by
  refine .updCore ?_ fun h => ?_ <;> rw [Core.haltAll_eq] <;> rfl
theorem State.keepsRings_fateOf (s : State) (c x : Nat) (host : Bool) : s.KeepsRings (s.fateOf c x host) c := by
  cases host with
  | true => exact ((State.KeepsRings.dropResvs s c _).trans (.dropLease ..)).trans (.haltAll ..)
  | false =>
    change s.KeepsRings (if x = 0 then _ else _) c
    split
    · exact ((State.KeepsRings.dropResv s c x).trans (.dropLease ..)).trans (.updCtx ..)
    · exact (State.KeepsRings.dropResv s c x).trans (.updCtx ..)

/-! ## What a fate makes of the contexts -/

theorem Core.st_ctx_haltAll (k : Core) {y : Nat} (hy : y < 11) : (k.haltAll.ctx y).st = .halted := by
  suffices h : ∀ (l : List Nat) (j : Core), y ∈ l ∨ (j.ctx y).st = .halted →
      ((l.foldl (fun k x => k.setCtx x { (k.ctx x).stop .halted with ending := false }) j).ctx y).st = .halted from
    h _ k (.inl (List.mem_range.2 hy))
  intro l
  induction l with
  | nil => exact fun j h => h.resolve_left List.not_mem_nil
  | cons z r ih =>
    refine fun j h => ih _ ?_
    rw [List.mem_cons, or_assoc] at h
    by_cases hz : z = y
    · subst hz; right; rw [Core.ctx_setCtx_same]; rfl
    · rw [Core.ctx_setCtx, if_neg hz]
      exact h.resolve_left fun e => hz e.symm
theorem State.ctx_dropResv (s : State) (c x y : Nat) :
    (s.dropResv c x).ctx c y = if x = y then { s.ctx c x with resv := none } else s.ctx c y := by
  unfold State.dropResv
  split
  · rw [State.ctx_updCtx, State.ctx, State.ctx, State.core_updCore_same]; rfl
  · next hr =>
    split
    · next hxy => rw [← hxy, ← hr]
    · rfl
theorem State.ctx_dropLease (s : State) (d c y : Nat) : (s.dropLease d).ctx c y = s.ctx c y := by
  dsimp only [State.dropLease]
  split <;> rfl
/-- C0 halts, and nothing becomes of the others (R322). -/
theorem State.ctx_fateOf_c0 (s : State) (c y : Nat) :
    (s.fateOf c 0 false).ctx c y = if 0 = y then (s.ctx c 0).stop .halted else s.ctx c y := by
  change (((s.dropResv c 0).dropLease c).updCtx c 0 fun k => k.stop .halted).ctx c y = _
  rw [State.ctx_updCtx, State.ctx_dropLease, State.ctx_dropLease, State.ctx_dropResv, State.ctx_dropResv]
  split <;> rfl
/-- A helper's task ends, unless it has none, and nothing becomes of the others (R322). -/
theorem State.ctx_fateOf_helper (s : State) {c x : Nat} (hx : x ≠ 0) (y : Nat) :
    (s.fateOf c x false).ctx c y = if x = y then
      (if (s.ctx c x).st = .free ∨ (s.ctx c x).st = .halted then { s.ctx c x with resv := none }
        else { (s.ctx c x).stop .parked with ending := true }) else s.ctx c y := by
  have hfate : s.fateOf c x false =
    (s.dropResv c x).updCtx c x fun k => if k.st = .free ∨ k.st = .halted then k else { k.stop .parked with ending := true } := if_neg hx
  rw [hfate, State.ctx_updCtx, State.ctx_dropResv, State.ctx_dropResv, if_pos rfl]
  split <;> rfl
theorem State.st_fateOf_host (s : State) (c x : Nat) {y : Nat} (hy : y < 11) : ((s.fateOf c x true).ctx c y).st = .halted := by
  have hfate : s.fateOf c x true = (((List.range 11).foldl (fun s y => s.dropResv c y) s).dropLease c).updCore c Core.haltAll := rfl
  rw [hfate, State.ctx, State.core_updCore_same]
  exact Core.st_ctx_haltAll _ hy

/-! ## The record at its place -/

theorem PostsRecord.fateOf {s t : State} {c x : Nat} {host : Bool} {ws : List Word} (h : PostsRecord s t c ws) :
    PostsRecord s (t.fateOf c x host) c ws := by
  have hkeep := t.keepsRings_fateOf c x host
  have hq : (t.fateOf c x host).queue = t.queue := by funext q; rw [State.queue, hkeep.queues]; rfl
  simpa only [PostsRecord, hkeep.slots, Core.word_congr hkeep.byte, hq] using h
/-- A record that lands in ch63 leaves every byte of the pool outside its slot. -/
theorem State.poolKept_place (s : State) (c : Nat) {rec : List Word} (h : s.Homes c) (hl : rec.length = 8) {i : Nat}
    (hi : ((s.core c).chan 63).free = some i) :
    PoolKept s (s.place c none false rec).1 c (((s.core c).chan 63).slotAddr i) 64 := by
  intro a ha
  rw [State.place_of_homes s c rec h, State.core_land, State.core_count, Core.land_of_free hi hl]
  change ((s.core c).put _ (bytesOf rec)).byte a = _
  rw [Core.byte_put, length_bytesOf, hl, if_neg (by omega)]
theorem State.ctx_fare (s : State) (f : Fate) (c x : Nat) : (s.fare f).ctx c x = s.ctx c x := rfl
theorem State.ctx_place (s : State) (c x : Nat) (chan : Option Nat) (reserved : Bool) (rec : List Word) :
    (s.place c chan reserved rec).1.ctx c x = s.ctx c x := by
  rw [State.ctx, Core.ctx, State.ctxs_place]; rfl

/-! ## Raising -/

section Raise
variable (s : State) (f : Flt)

/-- The record of the fault that the issuing bundle takes. -/
def State.preciseRecord : List Word := s.record s.cur.core s.cur.ctx s.cur.pc clsPrecise f
/-- The state in which that record has found its place. -/
def State.recorded : State := (s.place s.cur.core none false (s.preciseRecord f)).1

theorem State.raise_of_homes (h : s.Homes s.cur.core) :
    s.raise f = ((s.recorded f).fateOf s.cur.core s.cur.ctx false).fare (.fault f) := by
  rw [State.recorded, State.place_of_homes _ _ _ h, State.raise, State.takeFault]
  rw [← State.preciseRecord, State.place_of_homes _ _ _ h]
theorem State.raise_of_not_homes (h : ¬s.Homes s.cur.core) :
    s.raise f = ((s.recorded f).fateOf s.cur.core s.cur.ctx true).fare (.fault f) := by
  rw [State.recorded, State.place_of_not_homes _ _ _ h, State.raise, State.takeFault]
  rw [← State.preciseRecord, State.place_of_not_homes _ _ _ h]
theorem State.raise_eq_fateOf : ∃ host, s.raise f = ((s.recorded f).fateOf s.cur.core s.cur.ctx host).fare (.fault f) := by
  by_cases h : s.Homes s.cur.core
  · exact ⟨false, s.raise_of_homes f h⟩
  · exact ⟨true, s.raise_of_not_homes f h⟩

theorem State.keepsOthers_raise : s.KeepsOthers (s.raise f) s.cur.core := by
  obtain ⟨host, h⟩ := s.raise_eq_fateOf f
  have hkeep := (s.recorded f).keepsRings_fateOf s.cur.core s.cur.ctx host
  have hplace := s.keepsOthers_place s.cur.core (s.preciseRecord f)
  rw [h]
  exact ⟨hkeep.mem.trans hplace.1, fun d hd => (hkeep.others d hd).trans (hplace.2 d hd)⟩
theorem State.postsRecord_raise : PostsRecord s (s.raise f) s.cur.core (s.preciseRecord f) := by
  obtain ⟨host, h⟩ := s.raise_eq_fateOf f
  rw [h]
  exact (s.postsRecord_place s.cur.core (s.preciseRecord f) rfl).fateOf (x := s.cur.ctx) (host := host)
theorem State.poolKept_raise (h : s.Homes s.cur.core) {i : Nat} (hi : (s.myCore.chan 63).free = some i) :
    PoolKept s (s.raise f) s.cur.core ((s.myCore.chan 63).slotAddr i) 64 := fun a ha => by
  have hbyte := congrFun ((s.recorded f).keepsRings_fateOf s.cur.core s.cur.ctx false).byte a
  rw [s.raise_of_homes f h]
  exact hbyte.trans (s.poolKept_place s.cur.core h rfl hi a ha)
theorem State.fate_raise : (s.raise f).cur.fate = .fault f := by
  obtain ⟨host, h⟩ := s.raise_eq_fateOf f
  rw [h]; rfl
theorem State.ctx_raise_c0 (h : s.Homes s.cur.core) (hx : s.cur.ctx = 0) (y : Nat) :
    (s.raise f).ctx s.cur.core y = if 0 = y then s.me.stop .halted else s.ctx s.cur.core y := by
  rw [s.raise_of_homes f h, State.ctx_fare, hx, State.ctx_fateOf_c0, State.recorded, State.ctx_place, State.ctx_place, State.me, hx]
theorem State.ctx_raise_helper (h : s.Homes s.cur.core) (hx : s.cur.ctx ≠ 0) (y : Nat) :
    (s.raise f).ctx s.cur.core y = if s.cur.ctx = y then
      (if s.me.st = .free ∨ s.me.st = .halted then { s.me with resv := none } else { s.me.stop .parked with ending := true })
      else s.ctx s.cur.core y := by
  rw [s.raise_of_homes f h, State.ctx_fare, State.ctx_fateOf_helper _ hx, State.recorded, State.ctx_place, State.ctx_place, State.me]
theorem State.st_raise_host (h : ¬s.Homes s.cur.core) {y : Nat} (hy : y < 11) : ((s.raise f).ctx s.cur.core y).st = .halted := by
  rw [s.raise_of_not_homes f h, State.ctx_fare]
  exact State.st_fateOf_host _ _ _ hy

end Raise

/-- Settles O7: the record finds its place (R178), and its context its fate (R322). -/
theorem aFaultDeliversItsRecordAndStopsItsContext : Obligations.AFaultDeliversItsRecordAndStopsItsContext := by
  intro s f
  obtain ⟨hmem, hcores⟩ := s.keepsOthers_raise f
  obtain ⟨hch63, hhost⟩ := s.postsRecord_raise f
  have hwords : s.preciseRecord f = [BitVec.ofNat 64 s.cur.pc <<< 48 ||| BitVec.ofNat 64 s.package.toNat <<< 32 |||
      BitVec.ofNat 64 (s.rel s.cur.core % 4096) <<< 20 ||| BitVec.ofNat 64 s.cur.ctx <<< 16 ||| BitVec.ofNat 64 1 <<< 8 |||
      BitVec.ofNat 64 f.code.code, f.addr, f.obj, f.a, f.b, f.d0, f.d1, f.d2] := by
    simp [State.preciseRecord, State.record, at_, clsPrecise]
  rw [hwords] at hch63 hhost
  refine ⟨s.fate_raise f, hmem, hcores, fun h i hi => ?_, fun h hx => ?_, fun h hx => ?_, fun h => ?_⟩
  · obtain ⟨hkind, hrecord⟩ := hch63 h i hi
    exact ⟨hrecord, hkind, s.poolKept_raise f h hi⟩
  · refine ⟨by rw [s.ctx_raise_c0 f h hx, if_pos rfl]; rfl, fun y hy => ?_⟩
    rw [s.ctx_raise_c0 f h hx, if_neg hy.symm]
  · refine ⟨fun hfree hhalted => ?_, fun y hy => ?_⟩
    · rw [s.ctx_raise_helper f h hx, if_pos rfl, if_neg (not_or.2 ⟨hfree, hhalted⟩)]
      exact ⟨rfl, rfl⟩
    · rw [s.ctx_raise_helper f h hx, if_neg hy.symm]
  · exact ⟨fun y hy => s.st_raise_host f h hy, hhost h⟩

end Machine
end Sys2Proof
end

section
/-! A request for results (R36), and the block queues (R169). -/

namespace Sys2Proof
namespace Machine

theorem bits_eq (w : Word) (lo n : Nat) : bits w lo n = w.toNat / 2 ^ lo % 2 ^ n := by
  rw [bits, BitVec.toNat_ushiftRight, Nat.shiftRight_eq_div_pow]
theorem answers_exec {i : Instr} {s t : State} {P : State → Prop} (h : exec i s = .next t) (hp : P t) : Answers i s P := ⟨t, h, hp⟩

/-! ## Requests for results -/

section Ask
variable (s : State) (kind : OutKind) (ds : List (BitVec 6)) (n : Nat) (k : Nat → State → State)

/-- What is noted of a request for n results. -/
def State.outst : Outst :=
  { id := s.uid, kind := kind, dests := ds.map fun d => 64 + d.toNat, size := n, vals := none, flt := none, pc := s.cur.pc }
/-- The issuing context has noted its request for n results. -/
def State.asking : State :=
  (s.updMe fun c => { c with outs := c.outs ++ [s.outst kind ds n]
                             pending := c.pending ++ (ds.filter (· != 0)).map fun d => 64 + d.toNat }).fresh

theorem State.ask_of_room (h : s.me.outstanding + n ≤ 32) : s.ask kind ds n k = k s.uid (s.asking kind ds n) := if_neg (by omega)
theorem State.ask_of_full (h : 32 < s.me.outstanding + n) : s.ask kind ds n k = s.parkMe (32 - n) := if_pos h
theorem State.asking_cores : (s.asking kind ds n).cores = (s.updMe fun c => { c with
    outs := c.outs ++ [s.outst kind ds n], pending := c.pending ++ (ds.filter (· != 0)).map fun d => 64 + d.toNat }).cores := rfl

/-- A request has been noted in every state with the cores as they are then. -/
theorem asks_of_cores {t : State} (hcores : t.cores = (s.asking kind ds n).cores) (hmem : t.mem = s.mem) (hcur : t.cur = s.cur) :
    Asks s t kind ds n := by
  let f : Ctx → Ctx := fun c => { c with outs := c.outs ++ [s.outst kind ds n]
                                         pending := c.pending ++ (ds.filter (· != 0)).map fun d => 64 + d.toNat }
  have hcore (d : Nat) : t.core d = (s.updMe f).core d := by rw [State.core, hcores]; rfl
  have hctx (d y : Nat) : t.ctx d y = (s.updMe f).ctx d y := by rw [State.ctx, hcore]; rfl
  obtain ⟨⟨_, hothers⟩, hmine, hctxs⟩ := onlyMe_updMe s f
  have hne : ds.filter (· != 0) = ds.filter (· ≠ 0) := List.filter_congr fun d _ => by simp [bne, Bool.beq_eq_decide_eq]
  refine ⟨?_, ?_, fun d hd => (hcore d).trans (hothers d hd), fun y hy => (hctx ..).trans (hctxs y hy), hmem, hcur⟩
  · have hme := s.me_updMe f
    rw [State.me, hcur, hctx]
    exact hme.trans (by rw [← hne]; rfl)
  · have hmyCore : t.myCore = (s.updMe f).myCore := by rw [State.myCore, hcur, hcore]; rfl
    rw [hmyCore]; exact hmine

end Ask

/-! ## Packets sent and sunk -/

/-- The packet that a transmission adds to the network. -/
theorem State.transmit_net (s : State) (c x d : Nat) (b : Body) (waits : List Nat) (sc : Scope) (now : Bool) :
    ∃ e, (s.transmit c x d b waits sc now).net = s.net ++ [e] ∧ e.id = s.uid ∧ e.src = c ∧ e.srcCtx = x ∧ e.dst = d ∧ e.body = b ∧
      e.waits = waits := by
  let p : Packet := { id := s.uid, src := c, srcCtx := x, dst := d, body := b, waits := waits, scope := sc,
                      released := now || b.within || !s.det (partOfKey c * 64) }
  refine ⟨p, ?_, rfl, rfl, rfl, rfl, rfl, rfl⟩
  unfold State.transmit State.count
  dsimp only
  split <;> rfl
theorem State.transmit_cur (s : State) (c x d : Nat) (b : Body) (waits : List Nat) (sc : Scope) (now : Bool) :
    (s.transmit c x d b waits sc now).cur = s.cur := by
  unfold State.transmit State.count
  dsimp only
  split <;> rfl
/-- An event is counted in its partition, and nothing else of any partition changes. -/
theorem State.part_count (s : State) (p e n q : Nat) : (s.count p e n).part q = { s.part q with pm := ((s.count p e n).part q).pm } := by
  unfold State.count
  split
  · rfl
  · rw [State.part_updPart]
    split
    · next h => rw [h]
    · rfl
theorem State.sink_mem (s : State) (p : Packet) : (s.sink p).mem = s.mem := State.count_mem ..
theorem State.sink_cores (s : State) (p : Packet) : (s.sink p).cores = s.cores := State.count_cores ..

/-! ## The unit of a partition -/

theorem State.execJqnext_eq (s : State) (d a : BitVec 6) : exec (.jqnext d a) s = .next (s.ask .jq [d] 1 fun id t =>
    t.transmit t.cur.core t.cur.ctx (jqAgent (t.cur.core / 64))
      (.jq (bits (s.rs a) 0 4) (bits (s.rs a) 16 16) (bits (s.rs a) 32 32) t.cur.ctx id) [] .core false) := rfl

section Serve
variable {s : State} {id q r n ctx out : Nat} {p : Packet}

/-- The unit has answered a request, and holds (round, next) for its queue. -/
def State.jqServed (s : State) (p : Packet) (q ctx out : Nat) (a : Word × (Nat × Nat)) : State :=
  ((s.sink p).updPart (partOfKey p.dst) fun k => { k with jq := AMap.set k.jq q a.2 }).settle p.src ctx out (some [a.1]) none

theorem execJqnextServe_of_request (hp : s.deliverable id = some p) (hb : p.body = .jq q r n ctx out) :
    exec (.jqnextServe id) s = .next (s.jqServed p q ctx out (jqServe (AMap.get (0, 0) (s.part (partOfKey p.dst)).jq q) r n)) := by
  change execJqnextServe id s = _
  simp only [execJqnextServe, hp, hb]
  rfl
theorem State.jqServed_jq (s : State) (p : Packet) (q ctx out : Nat) (a : Word × (Nat × Nat)) (j : Nat) :
    AMap.get (0, 0) ((s.jqServed p q ctx out a).part (partOfKey p.dst)).jq j =
      if q = j then a.2 else AMap.get (0, 0) (s.part (partOfKey p.dst)).jq j := by
  have hpart : (s.jqServed p q ctx out a).part (partOfKey p.dst) =
      ((s.sink p).updPart (partOfKey p.dst) fun k => { k with jq := AMap.set k.jq q a.2 }).part (partOfKey p.dst) := rfl
  have hjq : ((s.sink p).part (partOfKey p.dst)).jq = (s.part (partOfKey p.dst)).jq := by
    rw [State.sink, State.part_count]; rfl
  rw [hpart, State.part_updPart_same]
  dsimp only
  rw [hjq, AMap.get_set]
theorem State.jqServed_mem (s : State) (p : Packet) (q ctx out : Nat) (a : Word × (Nat × Nat)) : (s.jqServed p q ctx out a).mem = s.mem :=
  s.sink_mem p
/-- The answer waits for the context as the result that it asked for. -/
theorem State.outs_settle (s : State) (c x id : Nat) (vals : Option (List Word)) (f : Option Flt) {o : Outst}
    (ho : o ∈ ((s.settle c x id vals f).ctx c x).outs) (hid : o.id = id) : o.vals = vals ∧ o.flt = f := by
  rw [State.settle, State.ctx_updCtx_same] at ho
  obtain ⟨e, -, rfl⟩ := List.mem_map.1 ho
  by_cases h : (e.id == id) = true
  · rw [if_pos h]; exact ⟨rfl, rfl⟩
  · rw [if_neg h] at hid
    exact absurd (beq_iff_eq.2 hid) h
/-- What a unit does with a request, by what the queue's round makes of it. -/
theorem answers_jqnextServe (hp : s.deliverable id = some p) (hb : p.body = .jq q r n ctx out) {v : Word} {k : Nat × Nat}
    (hserve : jqServe (AMap.get (0, 0) (s.part (partOfKey p.dst)).jq q) r n = (v, k)) :
    Answers (.jqnextServe id) s fun t => AMap.get (0, 0) (t.part (partOfKey p.dst)).jq q = k ∧
      (∀ j, j ≠ q → AMap.get (0, 0) (t.part (partOfKey p.dst)).jq j = AMap.get (0, 0) (s.part (partOfKey p.dst)).jq j) ∧ t.mem = s.mem ∧
      ∀ o ∈ (t.ctx p.src ctx).outs, o.id = out → o.vals = some [v] ∧ o.flt = none := by
  refine answers_exec (execJqnextServe_of_request hp hb) ?_
  rw [hserve]
  refine ⟨?_, fun j hj => ?_, State.jqServed_mem .., fun o ho hid => State.outs_settle _ _ _ _ _ _ ho hid⟩
  · rw [State.jqServed_jq, if_pos rfl]
  · rw [State.jqServed_jq, if_neg hj.symm]

end Serve

section Rounds
variable {round next r n : Nat}

theorem jqServe_of_same (hn : next < n) : jqServe (r, next) r n = (BitVec.ofNat 64 next, (r, next + 1)) := by
  simp [jqServe, hn, nat64]
theorem jqServe_of_gone (hn : n ≤ next) : jqServe (r, next) r n = (BitVec.allOnes 64, (r, next)) := by
  simp [jqServe, Nat.not_lt.2 hn]
theorem jqServe_of_later (h0 : 0 < (r + 65536 - round) % 65536) (h : (r + 65536 - round) % 65536 < 32768) (hn : 0 < n) :
    jqServe (round, next) r n = (0, (r, 1)) := by
  simp [jqServe, Nat.not_le.2 h, h0.ne', hn, nat64]
theorem jqServe_of_earlier (h : 32768 ≤ (r + 65536 - round) % 65536) : jqServe (round, next) r n = (BitVec.allOnes 64, (round, next)) := if_pos h

end Rounds

theorem asks_jqnext {s : State} {d a : BitVec 6} (h : s.me.outstanding < 32) : Answers (.jqnext d a) s fun t => Asks s t .jq [d] 1 ∧
    ∃ e, t.net = s.net ++ [e] ∧ e.src = s.cur.core ∧ e.dst = agent (s.cur.core / 64) 5 ∧
      e.body = .jq ((s.rs a).toNat % 16) ((s.rs a).toNat / 2 ^ 16 % 2 ^ 16) ((s.rs a).toNat / 2 ^ 32) s.cur.ctx s.uid := by
  have hlow : bits (s.rs a) 0 4 = (s.rs a).toNat % 16 := by rw [bits_eq]; simp
  have hhigh : bits (s.rs a) 32 32 = (s.rs a).toNat / 2 ^ 32 := by
    have := (s.rs a).isLt
    rw [bits_eq]; omega
  refine answers_exec (s.execJqnext_eq d a) ?_
  rw [State.ask_of_room _ _ _ _ _ (by omega), hlow, hhigh, bits_eq]
  refine ⟨asks_of_cores _ _ _ _ (State.transmit_cores ..) (State.transmit_mem ..) (State.transmit_cur ..), ?_⟩
  obtain ⟨e, hnet, -, hsrc, -, hdst, hbody, -⟩ := State.transmit_net (s.asking .jq [d] 1) s.cur.core s.cur.ctx (jqAgent (s.cur.core / 64))
    (.jq ((s.rs a).toNat % 16) ((s.rs a).toNat / 2 ^ 16 % 2 ^ 16) ((s.rs a).toNat / 2 ^ 32) s.cur.ctx s.uid) [] .core false
  exact ⟨e, hnet, hsrc, hdst, hbody⟩

/-- Settles O44: the request by the rule of R36, and the unit's answer by the place of the round that it asks for. -/
theorem blockQueuesHandOutEachBlockOnce : Obligations.BlockQueuesHandOutEachBlockOnce := by
  intro s d a id q r n ctx out round next p
  refine ⟨asks_jqnext, fun h => answers_exec (s.execJqnext_eq d a) (State.ask_of_full _ _ _ _ _ (by omega)), fun hp hb hagent hq _ _ => ?_⟩
  have hpart : partOfKey p.dst = (p.dst - 4096) / 8 := if_neg (by omega)
  have serve {v k} (h : jqServe (round, next) r n = (v, k)) := answers_jqnextServe hp hb (v := v) (k := k) (by rw [hpart, hq, h])
  simp only [hpart] at serve
  refine ⟨fun he hn => ?_, fun he hn => ?_, fun h0 h hn => serve (jqServe_of_later h0 h hn), fun h => serve (jqServe_of_earlier h)⟩
  · subst he; exact serve (jqServe_of_same hn)
  · subst he; exact serve (jqServe_of_gone hn)

end Machine
end Sys2Proof
end

section
/-! What returns to a context (R36 to R38, R320, R323). -/

namespace Sys2Proof
namespace Machine

theorem onlyCore_updCtx (s : State) (c x : Nat) (f : Ctx → Ctx) : OnlyCore s (s.updCtx c x f) c :=
  onlyCore_updCore s c fun k => k.setCtx x (f (s.ctx c x))
/-- A context that goes on where it was parked has its registers and its results. -/
theorem Core.ctx_unpark (k : Core) (x y : Nat) :
    (k.unpark x).ctx y = if x = y then { k.ctx x with st := ((k.unpark x).ctx x).st } else k.ctx y := by
  unfold Core.unpark
  dsimp only
  split
  · rw [Core.ctx_setCtx, Core.ctx_setCtx_same]
  · split
    · next h => rw [h]
    · rfl

section Returns
variable {s : State} {c x id : Nat} {o : Outst}

/-- The result is outstanding no more. -/
def State.received (s : State) (c x id : Nat) : State := s.updCtx c x fun k => { k with outs := k.outs.filter fun q => q.id != id }
/-- The registers that wait for a result hold its values, unless a fault has ended the context's task. -/
def State.taking (s : State) (c x : Nat) (ds : List Nat) (vs : List Word) : State :=
  if (s.ctx c x).ending then s else s.updCtx c x fun k => (ds.zip vs).foldl (fun k e => k.ws (e.1 - 64) e.2) k

/-- A result has returned, and the context has its values. -/
def State.returned (s : State) (c x id : Nat) (ds : List Nat) (vs : List Word) : State :=
  ((s.received c x id).taking c x ds vs).updCore c fun k => k.unpark x

theorem State.ctx_received (s : State) (c x id : Nat) :
    (s.received c x id).ctx c x = { s.ctx c x with outs := (s.ctx c x).outs.filter fun q => q.id != id } := State.ctx_updCtx_same ..
theorem State.ctx_received_ne (s : State) {c x y : Nat} (id : Nat) (hy : y ≠ x) : (s.received c x id).ctx c y = s.ctx c y := by
  rw [State.received, State.ctx_updCtx, if_neg hy.symm]
theorem execVariableLatencyResult_of_waiting (h : s.findOut id = some (c, x, o)) (hpm : ∀ e p, o.kind ≠ .pm e p) (hv : o.vals = none)
    (hf : o.flt = none) : exec (.variableLatencyResult id) s = .next s := by
  change execVariableLatencyResult id s = _
  simp [execVariableLatencyResult, h, hv, hf]
/-- A value that has returned is written to the registers that wait for it. -/
theorem execVariableLatencyResult_of_value (h : s.findOut id = some (c, x, o)) (hpm : ∀ e p, o.kind ≠ .pm e p) {vs : List Word}
    (hv : o.vals = some vs) (hf : o.flt = none) (hfree : (s.ctx c x).st ≠ .free) (hhalted : (s.ctx c x).st ≠ .halted) :
    exec (.variableLatencyResult id) s = .next (s.returned c x id o.dests vs) := by
  have hst : ¬(((s.received c x id).ctx c x).st = .free ∨ ((s.received c x id).ctx c x).st = .halted) := by
    rw [State.ctx_received]; exact not_or.2 ⟨hfree, hhalted⟩
  change execVariableLatencyResult id s = _
  simp only [execVariableLatencyResult, h, hv, hf]
  exact congrArg Host.Outcome.next (if_neg hst)
theorem execVariableLatencyResult_of_failure (h : s.findOut id = some (c, x, o)) {f : Flt} (hf : o.flt = some f)
    (hfree : (s.ctx c x).st ≠ .free) (hhalted : (s.ctx c x).st ≠ .halted) (hending : (s.ctx c x).ending = false) :
    exec (.variableLatencyResult id) s = .next ((s.received c x id).defer c x f) := by
  have hst : ¬(((s.received c x id).ctx c x).st = .free ∨ ((s.received c x id).ctx c x).st = .halted) := by
    rw [State.ctx_received]; exact not_or.2 ⟨hfree, hhalted⟩
  have hend : ¬((s.received c x id).ctx c x).ending = true := by rw [State.ctx_received, hending]; exact Bool.false_ne_true
  change execVariableLatencyResult id s = _
  simp only [execVariableLatencyResult, h, hf, Option.isNone_some, Bool.and_false, Bool.false_eq_true, if_false]
  exact congrArg Host.Outcome.next ((if_neg hst).trans (if_neg hend))

/-! ## What the context is then -/

theorem State.onlyCore_received (s : State) (c x id : Nat) : OnlyCore s (s.received c x id) c := onlyCore_updCtx ..
theorem State.onlyCore_taking (s : State) (c x : Nat) (ds : List Nat) (vs : List Word) : OnlyCore s (s.taking c x ds vs) c := by
  unfold State.taking
  split
  · exact .refl s c
  · exact onlyCore_updCtx ..
theorem State.ctx_taking (s : State) (c x y : Nat) (ds : List Nat) (vs : List Word) : (s.taking c x ds vs).ctx c y =
    if x = y ∧ (s.ctx c x).ending = false then (ds.zip vs).foldl (fun k e => k.ws (e.1 - 64) e.2) (s.ctx c x) else s.ctx c y := by
  unfold State.taking
  cases (s.ctx c x).ending with
  | true => simp
  | false => simp [State.ctx_updCtx]
theorem State.ctx_unpark (s : State) (c x y : Nat) : (s.updCore c fun k => k.unpark x).ctx c y =
    if x = y then { s.ctx c x with st := (((s.core c).unpark x).ctx x).st } else s.ctx c y := by
  rw [State.ctx, State.core_updCore_same, Core.ctx_unpark]
  rfl
theorem Ctx.outs_foldl_ws (l : List (Nat × Word)) (k : Ctx) : (l.foldl (fun k e => k.ws (e.1 - 64) e.2) k).outs = k.outs := by
  induction l generalizing k with
  | nil => rfl
  | cons e r ih => rw [List.foldl_cons, ih, Ctx.ws_outs]
section Value
variable (s c x id) (ds : List Nat) (vs : List Word)

theorem State.onlyCore_returned : OnlyCore s (s.returned c x id ds vs) c :=
  ((s.onlyCore_received c x id).trans (State.onlyCore_taking ..)).trans (onlyCore_updCore ..)
theorem State.ctx_returned_ne {y : Nat} (hy : y ≠ x) : (s.returned c x id ds vs).ctx c y = s.ctx c y := by
  rw [State.returned, State.ctx_unpark, if_neg hy.symm, State.ctx_taking, if_neg fun h => hy h.1.symm, s.ctx_received_ne id hy]
theorem State.outs_returned : ((s.returned c x id ds vs).ctx c x).outs = (s.ctx c x).outs.filter fun q => q.id != id := by
  rw [State.returned, State.ctx_unpark, if_pos rfl]
  dsimp only
  rw [State.ctx_taking]
  split
  · rw [Ctx.outs_foldl_ws, State.ctx_received]
  · rw [State.ctx_received]
theorem State.s_returned : ((s.returned c x id ds vs).ctx c x).s =
    if (s.ctx c x).ending = false then ((ds.zip vs).foldl (fun k e => k.ws (e.1 - 64) e.2) ((s.received c x id).ctx c x)).s else (s.ctx c x).s := by
  have hending : ((s.received c x id).ctx c x).ending = (s.ctx c x).ending := by rw [State.ctx_received]
  rw [State.returned, State.ctx_unpark, if_pos rfl]
  dsimp only
  rw [State.ctx_taking, hending]
  simp only [true_and]
  split
  · rfl
  · rw [State.ctx_received]

end Value

theorem Ctx.s_ws_eq (k : Ctx) {d : Nat} (v : Word) (h0 : d ≠ 0) (h63 : d ≠ 63) : (k.ws d v).s = AMap.set k.s d v := by
  rw [Ctx.ws, if_neg (not_or.2 ⟨h0, h63⟩)]
/-- The register named holds the value, and no other register has changed. -/
theorem State.s_returned_one (s : State) (c x id : Nat) {d : Nat} (v : Word) (h0 : d ≠ 0) (h63 : d ≠ 63) (h : (s.ctx c x).ending = false) :
    ((s.returned c x id [64 + d] [v]).ctx c x).s = AMap.set (s.ctx c x).s d v := by
  rw [State.s_returned, if_pos h, State.ctx_received]
  change (Ctx.ws _ (64 + d - 64) v).s = _
  rw [Nat.add_sub_cancel_left, Ctx.s_ws_eq _ v h0 h63]
/-- A write to s0 is discarded (R20). -/
theorem State.s_returned_zero (s : State) (c x id : Nat) (v : Word) : ((s.returned c x id [64] [v]).ctx c x).s = (s.ctx c x).s := by
  rw [State.s_returned, State.ctx_received]
  exact ite_self _
theorem State.received_defer (s : State) (c x id : Nat) (f : Flt) (hfree : (s.ctx c x).st ≠ .free) (hhalted : (s.ctx c x).st ≠ .halted)
    (hending : (s.ctx c x).ending = false) (hdeferred : (s.ctx c x).deferred = none) :
    (s.received c x id).defer c x f = (s.received c x id).updCtx c x fun k => { k with deferred := some ⟨f⟩ } := by
  simp [State.defer, State.ctx_received, hfree, hhalted, hending, hdeferred]

end Returns

theorem execDeferredFault_of_some {s : State} {c x : Nat} {f : Flt} (h : (s.ctx c x).deferred = some ⟨f⟩) (hfrozen : (s.core c).frozen = false) :
    exec (.deferredFault c x) s = .next (s.takeFault c x (if (s.ctx c x).st = .waiting then (s.ctx c x).pc + 4 else (s.ctx c x).pc) clsDeferred f) := by
  change execDeferredFault c x s = _
  simp [execDeferredFault, h, hfrozen]
theorem execDeferredFault_of_none {s : State} {c x : Nat} (h : (s.ctx c x).deferred = none ∨ (s.core c).frozen = true) :
    exec (.deferredFault c x) s = .next s := by
  change execDeferredFault c x s = _
  dsimp only [execDeferredFault]
  obtain h | h := h
  · rw [h]
  · cases (s.ctx c x).deferred with
    | none => rfl
    | some d => exact congrArg Host.Outcome.next (if_pos h)

/-- Settles O21: a result is received, and its values or its failure with it. -/
theorem resultsReturnToTheirContext : Obligations.ResultsReturnToTheirContext := by
  intro s c x id o hout hpm
  refine ⟨fun hv hf => answers_exec (execVariableLatencyResult_of_waiting hout hpm hv hf) rfl, ?_, ?_, ?_, fun f hf hfrozen =>
    answers_exec (execDeferredFault_of_some hf hfrozen) rfl, fun h => answers_exec (execDeferredFault_of_none h) rfl⟩
  · intro d v hf ⟨hfree, hhalted⟩ hending hdests hvals h0 h63
    refine answers_exec (execVariableLatencyResult_of_value hout hpm hvals hf hfree hhalted) ?_
    rw [hdests]
    have hs := s.s_returned_one c x id v h0 h63 hending
    refine ⟨s.onlyCore_returned .., s.outs_returned .., ?_, fun r hr => ?_, fun y hy => s.ctx_returned_ne _ _ _ _ _ hy⟩
    · rw [hs, AMap.get_set_same]
    · rw [hs, AMap.get_set_ne _ _ _ hr.symm]
  · intro v hf ⟨hfree, hhalted⟩ hdests hvals
    refine answers_exec (execVariableLatencyResult_of_value hout hpm hvals hf hfree hhalted) ?_
    rw [hdests]
    exact ⟨s.onlyCore_returned .., s.outs_returned .., s.s_returned_zero ..⟩
  · intro f hf ⟨hfree, hhalted⟩ hending hdeferred
    refine answers_exec (execVariableLatencyResult_of_failure hout hf hfree hhalted hending) ?_
    rw [State.received_defer _ _ _ _ _ hfree hhalted hending hdeferred]
    have hctx := (s.received c x id).ctx_updCtx_same c x fun k => { k with deferred := some ⟨f⟩ }
    rw [State.ctx_received] at hctx
    exact ⟨(s.onlyCore_received ..).trans (onlyCore_updCtx ..), by dsimp only; rw [hctx], by rw [hctx], by rw [hctx]⟩

end Machine
end Sys2Proof
end

section
/-! PMRD, TRAP, BRK and HALT (R325, R338), and the debugger (R186, R326). -/

namespace Sys2Proof
namespace Machine

/-! ## Freezing a core -/

/-- What FREEZE leaves in the queue of a handler thread. -/
def HReq.stays : HReq → Bool
  | .atom _ _ _ _ _ _ _ _ | .rdreq _ _ _ _ => false
  | _ => true
/-- The core as FREEZE leaves it. -/
def Core.freeze (k : Core) : Core :=
  { k with frozen := true, handler := k.handler.filter HReq.stays
           hheld := if (match k.handler with | r :: _ => r.stays | [] => false) then k.hheld else none }
theorem State.freezeCore_eq (s : State) (c : Nat) : s.freezeCore c =
    ((s.core c).handler.filter fun r => !r.stays).foldl (fun s r => s.refuseHalted c r) (s.updCore c fun _ => (s.core c).freeze) := rfl

/-- A refusal that goes out as a message changes no core and no memory. -/
theorem State.refuseHalted_cores (s : State) (c : Nat) {r : HReq} (h : r.stays = false) :
    (s.refuseHalted c r).cores = s.cores ∧ (s.refuseHalted c r).mem = s.mem := by
  cases r with
  | atom | rdreq => simp [State.refuseHalted, State.refuse, State.sendHw]
  | steal | merge => cases h
theorem State.refusals_cores (s : State) (c : Nat) {l : List HReq} (h : ∀ r ∈ l, r.stays = false) :
    (l.foldl (fun s r => s.refuseHalted c r) s).cores = s.cores ∧ (l.foldl (fun s r => s.refuseHalted c r) s).mem = s.mem := by
  induction l generalizing s with
  | nil => exact ⟨rfl, rfl⟩
  | cons r l ih =>
    obtain ⟨hcores, hmem⟩ := s.refuseHalted_cores c (h r List.mem_cons_self)
    obtain ⟨hcores', hmem'⟩ := ih (s.refuseHalted c r) fun q hq => h q (List.mem_cons_of_mem r hq)
    exact ⟨hcores'.trans hcores, hmem'.trans hmem⟩

section Freeze
variable (s : State) (c : Nat)

theorem State.freezeCore_cores :
    (s.freezeCore c).cores = (s.updCore c fun _ => (s.core c).freeze).cores ∧ (s.freezeCore c).mem = s.mem := by
  rw [State.freezeCore_eq]
  exact State.refusals_cores _ c fun r hr => by simpa using (List.mem_filter.1 hr).2
theorem State.core_freezeCore : (s.freezeCore c).core c = (s.core c).freeze := by
  rw [State.core, (s.freezeCore_cores c).1]
  exact State.core_updCore_same s c fun _ => (s.core c).freeze
theorem State.core_freezeCore_ne {d : Nat} (hd : d ≠ c) : (s.freezeCore c).core d = s.core d := by
  rw [State.core, (s.freezeCore_cores c).1]
  exact State.core_updCore_ne s (fun _ => (s.core c).freeze) hd.symm
/-- A core whose handler thread has no work is frozen without a word to others. -/
theorem State.onlyCore_freezeCore (h : (s.core c).handler = []) : OnlyCore s (s.freezeCore c) c := by
  rw [State.freezeCore_eq, h]
  exact onlyCore_updCore s c fun _ => (s.core c).freeze
/-- A context of a frozen core stands HALTED where it holds a task (R326). -/
theorem State.stateOf_of_frozen {s : State} {c x : Nat} (h : (s.core c).frozen = true) (hx : (s.ctx c x).st ≠ .free) : s.stateOf c x = .halted := by
  rw [State.stateOf, h]
  simp [hx]
theorem State.stateOf_of_running {s : State} {c : Nat} (x : Nat) (h : (s.core c).frozen = false) : s.stateOf c x = (s.ctx c x).st := by
  rw [State.stateOf, h]
  rfl
theorem State.ctx_freezeCore (x : Nat) : (s.freezeCore c).ctx c x = s.ctx c x := by
  rw [State.ctx, State.core_freezeCore]
  rfl

theorem answers_freeze (h : (s.core c).frozen = false) : Answers (.freeze c) s fun t => (t.core c).frozen = true ∧
    (∀ d, d ≠ c → t.core d = s.core d) ∧ t.mem = s.mem ∧
    (∀ x, t.ctx c x = s.ctx c x ∧ ((s.ctx c x).st ≠ .free → t.stateOf c x = .halted)) ∧
    ((s.core c).handler = [] → OnlyCore s t c) ∧ ∀ r ∈ (t.core c).handler, r ∈ (s.core c).handler ∧ r.stays = true := by
  have hexec : exec (.freeze c) s = .next (s.freezeCore c) := congrArg Host.Outcome.next (if_neg (by rw [h]; exact Bool.false_ne_true))
  have hfrozen : ((s.freezeCore c).core c).frozen = true := by rw [State.core_freezeCore]; rfl
  refine answers_exec hexec ⟨hfrozen, fun d hd => s.core_freezeCore_ne c hd, (s.freezeCore_cores c).2, fun x => ?_,
    s.onlyCore_freezeCore c, fun r hr => ?_⟩
  · exact ⟨s.ctx_freezeCore c x, fun hx => State.stateOf_of_frozen hfrozen (by rwa [State.ctx_freezeCore])⟩
  · rw [State.core_freezeCore] at hr
    exact List.mem_filter.1 hr

/-! ## Thawing it -/

/-- The core runs again. -/
def State.thawed : State := s.updCore c fun k => { k with frozen := false, brkAt := none }

theorem execThaw_of_frozen (h : (s.core c).frozen = true) : exec (.thaw c) s = .next (match (s.core c).brkAt with
    | some (x, next) => ((s.thawed c).retire c x next 1).repeats c x ((s.thawed c).ctx c x).srep
    | none => s.thawed c) := congrArg Host.Outcome.next (if_neg (by rw [h]; exact Bool.false_ne_true))
theorem State.core_thawed : (s.thawed c).core c = { s.core c with frozen := false, brkAt := none } := State.core_updCore_same ..
theorem State.ctx_thawed (x : Nat) : (s.thawed c).ctx c x = s.ctx c x := by rw [State.ctx, State.core_thawed]; rfl

end Freeze

theorem State.core_retire (s : State) (c x next words : Nat) : (s.retire c x next words).core c = (s.core c).setCtx x { s.ctx c x with
    pc := next, retired := (s.ctx c x).retired + BitVec.ofNat 64 words, retiredQ := (s.ctx c x).retiredQ + 1, xhave := [] } := by
  rw [State.retire, State.core_count, State.core_updCtx_same]
theorem State.ctx_retire (s : State) (c x y next words : Nat) : (s.retire c x next words).ctx c y = if x = y then { s.ctx c x with
    pc := next, retired := (s.ctx c x).retired + BitVec.ofNat 64 words, retiredQ := (s.ctx c x).retiredQ + 1, xhave := [] } else s.ctx c y := by
  rw [State.ctx, State.core_retire, Core.ctx_setCtx]; rfl
/-- A repetition moves the program counter of its context and nothing else of the core. -/
theorem State.core_repeats (s : State) (c x : Nat) (was : Option Srep) :
    (s.repeats c x was).core c = { s.core c with ctxs := ((s.repeats c x was).core c).ctxs } := by
  cases was with
  | none => rfl
  | some r => rw [State.repeats, State.core_updCtx_same]; rfl
theorem State.ctx_repeats (s : State) (c x y : Nat) (was : Option Srep) : ((s.repeats c x was).ctx c y).st = (s.ctx c y).st ∧
    (y ≠ x → (s.repeats c x was).ctx c y = s.ctx c y) := by
  cases was with
  | none => exact ⟨rfl, fun _ => rfl⟩
  | some r =>
    rw [State.repeats, State.ctx_updCtx]
    split
    · next h => subst h; exact ⟨rfl, fun h => absurd rfl h⟩
    · exact ⟨rfl, fun _ => rfl⟩

/-- THAW past a BRK: the breaking context goes on at its next bundle. -/
theorem answers_thaw_past_brk (s : State) (c x next : Nat) (h : (s.core c).frozen = true) (hbrk : (s.core c).brkAt = some (x, next)) :
    Answers (.thaw c) s fun t => (t.core c).frozen = false ∧ (t.core c).brkAt = none ∧
      (∀ y, (t.ctx c y).st = (s.ctx c y).st ∧ (y ≠ x → t.ctx c y = s.ctx c y)) ∧ ((s.ctx c x).srep = none → (t.ctx c x).pc = next) := by
  have hexec := execThaw_of_frozen s c h
  rw [hbrk] at hexec
  dsimp only at hexec
  rw [State.ctx_thawed] at hexec
  have hrun := State.core_repeats ((s.thawed c).retire c x next 1) c x (s.ctx c x).srep
  rw [State.core_retire, State.core_thawed] at hrun
  refine answers_exec hexec ⟨by rw [hrun]; rfl, by rw [hrun]; rfl, fun y => ?_, fun hs => ?_⟩
  · obtain ⟨hst, hne⟩ := State.ctx_repeats ((s.thawed c).retire c x next 1) c x y (s.ctx c x).srep
    rw [State.ctx_retire, State.ctx_thawed, State.ctx_thawed] at hst hne
    refine ⟨hst.trans ?_, fun hy => (hne hy).trans (if_neg hy.symm)⟩
    split
    · next hxy => rw [hxy]
    · rfl
  · rw [hs]
    change (((s.thawed c).retire c x next 1).ctx c x).pc = next
    rw [State.ctx_retire, if_pos rfl]
theorem answers_thaw (s : State) (c : Nat) (h : (s.core c).frozen = true) (hbrk : (s.core c).brkAt = none) :
    Answers (.thaw c) s fun t => OnlyCore s t c ∧ (t.core c).frozen = false ∧ ∀ x, t.ctx c x = s.ctx c x ∧ t.stateOf c x = (s.ctx c x).st := by
  have hexec := execThaw_of_frozen s c h
  rw [hbrk] at hexec
  have hrun : ((s.thawed c).core c).frozen = false := by rw [State.core_thawed]
  exact answers_exec hexec ⟨onlyCore_updCore .., hrun, fun x =>
    ⟨s.ctx_thawed c x, by rw [State.stateOf_of_running x hrun, State.ctx_thawed]⟩⟩

theorem freezeAndThawReturnEveryContext : FreezeAndThawReturnEveryContext := by
  intro s c
  refine ⟨fun h => answers_exec (congrArg Host.Outcome.next (if_pos h)) rfl, fun h => ?_, fun h => ?_, answers_thaw s c,
    answers_thaw_past_brk s c, ?_⟩
  · obtain ⟨t, hexec, hfrozen, hothers, hmem, hctx, honly, hstays⟩ := answers_freeze s c h
    refine ⟨t, hexec, hfrozen, hothers, hmem, hctx, honly, fun r hr => ⟨(hstays r hr).1, ?_⟩⟩
    have hr' := (hstays r hr).2
    cases r with
    | atom | rdreq => cases hr'
    | steal | merge => trivial
  · exact answers_exec (congrArg Host.Outcome.next (if_pos (by rw [h]; rfl))) rfl
  · exact answers_exec (t := s.updCore c fun k => { k with dbg := true }) rfl ⟨onlyCore_updCore .., State.core_updCore_same ..⟩

/-! ## PMRD, TRAP, BRK and HALT -/

theorem pmrd_good_iff (s : State) (a : BitVec 6) : (¬(bits (s.rs a) 12 52 ≠ 0 ∨ 2 ^ (s.domain (s.domOf s.cur.core)).log2 ≤ bits (s.rs a) 6 6)) ↔
    ((s.rs a).toNat < 4096 ∧ bits (s.rs a) 6 6 < 2 ^ (s.domain (s.domOf s.cur.core)).log2) := by
  have := (s.rs a).isLt
  have h12 : bits (s.rs a) 12 52 = 0 ↔ (s.rs a).toNat < 4096 := by rw [bits_eq]; omega
  rw [not_or, not_not, Nat.not_le, h12]
theorem execPmrd_of_good {s : State} (d : BitVec 6) {a : BitVec 6} (h : (s.rs a).toNat < 4096 ∧ bits (s.rs a) 6 6 < 2 ^ (s.domain (s.domOf s.cur.core)).log2) :
    exec (.pmrd d a) s = .next (s.ask (.pm ((s.rs a).toNat % 64) (s.domOf s.cur.core + bits (s.rs a) 6 6)) [d] 1 fun _ t => t) := by
  have hlow : bits (s.rs a) 0 6 = (s.rs a).toNat % 64 := by rw [bits_eq]; simp
  rw [← hlow]
  exact congrArg Host.Outcome.next (if_neg ((pmrd_good_iff s a).2 h))
theorem execPmrd_of_bad {s : State} (d : BitVec 6) {a : BitVec 6} (h : ¬((s.rs a).toNat < 4096 ∧ bits (s.rs a) 6 6 < 2 ^ (s.domain (s.domOf s.cur.core)).log2)) :
    exec (.pmrd d a) s = .next (s.raise { code := .perm, a := 69, b := s.rs a }) :=
  congrArg Host.Outcome.next (if_pos (not_not.1 (mt (pmrd_good_iff s a).1 h)))
/-- BRK with the debugger's bit set freezes the core, and notes where its context goes on. -/
theorem answers_brk_debug {s : State} (h : s.myCore.dbg = true) : Answers .brk s fun t => (t.core s.cur.core).frozen = true ∧
    (t.core s.cur.core).brkAt = some (s.cur.ctx, s.cur.pc + s.cur.size) ∧
    ∀ x, (s.ctx s.cur.core x).st ≠ .free → t.stateOf s.cur.core x = .halted := by
  let u := (s.count (s.cur.core / 64) 15 1).toHost (s.cur.core / 64) (s.record s.cur.core s.cur.ctx s.cur.pc clsPrecise (flt .brk 0 0 0))
  let t := ((u.freezeCore s.cur.core).updCore s.cur.core fun k => { k with brkAt := some (s.cur.ctx, s.cur.pc + s.cur.size) }).fare
    (.fault (flt .brk 0 0 0))
  have hexec : exec .brk s = .next t := congrArg Host.Outcome.next (if_pos h)
  have hcore : t.core s.cur.core = { (u.core s.cur.core).freeze with brkAt := some (s.cur.ctx, s.cur.pc + s.cur.size) } := by
    rw [← State.core_freezeCore]
    exact State.core_updCore_same (u.freezeCore s.cur.core) s.cur.core fun k => { k with brkAt := some (s.cur.ctx, s.cur.pc + s.cur.size) }
  have hfrozen : (t.core s.cur.core).frozen = true := by rw [hcore]; rfl
  have hucore : u.core s.cur.core = s.core s.cur.core := State.core_count ..
  refine answers_exec hexec ⟨hfrozen, by rw [hcore], fun x hx => State.stateOf_of_frozen hfrozen ?_⟩
  rw [State.ctx, hcore]
  change ((u.core s.cur.core).ctx x).st ≠ _
  rwa [hucore]
theorem pmrdTrapBrkAndHalt : PmrdTrapBrkAndHalt := by
  intro s d a
  refine ⟨fun hgood h => answers_exec (execPmrd_of_good d hgood) ?_, fun hgood h => answers_exec (execPmrd_of_good d hgood) ?_,
    fun hbad => answers_exec (execPmrd_of_bad d hbad) rfl, answers_exec rfl rfl, fun h => ?_, answers_brk_debug, fun h => ?_, fun h => ?_⟩
  · rw [State.ask_of_room _ _ _ _ _ (by omega)]
    exact asks_of_cores _ _ _ _ rfl rfl rfl
  · exact State.ask_of_full _ _ _ _ _ (by omega)
  · exact answers_exec (congrArg Host.Outcome.next (if_neg (by rw [h]; exact Bool.false_ne_true))) rfl
  · exact answers_exec (congrArg Host.Outcome.next (if_neg (not_not.2 h))) ⟨onlyMe_updMe .., s.me_updMe _⟩
  · exact answers_exec (congrArg Host.Outcome.next (if_pos h)) rfl

/-- Settles O6: each instruction of the first part by its own branches, and the debugger by what a frozen core keeps. -/
theorem systemInstructionsStopAskAndFreeze : Obligations.SystemInstructionsStopAskAndFreeze :=
  ⟨pmrdTrapBrkAndHalt, freezeAndThawReturnEveryContext⟩

end Machine
end Sys2Proof
end

section
/-! QWAIT past a message whose release is not complete (R200, R218, R270). -/

namespace Sys2Proof
namespace Machine

/-- Where no message may be taken yet, QWAIT waits. -/
theorem execQwait_of_none {s : State} {d a : BitVec 6} {w : BitVec 5} (h : bits (s.rs a) 0 6 ≠ 61)
    (hpolled : (s.myCore.chan (bits (s.rs a) 0 6)).polled = true)
    (hnone : ((s.myCore.chan (bits (s.rs a) 0 6)).first fun t => !s.pendingIds s.cur.core t.waits) = none) :
    exec (.qwait d a w) s = .next (s.await (.qwait d a w) w) := by
  change execQwait d a w s = _
  simp [execQwait, h, hpolled, hnone]
theorem State.me_waitMe (s : State) (w : Wait) : (s.waitMe w).me = { s.me with st := .waiting, wait := some w } :=
  s.me_updMe fun k => { k with st := .waiting, wait := some w }
theorem State.heldQ_await (s : State) (i : Instr) (w : BitVec 5) : (s.await i w).me.heldQ = s.me.heldQ := by
  unfold State.await
  split
  · rfl
  · rw [State.me_waitMe]

/-- A descriptor in a polled ring, whose task the release of a `READY` still holds: a load that it covers has not been performed. -/
def unreleasedSlot : Slot := { kind := .desc 0 false, waits := [7] }
/-- C0 names that ring, channel 4, in s1, and has that load outstanding. -/
def unreleasedState : State :=
  State.reset.updCore 0 fun k => { k with
    ctxs := [(0, { s := [(1, 4)], outs := [{ id := 7, kind := .load, dests := [69], size := 1, vals := none, flt := none, pc := 0 }] })]
    channels := [(4, { bound := true, handler := 0xFFFFFFFF, depth := 2, slots := [(0, unreleasedSlot)] })] }

/-- Refutes O30: the first message of the ring is a descriptor whose release is not complete, and `QWAIT` waits for it and does not take it. -/
theorem not_waitsEndOrExpire : ¬ Obligations.WaitsEndOrExpire := by
  intro h
  have hclauses := h unreleasedState 2 1 0 0 0 0 0 { instr := .nop, start := 0, limit := 0 }
  obtain ⟨-, hqwait, -⟩ := hclauses
  obtain ⟨htaken, -⟩ := hqwait (by decide) (by decide)
  obtain ⟨t, hexec, -, -, hheld, -⟩ := htaken 0 (by decide) (by decide)
  have hwaits : exec (.qwait 2 1 0) unreleasedState = .next (unreleasedState.await (.qwait 2 1 0) 0) :=
    execQwait_of_none (by decide) (by decide) (by decide)
  obtain rfl : unreleasedState.await (.qwait 2 1 0) 0 = t := by
    rw [hwaits] at hexec
    exact Host.Outcome.next.inj hexec
  rw [State.heldQ_await] at hheld
  exact absurd hheld (by decide)

end Machine
end Sys2Proof
end

section
/-! Binding and repeating streams (R110 to R114), and the checks of a bundle before it takes effect (R34, R36, R114). -/

namespace Sys2Proof
namespace Machine

/-! ## SBIND, SFREE and SPOS -/

theorem readDesc_pos {ws : List Word} {t : Stream} (h : readDesc ws = .ok t) : t.pos = 0 := by
  dsimp only [readDesc] at h
  split at h
  · cases h
  · split at h
    · cases h
    · cases h; rfl

section Bind
variable {s : State} {v : BitVec 3} {a d : BitVec 6}

/-- What SBIND does with the 64 bytes of its descriptor. -/
def State.bindStream (s : State) (v : BitVec 3) : Except Nat Stream → State
  | .error r => s.raise (streamFlt v.toNat r 0)
  | .ok t => (s.updMe fun k => { k with streams := AMap.set k.streams v.toNat { t with bound := s.uid } }).fresh

theorem execSbind_of_misaligned (h : (s.rs a).toNat % 64 ≠ 0) : exec (.sbind v a) s = .next (s.raise { code := .align, a := s.rs a }) :=
  congrArg Host.Outcome.next (if_pos h)
section Aligned
variable (halign : (s.rs a).toNat % 64 = 0)
include halign

theorem execSbind_of_outside (h : inScratch s.myCore (s.rs a) 64 = false) : exec (.sbind v a) s = .next (s.raise { code := .pool, a := s.rs a }) := by
  have hout : (!inScratch s.myCore (s.rs a) 64) = true := by rw [h]; rfl
  exact congrArg Host.Outcome.next ((if_neg (not_not.2 halign)).trans (if_pos hout))
variable (hin : inScratch s.myCore (s.rs a) 64 = true) (hatoms : s.ownAtoms (offOf (s.rs a)) 64 = [])
include hin hatoms

theorem execSbind_of_marked {h : Nat} (hmarked : s.myCore.marked (offOf (s.rs a)) 64 = some h) :
    exec (.sbind v a) s = .next (s.stallMe (.watermark h s.wmStart (localAddr (offOf (s.rs a))))) := by
  have hnin : ¬(!inScratch s.myCore (s.rs a) 64) = true := by rw [hin]; exact Bool.false_ne_true
  exact congrArg Host.Outcome.next ((if_neg (not_not.2 halign)).trans ((if_neg hnin).trans (State.inOrder_marked hatoms hmarked)))
theorem execSbind_of_readable (hmarked : s.myCore.marked (offOf (s.rs a)) 64 = none) (hbad : s.badIn s.cur.core (offOf (s.rs a)) 64 = none) :
    exec (.sbind v a) s = .next (s.bindStream v (readDesc (wordsOf 8 (s.myCore.bytes (offOf (s.rs a)) 64)))) := by
  have hnin : ¬(!inScratch s.myCore (s.rs a) 64) = true := by rw [hin]; exact Bool.false_ne_true
  have hread : s.readLocal s.cur.core (offOf (s.rs a)) 64 = .ok (s.myCore.bytes (offOf (s.rs a)) 64) := by
    simp only [State.readLocal, hbad]; rfl
  change execSbind v a s = _
  rw [execSbind, if_neg (not_not.2 halign), if_neg hnin, State.loadLocal, State.inOrder_clear hatoms hmarked, hread]
  dsimp only [State.orRaise]
  cases readDesc (wordsOf 8 (s.myCore.bytes (offOf (s.rs a)) 64)) <;> rfl

end Aligned

theorem answers_sfree (s : State) (v : BitVec 3) : Answers (.sfree v) s fun u => OnlyMe s u ∧ u.me = { s.me with streams := u.me.streams } ∧
    AMap.find u.me.streams v.toNat = none ∧ ∀ w, w ≠ v.toNat → AMap.find u.me.streams w = AMap.find s.me.streams w := by
  have hme := s.me_updMe fun k => { k with streams := AMap.erase k.streams v.toNat }
  refine answers_exec (t := s.updMe fun k => { k with streams := AMap.erase k.streams v.toNat }) rfl ⟨onlyMe_updMe .., by rw [hme], ?_, fun w hw => ?_⟩
  · rw [hme, AMap.find_erase, if_pos rfl]
  · rw [hme, AMap.find_erase, if_neg hw.symm]
theorem execSpos_of_bound {t : Stream} (h : AMap.find s.src.streams v.toNat = some t) :
    exec (.spos d v) s = .next (s.ws d (BitVec.ofNat 64 (Min.min t.pos t.len))) := by
  change execSpos d v s = _
  rw [execSpos, h]; rfl
theorem execSpos_of_unbound (h : AMap.find s.src.streams v.toNat = none) : exec (.spos d v) s = .next (s.ws d (BitVec.allOnes 64)) := by
  change execSpos d v s = _
  rw [execSpos, h]

end Bind

/-! ## SREP -/

theorem foldl_min_of_least {l : List Nat} {a m : Nat} (hm : m = a ∨ m ∈ l) (ha : m ≤ a) (hl : ∀ x ∈ l, m ≤ x) : l.foldl Nat.min a = m := by
  induction l generalizing a with
  | nil => exact (hm.resolve_right List.not_mem_nil).symm
  | cons x l ih =>
    have hx := hl x List.mem_cons_self
    refine ih ?_ (Nat.le_min.2 ⟨ha, hx⟩) fun y hy => hl y (List.mem_cons_of_mem x hy)
    obtain h | h := hm
    · exact .inl (h.trans (Nat.min_eq_left (h ▸ hx)).symm)
    · obtain h | h := List.mem_cons.1 h
      · exact .inl (h.trans (Nat.min_eq_right (h ▸ ha)).symm)
      · exact .inr h

/-- The beats that a stream has left. -/
def Stream.beatsLeft (t : Stream) : Nat := (t.len - t.pos + 63) / 64
/-- The repetitions of a body: the beats left on the shortest bound stream. -/
def State.beatsLeft (s : State) : Nat :=
  let left := s.src.streams.map fun e => e.2.beatsLeft
  left.foldl Nat.min (left.headD 0)

section Repeat
variable {s : State} {n : BitVec 17}

theorem State.beatsLeft_eq {e : Nat × Stream} (he : e ∈ s.src.streams) (hle : ∀ f ∈ s.src.streams, e.2.beatsLeft ≤ f.2.beatsLeft) :
    s.beatsLeft = e.2.beatsLeft := by
  have hl : ∀ x ∈ s.src.streams.map fun e => e.2.beatsLeft, e.2.beatsLeft ≤ x := List.forall_mem_map.2 hle
  refine foldl_min_of_least (.inr (List.mem_map_of_mem he)) ?_ hl
  cases hs : s.src.streams with
  | nil => rw [hs] at he; cases he
  | cons f r => exact hle f (hs ▸ List.mem_cons_self)
theorem execSrep_of_bad (h : n.toNat = 0 ∨ 256 < n.toNat ∨ s.src.streams = []) :
    exec (.srep n) s = .next (s.raise { code := .stream, a := 5, b := BitVec.ofNat 64 n.toNat }) := by
  have hbad : n.toNat = 0 ∨ 256 < n.toNat ∨ s.src.streams.isEmpty = true := by rwa [List.isEmpty_iff]
  exact congrArg Host.Outcome.next (if_pos hbad)
section Good
variable (h1 : 1 ≤ n.toNat) (h256 : n.toNat ≤ 256) {e : Nat × Stream} (he : e ∈ s.src.streams)
include h1 h256 he

theorem srep_good : ¬(n.toNat = 0 ∨ 256 < n.toNat ∨ s.src.streams.isEmpty = true) := by
  rintro (h | h | h)
  · omega
  · omega
  · exact List.ne_nil_of_mem he (List.isEmpty_iff.1 h)
theorem execSrep_of_none_left (h : s.beatsLeft = 0) :
    exec (.srep n) s = .next { s with cur := { s.cur with next := skipBundles s.myCore.imem s.cur.next n.toNat } } :=
  congrArg Host.Outcome.next ((if_neg (srep_good h1 h256 he)).trans (if_pos h))
theorem execSrep_of_left (h : s.beatsLeft ≠ 0) : exec (.srep n) s = .next (s.updMe fun k =>
    { k with srep := some { body := s.cur.next, n := n.toNat, idx := 0, beta := 0, nrep := s.beatsLeft } }) :=
  congrArg Host.Outcome.next ((if_neg (srep_good h1 h256 he)).trans (if_neg h))

end Good
end Repeat

theorem streamInstructionsActOnTheirStream : StreamInstructionsActOnTheirStream := by
  intro s v a d n
  refine ⟨?_, ?_, ?_, fun h => answers_exec (execSbind_of_misaligned h) rfl, fun halign h => answers_exec (execSbind_of_outside halign h) rfl,
    answers_sfree s v, fun t h => answers_exec (execSpos_of_bound h) (writes_ws ..), fun h => answers_exec (execSpos_of_unbound h) (writes_ws ..),
    ?_, ?_, fun h => answers_exec (execSrep_of_bad h) rfl⟩
  · intro ⟨halign, hin, hatoms, hmarked, hbad⟩ t ht
    refine ⟨readDesc_pos ht, answers_exec (execSbind_of_readable halign hin hatoms hmarked hbad) ?_⟩
    rw [ht]
    exact ⟨_, onlyMe_updMe .., s.me_updMe fun k => { k with streams := AMap.set k.streams v.toNat { t with bound := s.uid } }, rfl⟩
  · intro ⟨halign, hin, hatoms, hmarked, hbad⟩ r hr
    refine answers_exec (execSbind_of_readable halign hin hatoms hmarked hbad) ?_
    rw [hr]; rfl
  · exact fun halign hin hatoms h hmarked => answers_exec (execSbind_of_marked halign hin hatoms hmarked) rfl
  · intro h1 h256 e he hle hpos
    have hleft : s.beatsLeft = e.2.beatsLeft := State.beatsLeft_eq he hle
    have hne : e.2.beatsLeft ≠ 0 := hpos.ne'
    refine answers_exec (execSrep_of_left h1 h256 he (hleft ▸ hne)) ⟨onlyMe_updMe .., ?_⟩
    rw [State.me_updMe, hleft]; rfl
  · intro h1 h256 ⟨e, he, hzero⟩
    have hzero' : e.2.beatsLeft = 0 := hzero
    have hleft : s.beatsLeft = 0 := (State.beatsLeft_eq he fun f _ => hzero' ▸ Nat.zero_le _).trans hzero'
    exact answers_exec (execSrep_of_none_left h1 h256 he hleft) rfl

/-! ## The checks of a bundle -/

/-- A marked bundle clears Pending (R36). -/
def State.unpend (s : State) (marked : Bool) : State := if marked then s.updMe fun k => { k with pending := [] } else s

section Check
variable {s : State} {m : Bool} {is : List Instr} {run : State → State}

theorem State.check_of_outstanding (hm : m = true) (h : s.me.outstanding ≠ 0) : s.check_ m is run = s.parkMe := by
  rw [State.check_, hm]
  exact if_pos (by simpa using h)
theorem State.check_of_hazard (h : m = true → s.me.outstanding = 0) {r : Nat} (hz : (s.unpend m).hazard is = some r) :
    s.check_ m is run = (s.unpend m).raise { code := .hazard, obj := BitVec.ofNat 64 r } := by
  have hpark : ¬(m && s.me.outstanding != 0) = true := by
    cases m with
    | false => exact Bool.false_ne_true
    | true => simp [h rfl]
  rw [State.check_, if_neg hpark, ← State.unpend]
  dsimp only
  rw [hz]; rfl
theorem State.srep_unpend (s : State) (m : Bool) : (s.unpend m).me.srep = s.me.srep := by
  unfold State.unpend
  split
  · rw [State.me_updMe]
  · rfl
/-- What a bundle of a body does that no check holds (R114). -/
theorem State.check_of_body (h : m = true → s.me.outstanding = 0) (hz : (s.unpend m).hazard is = none) {r : Srep} (hr : s.me.srep = some r) :
    s.check_ m is run = if is.any bodyForbids then (s.unpend m).raise (streamFlt 0 5 r.n) else (run (s.unpend m)).finish is.length (some r) := by
  have hpark : ¬(m && s.me.outstanding != 0) = true := by
    cases m with
    | false => exact Bool.false_ne_true
    | true => simp [h rfl]
  rw [State.check_, if_neg hpark, ← State.unpend]
  dsimp only
  rw [hz, State.srep_unpend, hr]

end Check

/-! ## Bodies -/

theorem State.cur_count (s : State) (p e n : Nat) : (s.count p e n).cur = s.cur := by unfold State.count; split <;> rfl
/-- The context as its bundle retires, and the repetition with it. -/
theorem State.me_finish {s : State} (words : Nat) {r : Srep} (h : s.cur.fate = .retire) :
    (s.finish words (some r)).me.srep = r.step.1 ∧ (s.finish words (some r)).me.pc = if r.step.2 then r.body else s.cur.next := by
  let u := (s.retire s.cur.core s.cur.ctx s.cur.next words).updCtx s.cur.core s.cur.ctx fun k => if k.st = .ready then { k with stall := none } else k
  have hcur : s.finish words (some r) = u.updCtx s.cur.core s.cur.ctx fun k => { k with srep := r.step.1, pc := if r.step.2 then r.body else k.pc } := by
    rw [State.finish, h]; rfl
  have hpc : (u.ctx s.cur.core s.cur.ctx).pc = s.cur.next := by
    rw [State.ctx_updCtx_same, State.ctx_retire, if_pos rfl]
    split <;> rfl
  have hmecur : (s.finish words (some r)).cur = s.cur := by
    rw [hcur]; exact State.cur_count ..
  rw [State.me, hmecur, hcur, State.ctx_updCtx_same]
  exact ⟨rfl, by dsimp only; rw [hpc]⟩

theorem aBodyRunsOncePerRepetition : ABodyRunsOncePerRepetition := by
  intro s c x words r w i t
  refine ⟨fun h => ?_, ?_⟩
  · obtain ⟨hsrep, hpc⟩ := s.me_finish words (r := r) h
    refine ⟨fun hn => ?_, fun hn hb => ?_, fun hn hb => ?_⟩
    · rw [hsrep, hpc, r.step_next hn]; exact ⟨rfl, rfl⟩
    · rw [hsrep, hpc, r.step_again hn hb]; exact ⟨rfl, rfl⟩
    · rw [hsrep, hpc, r.step_over hn hb]; exact ⟨rfl, rfl⟩
  · intro hb hf hw hr b e hout hz
    have hr' : (s.begin c x).me.srep = some r := hr
    have hout' : decide (wS w = 1) = true → (s.begin c x).me.outstanding = 0 := fun h => hout (of_decide_eq_true h)
    have he : (s.begin c x).unpend (wS w = 1) = e := by simp only [State.unpend, decide_eq_true_eq]; rfl
    have hcheck := State.check_of_body (is := [i]) (run := fun u => u.runOne i) hout' (he ▸ hz) hr'
    rw [State.issueCtx_of_one hb hf hw, hcheck, he]
    refine ⟨fun hforbid => ?_, fun hok hexec => ?_⟩
    · rw [List.any_cons, hforbid]; rfl
    · rw [List.any_cons, hok, State.runOne_of_next hexec]; rfl

/-- Settles O14, from its two parts: what the instructions do to a stream, and how a body goes on. -/
theorem streamsBindAndRepeat : Obligations.StreamsBindAndRepeat := ⟨streamInstructionsActOnTheirStream, aBodyRunsOncePerRepetition⟩

end Machine
end Sys2Proof
end

section
/-! Bundles are checked, then read, then write (R34 to R36, R61). -/

namespace Sys2Proof
namespace Machine

/-! ## What stands at a program counter -/

theorem extractLsb_eq_one_iff (w : Word32) (n : Nat) : w.extractLsb' n 1 = 1#1 ↔ w.getLsbD n = true := by
  refine ⟨fun h => ?_, fun h => BitVec.eq_of_getLsbD_eq fun i hi => ?_⟩
  · have hbit := congrArg (·.getLsbD 0) h
    simpa using hbit
  · obtain rfl : i = 0 := by omega
    simpa using h
theorem extractLsb_eq_zero_iff (w : Word32) (n : Nat) : w.extractLsb' n 1 = 0#1 ↔ w.getLsbD n = false := by
  refine ⟨fun h => ?_, fun h => BitVec.eq_of_getLsbD_eq fun i hi => ?_⟩
  · have hbit := congrArg (·.getLsbD 0) h
    simpa using hbit
  · obtain rfl : i = 0 := by omega
    simpa using h
theorem wL_eq_one_iff (w : Word32) : wL w = 1 ↔ w.getLsbD 31 = true := extractLsb_eq_one_iff w 31
theorem wS_eq_one_iff (w : Word32) : wS w = 1 ↔ w.getLsbD 30 = true := extractLsb_eq_one_iff w 30
theorem wK_eq_one_iff (w : Word32) : wK w = 1 ↔ w.getLsbD 29 = true := extractLsb_eq_one_iff w 29
theorem wK_eq_zero_iff (w : Word32) : wK w = 0 ↔ w.getLsbD 29 = false := extractLsb_eq_zero_iff w 29

section Form
variable {k : Core} {pc : Nat}

theorem Core.form_eq_bits (k : Core) (pc : Nat) : k.form pc =
    if (k.fetch pc).getLsbD 31 = true then .one (k.fetch pc)
    else if pc % 8 = 4 ∨ (k.fetch pc).getLsbD 29 = true then .none_ (k.fetch pc) 0
    else if (k.fetch (pc + 4)).getLsbD 31 = true ∨ (k.fetch (pc + 4)).getLsbD 29 = false ∨ (k.fetch (pc + 4)).getLsbD 30 = true then
      .none_ (k.fetch pc) (k.fetch (pc + 4))
    else .two (k.fetch pc) (k.fetch (pc + 4)) := by
  simp only [Core.form, wL_eq_one_iff, wS_eq_one_iff, wK_eq_one_iff, wK_eq_zero_iff]
theorem Core.form_of_lone (h : (k.fetch pc).getLsbD 31 = true) : k.form pc = .one (k.fetch pc) := by
  rw [Core.form_eq_bits, if_pos h]
theorem Core.form_of_misplaced (h : (k.fetch pc).getLsbD 31 = false) (hpc : pc % 8 = 4 ∨ (k.fetch pc).getLsbD 29 = true) :
    k.form pc = .none_ (k.fetch pc) 0 := by
  rw [Core.form_eq_bits, h, if_neg Bool.false_ne_true, if_pos hpc]
theorem Core.form_of_unmatched (h : (k.fetch pc).getLsbD 31 = false) (hpc : pc % 8 ≠ 4) (hK : (k.fetch pc).getLsbD 29 = false)
    (h1 : (k.fetch (pc + 4)).getLsbD 31 = true ∨ (k.fetch (pc + 4)).getLsbD 29 = false ∨ (k.fetch (pc + 4)).getLsbD 30 = true) :
    k.form pc = .none_ (k.fetch pc) (k.fetch (pc + 4)) := by
  rw [Core.form_eq_bits, h, if_neg Bool.false_ne_true, hK, if_neg (by simp [hpc]), if_pos h1]
/-- A C word and an A word side by side, at an address that a pair may have. -/
def Core.PairAt (k : Core) (pc : Nat) : Prop :=
  (k.fetch pc).getLsbD 31 = false ∧ pc % 8 ≠ 4 ∧ (k.fetch pc).getLsbD 29 = false ∧ (k.fetch (pc + 4)).getLsbD 31 = false ∧
    (k.fetch (pc + 4)).getLsbD 29 = true ∧ (k.fetch (pc + 4)).getLsbD 30 = false
theorem Core.form_of_pair (h : k.PairAt pc) : k.form pc = .two (k.fetch pc) (k.fetch (pc + 4)) := by
  obtain ⟨hL, hpc, hK, hL1, hK1, hS1⟩ := h
  rw [Core.form_eq_bits, hL, if_neg Bool.false_ne_true, hK, if_neg (by simp [hpc]), hL1, hK1, hS1, if_neg (by simp)]

end Form

/-! ## The issue of a bundle, by what stands there -/

section Issue
variable {s : State} {c x : Nat} {w0 w1 : Word32} {i0 i1 : Instr} (hb : s.fetchBad c (s.ctx c x).pc = false)
include hb

theorem State.issueCtx_of_none (hf : (s.core c).form (s.ctx c x).pc = .none_ w0 w1) :
    s.issueCtx c x = (s.begin c x).raise (pairFlt (s.ctx c x).pc w0 w1) := by
  have hb' : (s.begin c x).fetchBad c (s.begin c x).cur.pc = false := hb
  have hf' : ((s.begin c x).core c).form (s.begin c x).cur.pc = .none_ w0 w1 := hf
  simp only [State.issueCtx, hb', hf', Bool.false_eq_true, if_false]
  rfl
section Two
variable (hf : (s.core c).form (s.ctx c x).pc = .two w0 w1)
include hf

theorem State.issueCtx_of_two (h0 : decodeWord w0 = .ok i0) (h1 : decodeWord w1 = .ok i1) : s.issueCtx c x =
    if pairBad i0 i1 = true then (s.begin c x).raise (pairFlt (s.ctx c x).pc w0 w1)
    else (s.begin c x).check_ (wS w0 = 1) [i0, i1] fun u => u.runTwo i0 i1 := by
  have hb' : (s.begin c x).fetchBad c (s.begin c x).cur.pc = false := hb
  have hf' : ((s.begin c x).core c).form (s.begin c x).cur.pc = .two w0 w1 := hf
  simp only [State.issueCtx, hb', hf', h0, h1, Bool.false_eq_true, if_false]
  rfl
theorem State.issueCtx_of_first_error {e : IllCheck} (h0 : decodeWord w0 = .error e) :
    s.issueCtx c x = (s.begin c x).raise { code := .ill, a := nat64 e.code, d0 := w0.setWidth 64 } := by
  have hb' : (s.begin c x).fetchBad c (s.begin c x).cur.pc = false := hb
  have hf' : ((s.begin c x).core c).form (s.begin c x).cur.pc = .two w0 w1 := hf
  simp only [State.issueCtx, hb', hf', h0, Bool.false_eq_true, if_false]
  rfl
theorem State.issueCtx_of_second_error {e : IllCheck} (h0 : decodeWord w0 = .ok i0) (h1 : decodeWord w1 = .error e) :
    s.issueCtx c x = (s.begin c x).raise { code := .ill, a := nat64 e.code, b := 1, d0 := w1.setWidth 64 } := by
  have hb' : (s.begin c x).fetchBad c (s.begin c x).cur.pc = false := hb
  have hf' : ((s.begin c x).core c).form (s.begin c x).cur.pc = .two w0 w1 := hf
  simp only [State.issueCtx, hb', hf', h0, h1, Bool.false_eq_true, if_false]
  rfl

end Two
end Issue

/-- A bundle that names a pending register names one that HAZARD reports. -/
theorem State.hazard_of_pending {s : State} {is : List Instr} {r : BitVec 6} (hr : r ∈ is.flatMap sRegs) (hp : 64 + r.toNat ∈ s.me.pending) :
    ∃ q ∈ is.flatMap sRegs, 64 + q.toNat ∈ s.me.pending ∧ s.hazard is = some (64 + q.toNat) := by
  cases hz : s.hazard is with
  | none =>
    have hnot := List.find?_eq_none.1 hz _ (List.mem_map_of_mem hr)
    exact absurd (List.contains_iff_mem.2 hp) hnot
  | some n =>
    obtain ⟨q, hq, rfl⟩ := List.mem_map.1 (List.mem_of_find?_eq_some hz)
    exact ⟨q, hq, List.contains_iff_mem.1 (List.find?_some hz), rfl⟩
theorem State.check_of_unmarked_pending {s : State} {is : List Instr} {run : State → State} {r : BitVec 6} (hr : r ∈ is.flatMap sRegs)
    (hp : 64 + r.toNat ∈ s.me.pending) : ∃ q ∈ is.flatMap sRegs, 64 + q.toNat ∈ s.me.pending ∧
      s.check_ false is run = s.raise { code := .hazard, obj := BitVec.ofNat 64 (64 + q.toNat) } := by
  obtain ⟨q, hq, hqp, hz⟩ := State.hazard_of_pending hr hp
  exact ⟨q, hq, hqp, State.check_of_hazard (fun h => absurd h Bool.false_ne_true) hz⟩

/-! ## Two words as one bundle -/

/-- The bundle is a pair. -/
abbrev State.paired (s : State) : State := { s with cur := { s.cur with size := 8, next := s.cur.pc + 8 } }
/-- The second word of the bundle at pc runs. -/
abbrev State.atSecond (s : State) (pc : Nat) : State := { s with cur := { s.cur with wpc := pc + 4 } }
/-- Operands are read from a context as it stood before the bundle, or from the issuing one (R35). -/
abbrev State.withSnap (s : State) (k : Option Ctx) : State := { s with cur := { s.cur with snap := k } }

section Two
variable {s u v t : State} {i0 i1 : Instr}

/-- The first word fares otherwise than by retiring, and the bundle so. -/
theorem State.runTwo_of_first (h : exec i0 s.paired = .next u) (hf : u.cur.fate ≠ .retire) : s.runTwo i0 i1 = u := by
  have h0 : s.paired.runOne i0 = u := State.runOne_of_next h
  change (match (s.paired.runOne i0).cur.fate with | .retire => _ | _ => s.paired.runOne i0) = u
  rw [h0]
  split
  · next he => exact absurd he hf
  · rfl
/-- The first word would retire, but the second fares otherwise, and the bundle so. -/
theorem State.runTwo_of_second (h0 : exec i0 s.paired = .next u) (hu : u.cur.fate = .retire) (h1 : exec i1 (s.paired.atSecond s.cur.pc) = .next v)
    (hv : v.cur.fate ≠ .retire) : s.runTwo i0 i1 = v := by
  have h0' : s.paired.runOne i0 = u := State.runOne_of_next h0
  have h1' : (s.paired.atSecond s.cur.pc).runOne i1 = v := State.runOne_of_next h1
  change (match (s.paired.runOne i0).cur.fate with
    | .retire => (match ((s.paired.atSecond s.cur.pc).runOne i1).cur.fate with | .retire => _ | _ => (s.paired.atSecond s.cur.pc).runOne i1)
    | _ => s.paired.runOne i0) = v
  rw [h0', h1', hu]
  dsimp only
  split
  · next he => exact absurd he hv
  · rfl
/-- Both words would retire: the second takes effect behind the first, on the operands that it read before (R35). -/
theorem State.runTwo_of_both (hi : ∀ a b, i0 ≠ .rkey a b) (h0 : exec i0 s.paired = .next u) (hu : u.cur.fate = .retire)
    (h1 : exec i1 (s.paired.atSecond s.cur.pc) = .next v) (hv : v.cur.fate = .retire)
    (h2 : exec i1 ((u.atSecond s.cur.pc).withSnap (some s.paired.me)) = .next t) (ht : t.cur.fate = .retire) :
    s.runTwo i0 i1 = { t.rebind u i0 with cur := { t.cur with snap := none } } := by
  have h0' : s.paired.runOne i0 = u := State.runOne_of_next h0
  have h1' : (s.paired.atSecond s.cur.pc).runOne i1 = v := State.runOne_of_next h1
  have h2' : ((u.atSecond s.cur.pc).withSnap (some s.paired.me)).runOne i1 = t := State.runOne_of_next h2
  unfold State.runTwo
  dsimp only
  rw [h0', hu, h1', hv]
  dsimp only [State.paired, State.atSecond, State.withSnap] at h2'
  rw [hu] at h2'
  simp only
  rw [h2', ht]

end Two

/-! ## An A word on registers that no stream is bound to -/

theorem laneWords_laneOf (t : VType) (i : Int) : laneWords t.wide (laneOf t i) = laneWords t.wide (BitVec.ofInt 64 i) := by
  have hnarrow : (BitVec.ofInt 64 (i % 2 ^ 32)).setWidth 32 = (BitVec.ofInt 64 i).setWidth 32 := by
    apply BitVec.eq_of_toNat_eq
    simp only [BitVec.toNat_setWidth, BitVec.toNat_ofInt]
    omega
  have hwide : BitVec.ofInt 64 (i % 2 ^ 64) = BitVec.ofInt 64 i := by
    apply BitVec.eq_of_toNat_eq
    simp only [BitVec.toNat_ofInt]
    omega
  cases t with
  | f32 | i32 | n32 => exact congrArg (fun w => [w]) hnarrow
  | f64 | i64 | n64 => exact congrArg (laneWords true) hwide
theorem laneWords_arith (t : VType) (fo : Fmt → Nat → Nat → Nat × Bits6) (io : Int → Int → Int) (x y : Word) :
    let r := byType t (fun f => fo f x.toNat y.toNat) (io (laneInt t x) (laneInt t y))
    laneWords t.wide (arith t fo io x y).1 = laneWords t.wide r.1 ∧ (arith t fo io x y).2 = r.2 := by
  cases t with
  | f32 | f64 => exact ⟨rfl, rfl⟩
  | i32 | n32 | i64 | n64 => exact ⟨laneWords_laneOf _ _, rfl⟩
/-- Lane values are written as far as the width of their type goes. -/
theorem LaneWrites.congr {s t : State} {wide : Bool} {d : BitVec 5} {f g : Nat → Word × Bits6} (h : LaneWrites s t wide d f)
    (hfg : ∀ l, laneWords wide (f l).1 = laneWords wide (g l).1 ∧ (f l).2 = (g l).2) : LaneWrites s t wide d g := by
  obtain ⟨hlanes, hflags, hrest⟩ := h
  refine ⟨fun l hl => ?_, fun i hi => ?_, hrest⟩
  · rw [hlanes l hl, (hfg l).1]
  · simp only [hflags i hi, (hfg _).2]
/-- VADD on registers that no stream is bound to. -/
theorem answers_vadd {s : State} {t : VType} {d a b : BitVec 5} (h : s.unboundV (vregs t.wide d ++ vregs t.wide a ++ vregs t.wide b) = true) :
    Answers (.vadd t d a b) s (LaneWrites s · t.wide d fun l => byType t
      (fun f => f.addB s.rm (s.lane t.wide a l).toNat (s.lane t.wide b l).toNat) (laneInt t (s.lane t.wide a l) + laneInt t (s.lane t.wide b l))) := by
  have h' : s.unboundV (vregs t.wide d ++ [a, b].flatMap (vregs t.wide)) = true := by simpa [List.append_assoc] using h
  have hw := laneWrites_vop (wa := t.wide) (dRead := false) (f := fun _ x y _ => arith t (fun f x y => f.addB s.rm x y) (fun x y => x + y) x y)
    h' fun l _ => rfl
  exact answers_exec rfl (hw.congr fun l => laneWords_arith t (fun f x y => f.addB s.rm x y) (fun x y => x + y) _ _)
theorem LaneWrites.fate {s t : State} {wide : Bool} {d : BitVec 5} {f : Nat → Word × Bits6} (h : LaneWrites s t wide d f) :
    t.cur.fate = s.cur.fate := by
  obtain ⟨-, -, -, -, hcur, -⟩ := h
  rw [hcur]
/-- What a word writes that read another context's lanes, where those of its destination are the issuing one's too. -/
theorem LaneWrites.withSnap {s t : State} {k : Ctx} {wide : Bool} {d : BitVec 5} {f : Nat → Word × Bits6}
    (h : LaneWrites (s.withSnap (some k)) t wide d f) (hsnap : s.cur.snap = none) (hmask : k.amask = s.me.amask)
    (hd : ∀ v ∈ vregs wide d, k.vr v = s.me.vr v) : LaneWrites s (t.withSnap none) wide d f := by
  have hsrc : s.src = s.me := by rw [State.src, hsnap]
  obtain ⟨hlanes, hflags, hregs, hme, hcur, hrest⟩ := h
  refine ⟨fun l hl => ?_, fun i hi => ?_, hregs, hme, ?_, hrest⟩
  · have hvr : (vregs wide d).map (fun v => (k.vr v).getD l 0) = (vregs wide d).map fun v => (s.me.vr v).getD l 0 :=
      List.map_congr_left fun v hv => by rw [hd v hv]
    rw [hsrc, ← hmask, ← hvr]
    exact hlanes l hl
  · rw [hsrc, ← hmask]
    exact hflags i hi
  · have hnone : s.cur = { s.cur with snap := none } := by rw [← hsnap]
    rw [hnone]
    exact congrArg (·.withSnap none) hcur

/-! ## The second word behind the first -/

theorem State.rm_of_src {s t : State} (h : t.src = s.src) : t.rm = s.rm := by rw [State.rm, h, State.rm]
theorem State.lane_of_src {s t : State} (h : t.src = s.src) (wide : Bool) (v : BitVec 5) (l : Nat) : t.lane wide v l = s.lane wide v l := by
  rw [State.lane, h, State.lane]
theorem State.unboundV_congr {s t : State} (hsrc : t.src.streams = s.src.streams) (hme : t.me.streams = s.me.streams) (vs : List Nat) :
    t.unboundV vs = s.unboundV vs := by
  simp only [State.unboundV, hsrc, hme]
/-- VADD beside a word that changes no mask, no binding and no lane of its destination reads what stood before the bundle. -/
theorem laneWrites_runTwo_vadd {s u : State} {i0 : Instr} {t : VType} {d a b : BitVec 5} (hi : ∀ a b, i0 ≠ .rkey a b)
    (hbind : ∀ x y : State, x.rebind y i0 = x) (hsnap : s.cur.snap = none) (hfate : s.cur.fate = .retire)
    (hunbound : s.unboundV (vregs t.wide d ++ vregs t.wide a ++ vregs t.wide b) = true) (h0 : exec i0 s.paired = .next u)
    (hcur : u.cur = s.paired.cur) (hmask : u.me.amask = s.me.amask) (hstreams : u.me.streams = s.me.streams)
    (hd : ∀ v ∈ vregs t.wide d, u.me.vr v = s.me.vr v) :
    LaneWrites (u.atSecond s.cur.pc) (s.runTwo i0 (.vadd t d a b)) t.wide d fun l => byType t
      (fun f => f.addB s.rm (s.lane t.wide a l).toNat (s.lane t.wide b l).toNat)
      (laneInt t (s.lane t.wide a l) + laneInt t (s.lane t.wide b l)) := by
  have hsrc : s.src = s.me := by rw [State.src, hsnap]
  obtain ⟨v, h1, hv⟩ := answers_vadd (s := s.paired.atSecond s.cur.pc) hunbound
  have hsrc' : ((u.atSecond s.cur.pc).withSnap (some s.paired.me)).src = s.src := hsrc.symm
  have hunbound' : ((u.atSecond s.cur.pc).withSnap (some s.paired.me)).unboundV (vregs t.wide d ++ vregs t.wide a ++ vregs t.wide b) = true :=
    (State.unboundV_congr (t := (u.atSecond s.cur.pc).withSnap (some s.paired.me)) (by rw [hsrc']) hstreams _).trans hunbound
  obtain ⟨w, h2, hw⟩ := answers_vadd hunbound'
  have hret : u.cur.fate = .retire := by rw [hcur]; exact hfate
  have hrun := State.runTwo_of_both hi h0 hret h1 (hv.fate.trans hfate) h2 (hw.fate.trans hret)
  rw [hbind] at hrun
  rw [hrun]
  simp only [State.rm_of_src hsrc', State.lane_of_src hsrc'] at hw
  have husnap : u.cur.snap = none := by rw [hcur]; exact hsnap
  exact hw.withSnap husnap hmask.symm fun v hv => (hd v hv).symm

section FirstWord
variable {s : State}

/-- ADD beside a word that writes no scalar register. -/
theorem runTwo_add_vadd (d a b : BitVec 6) {t : VType} {vd va vb : BitVec 5} (hsnap : s.cur.snap = none) (hfate : s.cur.fate = .retire)
    (h : s.unboundV (vregs t.wide vd ++ vregs t.wide va ++ vregs t.wide vb) = true) : ∃ u, Writes s.paired u d (s.rs a + s.rs b) ∧
      LaneWrites (u.atSecond s.cur.pc) (s.runTwo (.add d a b) (.vadd t vd va vb)) t.wide vd fun l => byType t
        (fun f => f.addB s.rm (s.lane t.wide va l).toNat (s.lane t.wide vb l).toNat)
        (laneInt t (s.lane t.wide va l) + laneInt t (s.lane t.wide vb l)) := by
  have hme : (s.paired.ws d (s.rs a + s.rs b)).me = s.me.ws d.toNat (s.rs a + s.rs b) := State.me_updMe ..
  refine ⟨s.paired.ws d (s.rs a + s.rs b), writes_ws .., laneWrites_runTwo_vadd (fun _ _ => by simp) (fun _ _ => rfl) hsnap hfate h rfl rfl ?_ ?_ ?_⟩
  · rw [hme, Ctx.ws_amask]
  · rw [hme, Ctx.ws_streams]
  · intro v _
    rw [hme, Ctx.vr, Ctx.ws_v, Ctx.vr]
/-- VBCAST beside a word that reads its vd: the lanes read are those that stood before (R35). -/
theorem runTwo_vbcast_vadd (v : BitVec 5) (a : BitVec 6) {t : VType} {vd va vb : BitVec 5} (hsnap : s.cur.snap = none)
    (hfate : s.cur.fate = .retire) (hv : AMap.find s.src.streams v.toNat = none)
    (h : s.unboundV (vregs t.wide vd ++ vregs t.wide va ++ vregs t.wide vb) = true) (hvd : v.toNat ∉ vregs t.wide vd) :
    ∃ u, WritesV s.paired u v (fun _ => (s.rs a).setWidth 32) ∧
      LaneWrites (u.atSecond s.cur.pc) (s.runTwo (.vbcast v a) (.vadd t vd va vb)) t.wide vd fun l => byType t
        (fun f => f.addB s.rm (s.lane t.wide va l).toNat (s.lane t.wide vb l).toNat)
        (laneInt t (s.lane t.wide va l) + laneInt t (s.lane t.wide vb l)) := by
  let u := s.paired.updMe fun k => k.wv v.toNat (List.replicate 64 ((s.rs a).setWidth 32))
  have hme : u.me = s.me.wv v.toNat (List.replicate 64 ((s.rs a).setWidth 32)) := State.me_updMe ..
  have hkeep (r : Nat) (hr : r ≠ v.toNat) : u.me.vr r = s.me.vr r := by rw [hme, vr_wv, if_neg hr.symm]
  have hexec : exec (.vbcast v a) s.paired = .next u := by
    change Host.Outcome.next (s.paired.unbound v u) = _
    have hv' : AMap.find s.paired.src.streams v.toNat = none := hv
    rw [State.unbound, hv']
  refine ⟨u, ⟨onlyMe_updMe .., by rw [hme]; rfl, fun l hl => ?_, hkeep⟩,
    laneWrites_runTwo_vadd (fun _ _ => by simp) (fun _ _ => rfl) hsnap hfate h hexec rfl ?_ ?_ fun r hr => hkeep r fun e => hvd (e ▸ hr)⟩
  · rw [hme, vr_wv, if_pos rfl, getD_lanes64 _ l hl]
    exact List.getD_replicate _ hl
  · rw [hme]; rfl
  · rw [hme]; rfl

end FirstWord

/-- Settles O56: what stands at the program counter by its form, and the words of a pair by what each would do. -/
theorem bundlesAreCheckedThenReadThenWrite : Obligations.BundlesAreCheckedThenReadThenWrite := by
  intro s c x i0 i1 w k second d a b t vd va vb B pc w0 w1 lone pair bad E E1
  refine ⟨fun hb => ⟨?_, ?_, ?_, ?_, ?_, ?_, ?_, ?_, ?_, ?_⟩, ?_, ⟨?_, rfl, rfl⟩, fun hsnap hfate h => runTwo_add_vadd d a b hsnap hfate h, ?_,
    fun u h hf => State.runTwo_of_first h hf, fun u v h0 hu h1 hv => State.runTwo_of_second h0 hu h1 hv⟩
  · exact fun hL h => State.issueCtx_of_none hb (Core.form_of_misplaced hL h)
  · exact fun hL hpc hK h => State.issueCtx_of_none hb (Core.form_of_unmatched hL hpc hK h)
  · exact fun e hlone he => State.issueCtx_of_error hb rfl ((wL_eq_one_iff w0).2 hlone) he
  · intro hlone h0 hS hout
    rw [State.issueCtx_of_one hb (Core.form_of_lone hlone) h0]
    exact State.check_of_outstanding (s := s.begin c x) (decide_eq_true ((wS_eq_one_iff w0).2 hS)) hout
  · exact fun e hpair he => State.issueCtx_of_first_error hb (Core.form_of_pair hpair) he
  · exact fun e hpair h0 he => State.issueCtx_of_second_error hb (Core.form_of_pair hpair) h0 he
  · intro hpair h0 h1 hok hS hout
    rw [State.issueCtx_of_two hb (Core.form_of_pair hpair) h0 h1, hok, if_neg Bool.false_ne_true]
    exact State.check_of_outstanding (s := s.begin c x) (decide_eq_true ((wS_eq_one_iff w0).2 hS)) hout
  · intro r hr hpair h0 h1 hok hS hp
    have hunmarked : decide (wS w0 = 1) = false := decide_eq_false fun h => by rw [(wS_eq_one_iff w0).1 h] at hS; cases hS
    rw [State.issueCtx_of_two hb (Core.form_of_pair hpair) h0 h1, hok, if_neg Bool.false_ne_true, hunmarked]
    obtain ⟨q, hq, hqp, hz⟩ := State.check_of_unmarked_pending (s := s.begin c x) (is := [i0, i1]) (run := fun u => u.runTwo i0 i1)
      (r := r) (by simpa using hr) hp
    exact ⟨q, by simpa using hq, hqp, hz⟩
  · intro r hr hlone h0 hS hp
    have hunmarked : decide (wS w0 = 1) = false := decide_eq_false fun h => by rw [(wS_eq_one_iff w0).1 h] at hS; cases hS
    rw [State.issueCtx_of_one hb (Core.form_of_lone hlone) h0, hunmarked]
    obtain ⟨q, hq, hqp, hz⟩ := State.check_of_unmarked_pending (s := s.begin c x) (is := [i0]) (run := fun u => u.runOne i0)
      (r := r) (by simpa using hr) hp
    exact ⟨q, by simpa using hq, hqp, hz⟩
  · intro hpair h0 h1 hbad
    rw [State.issueCtx_of_two hb (Core.form_of_pair hpair) h0 h1, hbad]
    exact if_pos rfl
  · cases second <;> exact answers_exec rfl rfl
  · exact (List.contains_iff_mem : (vregs t.wide va).contains vd.toNat = true ↔ _)
  · intro v hsnap hfate h hvd _
    rw [State.unboundV, List.cons_append, List.cons_append, List.all_cons, Bool.and_eq_true] at h
    obtain ⟨hv, hrest⟩ := h
    simp only [Bool.and_eq_true, Option.isNone_iff_eq_none] at hv
    exact runTwo_vbcast_vadd v a hsnap hfate hv.1 hrest hvd

end Machine
end Sys2Proof
end

section
/-! Atomics (R183, R186, R196): what an issuing context asks of the owner of the word, and what the owner's handler thread performs. -/

namespace Sys2Proof
namespace Machine

/-! ## Registers and counts -/

theorem State.rs_congr {s t : State} (hcur : t.cur = s.cur) (hregs : t.me.s = s.me.s) (hdomains : t.domains = s.domains)
    (hpackage : t.package = s.package) (r : BitVec 6) : t.rs r = s.rs r := by
  have hid : t.identity = s.identity := by
    funext c x
    simp only [State.identity, State.rel, State.domOf, State.baseOf, hdomains, hpackage]
  have hsrc : t.src.s = s.src.s := by
    rw [State.src, State.src, hcur]
    cases s.cur.snap with
    | none => exact hregs
    | some k => rfl
  rw [State.rs, State.rs, hid, hsrc, hcur]
theorem Outst.outstanding_eq_sum (k : Ctx) : k.outstanding = (k.outs.map (·.size)).sum := by
  rw [Ctx.outstanding, List.sum_eq_foldl]

/-! ## The request -/

section Ask
variable (s : State) (c op : Nat) (d b : BitVec 6) (x : Word) (own : Nat) (pl : Place) (kind : OutKind) (seq : Bool)

/-- The size of an atomic's word. -/
def atomSize (op : Nat) : Nat := if op = 10 then 4 else 8
/-- The address of the word is noted with the result that the request waits for. -/
def Outst.noted (id : Nat) (x : Word) (o : Outst) : Outst := if o.id == id then { o with va := x } else o
/-- An atomic's request, noted in t as the result of a number, is on its way from core c to the owner of its word. -/
def State.sendAtom (id : Nat) (t : State) : State :=
  ((t.updMe fun k => { k with outs := k.outs.map (Outst.noted id x) }).transmit c t.cur.ctx own
    (.atom op pl (atomSize op) (t.rs b) (t.rs d) t.cur.ctx id) (s.covered c s.cur.ctx (scopeTo c own)) (scopeTo c own) (kind == .atomLocal)).awaits c
/-- What an atomic does once its word is known. -/
def State.goAtom : State :=
  if s.windowFull then s.stallMe .window
  else s.ask kind [d] 1 fun id t =>
    if seq then (s.sendAtom c op d b x own pl kind id t).untilDone id else s.sendAtom c op d b x own pl kind id t
/-- The state in which an atomic's request is on its way. -/
def State.atomAsked : State := s.sendAtom c op d b x own pl kind s.uid (s.asking kind [d] 1)

theorem State.goAtom_of_full (h : s.myCore.window ≤ s.myCore.awaiting) : s.goAtom c op d b x own pl kind seq = s.stallMe .window :=
  if_pos (decide_eq_true h)
theorem State.goAtom_of_outstanding (h : s.myCore.awaiting < s.myCore.window) (ho : 32 ≤ s.me.outstanding) :
    s.goAtom c op d b x own pl kind seq = s.parkMe 31 := by
  rw [State.goAtom, if_neg (by simpa [State.windowFull] using h), State.ask_of_full _ _ _ _ _ (by omega)]
theorem State.goAtom_of_free (h : s.myCore.awaiting < s.myCore.window) (ho : s.me.outstanding < 32) :
    s.goAtom c op d b x own pl kind seq =
      if seq then (s.atomAsked c op d b x own pl kind).untilDone s.uid else s.atomAsked c op d b x own pl kind := by
  rw [State.goAtom, if_neg (by simpa [State.windowFull] using h), State.ask_of_room _ _ _ _ _ (by omega)]
  rfl

end Ask

theorem State.atom_eq (s : State) (op : Nat) (d a b : BitVec 6) : s.atom op d a b =
    if (s.rs a).toNat % atomSize op ≠ 0 then s.raise (flt .align 0 (s.rs a) 0)
    else if isLocal (s.rs a) then
      if (ctrBase ≤ offOf (s.rs a) ∧ offOf (s.rs a) < ctrBase + 0x4000) ∨ (accBase ≤ offOf (s.rs a) ∧ offOf (s.rs a) < 0xC0000) then
        s.raise (perm 76 (s.rs a))
      else if !inScratch s.myCore (s.rs a) (atomSize op) then s.raise (flt .pool 0 (s.rs a) 0)
      else s.goAtom s.cur.core op d b (s.rs a) s.cur.core (.pool (offOf (s.rs a))) .atomLocal false
    else s.translate (s.rs a) ⟨true, true⟩ fun pa attr e t =>
      t.goAtom s.cur.core op d b (s.rs a) (t.phys s.cur.core (bits e 40 12)) (.phys pa (attr == 1)) .atomRemote (attr == 2) := rfl

/-! ## What the request leaves -/

/-- An atomic has asked the owner of its word for one result: nothing of its context but Outstanding and Pending has changed, and the
request is on its way behind what its release covers (R36, R192). -/
def AsksAtom (s t : State) (op : Nat) (d b : BitVec 6) (own : Nat) (pl : Place) : Prop :=
  (∀ e, e ≠ s.cur.core → t.core e = s.core e) ∧ t.mem = s.mem ∧
    t.me.outstanding = s.me.outstanding + 1 ∧ t.me.pending = s.me.pending ++ (if d = 0 then [] else [64 + d.toNat]) ∧ t.me.s = s.me.s ∧
    (t.core s.cur.core).awaiting = s.myCore.awaiting + 1 ∧ ∃ p, t.net = s.net ++ [p] ∧ p.src = s.cur.core ∧ p.dst = own ∧
      p.waits = s.covered s.cur.core s.cur.ctx (scopeTo s.cur.core own) ∧
      p.body = .atom op pl (atomSize op) (s.rs b) (s.rs d) s.cur.ctx s.uid

theorem State.awaits_mem (s : State) (c : Nat) : (s.awaits c).mem = s.mem := rfl
theorem map_size_noted (id : Nat) (x : Word) (l : List Outst) : (l.map (Outst.noted id x)).map (·.size) = l.map (·.size) := by
  rw [List.map_map]
  refine List.map_congr_left fun o _ => ?_
  change (Outst.noted id x o).size = o.size
  unfold Outst.noted
  split <;> rfl

section Asked
variable (s : State) (op : Nat) (d b : BitVec 6) (x : Word) (own : Nat) (pl : Place) (kind : OutKind)

theorem State.cur_atomAsked : (s.atomAsked s.cur.core op d b x own pl kind).cur = s.cur := State.transmit_cur ..
/-- The context that has asked, with the address of the word noted. -/
def Ctx.atomAsked (k : Ctx) (s : State) (d : BitVec 6) (x : Word) (kind : OutKind) : Ctx :=
  { k with outs := (k.outs ++ [s.outst kind [d] 1]).map (Outst.noted s.uid x)
           pending := k.pending ++ ([d].filter (· != 0)).map fun d => 64 + d.toNat }
/-- The state in which the address of the word has been noted. -/
def State.atomNoted : State := (s.asking kind [d] 1).updMe fun k => { k with outs := k.outs.map (Outst.noted s.uid x) }
theorem State.me_asking : (s.asking kind [d] 1).me = { s.me with
    outs := s.me.outs ++ [s.outst kind [d] 1], pending := s.me.pending ++ ([d].filter (· != 0)).map fun d => 64 + d.toNat } :=
  s.me_updMe fun c => { c with outs := c.outs ++ [s.outst kind [d] 1]
                               pending := c.pending ++ ([d].filter (· != 0)).map fun d => 64 + d.toNat }
theorem State.me_atomNoted : (s.atomNoted d x kind).me = s.me.atomAsked s d x kind := by
  rw [State.atomNoted, State.me_updMe, State.me_asking]
  rfl
theorem State.onlyMe_atomNoted : ∃ t, OnlyMe s t ∧ s.atomNoted d x kind = { t with uid := s.uid + 1 } := by
  refine ⟨(s.updMe fun c => { c with outs := c.outs ++ [s.outst kind [d] 1]
                                     pending := c.pending ++ ([d].filter (· != 0)).map fun d => 64 + d.toNat }).updMe
    fun k => { k with outs := k.outs.map (Outst.noted s.uid x) }, (onlyMe_updMe ..).trans (onlyMe_updMe ..), rfl⟩
theorem State.core_atomAsked (e : Nat) : (s.atomAsked s.cur.core op d b x own pl kind).core e = if s.cur.core = e then
    { (s.atomNoted d x kind).myCore with awaiting := (s.atomNoted d x kind).myCore.awaiting + 1 } else (s.atomNoted d x kind).core e := by
  have hcores {c y o : Nat} {B : Body} {w : List Nat} {sc : Scope} {now : Bool} (r : Nat) :
      ((s.atomNoted d x kind).transmit c y o B w sc now).core r = (s.atomNoted d x kind).core r := by
    rw [State.core, State.transmit_cores]; rfl
  rw [State.atomAsked, State.sendAtom, State.awaits, State.core_updCore, ← State.atomNoted, hcores, hcores]
  rfl
theorem asksAtom_atomAsked : AsksAtom s (s.atomAsked s.cur.core op d b x own pl kind) op d b own pl := by
  obtain ⟨t, ⟨⟨honly, hothers⟩, hmine, -⟩, ht⟩ := s.onlyMe_atomNoted d x kind
  have hcore (e : Nat) : (s.atomNoted d x kind).core e = t.core e := by rw [ht]; rfl
  have hmyCore : (s.atomNoted d x kind).myCore = t.myCore := by rw [ht]; rfl
  have hme : (s.atomAsked s.cur.core op d b x own pl kind).me = s.me.atomAsked s d x kind := by
    rw [State.me, State.cur_atomAsked, State.ctx, State.core_atomAsked, if_pos rfl]
    exact s.me_atomNoted d x kind
  obtain ⟨p, hnet, -, hsrc, -, hdst, hbody, hwaits⟩ := State.transmit_net (s.atomNoted d x kind) s.cur.core s.cur.ctx own
    (.atom op pl (atomSize op) ((s.asking kind [d] 1).rs b) ((s.asking kind [d] 1).rs d) s.cur.ctx s.uid)
    (s.covered s.cur.core s.cur.ctx (scopeTo s.cur.core own)) (scopeTo s.cur.core own) (kind == .atomLocal)
  have hrs (r : BitVec 6) : (s.asking kind [d] 1).rs r = s.rs r :=
    State.rs_congr (s := s) (t := s.asking kind [d] 1) rfl (by rw [State.me_asking]) rfl rfl r
  refine ⟨fun e he => ?_, State.transmit_mem .., ?_, ?_, ?_, ?_, p, hnet, hsrc, hdst, hwaits, ?_⟩
  · rw [State.core_atomAsked, if_neg he.symm, hcore, hothers e he]
  · rw [hme, Outst.outstanding_eq_sum, Outst.outstanding_eq_sum, Ctx.atomAsked]
    dsimp only
    rw [map_size_noted, List.map_append, List.sum_append]
    rfl
  · rw [hme, Ctx.atomAsked]
    by_cases hd : d = 0
    · subst hd; rfl
    · rw [if_neg hd, List.filter_cons_of_pos (by simpa using hd)]; rfl
  · rw [hme]; rfl
  · rw [State.core_atomAsked, if_pos rfl, hmyCore, hmine]
  · rw [hbody, hrs, hrs]

end Asked

/-! ## An atomic on a SEQ page, and one on a global address -/

section Global
variable {s t : State} {op : Nat} {d b : BitVec 6} {own : Nat} {pl : Place}

/-- The context waits, with its request on its way, until the access has been performed (R251). -/
theorem AsksAtom.untilDone (h : AsksAtom s t op d b own pl) (hcur : t.cur = s.cur) (id : Nat) :
    AsksAtom s (t.untilDone id) op d b own pl ∧
      (s.cur.fate = .retire → (t.untilDone id).me.st = .stalled ∧ (t.untilDone id).me.stall = some (.seq id)) := by
  rw [State.untilDone]
  split
  · obtain ⟨hothers, hmem, hout, hpending, hregs, hawaiting, hnet⟩ := h
    have hme := t.me_updMe fun k => { k with st := .stalled, stall := some (.seq id) }
    have hcore := State.core_updCtx_same t t.cur.core t.cur.ctx fun k => { k with st := .stalled, stall := some (.seq id) }
    refine ⟨⟨fun e he => ?_, hmem, by rw [hme]; exact hout, by rw [hme]; exact hpending, by rw [hme]; exact hregs, ?_, hnet⟩,
      fun _ => by rw [hme]; exact ⟨rfl, rfl⟩⟩
    · rw [State.updMe, State.core_updCtx_ne _ _ _ (by rw [hcur]; exact he.symm), hothers e he]
    · rw [← hawaiting, ← hcur, State.updMe, hcore]; rfl
  · next hf => exact ⟨h, fun hr => absurd (hcur ▸ hr) hf⟩
/-- A translation has brought its entry to the front of the core's buffer. -/
abbrev State.withTlb (s : State) (g : Core → List (Nat × Bool × Word)) : State := s.updCore s.cur.core fun k => { k with tlb := g k }

section Tlb
variable (s : State) (g : Core → List (Nat × Bool × Word))

theorem State.myCore_withTlb : (s.withTlb g).myCore = { s.myCore with tlb := g s.myCore } := State.core_updCore_same ..
theorem State.me_withTlb : (s.withTlb g).me = s.me := by
  have hme : (s.withTlb g).me = (s.withTlb g).myCore.ctx s.cur.ctx := rfl
  rw [hme, State.myCore_withTlb]; rfl
theorem State.rs_withTlb (r : BitVec 6) : (s.withTlb g).rs r = s.rs r :=
  State.rs_congr (State.updCore_cur ..) (by rw [State.me_withTlb]) rfl rfl r

end Tlb

/-- No atomic reads the buffer of the core. -/
theorem AsksAtom.of_withTlb {g : Core → List (Nat × Bool × Word)} (h : AsksAtom (s.withTlb g) t op d b own pl) : AsksAtom s t op d b own pl := by
  have hcovered := (State.SameAccesses.updCore (s := s) (c := s.cur.core) (f := fun k => { k with tlb := g k })
    (fun _ => rfl) (fun _ => rfl) fun _ => rfl).covered
  obtain ⟨hothers, hmem, hout, hpending, hregs, hawaiting, p, hnet, hsrc, hdst, hwaits, hbody⟩ := h
  rw [State.me_withTlb] at hout hpending hregs
  rw [State.myCore_withTlb] at hawaiting
  rw [hcovered] at hwaits
  rw [State.rs_withTlb, State.rs_withTlb] at hbody
  exact ⟨fun e he => (hothers e he).trans (State.core_updCore_ne _ _ he.symm), hmem, hout, hpending, hregs, hawaiting,
    p, hnet, hsrc, hdst, hwaits, hbody⟩

end Global

theorem exec_atom {s : State} {d a b : BitVec 6} {i : Nat} {o : Instr}
    (h : [(0, Instr.atomAdd d a b), (1, .atomMax d a b), (2, .atomMin d a b), (3, .atomMaxu d a b), (4, .atomMinu d a b), (5, .atomSwap d a b),
      (6, .atomCas d a b), (7, .atomOr d a b), (8, .atomAnd d a b), (9, .atomXor d a b), (10, .atomFmax32 d a b)].contains (i, o) = true) :
    exec o s = .next (s.atom i d a b) := by
  simp only [List.contains_iff_mem, List.mem_cons, Prod.mk.injEq, List.not_mem_nil, or_false] at h
  obtain ⟨rfl, rfl⟩ | ⟨rfl, rfl⟩ | ⟨rfl, rfl⟩ | ⟨rfl, rfl⟩ | ⟨rfl, rfl⟩ | ⟨rfl, rfl⟩ | ⟨rfl, rfl⟩ | ⟨rfl, rfl⟩ | ⟨rfl, rfl⟩ | ⟨rfl, rfl⟩ |
    ⟨rfl, rfl⟩ := h <;> rfl

section Cases
variable {s : State} {op : Nat} {d a b : BitVec 6}

section Local
variable (halign : (s.rs a).toNat % atomSize op = 0) (hloc : isLocal (s.rs a) = true)
include halign hloc

theorem State.atom_of_window (h : (ctrBase ≤ offOf (s.rs a) ∧ offOf (s.rs a) < ctrBase + 0x4000) ∨ (accBase ≤ offOf (s.rs a) ∧ offOf (s.rs a) < 0xC0000)) :
    s.atom op d a b = s.raise { code := .perm, a := 76, b := s.rs a } := by
  rw [State.atom_eq, if_neg (not_not.2 halign), if_pos hloc, if_pos h]; rfl
variable (hctr : ¬(ctrBase ≤ offOf (s.rs a) ∧ offOf (s.rs a) < ctrBase + 0x4000)) (hacc : ¬(accBase ≤ offOf (s.rs a) ∧ offOf (s.rs a) < 0xC0000))
include hctr hacc

theorem State.atom_of_outside (h : s.myCore.spSize < offOf (s.rs a) + atomSize op) : s.atom op d a b = s.raise { code := .pool, a := s.rs a } := by
  have hout : (!inScratch s.myCore (s.rs a) (atomSize op)) = true := by simp [inScratch, h]
  rw [State.atom_eq, if_neg (not_not.2 halign), if_pos hloc, if_neg (not_or.2 ⟨hctr, hacc⟩), if_pos hout]; rfl
theorem State.atom_of_scratch (h : offOf (s.rs a) + atomSize op ≤ s.myCore.spSize) :
    s.atom op d a b = s.goAtom s.cur.core op d b (s.rs a) s.cur.core (.pool (offOf (s.rs a))) .atomLocal false := by
  have hin : ¬(!inScratch s.myCore (s.rs a) (atomSize op)) = true := by simp [inScratch, hloc, h]
  rw [State.atom_eq, if_neg (not_not.2 halign), if_pos hloc, if_neg (not_or.2 ⟨hctr, hacc⟩), if_neg hin]

end Local

/-- An atomic on a page that its context may read and write asks the owner of the page. -/
theorem State.atom_of_global (halign : (s.rs a).toNat % atomSize op = 0) (hloc : isLocal (s.rs a) = false) {pa : Nat} {attr : BitVec 2} {e : Word}
    (hx : s.lookup (s.rs a) ⟨true, true⟩ = .ok pa attr e) (hfree : s.myCore.awaiting < s.myCore.window) (hout : s.me.outstanding < 32) :
    AsksAtom s (s.atom op d a b) op d b (s.phys s.cur.core (bits e 40 12)) (.phys pa (attr == 1)) ∧
      (attr = 2 → s.cur.fate = .retire → (s.atom op d a b).me.st = .stalled ∧ (s.atom op d a b).me.stall = some (.seq s.uid)) := by
  let u := s.withTlb fun k => bufPut 64 k.tlb (s.rs a) e
  have hatom : s.atom op d a b =
      u.goAtom u.cur.core op d b (s.rs a) (s.phys s.cur.core (bits e 40 12)) (.phys pa (attr == 1)) .atomRemote (attr == 2) := by
    rw [State.atom_eq, if_neg (not_not.2 halign), if_neg (by rw [hloc]; exact Bool.false_ne_true), State.translate, hx]
    rfl
  have hasks := asksAtom_atomAsked u op d b (s.rs a) (s.phys s.cur.core (bits e 40 12)) (.phys pa (attr == 1)) .atomRemote
  obtain ⟨hseq, hstall⟩ := hasks.untilDone (State.cur_atomAsked ..) u.uid
  rw [hatom, State.goAtom_of_free _ _ _ _ _ _ _ _ _ _ (by rw [State.myCore_withTlb]; exact hfree) (by rw [State.me_withTlb]; exact hout)]
  by_cases ha : (attr == 2) = true
  · rw [if_pos ha]
    exact ⟨hseq.of_withTlb, fun _ hf => hstall hf⟩
  · rw [if_neg ha]
    exact ⟨hasks.of_withTlb, fun h => absurd (beq_iff_eq.2 h) ha⟩

end Cases

/-- R36, R192, R196: each atomic goes by the window of its address. -/
theorem atomicsAskTheOwnerOfTheWord : AtomicsAskTheOwnerOfTheWord := by
  intro s d a b i o x c off ho n free asks
  have hexec : exec o s = .next (s.atom i d a b) := exec_atom ho
  refine ⟨fun halign => ?_, fun halign hloc hctr hacc => ⟨?_, ?_, ?_, ?_⟩, fun halign hloc h => ?_, fun pa attr e halign hloc hx hfree => ?_⟩
  · exact answers_exec hexec ((s.atom_eq i d a b).trans (if_pos halign))
  · intro hfit ⟨hwindow, hout⟩
    refine answers_exec hexec ?_
    rw [State.atom_of_scratch halign hloc hctr hacc hfit, State.goAtom_of_free _ _ _ _ _ _ _ _ _ _ hwindow hout]
    exact asksAtom_atomAsked ..
  · intro hfit hfull
    exact answers_exec hexec ((State.atom_of_scratch halign hloc hctr hacc hfit).trans (State.goAtom_of_full _ _ _ _ _ _ _ _ _ _ hfull))
  · intro hfit hwindow hout
    exact answers_exec hexec ((State.atom_of_scratch halign hloc hctr hacc hfit).trans (State.goAtom_of_outstanding _ _ _ _ _ _ _ _ _ _ hwindow hout))
  · exact fun h => answers_exec hexec (State.atom_of_outside halign hloc hctr hacc h)
  · exact answers_exec hexec (State.atom_of_window halign hloc h)
  · exact answers_exec hexec (State.atom_of_global halign hloc hx hfree.1 hfree.2)

end Machine
end Sys2Proof
end

section
/-! What a handler thread makes of an atomic and of a maximum (R165, R183, R186, R196, R243). -/

namespace Sys2Proof
namespace Machine

/-! ## The arrival of an atomic -/

/-- An atomic enters the queue, or is refused by a frozen core, or waits in the network for room. -/
theorem execAtomRequest_of_atom {s : State} {id i n out : Nat} {p : Packet} {pl : Place} {b d : Word} {x : Nat} (hp : s.arriving id = some p)
    (hb : p.body = .atom i pl n b d x out) (hdst : p.dst % 64 ≠ 63) : exec (.atomRequest id) s = .next (
      let r := HReq.atom p.src i pl n b d x out
      let t := { s with net := s.net.filter fun q => q.id != p.id }
      if (s.core p.dst).frozen then t.refuseHalted p.dst r
      else if 64 ≤ (s.core p.dst).handler.length then s else t.handlerPush p.dst r) := by
  have hreq : p.handlerReq = some (.atom p.src i pl n b d x out) := by simp only [Packet.handlerReq, hb]
  have hgoes : (p.dst % 64 == 63) = false := beq_eq_false_iff_ne.2 hdst
  change execAtomRequest id s = _
  simp only [execAtomRequest, State.handlerArrival, hp, hreq, hgoes]
  rfl
/-- A refused atomic goes back to its sender as one message. -/
theorem State.refuseHalted_atom_net (s : State) (c src i : Nat) (pl : Place) (n : Nat) (b d : Word) (x out : Nat) :
    ∃ q g, (s.refuseHalted c (.atom src i pl n b d x out)).net = s.net ++ [q] ∧ q.dst = src ∧ q.body = .refusedAtom x out g := by
  obtain ⟨q, hnet, -, -, -, hdst, hbody, -⟩ := (s.count (c / 64) 7 (HReq.counts c (.atom src i pl n b d x out))).transmit_net c 15 src
    (.refusedAtom x out (atomHeader s src c)) [] (scopeTo c src) (c == src)
  exact ⟨q, _, (State.count_net ..).trans (hnet.trans (by rw [State.count_net])), hdst, hbody⟩

/-! ## What the handler thread leaves unchanged -/

section Done
variable (s : State) (c src x out : Nat) (v : Word)

theorem State.core_handlerDone_same : (s.handlerDone c).core c = { s.core c with handler := (s.core c).handler.tail, hheld := none } := by
  rw [State.handlerDone, State.core_count, State.core_updCore_same]
theorem State.byte_handlerDone (a : Nat) : ((s.handlerDone c).core c).byte a = (s.core c).byte a := by
  rw [State.core_handlerDone_same]; rfl
@[simp] theorem State.handlerDone_mem : (s.handlerDone c).mem = s.mem := State.count_mem ..
@[simp] theorem State.handlerDone_net : (s.handlerDone c).net = s.net := State.count_net ..
theorem State.ver_count (p e n pa : Nat) : (s.count p e n).ver pa = s.ver pa := by
  rw [State.ver, State.part_count]; rfl
theorem State.ver_handlerDone (pa : Nat) : (s.handlerDone c).ver pa = s.ver pa := State.ver_count ..

/-- The old value goes back to the context that asked, and nothing else leaves the handler thread. -/
theorem State.sendAtomr_net : ∃ q, (s.sendAtomr c src x out v none).net = s.net ++ [q] ∧ q.src = c ∧ q.dst = src ∧
    q.body = .atomr x out v none := by
  obtain ⟨q, hnet, -, hsrc, -, hdst, hbody, -⟩ := s.transmit_net c 15 src (.atomr x out v none) [] (scopeTo c src) (c == src)
  exact ⟨q, hnet, hsrc, hdst, hbody⟩
theorem State.core_sendAtomr (d : Nat) : (s.sendAtomr c src x out v none).core d = s.core d := by
  rw [State.core, State.sendAtomr, State.transmit_cores]; rfl
theorem State.sendAtomr_mem : (s.sendAtomr c src x out v none).mem = s.mem := State.transmit_mem ..
theorem State.ver_sendAtomr (pa : Nat) : (s.sendAtomr c src x out v none).ver pa = s.ver pa := by
  rw [State.sendAtomr, State.transmit, State.ver_count]; rfl

end Done

/-! ## The atomic itself -/

/-- The model's atomic operation is R196's. -/
theorem atomOp_eq_atomResult (i : Nat) (x b d : Word) : atomOp i x b d = atomResult i x b d := rfl
/-- Byte j of a word as a store of n bytes lays it out. -/
theorem getD_toBytes_word {n j : Nat} (h : j < n) (w : Word) : (toBytes n w.toNat).getD j 0 = (w >>> (8 * j)).setWidth 8 := by
  rw [getD_toBytes h, ofNat_toNat_div]

section Pool
variable (s : State) (c off : Nat) (bs : List Byte)

/-- Bytes written to the pool of a core whose handler thread has finished its item of work. -/
theorem State.core_handlerDone_putLocal :
    ((s.handlerDone c).putLocal c off bs).core c = { s.core c with handler := (s.core c).handler.tail, hheld := none }.put off bs := by
  rw [State.core_putLocal_same, State.core_handlerDone_same]
theorem State.poolKept_handlerDone_putLocal : PoolKept s ((s.handlerDone c).putLocal c off bs) c off bs.length := by
  intro a ha
  rw [State.poolKept_putLocal (s.handlerDone c) c off bs a ha, State.byte_handlerDone]
theorem State.byte_putLocal {j : Nat} (hj : j < bs.length) : ((s.putLocal c off bs).core c).byte (off + j) = bs.getD j 0 := by
  rw [State.core_putLocal_same, Core.byte_put, if_pos (by omega), Nat.add_sub_cancel_left]
theorem State.handler_handlerDone_putLocal {r : HReq} {rest : List HReq} (h : (s.core c).handler = r :: rest) :
    (((s.handlerDone c).putLocal c off bs).core c).handler = rest := by
  rw [State.core_handlerDone_putLocal, Core.put_eq]
  exact congrArg List.tail h

end Pool

section Slice
variable (s : State) (pa : Nat) (bs : List Byte) (vs : Bool)

theorem State.performWrite_cores : (s.performWrite pa bs vs).cores = s.cores := by
  cases vs <;> exact State.count_cores ..
theorem State.performWrite_net : (s.performWrite pa bs vs).net = s.net := by
  cases vs <;> exact State.count_net ..
theorem State.performWrite_mem : (s.performWrite pa bs vs).mem = Memory.store zeroByte s.mem pa bs := by
  cases vs <;> exact congrArg (Memory.store zeroByte · pa bs) (State.count_mem ..)
theorem State.ver_hbmPut (a : Nat) : (s.hbmPut pa bs).ver a = s.ver a := rfl
/-- A write of a VERSIONED word makes one version. -/
theorem State.ver_performWrite : (s.performWrite pa bs vs).ver pa = if vs then s.ver pa + 1 else s.ver pa := by
  have hver := State.ver_count s (sliceOf pa) 5 bs.length pa
  cases vs with
  | false => exact hver
  | true =>
    rw [if_pos rfl, ← hver]
    generalize ht : s.count (sliceOf pa) 5 bs.length = t
    have hwrite : s.performWrite pa bs true = (t.updPart (sliceOf pa) fun p => { p with
        vers := AMap.set p.vers (pa / 8) (t.ver pa + 1)
        retained := (p.retained ++ [(pa / 8, t.ver pa, nat64 (t.hbmNum (pa / 8 * 8) 8))]).filter
          (fun e => !(e.1 == pa / 8 && decide (2 ^ 15 ≤ (t.ver pa + 1 - e.2.1).toNat))) }).hbmPut pa bs := by rw [← ht]; rfl
    rw [hwrite, State.ver_hbmPut, State.ver, State.part_updPart_same, AMap.get_set, if_pos rfl]
theorem State.hbmKept_performWrite : HbmKept s (s.performWrite pa bs vs) pa bs.length := by
  intro a ha
  rw [State.performWrite_mem, Memory.read_store, if_neg (by omega)]
theorem State.read_performWrite {j : Nat} (hj : j < bs.length) :
    Memory.read zeroByte (s.performWrite pa bs vs).mem (pa + j) = bs.getD j 0 := by
  rw [State.performWrite_mem, Memory.read_store, if_pos (by omega), Nat.add_sub_cancel_left]

end Slice

/-! ## The handler thread's turn -/

section Perform
variable {s : State} {c i off pa n x out src eng : Nat} {v b d : Word} {vs : Bool} {rest : List HReq}

/-- What stands at the head while the handler thread is held, or has its turn at a close alone, stays there. -/
theorem execAtomPerform_held (h : ∀ r ∈ (s.core c).handler.head?, (s.handlerHeld c || s.closeWork c r) = true) :
    exec (.atomPerform c) s = .next s := by
  change execAtomPerform c s = _
  rw [execAtomPerform]
  dsimp only
  split
  · next heq => rw [if_pos (h _ (by rw [heq]; rfl))]
  · rfl
theorem execDrainMerge_held (h : ∀ r ∈ (s.core c).handler.head?, (s.handlerHeld c || s.closeWork c r) = true) :
    exec (.drainMerge c) s = .next s := by
  change execDrainMerge c s = _
  rw [execDrainMerge]
  dsimp only
  split
  · next heq => rw [if_pos (h _ (by rw [heq]; rfl))]
  · rfl
/-- In deterministic mode all but the core's own work at its own pool waits for a close. -/
theorem State.closeWork_of_det {r : HReq} {l : Launch} (hl : s.launchOf c = some l) (hdet : l.det = true) (hq : l.qstart ≠ s.now)
    (hatom : ∀ i o n b d x out, r ≠ .atom c i (.pool o) n b d x out) (hmerge : ∀ o v e, r ≠ .merge (.pool o) v e c) :
    s.closeWork c r = true := by
  have hqb : (l.qstart != s.now) = true := bne_iff_ne.2 hq
  simp only [State.closeWork, hl, hdet, hqb, Bool.true_and]
  split
  · exact bne_iff_ne.2 fun h => hatom _ _ _ _ _ _ _ (by rw [h])
  · exact bne_iff_ne.2 fun h => hmerge _ _ _ (by rw [h])
  · rfl

theorem execAtomPerform_pool (hk : (s.core c).handler = .atom src i (.pool off) n b d x out :: rest) (hheld : s.handlerHeld c = false)
    (hclose : s.closeWork c (.atom src i (.pool off) n b d x out) = false) (hbad : s.badIn c off n = none) :
    exec (.atomPerform c) s = .next (((s.handlerDone c).putLocal c off
      (toBytes n (atomResult i (nat64 ((s.core c).num off n)) b d).toNat)).sendAtomr c src x out (nat64 ((s.core c).num off n)) none) := by
  change execAtomPerform c s = _
  simp only [execAtomPerform, hk, hheld, hclose, hbad, atomOp_eq_atomResult]
  rfl
theorem execAtomPerform_phys (hk : (s.core c).handler = .atom src i (.phys pa vs) n b d x out :: rest) (hheld : s.handlerHeld c = false)
    (hclose : s.closeWork c (.atom src i (.phys pa vs) n b d x out) = false) (hbad : s.badHbm pa n = none)
    (hlane : s.laneBefore src x pa out = false) (hroom : vs = false ∨ s.hasRoom pa = true) :
    exec (.atomPerform c) s = .next ((((s.handlerDone c).count (sliceOf pa) 4 n).performWrite pa
      (toBytes n (atomResult i (nat64 (s.hbmNum pa n)) b d).toNat) vs).sendAtomr c src x out (nat64 (s.hbmNum pa n)) none) := by
  have hfits : (vs && !s.hasRoom pa) = false := by
    obtain h | h := hroom <;> simp [h]
  change execAtomPerform c s = _
  simp only [execAtomPerform, hk, hheld, hclose, hbad, hlane, hfits, atomOp_eq_atomResult]
  rfl

/-- The drain's share of a merge is done, with the fault that it met. -/
def State.mergeDone (s : State) (c src eng : Nat) (r : List HReq) (f : Option Flt) : State :=
  { (s.updCore c fun k => { k with handler := r, hheld := none }).count (c / 64) 7 (if c = src then 0 else 1) with
    fins := s.fins.map fun x => if x.id == eng then { x with merge := false, flt := f } else x }
theorem execDrainMerge_pool (hk : (s.core c).handler = .merge (.pool off) v eng src :: rest) (hheld : s.handlerHeld c = false)
    (hclose : s.closeWork c (.merge (.pool off) v eng src) = false) (hbad : s.badIn c off 4 = none) :
    exec (.drainMerge c) s = .next ((s.putLocal c off (toBytes 4 (Nat.max ((s.core c).num off 4) v.toNat))).mergeDone c src eng rest none) := by
  change execDrainMerge c s = _
  simp only [execDrainMerge, hk, hheld, hclose, hbad]
  rfl
theorem State.core_mergeDone (s : State) (c src eng : Nat) (r : List HReq) (f : Option Flt) :
    (s.mergeDone c src eng r f).core c = { s.core c with handler := r, hheld := none } :=
  (State.core_count ..).trans (State.core_updCore_same ..)
theorem State.mergeDone_mem (s : State) (c src eng : Nat) (r : List HReq) (f : Option Flt) : (s.mergeDone c src eng r f).mem = s.mem :=
  State.count_mem ..
theorem State.merge_of_mem_mergeDone (s : State) (c src eng : Nat) (r : List HReq) (f : Option Flt) {e : Fin}
    (he : e ∈ (s.mergeDone c src eng r f).fins) (hid : e.id = eng) : e.merge = false := by
  obtain ⟨g, -, rfl⟩ := List.mem_map.1 he
  by_cases h : (g.id == eng) = true
  · rw [if_pos h]
  · rw [if_neg h] at hid
    exact absurd (beq_iff_eq.2 hid) h

theorem execAtomr_of_value {id : Nat} {p : Packet} (hp : s.arriving id = some p) (hb : p.body = .atomr x out v none) :
    exec (.atomr id) s = .next (((s.sink p).answered p.dst).settle p.dst x out (some [v]) none) := by
  change execAtomr id s = _
  simp only [execAtomr, hp, hb]
  rfl

end Perform

/-- R183, R186, R196, R243, R248, R254: the arrival of an atomic, its turn at the pool and at a slice, its answer, and the turns that wait. -/
theorem handlersPerformAtomicsInOrder : HandlersPerformAtomicsInOrder := by
  intro s c id p i n off pa x out src eng v b d vs rest k
  refine ⟨fun hp hb hdst => ⟨?_, ?_, ?_⟩, fun hk hheld hclose hbad _ => ?_, fun hk hheld hclose hbad _ hlane hroom => ?_, fun hp hb => ?_,
    fun hk hheld hclose hbad => ?_, fun hheld => ?_, fun r l hk hl hdet hq hatom hmerge => ?_⟩
  · intro hroom hfrozen
    refine answers_exec (execAtomRequest_of_atom hp hb hdst) ?_
    dsimp only
    rw [if_neg (by simp [hfrozen]), if_neg (by omega)]
    exact ⟨rfl, State.core_updCore_same ..⟩
  · intro hfull hfrozen
    refine answers_exec (execAtomRequest_of_atom hp hb hdst) ?_
    dsimp only
    rw [if_neg (by simp [hfrozen]), if_pos hfull]
  · intro hfrozen
    refine answers_exec (execAtomRequest_of_atom hp hb hdst) ?_
    dsimp only
    rw [if_pos hfrozen]
    obtain ⟨hcores, hmem⟩ := State.refuseHalted_cores { s with net := s.net.filter fun q => q.id != p.id } p.dst
      (r := .atom p.src i (.pool off) n b d x out) rfl
    exact ⟨hcores, hmem, State.refuseHalted_atom_net ..⟩
  · refine answers_exec (execAtomPerform_pool hk hheld hclose hbad) ?_
    obtain ⟨q, hnet, hsrc, hdst, hbody⟩ := State.sendAtomr_net ((s.handlerDone c).putLocal c off
      (toBytes n (atomResult i (nat64 ((s.core c).num off n)) b d).toNat)) c src x out (nat64 ((s.core c).num off n))
    refine ⟨?_, fun a ha => ?_, ?_, fun j hj => ?_, q, ?_, hsrc, hdst, hbody⟩
    · rw [State.core_sendAtomr, State.handler_handlerDone_putLocal s c off _ hk]
    · rw [State.core_sendAtomr]
      exact State.poolKept_handlerDone_putLocal s c off _ a (by rwa [length_toBytes])
    · exact (State.sendAtomr_mem ..).trans (s.handlerDone_mem c)
    · rw [State.core_sendAtomr, State.byte_putLocal _ _ _ _ (by rwa [length_toBytes]), getD_toBytes_word hj]
      rfl
    · exact hnet.trans (congrArg (· ++ [q]) (s.handlerDone_net c))
  · refine answers_exec (execAtomPerform_phys hk hheld hclose hbad hlane hroom) ?_
    generalize hw : atomResult i (nat64 (s.hbmNum pa n)) b d = w
    obtain ⟨q, hnet, -, hdst, hbody⟩ := State.sendAtomr_net (((s.handlerDone c).count (sliceOf pa) 4 n).performWrite pa (toBytes n w.toNat) vs)
      c src x out (nat64 (s.hbmNum pa n))
    refine ⟨?_, fun a ha => ?_, fun j hj => ?_, ?_, q, ?_, hdst, hbody⟩
    · rw [State.core_sendAtomr, State.core, State.performWrite_cores, State.count_cores]
      exact (congrArg Core.handler (s.core_handlerDone_same c)).trans (congrArg List.tail hk)
    · rw [State.sendAtomr_mem, State.hbmKept_performWrite _ pa _ vs a (by rwa [length_toBytes]), State.count_mem, State.handlerDone_mem]
    · rw [State.sendAtomr_mem, State.read_performWrite _ _ _ _ (by rwa [length_toBytes]), getD_toBytes_word hj, ← hw]
      rfl
    · rw [State.ver_sendAtomr, State.ver_performWrite, State.ver_count, State.ver_handlerDone]
    · rw [hnet, State.performWrite_net, State.count_net, State.handlerDone_net]
  · refine answers_exec (execAtomr_of_value hp hb) ⟨State.count_net { s with net := s.net.filter fun q => q.id != p.id } .., s.sink_mem p,
      fun o ho hid => State.outs_settle _ _ _ _ _ _ ho hid⟩
  · refine answers_exec (execDrainMerge_pool hk hheld hclose hbad) ⟨?_, fun a ha => ?_, State.mergeDone_mem .., fun j hj => ?_,
      fun f hf hid => State.merge_of_mem_mergeDone _ _ _ _ _ _ hf hid⟩
    · rw [State.core_mergeDone]
    · rw [State.core_mergeDone]
      exact s.poolKept_putLocal c off _ a (by rwa [length_toBytes])
    · rw [State.core_mergeDone]
      exact (State.byte_putLocal _ _ _ _ (by rwa [length_toBytes])).trans (getD_toBytes hj _)
  · have hwaits : ∀ r ∈ (s.core c).handler.head?, (s.handlerHeld c || s.closeWork c r) = true := fun r _ => by rw [hheld, Bool.true_or]
    exact ⟨answers_exec (execAtomPerform_held hwaits) rfl, answers_exec (execDrainMerge_held hwaits) rfl⟩
  · have hwaits : ∀ r ∈ (s.core c).handler.head?, (s.handlerHeld c || s.closeWork c r) = true := by
      intro r' hr'
      change r' ∈ k.handler.head? at hr'
      rw [hk, List.head?_cons, Option.mem_some] at hr'
      subst hr'
      rw [State.closeWork_of_det hl hdet hq hatom hmerge, Bool.or_true]
    exact ⟨answers_exec (execAtomPerform_held hwaits) rfl, answers_exec (execDrainMerge_held hwaits) rfl⟩

/-- Settles O28, by the request that an atomic makes of its owner and by what the owner's handler thread does with it. -/
theorem atomicsArePerformedByTheOwnerInOrder : Obligations.AtomicsArePerformedByTheOwnerInOrder :=
  ⟨atomicsAskTheOwnerOfTheWord, handlersPerformAtomicsInOrder⟩

end Machine
end Sys2Proof
end

section
/-! Lane logic, shifts, moves, selection, lane numbers, FP32 functions and conversions (R60, R78, R98, R101, R105) on registers that no
stream is bound to. -/

namespace Sys2Proof
namespace Machine

/-! ## The moulds of the A-class words -/

theorem State.unboundV_of_subset {s : State} {vs ws : List Nat} (h : s.unboundV vs = true) (hsub : ws ⊆ vs) : s.unboundV ws = true :=
  List.all_eq_true.2 fun v hv => List.all_eq_true.1 h v (hsub hv)
/-- A lane operation's result is kept to the width of its type, as far as the registers hold it. -/
theorem laneWords_laneOf_toNat (t : VType) (w : Word) : laneWords t.wide (laneOf t w.toNat) = laneWords t.wide w := by
  rw [laneWords_laneOf, BitVec.ofInt_natCast, BitVec.ofNat_toNat, BitVec.setWidth_eq]

section Moulds
variable {s : State} {t : VType} {d a b : BitVec 5} {i : Instr}

/-- A two-source operation that gives each lane an integer kept to its width, and raises no flag. -/
theorem answers_vop_laneOf {f : Word → Word → Int} (h : s.unboundV (vregs t.wide d ++ vregs t.wide a ++ vregs t.wide b) = true)
    (hexec : exec i s = .next (s.vop t.wide t.wide d [a, b] false fun _ x y _ => (laneOf t (f x y), fNone))) :
    Answers i s (LaneWrites s · t.wide d fun l => (BitVec.ofInt 64 (f (s.lane t.wide a l) (s.lane t.wide b l)), 0)) := by
  have hsrcs : s.unboundV (vregs t.wide d ++ [a, b].flatMap (vregs t.wide)) = true := by simpa [List.append_assoc] using h
  have hw := laneWrites_vop (wa := t.wide) (dRead := false) (f := fun _ x y _ => (laneOf t (f x y), fNone)) hsrcs fun _ _ => rfl
  exact answers_exec hexec (hw.congr fun _ => ⟨laneWords_laneOf t _, rfl⟩)
theorem answers_vlogic {f : Word → Word → Word} (h : s.unboundV (vregs t.wide d ++ vregs t.wide a ++ vregs t.wide b) = true)
    (hexec : exec i s = .next (s.vlogic t d a b f)) :
    Answers i s (LaneWrites s · t.wide d fun l => (f (s.lane t.wide a l) (s.lane t.wide b l), 0)) := by
  simpa only [BitVec.ofInt_natCast, BitVec.ofNat_toNat, BitVec.setWidth_eq] using
    answers_vop_laneOf (f := fun x y => ((f x y).toNat : Int)) h hexec
theorem answers_vone {f : Word → Word × Bits6} (h : s.unboundV (vregs t.wide d ++ vregs t.wide a) = true)
    (hexec : exec i s = .next (s.vone t d a f)) : Answers i s (LaneWrites s · t.wide d fun l => f (s.lane t.wide a l)) :=
  answers_exec hexec (laneWrites_vop (by simpa using h) fun _ _ => rfl)
theorem answers_vnot (h : s.unboundV (vregs t.wide d ++ vregs t.wide a) = true) :
    Answers (.vnot t d a) s (LaneWrites s · t.wide d fun l => (~~~s.lane t.wide a l, 0)) := by
  obtain ⟨u, hu, hw⟩ := answers_vone (f := fun x => (laneOf t (~~~x).toNat, fNone)) h (i := .vnot t d a) rfl
  exact answers_exec hu (hw.congr fun _ => ⟨laneWords_laneOf_toNat t _, rfl⟩)
/-- A lane outside the selecting mask register keeps what vd held (R101). -/
theorem answers_vsel (p : BitVec 3) (h : s.unboundV (vregs t.wide d ++ vregs t.wide a) = true) :
    Answers (.vsel t d a p) s (LaneWrites s · t.wide d fun l =>
      (if (s.src.pr p.toNat).getLsbD l then s.lane t.wide a l else s.lane t.wide d l, 0)) :=
  answers_exec rfl (laneWrites_vop (by simpa using h) fun _ _ => rfl)
theorem answers_vidx (h : s.unboundV (vregs false d) = true) :
    Answers (.vidx d) s (LaneWrites s · false d fun l => (BitVec.ofNat 64 l, 0)) :=
  answers_exec rfl (laneWrites_vop (by simpa using h) fun _ _ => rfl)
theorem answers_vfun {f : Nat → Nat × Bits6} (h : s.unboundV [d.toNat, a.toNat] = true) (hexec : exec i s = .next (s.vfun d a f)) :
    Answers i s (LaneWrites s · false d fun l => (BitVec.ofNat 64 (f (s.lane false a l).toNat).1, (f (s.lane false a l).toNat).2)) :=
  answers_exec hexec (laneWrites_vop h fun _ _ => rfl)

end Moulds

/-- R98, R101: the words by their moulds. -/
theorem vectorLogicWritesLanesUnderTheMask : VectorLogicWritesLanesUnderTheMask := by
  intro s t d a b p h A B n is
  have hone : s.unboundV (vregs t.wide d ++ vregs t.wide a) = true := State.unboundV_of_subset h (List.subset_append_left ..)
  refine ⟨?vand, ?vor, ?vxor, answers_vnot hone, ?vshl, ?vshr, ?vsar, ?vmov, answers_vsel p hone, fun hwide => ?vidx⟩
  case vand => exact answers_vlogic h rfl
  case vor => exact answers_vlogic h rfl
  case vxor => exact answers_vlogic h rfl
  case vshl => exact answers_vlogic (f := fun x y => x <<< (y.toNat % tyBits t)) h rfl
  case vshr => exact answers_vlogic (f := fun x y => x >>> (y.toNat % tyBits t)) h rfl
  case vsar => exact answers_vop_laneOf (f := fun x y => sintN (tyBits t) x.toNat / 2 ^ (y.toNat % tyBits t)) h rfl
  case vmov => exact answers_vone (f := fun x => (x, fNone)) hone rfl
  case vidx =>
    have hd : s.unboundV (vregs t.wide d) = true := State.unboundV_of_subset hone (List.subset_append_left ..)
    rw [hwide] at hd
    simpa only [is, hwide] using answers_vidx hd

/-! ## Conversions -/

section Conversions
variable (s : State) (c : Cvt) (d a : BitVec 5)

/-- What a conversion makes of a lane: the draw is the lane's own, where the form takes one. -/
def State.cvtLane (l : Nat) (x : Word) : Word × Bits6 := convLane c s.rm (if isSr c then (s.laneDraw l).toNat else 0) x
/-- The state with the converted lanes written and their flags raised, before any ordinal advances. -/
def State.converted : State :=
  let r := mapLanes s.src.amask (fun l x _ _ => s.cvtLane c l x) 0 (s.val c.wideA a) (s.val c.wideA a) (s.val c.wideD d)
  (s.putRegs ((vregs c.wideD d).zip (splitLanes c.wideD r.1))).raiseFlags r.2

theorem laneWrites_converted : LaneWrites s (s.converted c d a) c.wideD d fun l => s.cvtLane c l (s.lane c.wideA a l) :=
  laneWrites_of s c.wideD d _ _ _ (length_val ..) (length_val ..) _ fun l hl => by rw [getD_val s c.wideA a l hl]

variable {s c d a}

theorem State.cvtLane_of_not_sr (hsr : isSr c = false) (l : Nat) (x : Word) : s.cvtLane c l x = convLane c s.rm 0 x := by
  rw [State.cvtLane, hsr, if_neg Bool.false_ne_true]
theorem State.cvtLane_of_sr (hsr : isSr c = true) (l : Nat) (x : Word) : s.cvtLane c l x = convLane c s.rm (s.laneDraw l).toNat x := by
  rw [State.cvtLane, if_pos hsr]
theorem exec_vcvt (h : s.unboundV (vregs c.wideD d ++ vregs c.wideA a) = true) : exec (.vcvt c d a) s = .next
    (if isSr c then (s.converted c d a).advanceLanes s.src.amask else s.converted c d a) := by
  have hd : ∀ v ∈ vregs c.wideD d, AMap.find s.src.streams v = none := fun v hv => State.unboundV_src h (List.mem_append_left _ hv)
  have ha : ∀ v ∈ vregs c.wideA a, AMap.find s.src.streams v = none := fun v hv => State.unboundV_src h (List.mem_append_right _ hv)
  exact congrArg Host.Outcome.next (State.aWord_unbound s _ _ _ ha hd fun e he => hd _ (List.of_mem_zip he).1)
theorem answers_vcvt (h : s.unboundV (vregs c.wideD d ++ vregs c.wideA a) = true) (hsr : isSr c = false) :
    Answers (.vcvt c d a) s (LaneWrites s · c.wideD d fun l => convLane c s.rm 0 (s.lane c.wideA a l)) := by
  have hexec := exec_vcvt h
  rw [hsr, if_neg Bool.false_ne_true] at hexec
  exact answers_exec hexec (by simpa only [State.cvtLane_of_not_sr hsr] using laneWrites_converted s c d a)
/-- A stochastic form draws at the ordinals that stood before, and they advance behind the write (R60). -/
theorem answers_vcvt_sr (h : s.unboundV (vregs c.wideD d ++ vregs c.wideA a) = true) (hsr : isSr c = true) :
    Answers (.vcvt c d a) s fun t => ∃ u,
      LaneWrites s u c.wideD d (fun l => convLane c s.rm (s.laneDraw l).toNat (s.lane c.wideA a l)) ∧ t = u.advanceLanes s.src.amask := by
  have hexec := exec_vcvt h
  rw [if_pos hsr] at hexec
  exact answers_exec hexec ⟨s.converted c d a, by simpa only [State.cvtLane_of_sr hsr] using laneWrites_converted s c d a, rfl⟩

end Conversions

/-- R60, R78, R105: the functions by their mould, the conversions by the draw that they take. -/
theorem vectorFunctionsAndConversionsWriteLanesUnderTheMask : VectorFunctionsAndConversionsWriteLanesUnderTheMask := by
  intro s d a c
  exact ⟨fun h => ⟨answers_vfun h rfl, answers_vfun h rfl, answers_vfun h rfl, answers_vfun h rfl, answers_vfun h rfl⟩,
    fun h => ⟨answers_vcvt h, answers_vcvt_sr h⟩⟩

/-- Settles O9, by the lanes that `State.vop` and a conversion write under the mask. -/
theorem vectorLogicFunctionsAndConversionsWriteLanes : Obligations.VectorLogicFunctionsAndConversionsWriteLanes :=
  ⟨vectorLogicWritesLanesUnderTheMask, vectorFunctionsAndConversionsWriteLanesUnderTheMask⟩

end Machine
end Sys2Proof
end

section
/-! Reductions and scans (R81, R82, R107): the tree and the prefixes on registers that no stream is bound to, and what the tree is over
integers. -/

namespace Sys2Proof
namespace Machine

/-! ## One update after another -/

theorem AMap.set_set {α : Type} (m : AMap α) (k : Nat) (v w : α) : AMap.set (AMap.set m k v) k w = AMap.set m k w := by
  induction m with
  | nil => simp [AMap.set]
  | cons e r ih =>
    obtain ⟨j, u⟩ := e
    by_cases hkj : k = j
    · simp [AMap.set, hkj]
    · by_cases hnew : k < j ∧ (AMap.find r k).isNone
      · simp only [AMap.set, hkj, hnew, if_true, if_false, and_self]
      · have hold : ¬(k < j ∧ (AMap.find (AMap.set r k v) k).isNone) := by simp
        simp only [AMap.set, hkj, hnew, hold, if_false, ih]
theorem State.updCtx_updCtx (s : State) (c x : Nat) (f g : Ctx → Ctx) :
    (s.updCtx c x f).updCtx c x g = s.updCtx c x fun k => g (f k) := by
  simp only [State.updCtx, State.setCtx, State.updCore, State.setCore, State.core, Core.setCtx, State.ctx, Core.ctx,
    AMap.set_set, AMap.get_set_same]
/-- Flags raised one after another are raised together. -/
theorem State.raiseFlags_raiseFlags (s : State) (f g : Bits6) : (s.raiseFlags f).raiseFlags g = s.raiseFlags (f ||| g) := by
  calc (s.raiseFlags f).raiseFlags g
      = { (s.updCtx s.cur.core s.cur.ctx fun k => { k with flags := k.flags ||| f }).updCtx s.cur.core s.cur.ctx
            fun k => { k with flags := k.flags ||| g } with cur := { s.cur with raised := s.cur.raised ||| f ||| g } } := rfl
    _ = s.raiseFlags (f ||| g) := by
      rw [State.updCtx_updCtx]
      simp only [State.raiseFlags, State.updMe, BitVec.or_assoc]

/-! ## One row of a tree or of a scan -/

section Rows
variable (f : Word → Word → Word × Bits6)

theorem zipOp_fst (A B : List Word) : (zipOp f A B).1 = List.zipWith (fun x y => (f x y).1) A B := by
  induction A generalizing B with
  | nil => rfl
  | cons a A ih =>
    cases B with
    | nil => rfl
    | cons b B => exact congrArg (_ :: ·) (ih B)
theorem zipOp_snd (A B : List Word) : (zipOp f A B).2 = (List.zipWith (fun x y => (f x y).2) A B).foldr (· ||| ·) 0 := by
  induction A generalizing B with
  | nil => rfl
  | cons a A ih =>
    cases B with
    | nil => rfl
    | cons b B => exact congrArg (_ ||| ·) (ih B)
/-- One more level of the tree of R81 folds the upper half of its lanes onto the lower. -/
theorem treeRed_succ_fst (n : Nat) (l : List Word) : (treeRed f (n + 1) l).1 =
    (treeRed f n (List.zipWith (fun x y => (f x y).1) (l.take (2 ^ n)) (l.drop (2 ^ n)))).1 := by
  rw [← zipOp_fst]
  rfl
theorem length_scanSteps (ds : List Nat) (l : List Word) : (scanSteps f ds l).1.length = l.length := by
  induction ds generalizing l with
  | nil => rfl
  | cons d ds ih =>
    refine (ih _).trans ?_
    rw [zipOp_fst, List.length_append, List.length_take, List.length_zipWith, List.length_drop]
    omega

end Rows

/-! ## The tree over integers (R81) -/

section Tree
variable {f : Word → Word → Word × Bits6}

theorem length_take_drop_half {n : Nat} {l : List Word} (hl : l.length = 2 ^ (n + 1)) :
    (l.take (2 ^ n)).length = 2 ^ n ∧ (l.drop (2 ^ n)).length = 2 ^ n := by
  rw [List.length_take, List.length_drop, hl, Nat.pow_succ]
  omega
theorem length_folded {n : Nat} {l : List Word} (hl : l.length = 2 ^ (n + 1)) (g : Word → Word → Word) :
    (List.zipWith g (l.take (2 ^ n)) (l.drop (2 ^ n))).length = 2 ^ n := by
  obtain ⟨hlo, hhi⟩ := length_take_drop_half hl
  rw [List.length_zipWith, hlo, hhi, Nat.min_self]
/-- Where a reading of lanes takes the operation to an addition, it takes the tree to the sum. -/
theorem treeRed_sum {M : Type} [AddCommMonoid M] {φ : Word → M} (hadd : ∀ x y, φ (f x y).1 = φ x + φ y) (n : Nat) :
    ∀ l : List Word, l.length = 2 ^ n → φ (treeRed f n l).1 = (l.map φ).sum := by
  induction n with
  | zero =>
    intro l hl
    obtain ⟨x, rfl⟩ := List.length_eq_one_iff.1 hl
    exact (List.sum_singleton).symm
  | succ n ih =>
    intro l hl
    obtain ⟨hlo, hhi⟩ := length_take_drop_half hl
    generalize hL : l.take (2 ^ n) = L at hlo
    generalize hH : l.drop (2 ^ n) = H at hhi
    calc φ (treeRed f (n + 1) l).1
        = ((List.zipWith (fun x y => (f x y).1) L H).map φ).sum := by
          rw [treeRed_succ_fst, ih _ (length_folded hl _), hL, hH]
      _ = (List.zipWith (· + ·) (L.map φ) (H.map φ)).sum := by
          rw [List.map_zipWith, List.zipWith_map]
          simp only [hadd]
      _ = (L.map φ).sum + (H.map φ).sum :=
          (List.sum_add_sum_eq_sum_zipWith_of_length_eq _ _ (by rw [List.length_map, List.length_map, hlo, hhi])).symm
      _ = (l.map φ).sum := by
          rw [← List.sum_append, ← List.map_append, ← hL, ← hH, List.take_append_drop]
/-- The lanes are those of the pairs that the fold joins. -/
theorem mem_iff_mem_zip_halves {n : Nat} {l : List Word} (hl : l.length = 2 ^ (n + 1)) (x : Word) :
    x ∈ l ↔ ∃ p ∈ (l.take (2 ^ n)).zip (l.drop (2 ^ n)), x = p.1 ∨ x = p.2 := by
  obtain ⟨hlo, hhi⟩ := length_take_drop_half hl
  constructor
  · intro hx
    rw [← List.take_append_drop (2 ^ n) l, List.mem_append] at hx
    rcases hx with hx | hx
    · rw [← List.map_fst_zip (hlo.trans hhi.symm).le, List.mem_map] at hx
      obtain ⟨p, hp, rfl⟩ := hx
      exact ⟨p, hp, .inl rfl⟩
    · rw [← List.map_snd_zip (hhi.trans hlo.symm).le, List.mem_map] at hx
      obtain ⟨p, hp, rfl⟩ := hx
      exact ⟨p, hp, .inr rfl⟩
  · rintro ⟨p, hp, rfl | rfl⟩
    · exact List.mem_of_mem_take (List.of_mem_zip hp).1
    · exact List.mem_of_mem_drop (List.of_mem_zip hp).2
/-- Where the operation picks of its two lanes one whose key is not the greater, the tree picks a lane whose key is the least. -/
theorem treeRed_least {key : Word → Int}
    (hpick : ∀ x y, ((f x y).1 = x ∧ key x ≤ key y) ∨ ((f x y).1 = y ∧ key y ≤ key x)) (n : Nat) :
    ∀ l : List Word, l.length = 2 ^ n → (treeRed f n l).1 ∈ l ∧ ∀ x ∈ l, key (treeRed f n l).1 ≤ key x := by
  induction n with
  | zero =>
    intro l hl
    obtain ⟨x, rfl⟩ := List.length_eq_one_iff.1 hl
    exact ⟨List.mem_singleton.2 rfl, fun y hy => by rw [List.mem_singleton.1 hy]; exact le_rfl⟩
  | succ n ih =>
    intro l hl
    obtain ⟨hmem, hle⟩ := ih _ (length_folded hl fun x y => (f x y).1)
    rw [← treeRed_succ_fst, ← List.map_uncurry_zip_eq_zipWith] at hmem hle
    refine ⟨?_, fun x hx => ?_⟩
    · obtain ⟨p, hp, he⟩ := List.mem_map.1 hmem
      rw [mem_iff_mem_zip_halves hl, ← he]
      exact ⟨p, hp, (hpick p.1 p.2).imp And.left And.left⟩
    · obtain ⟨p, hp, hx⟩ := (mem_iff_mem_zip_halves hl x).1 hx
      have hjoin : key (f p.1 p.2).1 ≤ key p.1 ∧ key (f p.1 p.2).1 ≤ key p.2 := by
        rcases hpick p.1 p.2 with ⟨he, hkey⟩ | ⟨he, hkey⟩ <;> rw [he]
        · exact ⟨le_rfl, hkey⟩
        · exact ⟨hkey, le_rfl⟩
      have hroot := hle _ (List.mem_map_of_mem hp)
      rcases hx with rfl | rfl
      · exact hroot.trans hjoin.1
      · exact hroot.trans hjoin.2

end Tree

/-! ## Integers of a type (R97) -/

section Integers
variable {t : VType} {rm : Rm}

theorem sintN_emod (n v : Nat) : sintN n v % 2 ^ n = (v : Int) % 2 ^ n := by
  rw [sintN]
  split
  · push_cast
    exact Int.emod_emod_of_dvd _ dvd_rfl
  · push_cast
    rw [Int.sub_emod_right, Int.emod_emod_of_dvd _ dvd_rfl]
theorem laneInt_emod (x : Word) : laneInt t x % 2 ^ tyBits t = (x.toNat : Int) % 2 ^ tyBits t := by
  rw [laneInt]
  split
  · exact sintN_emod _ _
  · rfl
theorem toNat_laneOf (i : Int) : ((laneOf t i).toNat : Int) = i % 2 ^ tyBits t := by
  rw [laneOf, BitVec.toNat_ofInt, tyBits]
  split <;> omega
/-- An integer kept to the width of a type reads as itself, but for a multiple of the width's power of two. -/
theorem laneInt_laneOf_emod (i : Int) : laneInt t (laneOf t i) % 2 ^ tyBits t = i % 2 ^ tyBits t := by
  rw [laneInt_emod, toNat_laneOf, Int.emod_emod_of_dvd _ dvd_rfl]
theorem tyFmt_of_isF (h : t.isF = false) : tyFmt t = none := by
  cases t with
  | f32 | f64 => exact absurd h (by decide)
  | i32 | i64 | n32 | n64 => rfl

variable (h : t.isF = false)
include h

theorem redOp_add_fst (x y : Word) : (redOp .add t rm x y).1 = laneOf t (laneInt t x + laneInt t y) := by
  rw [redOp, arith, tyFmt_of_isF h]
theorem redOp_min_picks_less (x y : Word) :
    ((redOp .min t rm x y).1 = x ∧ laneInt t x ≤ laneInt t y) ∨ ((redOp .min t rm x y).1 = y ∧ laneInt t y ≤ laneInt t x) := by
  rw [redOp, minMax, tyFmt_of_isF h]
  rcases le_or_gt (laneInt t x) (laneInt t y) with hle | hgt
  · exact .inl ⟨by simp [hle], hle⟩
  · exact .inr ⟨by simp [hgt.not_ge], hgt.le⟩
theorem redOp_max_picks_greater (x y : Word) :
    ((redOp .max t rm x y).1 = x ∧ laneInt t y ≤ laneInt t x) ∨ ((redOp .max t rm x y).1 = y ∧ laneInt t x ≤ laneInt t y) := by
  rw [redOp, minMax, tyFmt_of_isF h]
  rcases le_or_gt (laneInt t x) (laneInt t y) with hle | hgt
  · exact .inr ⟨by simp [hle], hle⟩
  · exact .inl ⟨by simp [hgt], hgt.le⟩

theorem treeRed_add_emod {n : Nat} {l : List Word} (hl : l.length = 2 ^ n) :
    (laneInt t (treeRed (redOp .add t rm) n l).1 - (l.map (laneInt t)).sum) % 2 ^ tyBits t = 0 := by
  have hadd : ∀ x y, (laneInt t (redOp .add t rm x y).1 : ZMod (2 ^ tyBits t)) = laneInt t x + laneInt t y := by
    intro x y
    rw [redOp_add_fst h, ← Int.cast_add, ZMod.intCast_eq_intCast_iff']
    exact_mod_cast laneInt_laneOf_emod _
  have htree := treeRed_sum (φ := fun x => (laneInt t x : ZMod (2 ^ tyBits t))) hadd n l hl
  have hdvd : ((2 ^ tyBits t : Nat) : Int) ∣ laneInt t (treeRed (redOp .add t rm) n l).1 - (l.map (laneInt t)).sum := by
    rw [← ZMod.intCast_zmod_eq_zero_iff_dvd, Int.cast_sub, Int.cast_list_sum, htree, List.map_map]
    exact sub_self _
  exact Int.emod_eq_zero_of_dvd (by exact_mod_cast hdvd)
theorem treeRed_min {n : Nat} {l : List Word} (hl : l.length = 2 ^ n) :
    (treeRed (redOp .min t rm) n l).1 ∈ l ∧ ∀ x ∈ l, laneInt t (treeRed (redOp .min t rm) n l).1 ≤ laneInt t x :=
  treeRed_least (redOp_min_picks_less h) n l hl
theorem treeRed_max {n : Nat} {l : List Word} (hl : l.length = 2 ^ n) :
    (treeRed (redOp .max t rm) n l).1 ∈ l ∧ ∀ x ∈ l, laneInt t x ≤ laneInt t (treeRed (redOp .max t rm) n l).1 := by
  simpa only [neg_le_neg_iff] using treeRed_least (f := redOp .max t rm) (key := fun x => -laneInt t x)
    (fun x y => by simpa only [neg_le_neg_iff] using redOp_max_picks_greater h x y) n l hl

end Integers

/-- R81: over integers a tree is the sum, up to the wrap of the width, or a lane that is the least or the greatest. -/
theorem integerReductionsAreOrderFree : IntegerReductionsAreOrderFree := by
  intro t rm l h hl _
  obtain ⟨hmin, hleast⟩ := treeRed_min (rm := rm) h (n := 6) hl
  obtain ⟨hmax, hgreatest⟩ := treeRed_max (rm := rm) h (n := 6) hl
  exact ⟨treeRed_add_emod h (n := 6) hl, fun x hx => ⟨hleast x hx, hgreatest x hx⟩, hmin, hmax⟩

/-! ## Lanes written apart from the flags that the word raises (R98, R107) -/

section Words
variable {s : State} {o : RedOp} {t : VType} {d a : BitVec 5}

theorem fNone_or (f : Bits6) : fNone ||| f = f := BitVec.zero_or
theorem mapLanes_fNone_snd (M : Word) (F : Word → Word) (i : Nat) (A B D : List Word) :
    (mapLanes M (fun _ x _ _ => (F x, fNone)) i A B D).2 = fNone := by
  induction A generalizing i B D with
  | nil => rfl
  | cons a A ih =>
    match B, D with
    | [], _ | _ :: _, [] => rfl
    | b :: B, d :: D =>
      simp only [mapLanes]
      split
      · exact (congrArg (fNone ||| ·) (ih _ _ _)).trans (fNone_or _)
      · exact ih _ _ _

/-- The state with the lanes under the mask written that a function makes of a list. -/
def State.putLanes (s : State) (wide : Bool) (d : BitVec 5) (F : Word → Word) (A : List Word) : State :=
  s.putRegs ((vregs wide d).zip (splitLanes wide (mapLanes s.src.amask (fun _ x _ _ => (F x, fNone)) 0 A A (s.val wide d)).1))
theorem answers_putLanes {i : Instr} {wide : Bool} {F : Word → Word} {A : List Word} {fl : Bits6} {g : Nat → Word}
    (hexec : exec i s = .next ((s.putLanes wide d F A).raiseFlags fl)) (hA : A.length = 64) (hg : ∀ l, l < 64 → F (A.getD l 0) = g l) :
    Answers i s fun u => ∃ v, LaneWrites s v wide d (fun l => (g l, 0)) ∧ u = v.raiseFlags fl := by
  have hw := laneWrites_of s wide d (fun _ x _ _ => (F x, fNone)) A A hA hA (fun l => (g l, 0)) fun l hl => by rw [hg l hl]; rfl
  refine answers_exec hexec ⟨_, hw, ?_⟩
  rw [State.raiseFlags_raiseFlags, mapLanes_fNone_snd, fNone_or]
  rfl

/-! ## VRED and VSCAN (R81, R82, R107) -/

variable (s o t d a)

/-- The lanes that a reduction combines: one outside the mask enters as the identity. -/
def State.redLanes : List Word := (List.range 64).map fun l => if s.src.amask.getLsbD l then s.lane t.wide a l else redIdent o t
/-- The tree's result for this beat alone, with the flags of every node. -/
def State.redTree : Word × Bits6 := treeRed (redOp o t s.rm) 6 (s.redLanes o t a)
/-- The tree's result behind the beats before it. -/
def State.reduced : Word × Bits6 :=
  if 0 < s.beta then redOp o t s.rm (s.lane t.wide d 0) (s.redTree o t a).1 else ((s.redTree o t a).1, 0)
/-- The prefixes of this beat alone, with the flags of every step. -/
def State.prefixes : List Word × Bits6 := scanSteps (redOp o t s.rm) [1, 2, 4, 8, 16, 32] (s.redLanes o t a)
/-- What a scan gives a lane, behind the beats before it. -/
def State.scanned (l : Nat) : Word × Bits6 :=
  if 0 < s.beta then redOp o t s.rm (s.lane t.wide d 63) ((s.prefixes o t a).1.getD l 0) else ((s.prefixes o t a).1.getD l 0, 0)

theorem withIdent_val : withIdent s.src.amask (redIdent o t) (s.val t.wide a) = s.redLanes o t a := by
  refine List.ext_getElem (by simp [withIdent, length_val, State.redLanes]) fun l hl _ => ?_
  have hlt : l < 64 := by simpa [withIdent, length_val] using hl
  have hlane := getD_val s t.wide a l hlt
  rw [List.getD_eq_getElem _ _ (by rwa [length_val])] at hlane
  simp [withIdent, State.redLanes, hlane]
theorem headD_val (w : Bool) : (s.val w d).headD 0 = s.lane w d 0 := by
  rw [← getD_val s w d 0 (by decide)]
  cases s.val w d <;> rfl
theorem length_prefixes : (s.prefixes o t a).1.length = 64 := by
  rw [State.prefixes, length_scanSteps, State.redLanes, List.length_map, List.length_range]
theorem zipWith_replicate_left {α : Type} (g : Word → Word → α) (c : Word) {n : Nat} {r : List Word} (hr : r.length = n) :
    List.zipWith g (List.replicate n c) r = (List.range n).map fun l => g c (r.getD l 0) := by
  refine List.ext_getElem (by simp [hr]) fun l _ hl => ?_
  have hlt : l < r.length := by simpa [hr] using hl
  simp [hlt]
/-- The carry enters every lane; at the first beat the prefixes stand as they are and raise nothing more. -/
theorem carry_prefixes :
    (if 0 < s.beta then zipOp (redOp o t s.rm) (List.replicate 64 ((s.val t.wide d).getD 63 0)) (s.prefixes o t a).1
      else ((s.prefixes o t a).1, fNone)) =
    ((List.range 64).map fun l => (s.scanned o t d a l).1, (List.range 64).foldr (fun l g => (s.scanned o t d a l).2 ||| g) 0) := by
  have hlen := length_prefixes s o t a
  rw [getD_val s t.wide d 63 (by decide)]
  unfold State.scanned
  split
  · refine Prod.ext ?_ ?_
    · rw [zipOp_fst, zipWith_replicate_left _ _ hlen]
    · rw [zipOp_snd, zipWith_replicate_left _ _ hlen, List.foldr_map]
  · refine Prod.ext ?_ ?_
    · refine List.ext_getElem (by simp [hlen]) fun l hl _ => ?_
      simp [hl]
    · exact (List.foldr_fixed' (fun _ => fNone_or 0) _).symm

variable {s o t d a}
variable (h : s.unboundV (vregs t.wide a ++ vregs t.wide d) = true)
include h

/-- A word that reads va and vd and writes vd runs its function on them under the active mask. -/
theorem State.aWord_unbound_dest (f : VIn → VOut)
    (hregs : ∀ e ∈ (f { reg := s.src.vr, mask := s.src.amask }).regs, e.1 ∈ vregs t.wide d) :
    s.aWord (vregs t.wide a ++ vregs t.wide d) (vregs t.wide d) f =
      let o := f { reg := s.src.vr, mask := s.src.amask }
      o.also ((s.putRegs o.regs).raiseFlags o.flags) :=
  s.aWord_unbound _ _ f (fun _ hv => State.unboundV_src h hv) (fun _ hv => State.unboundV_src h (List.mem_append_right _ hv))
    fun e he => State.unboundV_src h (List.mem_append_right _ (hregs e he))
theorem exec_vred : exec (.vred o t d a) s = .next
    ((s.putLanes t.wide d (fun _ => (s.reduced o t d a).1) (s.val t.wide a)).raiseFlags ((s.redTree o t a).2 ||| (s.reduced o t d a).2)) := by
  have harm : exec (.vred o t d a) s = execVred o t d a s := rfl
  rw [harm, execVred, State.aWord_unbound_dest h _ fun e he => (List.of_mem_zip he).1]
  simp only [← State.val.eq_def, withIdent_val, headD_val]
  rfl
theorem exec_vscan : exec (.vscan o t d a) s = .next
    ((s.putLanes t.wide d id ((List.range 64).map fun l => (s.scanned o t d a l).1)).raiseFlags
      ((s.prefixes o t a).2 ||| (List.range 64).foldr (fun l g => (s.scanned o t d a l).2 ||| g) 0)) := by
  have harm : exec (.vscan o t d a) s = execVscan o t d a s := rfl
  rw [harm, execVscan, State.aWord_unbound_dest h _ fun e he => (List.of_mem_zip he).1]
  simp only [← State.val.eq_def, withIdent_val, ← State.prefixes.eq_def, carry_prefixes]
  rfl

end Words

/-- R81, R82, R107: the two words by the lanes that they write, which raise no flags of their own. -/
theorem reductionsAndScansFollowTheirTrees : ReductionsAndScansFollowTheirTrees := by
  intro s o t d a h f A tree red pre at_
  refine ⟨answers_putLanes (exec_vred h) (length_val ..) fun _ _ => rfl, answers_putLanes (exec_vscan h) (by simp) fun l hl => ?_⟩
  have hlane : ((List.range 64).map fun l => (s.scanned o t d a l).1).getD l 0 = (s.scanned o t d a l).1 := by simp [hl]
  exact hlane

/-- Settles O10, by the lanes that the two words write and by what an addition, a minimum and a maximum make of the tree. -/
theorem reductionsAndScansFollowTheirTreesInAnyOrder : Obligations.ReductionsAndScansFollowTheirTreesInAnyOrder :=
  ⟨reductionsAndScansFollowTheirTrees, integerReductionsAreOrderFree⟩

end Machine
end Sys2Proof
end

section
/-! The scalar instructions (R83 to R88): what value each operation of a word gives, read as a number, and the statements about the
integer operations and the divisions. -/

namespace Sys2Proof

/-- The numbers below n of which p holds, listed and as a set. -/
theorem length_filter_range_eq_card (n : Nat) (p : Nat → Bool) :
    ((List.range n).filter p).length = (Finset.univ.filter fun i : Fin n => p i).card := by
  rw [← List.map_coe_finRange_eq_range, List.filter_map, List.length_map]
  exact congrArg List.length (List.filter_congr fun i _ => Bool.decide_eq_true.symm)

namespace Machine

/-! ## The moulds of the scalar instructions -/

section Moulds
variable {i : Instr} {s : State} {d a b : BitVec 6} {v w : Word}

/-- An instruction that writes one scalar register, its value given in another form. -/
theorem answers_ws (hexec : exec i s = .next (s.ws d w)) (hw : w = v) : Answers i s (Writes s · d v) :=
  answers_exec hexec (hw ▸ writes_ws s d w)
/-- A division writes its result and then raises its flags (R85). -/
theorem answers_divide {signed quot : Bool} {f : Bits6} (hexec : exec i s = .next (s.divide d a b signed quot))
    (hres : divResult signed quot (s.rs a) (s.rs b) = (v, f)) :
    Answers i s fun t => ∃ u, Writes s u d v ∧ t = u.raiseFlags f := by
  refine answers_exec hexec ⟨s.ws d v, writes_ws s d v, ?_⟩
  simp only [State.divide, hres]

end Moulds

/-! ## Words as numbers (R83, R84, R87) -/

section Values
variable (x y : Word) (n : Nat)

theorem nat64_toNat : nat64 x.toNat = x := by rw [nat64, BitVec.ofNat_toNat, BitVec.setWidth_eq]
theorem shiftLeft_eq_ofNat : x <<< n = BitVec.ofNat 64 (x.toNat * 2 ^ n) := by
  apply BitVec.eq_of_toNat_eq
  rw [BitVec.toNat_shiftLeft, Nat.shiftLeft_eq, BitVec.toNat_ofNat]
theorem ushiftRight_eq_ofNat : x >>> n = BitVec.ofNat 64 (x.toNat / 2 ^ n) := by
  rw [← Nat.shiftRight_eq_div_pow, ← BitVec.toNat_ushiftRight, ← nat64, nat64_toNat]
theorem sshiftRight_eq_ofInt : x.sshiftRight n = BitVec.ofInt 64 (x.toInt / 2 ^ n) := by
  rw [BitVec.sshiftRight_eq, Int.shiftRight_eq_div_pow, Nat.cast_pow, Nat.cast_ofNat]
theorem rotateLeft_mod_eq_or : x.rotateLeft (n % 64) = x <<< (n % 64) ||| x >>> (64 - n % 64) := by
  rw [BitVec.rotateLeft_def, Nat.mod_mod]
theorem less_signed_eq_ofInt_min : (if x.toInt ≤ y.toInt then x else y) = BitVec.ofInt 64 (min x.toInt y.toInt) := by
  rw [min_def, apply_ite (BitVec.ofInt 64), BitVec.ofInt_toInt, BitVec.ofInt_toInt]
theorem greater_signed_eq_ofInt_max : (if x.toInt ≤ y.toInt then y else x) = BitVec.ofInt 64 (max x.toInt y.toInt) := by
  rw [max_def, apply_ite (BitVec.ofInt 64), BitVec.ofInt_toInt, BitVec.ofInt_toInt]
theorem less_unsigned_eq_ofNat_min : (if x.toNat ≤ y.toNat then x else y) = BitVec.ofNat 64 (min x.toNat y.toNat) := by
  rw [min_def, apply_ite (BitVec.ofNat 64), ← nat64, ← nat64, nat64_toNat, nat64_toNat]
theorem greater_unsigned_eq_ofNat_max : (if x.toNat ≤ y.toNat then y else x) = BitVec.ofNat 64 (max x.toNat y.toNat) := by
  rw [max_def, apply_ite (BitVec.ofNat 64), ← nat64, ← nat64, nat64_toNat, nat64_toNat]
theorem one64_decide (p : Prop) [Decidable p] : one64 (decide p) = if p then 1 else 0 := by simp only [one64, decide_eq_true_eq]
theorem mul_eq_ofNat : x * y = BitVec.ofNat 64 (x.toNat * y.toNat) := by
  rw [BitVec.ofNat_mul, ← nat64, ← nat64, nat64_toNat, nat64_toNat]
/-- The upper half of a product of 128 bits is its quotient by 2^64. -/
theorem extractLsb'_ofInt_high (i : Int) : (BitVec.ofInt 128 i).extractLsb' 64 64 = BitVec.ofInt 64 (i / 2 ^ 64) := by
  apply BitVec.eq_of_toNat_eq
  rw [BitVec.extractLsb'_toNat, BitVec.toNat_ofInt, BitVec.toNat_ofInt, Nat.shiftRight_eq_div_pow]
  omega
theorem mulh_eq_extractLsb' : w64 (x.toInt * y.toInt / 2 ^ 64) = (x.signExtend 128 * y.signExtend 128).extractLsb' 64 64 := by
  simp only [w64, BitVec.signExtend, ← BitVec.ofInt_mul, extractLsb'_ofInt_high]
theorem mulhu_eq_extractLsb' : nat64 (x.toNat * y.toNat / 2 ^ 64) = (x.setWidth 128 * y.setWidth 128).extractLsb' 64 64 := by
  rw [← BitVec.ofNat_toNat, ← BitVec.ofNat_toNat, ← BitVec.ofNat_mul, ← BitVec.ofInt_natCast, extractLsb'_ofInt_high,
    nat64, ← BitVec.ofInt_natCast, Int.natCast_ediv]
  rfl
/-- `LIH` appends its 17 bits below those of its register (R87). -/
theorem lih_eq_ofNat (w : BitVec 17) : x <<< 17 ||| w.setWidth 64 = BitVec.ofNat 64 (x.toNat * 2 ^ 17 + w.toNat) := by
  rw [← Nat.shiftLeft_eq, Nat.shiftLeft_add_eq_or_of_lt w.isLt, BitVec.ofNat_or, Nat.shiftLeft_eq, ← shiftLeft_eq_ofNat,
    BitVec.ofNat_toNat]

/-! ## Bit counts (R84) -/

theorem countLeading_le : countLeading x ≤ 64 := by
  unfold countLeading
  split <;> omega
theorem getLsbD_above_leading {i : Nat} (hi : i < countLeading x) : x.getLsbD (63 - i) = false := by
  unfold countLeading at hi
  split at hi
  · next h => rw [h]; exact BitVec.getLsbD_zero
  · next h =>
    refine Nat.testBit_lt_two_pow (Nat.lt_log2_self.trans_le (Nat.pow_le_pow_right (by decide) ?_))
    omega
theorem getLsbD_leading (h : countLeading x < 64) : x.getLsbD (63 - countLeading x) = true := by
  unfold countLeading at h ⊢
  split at h
  · omega
  · next h0 =>
    have hpos : x.toNat ≠ 0 := BitVec.toNat_ne.1 h0
    have hlog : Nat.log2 x.toNat < 64 := (Nat.log2_lt hpos).2 x.isLt
    rw [if_neg h0, Nat.sub_sub_self (by omega)]
    exact Nat.testBit_log2 hpos

end Values

/-! ## What the operations write (R84, R86 to R88) -/

theorem integerOperationsWriteOnlyTheirResult : IntegerOperationsWriteOnlyTheirResult := by
  intro s d a b x y n
  exact ⟨answers_ws rfl rfl, answers_ws rfl rfl, answers_ws rfl rfl, answers_ws rfl rfl, answers_ws rfl rfl, answers_ws rfl rfl,
    answers_ws rfl (shiftLeft_eq_ofNat x n), answers_ws rfl (ushiftRight_eq_ofNat x n), answers_ws rfl (sshiftRight_eq_ofInt x n),
    answers_ws rfl (rotateLeft_mod_eq_or x y.toNat),
    answers_ws rfl (less_signed_eq_ofInt_min x y), answers_ws rfl (greater_signed_eq_ofInt_max x y),
    answers_ws rfl (less_unsigned_eq_ofNat_min x y), answers_ws rfl (greater_unsigned_eq_ofNat_max x y),
    answers_ws rfl (one64_decide _), answers_ws rfl (one64_decide _), answers_ws rfl (one64_decide _),
    answers_ws rfl (mul_eq_ofNat x y), answers_ws rfl (mulh_eq_extractLsb' x y), answers_ws rfl (mulhu_eq_extractLsb' x y)⟩

theorem bitCountsAreExact : BitCountsAreExact := by
  intro s d a x
  exact ⟨⟨countLeading x, countLeading_le x, fun _ => getLsbD_above_leading x, getLsbD_leading x, answers_ws rfl rfl⟩,
    answers_ws rfl (congrArg (BitVec.ofNat 64) (length_filter_range_eq_card 64 x.getLsbD))⟩

/-- A signed comparison with an immediate reads the immediate as it stands (R86). -/
theorem slti_eq_ite (x : Word) (i : BitVec 11) :
    one64 (decide (x.toInt < (i.signExtend 64).toInt)) = if x.toInt < i.toInt then 1 else 0 := by
  rw [one64_decide, BitVec.toInt_signExtend_of_le (by decide)]

theorem immediatesAndSelectWriteOnlyTheirResult : ImmediatesAndSelectWriteOnlyTheirResult := by
  intro s d a b i h w x
  refine ⟨answers_ws rfl rfl, answers_ws rfl rfl, answers_ws rfl rfl, answers_ws rfl rfl,
    answers_ws rfl (shiftLeft_eq_ofNat x h.toNat), answers_ws rfl (ushiftRight_eq_ofNat x h.toNat),
    answers_ws rfl (sshiftRight_eq_ofInt x h.toNat), answers_ws rfl (slti_eq_ite x i), answers_ws rfl rfl,
    answers_ws rfl (lih_eq_ofNat (s.rs d) w), fun hb => ?taken, fun hb => ?kept⟩
  case taken => exact answers_ws (congrArg Host.Outcome.next (if_pos hb)) rfl
  case kept => exact answers_exec (congrArg Host.Outcome.next (if_neg (not_not_intro hb))) rfl

/-- Settles O1, by what each operation makes of its words as numbers. -/
theorem scalarOperationsWriteOnlyTheirResult : Obligations.ScalarOperationsWriteOnlyTheirResult :=
  ⟨integerOperationsWriteOnlyTheirResult, bitCountsAreExact, immediatesAndSelectWriteOnlyTheirResult⟩

/-! ## The divisions (R85) -/

section Divisions
variable {x y : Word} {quot : Bool}

theorem divResult_of_zero {signed : Bool} : divResult signed quot x 0 = (BitVec.allOnes 64, fDZ) := rfl
theorem divResult_of_overflow : divResult true quot (BitVec.intMin 64) (BitVec.allOnes 64) = (if quot then BitVec.intMin 64 else 0, 0) := rfl
theorem overflows_iff : x.toInt = -2 ^ 63 ∧ y.toInt = -1 ↔ x = BitVec.intMin 64 ∧ y = BitVec.allOnes 64 := by
  rw [← BitVec.toInt_inj, ← BitVec.toInt_inj]
  rfl
theorem divResult_signed (hy : y ≠ 0) (h : ¬(x = BitVec.intMin 64 ∧ y = BitVec.allOnes 64)) :
    divResult true quot x y = (BitVec.ofInt 64 (if quot then x.toInt.tdiv y.toInt else x.toInt.tmod y.toInt), 0) := by
  rw [divResult, if_neg hy, if_pos rfl, if_neg (overflows_iff.not.2 h), Int.tmod_def, Int.mul_comm y.toInt]
  rfl
theorem divResult_unsigned (hy : y ≠ 0) : divResult false quot x y = (if quot then x / y else x % y, 0) := by
  rw [divResult, if_neg hy, if_neg Bool.false_ne_true]
  refine congrArg (·, fNone) ?_
  cases quot with
  | true => exact nat64_toNat (x / y)
  | false =>
    have hrem : x.toNat - x.toNat / y.toNat * y.toNat = (x % y).toNat := by rw [BitVec.toNat_umod, Nat.mod_def, Nat.mul_comm y.toNat]
    exact (congrArg nat64 hrem).trans (nat64_toNat (x % y))

end Divisions

/-- Settles O2, by the four cases of a division: a zero divisor, the one overflow, signed and unsigned. -/
theorem divisionsTruncateAndRaiseOnlyDz : Obligations.DivisionsTruncateAndRaiseOnlyDz := by
  intro s d a b x y res dz ok
  refine ⟨fun hy => ?zero, fun ⟨hx, hy⟩ => ?overflow, fun hy h => ?signed, fun hy => ?unsigned⟩
  case zero =>
    have hres (signed quot : Bool) : divResult signed quot x y = (BitVec.allOnes 64, fDZ) := by rw [hy, divResult_of_zero]
    exact ⟨answers_divide rfl (hres ..), answers_divide rfl (hres ..), answers_divide rfl (hres ..), answers_divide rfl (hres ..)⟩
  case overflow =>
    have hres (quot : Bool) : divResult true quot x y = (if quot then x else 0, 0) := by rw [hx, hy, divResult_of_overflow]
    exact ⟨answers_divide rfl (hres true), answers_divide rfl (hres false)⟩
  case signed => exact ⟨answers_divide rfl (divResult_signed hy h), answers_divide rfl (divResult_signed hy h)⟩
  case unsigned => exact ⟨answers_divide rfl (divResult_unsigned hy), answers_divide rfl (divResult_unsigned hy)⟩

end Machine
end Sys2Proof
end

section
/-! Branches and jumps (R89 to R91): where a transfer goes, and the statement about them. -/

namespace Sys2Proof
namespace Machine

section Jumps
variable {s : State} {t : Int} {link : State → State}

/-- A target in instruction memory: the link is written, and the program counter moves (R15). -/
theorem State.jump_of_inMem (h : 0 ≤ t ∧ t ≤ 0xFFFC) : GoesTo (link s) (s.jump t link) t.toNat := by
  rw [State.jump, if_neg (by omega)]
  rfl
/-- Any other target faults, and the link is not written (R15, R89). -/
theorem State.jump_of_not_inMem (h : ¬(0 ≤ t ∧ t ≤ 0xFFFC)) : s.jump t link = s.raise { code := .align, a := BitVec.ofInt 64 t } := by
  rw [State.jump, if_pos (by omega)]
  rfl

end Jumps

section Branch
variable {s : State} {c : BCond} {a b : BitVec 6} (e : BitVec 8)

theorem execB_of_holds (h : BCond.holds c (s.rs a) (s.rs b) = true) : execB c a b e s = .next (s.jump (s.cur.wpc + 4 * e.toInt) id) := by
  rw [execB, if_pos h]
theorem execB_of_not_holds (h : ¬BCond.holds c (s.rs a) (s.rs b) = true) : execB c a b e s = .next s := by
  rw [execB, if_neg h]

end Branch

section Jalr
variable {s : State} {d a : BitVec 6} {o : BitVec 11}

theorem execJalr_of_aligned (h : (s.rs a + w64 (4 * o.toInt)).toNat % 4 = 0) :
    execJalr d a o s = .next (s.jump ((s.rs a + w64 (4 * o.toInt)).toNat : Int) fun u => u.ws d u.linkAddr) := by
  simp only [execJalr, h, ne_eq, not_true_eq_false, if_false]
/-- A target that is no word of instruction memory, by its place or by its alignment, faults (R91). -/
theorem execJalr_of_bad_target (h : 0xFFFC < (s.rs a + w64 (4 * o.toInt)).toNat ∨ (s.rs a + w64 (4 * o.toInt)).toNat % 4 ≠ 0) :
    execJalr d a o s = .next (s.raise { code := .align, a := s.rs a + w64 (4 * o.toInt) }) := by
  by_cases hal : (s.rs a + w64 (4 * o.toInt)).toNat % 4 = 0
  · rw [execJalr_of_aligned hal, State.jump_of_not_inMem (by omega), BitVec.ofInt_natCast, ← nat64, nat64_toNat]
  · simp only [execJalr, hal, ne_eq, not_false_eq_true, if_true]
    rfl

end Jalr

/-- Settles O3, by the two cases of a jump's target. -/
theorem transfersGoWhereTheRulesSay : Obligations.TransfersGoWhereTheRulesSay := by
  intro s c d a b e i o x y pc link inMem holds bad T
  have hholds : BCond.holds c x y = true ↔ holds := by cases c <;> exact decide_eq_true_iff
  refine ⟨fun h => ?notTaken, fun h hin => ?taken, fun h hout => ?takenOutside, fun hin => ?jumps, fun hout => ?jumpsOutside,
    fun hle hal => ?jalr, fun hT => answers_exec (execJalr_of_bad_target hT) rfl⟩
  case notTaken => exact answers_exec (execB_of_not_holds e (hholds.not.2 h)) rfl
  case taken => exact answers_exec (execB_of_holds e (hholds.2 h)) (State.jump_of_inMem hin)
  case takenOutside => exact answers_exec (execB_of_holds e (hholds.2 h)) (State.jump_of_not_inMem hout)
  case jumps =>
    exact ⟨answers_exec rfl (State.jump_of_inMem hin), answers_exec rfl ⟨s.ws 61 link, writes_ws s 61 link, State.jump_of_inMem hin⟩⟩
  case jumpsOutside =>
    exact ⟨answers_exec rfl (State.jump_of_not_inMem hout), answers_exec rfl (State.jump_of_not_inMem hout)⟩
  case jalr =>
    have hin : 0 ≤ (T.toNat : Int) ∧ (T.toNat : Int) ≤ 0xFFFC := by omega
    exact answers_exec (execJalr_of_aligned hal) ⟨s.ws d link, writes_ws s d link, State.jump_of_inMem hin⟩

end Machine
end Sys2Proof
end

section
/-! The typed lane arithmetic (R98, R101 to R104) on registers that no stream is bound to. -/

namespace Sys2Proof
namespace Machine

/-! ## What an operation gives a lane -/

section Lanes
variable (t : VType) (x y z : Word)

/-- Two results of a lane are the same as far as the width of its type goes, with the same flags. -/
def SameLane (p q : Word × Bits6) : Prop := laneWords t.wide p.1 = laneWords t.wide q.1 ∧ p.2 = q.2

theorem laneWords_ofInt_laneInt : laneWords t.wide (BitVec.ofInt 64 (laneInt t x)) = laneWords t.wide x := by
  rw [← laneWords_laneOf, laneOf, laneInt_emod, ← laneOf.eq_def, laneWords_laneOf_toNat]

/-- An integer lane takes the lesser or the greater of two words as a whole. -/
theorem laneWords_minMax_of_isF_eq_false {t : VType} (h : t.isF = false) (x y : Word) :
    laneWords t.wide (minMax t false x y).1 = laneWords t.wide (BitVec.ofInt 64 (min (laneInt t x) (laneInt t y))) ∧
    laneWords t.wide (minMax t true x y).1 = laneWords t.wide (BitVec.ofInt 64 (max (laneInt t x) (laneInt t y))) := by
  simp only [minMax, tyFmt_of_isF h]
  rcases le_or_gt (laneInt t x) (laneInt t y) with hle | hgt
  · simp [hle, laneWords_ofInt_laneInt]
  · simp [hgt.not_ge, hgt.le, laneWords_ofInt_laneInt]
theorem sameLane_minMax_min : SameLane t (minMax t false x y)
    (byType t (fun f => (f.minmaxB false x.toNat y.toNat, 0)) (min (laneInt t x) (laneInt t y))) := by
  cases t with
  | f32 | f64 => exact ⟨rfl, rfl⟩
  | i32 | n32 | i64 | n64 => exact ⟨(laneWords_minMax_of_isF_eq_false rfl x y).1, rfl⟩
theorem sameLane_minMax_max : SameLane t (minMax t true x y)
    (byType t (fun f => (f.minmaxB true x.toNat y.toNat, 0)) (max (laneInt t x) (laneInt t y))) := by
  cases t with
  | f32 | f64 => exact ⟨rfl, rfl⟩
  | i32 | n32 | i64 | n64 => exact ⟨(laneWords_minMax_of_isF_eq_false rfl x y).2, rfl⟩
theorem sameLane_divLane_of_isF_eq_false (rm : Rm) (h : t.isF = false) : SameLane t (divLane t rm x y)
    (if laneInt t y = 0 then (BitVec.allOnes 64, fDZ) else (BitVec.ofInt 64 ((laneInt t x).tdiv (laneInt t y)), 0)) := by
  rw [divLane, tyFmt_of_isF h]
  by_cases hzero : laneInt t y = 0
  · simp only [hzero, if_true]
    exact ⟨laneWords_laneOf t (-1), rfl⟩
  · simp only [hzero, if_false]
    exact ⟨laneWords_laneOf t _, rfl⟩
/-- A division of integers by zero gives all ones, and DZ (R104). -/
theorem sameLane_divLane (rm : Rm) : SameLane t (divLane t rm x y)
    (if t.isF = false ∧ laneInt t y = 0 then (BitVec.allOnes 64, fDZ)
      else byType t (fun f => f.divB rm x.toNat y.toNat) ((laneInt t x).tdiv (laneInt t y))) := by
  cases t with
  | f32 | f64 => exact ⟨rfl, rfl⟩
  | i32 | n32 | i64 | n64 => simpa only [VType.isF, byType, true_and] using sameLane_divLane_of_isF_eq_false _ x y rm rfl
theorem sameLane_absLane : SameLane t (absLane t x)
    (byType t (fun f => (if (f.read x.toNat).isNaN then f.nan else x.toNat % f.signBit, 0)) (laneInt t x).natAbs) := by
  cases t with
  | f32 | f64 => exact ⟨congrArg (laneWords _) (apply_ite (BitVec.ofNat 64) ..).symm, rfl⟩
  | i32 | n32 | i64 | n64 => exact ⟨laneWords_laneOf _ _, rfl⟩
theorem sameLane_negLane : SameLane t (negLane t x)
    (byType t (fun f => (if (f.read x.toNat).isNaN then f.nan else f.negB x.toNat, 0)) (-laneInt t x)) := by
  cases t with
  | f32 | f64 => exact ⟨congrArg (laneWords _) (apply_ite (BitVec.ofNat 64) ..).symm, rfl⟩
  | i32 | n32 | i64 | n64 => exact ⟨laneWords_laneOf _ _, rfl⟩
/-- The lane of a fused operation, whose type is an F type (R101). -/
theorem sameLane_fmaB (rm : Rm) (np nd : Bool) (h : t.isF = true) :
    SameLane t (match tyFmt t with | some f => natRes (f.fmaB rm np nd x.toNat y.toNat z.toNat) | none => (z, fNone))
      (byType t (fun f => f.fmaB rm np nd x.toNat y.toNat z.toNat) 0) := by
  cases t with
  | f32 | f64 => exact ⟨rfl, rfl⟩
  | i32 | n32 | i64 | n64 => exact absurd h Bool.false_ne_true
theorem sameLane_mulh : SameLane t (laneOf t (laneInt t x * laneInt t y / 2 ^ tyBits t), fNone)
    (BitVec.ofInt 64 (laneInt t x * laneInt t y / 2 ^ (if t.wide then 64 else 32)), 0) := ⟨laneWords_laneOf _ _, rfl⟩

end Lanes

/-! ## The words by their moulds -/

section Moulds
variable {s : State} {t : VType} {d a b : BitVec 5} {i : Instr}

/-- A word of one or two sources whose lanes are known as far as their width goes. -/
theorem answers_vop {srcs : List (BitVec 5)} {dRead : Bool} {f : Word → Word → Word → Word × Bits6} {g : Nat → Word × Bits6}
    (h : s.unboundV (vregs t.wide d ++ srcs.flatMap (vregs t.wide)) = true)
    (hexec : exec i s = .next (s.vop t.wide t.wide d srcs dRead fun _ x y z => f x y z))
    (hfg : ∀ l, SameLane t (f (s.srcLane t.wide l srcs) (s.srcLane t.wide l srcs.tail) (s.lane t.wide d l)) (g l)) :
    Answers i s (LaneWrites s · t.wide d g) :=
  answers_exec hexec ((laneWrites_vop h fun _ _ => rfl).congr hfg)

end Moulds

/-- Settles O8, by what each operation gives a lane of its type. -/
theorem vectorArithmeticWritesLanesUnderTheMask : Obligations.VectorArithmeticWritesLanesUnderTheMask := by
  intro s t d a b h A B D n m k i j is
  have htwo : s.unboundV (vregs t.wide d ++ [a, b].flatMap (vregs t.wide)) = true := by simpa [List.append_assoc] using h
  have hone : s.unboundV (vregs t.wide d ++ [a].flatMap (vregs t.wide)) = true := by
    simpa using State.unboundV_of_subset h (List.subset_append_left ..)
  refine ⟨?vadd, ?vsub, ?vmul, ?vmin, ?vmax, fun hF => ⟨?vfma, ?vfms, ?vnfma⟩, fun _ => ?vdiv, fun _ => ?vmulh, fun _ => ⟨?vabs, ?vneg⟩⟩
  case vadd => exact answers_vadd h
  case vsub => exact answers_vop htwo rfl fun l => laneWords_arith t (fun f x y => f.subB s.rm x y) (· - ·) (A l) (B l)
  case vmul => exact answers_vop htwo rfl fun l => laneWords_arith t (fun f x y => f.mulB s.rm x y) (· * ·) (A l) (B l)
  case vmin => exact answers_vop htwo rfl fun l => sameLane_minMax_min t (A l) (B l)
  case vmax => exact answers_vop htwo rfl fun l => sameLane_minMax_max t (A l) (B l)
  case vfma => exact answers_vop htwo rfl fun l => sameLane_fmaB t (A l) (B l) (D l) s.rm false false hF
  case vfms => exact answers_vop htwo rfl fun l => sameLane_fmaB t (A l) (B l) (D l) s.rm false true hF
  case vnfma => exact answers_vop htwo rfl fun l => sameLane_fmaB t (A l) (B l) (D l) s.rm true false hF
  case vdiv => exact answers_vop htwo rfl fun l => sameLane_divLane t (A l) (B l) s.rm
  case vmulh => exact answers_vop htwo rfl fun l => sameLane_mulh t (A l) (B l)
  case vabs => exact answers_vop hone rfl fun l => sameLane_absLane t (A l)
  case vneg => exact answers_vop hone rfl fun l => sameLane_negLane t (A l)

end Machine
end Sys2Proof
end

section
/-! Comparisons and the mask registers (R103, R108). -/

namespace Sys2Proof
namespace Machine

/-! ## Bits of a mask -/

theorem testBit_toNat_add_two_mul (b : Bool) (n i : Nat) : (b.toNat + 2 * n).testBit i = if i = 0 then b else n.testBit (i - 1) := by
  cases i with
  | zero => cases b <;> simp [Nat.testBit_zero]
  | succ i =>
    have hhalf : (b.toNat + 2 * n) / 2 = n := by
      have := b.toNat_lt
      omega
    rw [Nat.testBit_succ, hhalf, if_neg i.succ_ne_zero, Nat.add_sub_cancel]
theorem testBit_foldr_toNat (l : List Bool) (i : Nat) :
    (l.foldr (fun (b : Bool) n => b.toNat + 2 * n) 0).testBit i = l.getD i false := by
  induction l generalizing i with
  | nil => simp
  | cons b l ih =>
    rw [List.foldr_cons, testBit_toNat_add_two_mul]
    cases i with
    | zero => rfl
    | succ i => exact ih i
theorem getLsbD_maskOf (l : List Bool) {i : Nat} (hi : i < 64) : (maskOf l).getLsbD i = l.getD i false := by
  rw [maskOf, nat64, BitVec.getLsbD_ofNat, testBit_foldr_toNat, decide_eq_true hi, Bool.true_and]

/-- The lowest bit that is set, or 64 where none is. -/
theorem lowestSet_spec (w : Word) : lowestSet w ≤ 64 ∧ (∀ i, i < lowestSet w → w.getLsbD i = false) ∧
    (lowestSet w < 64 → w.getLsbD (lowestSet w) = true) := by
  unfold lowestSet firstOf
  cases h : (List.range 64).find? fun i => w.getLsbD i with
  | none =>
    rw [List.find?_range_eq_none] at h
    exact ⟨le_rfl, fun i hi => by simpa using h i hi, fun hlt => absurd hlt (lt_irrefl _)⟩
  | some n =>
    obtain ⟨hset, hlt, hbelow⟩ := List.find?_range_eq_some.1 h
    exact ⟨(List.mem_range.1 hlt).le, fun i hi => by simpa using hbelow i hi, fun _ => hset⟩

/-! ## Writing a mask register -/

section Masks
variable (s : State)

theorem writesP_wp (p : BitVec 3) (m : Word) : WritesP s (s.wp p m) p m := by
  have hme : (s.wp p m).me = { s.me with p := AMap.set s.me.p p.toNat m } := s.me_updMe _
  refine ⟨onlyMe_updMe s _, by rw [hme], ?_, fun q hq => ?_⟩
  · rw [hme]
    exact AMap.get_set_same ..
  · rw [hme]
    exact AMap.get_set_ne _ _ _ hq.symm
theorem State.updMe_updMe (f g : Ctx → Ctx) : (s.updMe f).updMe g = s.updMe fun k => g (f k) :=
  State.updCtx_updCtx s s.cur.core s.cur.ctx f g
theorem State.raiseFlags_fNone : s.raiseFlags fNone = s.updMe id := by
  have hor : ∀ f : Bits6, f ||| fNone = f := fun f => BitVec.or_zero
  simp only [State.raiseFlags, hor]
  rfl

/-- What a comparison gives the lanes of two operands, under the active mask (R103). -/
def State.cmpMask (c : VCond) (t : VType) (a b : BitVec 5) : Word :=
  maskOf (((s.val t.wide a).zip (s.val t.wide b)).map fun e => cmpLane c t e.1 e.2) &&& s.src.amask

theorem getLsbD_cmpMask (c : VCond) (t : VType) (a b : BitVec 5) {l : Nat} (hl : l < 64) : (s.cmpMask c t a b).getLsbD l =
    (cmpLane c t (s.lane t.wide a l) (s.lane t.wide b l) && s.src.amask.getLsbD l) := by
  have hA := length_val s t.wide a
  have hB := length_val s t.wide b
  rw [State.cmpMask, BitVec.getLsbD_and, getLsbD_maskOf _ hl, ← getD_val s t.wide a l hl, ← getD_val s t.wide b l hl]
  simp [hA, hB, hl]

variable {s}

theorem exec_vcmp {c : VCond} {t : VType} {a b : BitVec 5} (p : BitVec 3)
    (h : s.unboundV (vregs t.wide a ++ vregs t.wide b) = true) : exec (.vcmp c t p a b) s = .next (s.wp p (s.cmpMask c t a b)) := by
  refine congrArg Host.Outcome.next ?_
  rw [State.aWord_unbound s _ _ _ (fun v hv => State.unboundV_src h hv) (by simp) (by simp)]
  calc (s.raiseFlags fNone).wp p (s.cmpMask c t a b)
      = (s.updMe id).wp p (s.cmpMask c t a b) := by rw [State.raiseFlags_fNone]
    _ = s.wp p (s.cmpMask c t a b) := s.updMe_updMe id _

end Masks

/-! ## The word of ANOP -/

theorem wI23_append (w : BitVec 23) : wI23 (5#3 ++ 0x2F#6 ++ w) = w := by
  rw [wI23]
  simp (disch := omega) only [BitVec.extractLsb'_append_eq_of_add_le]
  exact BitVec.extractLsb'_eq_self
theorem wI23_word_of_anop : ∀ l s : BitVec 1, wI23 (fRRR l s 1 0x2F 0 0 0 0) = 0 := by decide

/-- Settles O11, by the bits of the masks that the words make. -/
theorem comparisonsAndMasks : Obligations.ComparisonsAndMasks := by
  intro s c t p q r d a b
  refine ⟨fun h => ?vcmp, ?pand, ?por, ?pxor, ?pnot, fun h => ⟨?pcnt, ?pfirst⟩, ?pmask, answers_exec rfl rfl, fun w hw hdec => ?anop⟩
  case vcmp =>
    refine ⟨s.cmpMask c t a b, answers_exec (exec_vcmp p h) (writesP_wp ..), fun l hl => ?_⟩
    rw [getLsbD_cmpMask s c t a b hl, Bool.and_eq_true, and_comm]
  case pand => exact answers_exec rfl (writesP_wp ..)
  case por => exact answers_exec rfl (writesP_wp ..)
  case pxor => exact answers_exec rfl (writesP_wp ..)
  case pnot => exact answers_exec rfl (writesP_wp ..)
  case pcnt =>
    have hcard := length_filter_range_eq_card 64 fun i => (s.src.pr q.toNat).getLsbD i
    exact answers_exec rfl (laneWrites_vop (srcs := []) h fun _ _ => congrArg (fun n => (BitVec.ofNat 64 n, 0)) hcard)
  case pfirst =>
    obtain ⟨hle, hbelow, hset⟩ := lowestSet_spec (s.src.pr q.toNat)
    exact ⟨_, hle, hbelow, hset, answers_exec rfl (laneWrites_vop (srcs := []) h fun _ _ => rfl)⟩
  case pmask => exact answers_exec rfl ⟨onlyMe_updMe s _, s.me_updMe _⟩
  case anop =>
    obtain ⟨-, -, henc⟩ := everyDecodedWordIsItsInstructionsEncoding _ _ hdec
    rw [encodeWith] at henc
    exact hw ((wI23_append w).symm.trans ((congrArg wI23 (Option.some.inj henc)).symm.trans (wI23_word_of_anop _ _)))

end Machine
end Sys2Proof
end

section
/-! Transfers between lanes, and between lanes and scalar registers (R106, R109). -/

namespace Sys2Proof
namespace Machine

/-! ## Lanes written without flags -/

theorem mapLanes_snd_eq_zero (M : Word) (F : Nat → Word → Word → Word → Word) {n : Nat} (i : Nat) {A B D : List Word}
    (hA : A.length = n) (hB : B.length = n) (hD : D.length = n) : (mapLanes M (fun l x y z => (F l x y z, fNone)) i A B D).2 = 0 := by
  obtain ⟨-, -, hflags⟩ := mapLanes_spec M (fun l x y z => (F l x y z, fNone)) n i A B D hA hB hD
  refine BitVec.eq_of_getLsbD_eq fun b _ => ?_
  have hclear : (mapLanes M (fun l x y z => (F l x y z, fNone)) i A B D).2.getLsbD b ≠ true := by
    intro hb
    obtain ⟨l, -, -, hl⟩ := (hflags b).1 hb
    exact absurd hl (by simp [fNone])
  rw [Bool.eq_false_iff.2 hclear]
  exact BitVec.getLsbD_zero.symm

section Transfers
variable {s : State} {v a b : BitVec 5} {d x y : BitVec 6}

/-- The state with the lanes of one v register written under the mask, and no flag raised. -/
def State.putLanesQuietly (s : State) (v : BitVec 5) (F : Nat → Word → Word) (A : List Word) : State :=
  (s.putRegs [(v.toNat, (splitLanes false
    (mapLanes s.src.amask (fun l x _ _ => (F l x, fNone)) 0 A A (s.val false v)).1).headD [])]).raiseFlags fNone
theorem laneWrites_putLanesQuietly {F : Nat → Word → Word} {A : List Word} {g : Nat → Word} (hA : A.length = 64)
    (hg : ∀ l, l < 64 → F l (A.getD l 0) = g l) : LaneWrites s (s.putLanesQuietly v F A) false v fun l => (g l, 0) := by
  have hw := laneWrites_of s false v (fun l x _ _ => (F l x, fNone)) A A hA hA (fun l => (g l, 0)) fun l hl => by rw [hg l hl]; rfl
  simp only [mapLanes_snd_eq_zero s.src.amask (fun l x _ _ => F l x) 0 hA hA (length_val s false v)] at hw
  exact hw

/-- Every lane of va is a source, whatever the mask (R106). -/
theorem exec_vperm (h : s.unboundV [v.toNat, a.toNat, b.toNat] = true) : exec (.vperm v a b) s = .next
    (s.putLanesQuietly v (fun _ x => ((s.src.vr a.toNat).getD (x.toNat % 64) 0).setWidth 64) (s.val false b)) := by
  have hnone : ∀ w ∈ [v.toNat, a.toNat, b.toNat], AMap.find s.src.streams w = none := fun w hw => State.unboundV_src h hw
  exact congrArg Host.Outcome.next (State.aWord_unbound s _ _ _ (fun w hw => hnone w (List.mem_cons_of_mem _ hw))
    (fun w hw => hnone w (by simp_all)) fun e he => hnone _ (by simp_all))
theorem answers_vperm (h : s.unboundV [v.toNat, a.toNat, b.toNat] = true) : Answers (.vperm v a b) s
    (LaneWrites s · false v fun l => (s.lane false a ((s.lane false b l).toNat % 64), 0)) := by
  refine answers_exec (exec_vperm h) (laneWrites_putLanesQuietly (length_val ..) fun l hl => ?_)
  rw [getD_val s false b l hl]
  rfl

/-! ## Transfers that take no mask -/

theorem writesV_wv (s : State) (v : BitVec 5) {l : List Word32} {f : Nat → Word32} (hf : ∀ i, i < 64 → l.getD i 0 = f i) :
    WritesV s (s.updMe fun k => k.wv v.toNat l) v f := by
  have hme := s.me_updMe fun k => k.wv v.toNat l
  refine ⟨onlyMe_updMe s _, by rw [hme]; rfl, fun i hi => ?_, fun w hw => ?_⟩
  · rw [hme, vr_wv, if_pos rfl, getD_lanes64 _ i hi, hf i hi]
  · rw [hme, vr_wv, if_neg hw.symm]
theorem getD_replicate_lane (z : Word32) {i : Nat} (hi : i < 64) : (List.replicate 64 z).getD i 0 = z := by
  rw [List.getD_eq_getElem _ _ (by rwa [List.length_replicate]), List.getElem_replicate]
theorem getD_set_lane {l : List Word32} (hl : l.length = 64) (n : Nat) (z : Word32) {i : Nat} (hi : i < 64) :
    (l.set n z).getD i 0 = if i = n then z else l.getD i 0 := by
  rw [List.getD_eq_getElem _ _ (by rwa [List.length_set, hl]), List.getD_eq_getElem _ _ (by rwa [hl]), List.getElem_set]
  simp only [eq_comm]

section Unbound
variable (h : AMap.find s.src.streams v.toNat = none)
include h

theorem State.unbound_of_none (k : State) : s.unbound v k = k := by rw [State.unbound, h]
theorem answers_vbcast : Answers (.vbcast v x) s (WritesV s · v fun _ => (s.rs x).setWidth 32) :=
  answers_exec (congrArg Host.Outcome.next (State.unbound_of_none h _)) (writesV_wv s v fun _ hi => getD_replicate_lane _ hi)
theorem answers_vext : Answers (.vext d v y) s
    (Writes s · d (((s.src.vr v.toNat).getD ((s.rs y).toNat % 64) 0).setWidth 64)) :=
  answers_exec (congrArg Host.Outcome.next (State.unbound_of_none h _)) (writes_ws s d _)
theorem answers_vins : Answers (.vins v x y) s
    (WritesV s · v fun l => if l = (s.rs y).toNat % 64 then (s.rs x).setWidth 32 else (s.src.vr v.toNat).getD l 0) :=
  answers_exec (congrArg Host.Outcome.next (State.unbound_of_none h _)) (writesV_wv s v fun _ hi => getD_set_lane (length_vr ..) _ _ hi)

end Unbound

theorem State.unbound_of_some {t : Stream} (h : AMap.find s.src.streams v.toNat = some t) (k : State) : s.unbound v k =
    s.raise { code := .stream, obj := BitVec.ofNat 64 v.toNat, a := 4, b := BitVec.ofNat 64 t.pos } := by
  rw [State.unbound, h]
  rfl

end Transfers

/-- Settles O12, by the register that the words name: bound to a stream, free, or above v31. -/
theorem laneTransfers : Obligations.LaneTransfers := by
  intro s v a b d x y
  refine ⟨answers_vperm, fun h => ⟨answers_vbcast h, answers_vext h, answers_vins h⟩, fun t h => ?bound, fun hd => ?above⟩
  case bound =>
    have hbad := State.unbound_of_some h
    exact ⟨answers_exec rfl (hbad _), answers_exec rfl (hbad _), answers_exec rfl (hbad _)⟩
  case above =>
    have hult : d.ult 32#6 = false := by simpa [BitVec.ult] using hd
    simp [decodeWord, decodeC, need, hult]

end Machine
end Sys2Proof
end

section
/-! Draws (R117 to R123): the ordinals of the lanes, the scalar stream, and the table. -/

namespace Sys2Proof
namespace Machine

/-! ## A fault of an operand that no service takes -/

/-- A fault that is neither of translation nor of permission is taken as it is (R332, R334). -/
theorem State.suffer_fault (s : State) {f : Flt} (hx : f.code ≠ .xlate) (hp : f.code ≠ .perm) : s.suffer (.fault f) = s.raise f := by
  simp [State.suffer, State.xlateFault, State.serviced, State.logViolation, hx, hp]

/-! ## The ordinals of the lanes -/

section Files
variable {α : Type} (d : α)

/-- A file whose listed entries are updated where a test lets them. -/
theorem AMap.get_foldl_upd_range (f : α → α) (M : Nat → Bool) (m : AMap α) (n l : Nat) :
    AMap.get d ((List.range n).foldl (fun m l => if M l then AMap.upd d m l f else m) m) l =
      if l < n ∧ M l then f (AMap.get d m l) else AMap.get d m l := by
  induction n with
  | zero => simp
  | succ n ih =>
    rw [List.range_succ, List.foldl_append, List.foldl_cons, List.foldl_nil]
    by_cases hl : n = l
    · subst hl
      split
      · next hM => rw [AMap.get_upd, if_pos rfl, ih]; simp [hM]
      · next hM => rw [ih]; simp [hM]
    · have hlt : l < n + 1 ↔ l < n := by omega
      split
      · rw [AMap.get_upd, if_neg hl, ih]; simp only [hlt]
      · rw [ih]; simp only [hlt]
theorem AMap.get_map_of_mem (o : α) {L : List Nat} {k : Nat} (h : k ∈ L) : AMap.get d (L.map fun l => (l, o)) k = o := by
  induction L with
  | nil => exact absurd h List.not_mem_nil
  | cons j L ih =>
    rw [List.map_cons, AMap.get]
    split
    · rfl
    · next hjk => exact ih ((List.mem_cons.1 h).resolve_left (Ne.symm hjk))

end Files

section Ordinals
variable (s : State)

/-- An update of the issuing core that keeps its contexts keeps the issuing one. -/
theorem State.me_updCore {f : Core → Core} (h : (f s.myCore).ctxs = s.myCore.ctxs) : (s.updCore s.cur.core f).me = s.me := by
  change ((s.updCore s.cur.core f).core s.cur.core).ctx s.cur.ctx = s.myCore.ctx s.cur.ctx
  rw [State.core_updCore_same, Core.ctx, Core.ctx]
  exact congrArg (AMap.get _ · _) h

theorem State.lord_advanceLanes (M : Word) (l : Nat) (hl : l < 64) :
    AMap.get 0 (s.advanceLanes M).myCore.lord l = AMap.get 0 s.myCore.lord l + if M.getLsbD l then 1 else 0 := by
  have hcore : (s.advanceLanes M).myCore = { s.myCore with
      lord := (List.range 64).foldl (fun m l => if M.getLsbD l then AMap.upd 0 m l (· + 1) else m) s.myCore.lord } :=
    State.core_updCore_same ..
  rw [hcore, AMap.get_foldl_upd_range 0 (· + 1) fun l => M.getLsbD l]
  split <;> simp_all

end Ordinals

section Lanes
variable {s : State} {d : BitVec 5} {i : Instr} {f : Word32 → Word32}

theorem answers_draws (h : s.unboundV [d.toNat] = true) (hexec : exec i s = .next (s.draws d f)) :
    Answers i s fun t => ∃ u, LaneWrites s u false d (fun l => ((f (s.laneDraw l)).setWidth 64, 0)) ∧
      OnlyCore u t s.cur.core ∧ t.me = u.me ∧ ∀ l, l < 64 → AMap.get 0 t.myCore.lord l =
        AMap.get 0 s.myCore.lord l + (if s.src.amask.getLsbD l then 1 else 0) := by
  have hnone : ∀ w ∈ [d.toNat], AMap.find s.src.streams w = none := fun w hw => State.unboundV_src h hw
  have hdraws : s.draws d f =
      (s.putLanesQuietly d (fun l _ => (f (s.laneDraw l)).setWidth 64) (s.val false d)).advanceLanes s.src.amask :=
    State.aWord_unbound s _ _ _ (by simp) hnone fun e he => hnone _ (by simp_all)
  rw [hdraws] at hexec
  have hw : LaneWrites s _ false d (fun l => ((f (s.laneDraw l)).setWidth 64, 0)) :=
    laneWrites_putLanesQuietly (s := s) (v := d) (F := fun l _ => (f (s.laneDraw l)).setWidth 64) (length_val s false d) fun _ _ => rfl
  generalize s.putLanesQuietly d (fun l _ => (f (s.laneDraw l)).setWidth 64) (s.val false d) = u at hexec hw
  have ⟨_, _, _, _, hcur, hcore, _⟩ := hw
  have hc : u.cur.core = s.cur.core := by rw [hcur]
  refine answers_exec hexec ⟨u, hw, ?_, State.me_updCore u rfl, fun l hl => ?_⟩
  · rw [← hc]
    exact onlyCore_updCore ..
  · rw [State.lord_advanceLanes u _ l hl, hcore]

/-! ## RKEY -/

theorem answers_rkey (s : State) (a b : BitVec 6) : Answers (.rkey a b) s fun t => OnlyCore s t s.cur.core ∧
    t.me = { s.me with rkey0 := (s.rs a).setWidth 32, rkey1 := ((s.rs a) >>> 32).setWidth 32 } ∧
    ∀ l, l < 64 → AMap.get 0 t.myCore.lord l = (s.rs b).setWidth 46 := by
  let u := s.updMe fun k => { k with rkey0 := (s.rs a).setWidth 32, rkey1 := ((s.rs a) >>> 32).setWidth 32 }
  refine answers_exec rfl ⟨(onlyMe_updMe s _).1.trans (onlyCore_updCore u s.cur.core _), (State.me_updCore u rfl).trans (s.me_updMe _),
    fun l hl => ?_⟩
  have hlord : (u.updCore s.cur.core fun k => { k with lord := (List.range 64).map fun l => (l, (s.rs b).setWidth 46) }).myCore.lord =
    (List.range 64).map fun l => (l, (s.rs b).setWidth 46) := congrArg Core.lord (State.core_updCore_same u s.cur.core _)
  exact (congrArg (AMap.get 0 · l) hlord).trans (AMap.get_map_of_mem 0 _ (List.mem_range.2 hl))

/-! ## RDRAW -/

section Rdraw
variable {r : BitVec 6}

theorem exec_rdraw_of_word {w : Word32} (h : s.scalarDraw true = .ok w) :
    exec (.rdraw r) s = .next ((s.ws r (w.setWidth 64)).updMe fun k => { k with rord := k.rord + 1 }) := by
  change execRdraw r s = _
  rw [execRdraw, h]
theorem exec_rdraw_of_error {f : Fate} (h : s.scalarDraw true = .error f) : exec (.rdraw r) s = .next (s.suffer f) := by
  change execRdraw r s = _
  rw [execRdraw, h]
theorem State.me_ws_rord (s : State) (r : BitVec 6) (v : Word) : (s.ws r v).me.rord = s.me.rord := by
  rw [State.ws, State.me_updMe, Ctx.ws]
  split <;> rfl
/-- A draw is written and the ordinal moves on (R123). -/
theorem answers_rdraw_of_word {w : Word32} {v : Word} (h : s.scalarDraw true = .ok w) (hv : w.setWidth 64 = v) :
    Answers (.rdraw r) s fun t => ∃ u, Writes s u r v ∧ OnlyMe u t ∧ t.me = { u.me with rord := s.me.rord + 1 } := by
  subst hv
  refine answers_exec (exec_rdraw_of_word h) ⟨_, writes_ws s r _, onlyMe_updMe _ _, ?_⟩
  rw [State.me_updMe, State.me_ws_rord]

section Table
variable {base n : Word} (htab : s.src.rtab = some (base, n))
include htab

theorem State.scalarDraw_of_end (hn : n.toNat ≤ s.src.rord.toNat) :
    s.scalarDraw true = .error (.fault (flt .tabend base (nat64 s.src.rord.toNat) n)) := by
  simp only [State.scalarDraw, State.drawAt, htab, if_pos hn]
variable (hn : s.src.rord.toNat < n.toNat) (hatoms : s.ownAtoms (offOf base + 4 * s.src.rord.toNat) 4 = [])
include hn hatoms
theorem State.scalarDraw_of_marked {h : Nat} (hmarked : s.myCore.marked (offOf base + 4 * s.src.rord.toNat) 4 = some h) :
    s.scalarDraw true = .error (.stall (.watermark h s.wmStart (localAddr (offOf base + 4 * s.src.rord.toNat)))) := by
  simp only [State.scalarDraw, State.drawAt, htab, if_neg hn.not_ge, hatoms, ne_eq, not_true_eq_false, if_false, hmarked]
theorem State.scalarDraw_of_readable (hmarked : s.myCore.marked (offOf base + 4 * s.src.rord.toNat) 4 = none)
    (hbad : s.badIn s.cur.core (offOf base + 4 * s.src.rord.toNat) 4 = none) :
    s.scalarDraw true = .ok (BitVec.ofNat 32 (s.myCore.num (offOf base + 4 * s.src.rord.toNat) 4)) := by
  simp only [State.scalarDraw, State.drawAt, htab, if_neg hn.not_ge, hatoms, ne_eq, not_true_eq_false, if_false, hmarked,
    State.readLocal, hbad]
  rfl

end Table

theorem ofBytes_lt (bs : List Byte) : ofBytes bs < 256 ^ bs.length := by
  induction bs with
  | nil => exact Nat.one_pos
  | cons b r ih =>
    have hb := b.isLt
    rw [ofBytes, List.length_cons, Nat.pow_succ]
    omega
theorem Core.setWidth_num4 (k : Core) (off : Nat) : (BitVec.ofNat 32 (k.num off 4)).setWidth 64 = BitVec.ofNat 64 (k.num off 4) := by
  have hlt : k.num off 4 < 2 ^ 32 := (ofBytes_lt _).trans_eq (by rw [Core.length_bytes]; rfl)
  apply BitVec.eq_of_toNat_eq
  simp only [BitVec.toNat_setWidth, BitVec.toNat_ofNat]
  omega

end Rdraw

/-! ## RTAB -/

section Rtab
variable {a b : BitVec 6}

theorem answers_rtab_none (h : s.rs b = 0) : Answers (.rtab a b) s fun t => OnlyMe s t ∧ t.me = { s.me with rtab := none } :=
  answers_exec (congrArg Host.Outcome.next (if_pos h)) ⟨onlyMe_updMe .., s.me_updMe _⟩
variable (h : s.rs b ≠ 0)
include h
theorem exec_rtab_of_misaligned (hal : (s.rs a).toNat % 4 ≠ 0) :
    exec (.rtab a b) s = .next (s.raise { code := .align, a := s.rs a }) :=
  congrArg Host.Outcome.next ((if_neg h).trans (if_pos hal))
variable (hal : (s.rs a).toNat % 4 = 0)
include hal
theorem exec_rtab_of_outside (hin : inScratch s.myCore (s.rs a) (4 * (s.rs b).toNat) = false) :
    exec (.rtab a b) s = .next (s.raise { code := .pool, a := s.rs a }) := by
  have hout : (!inScratch s.myCore (s.rs a) (4 * (s.rs b).toNat)) = true := by rw [hin]; rfl
  exact congrArg Host.Outcome.next ((if_neg h).trans ((if_neg (not_not.2 hal)).trans (if_pos hout)))
theorem answers_rtab_some (hin : inScratch s.myCore (s.rs a) (4 * (s.rs b).toNat) = true) :
    Answers (.rtab a b) s fun t => OnlyMe s t ∧ t.me = { s.me with rtab := some (s.rs a, s.rs b) } := by
  have hnin : ¬(!inScratch s.myCore (s.rs a) (4 * (s.rs b).toNat)) = true := by rw [hin]; exact Bool.false_ne_true
  exact answers_exec (congrArg Host.Outcome.next ((if_neg h).trans ((if_neg (not_not.2 hal)).trans (if_neg hnin))))
    ⟨onlyMe_updMe .., s.me_updMe _⟩

end Rtab

end Lanes

/-- Settles O13, by the source of each draw and the ordinal that it takes. -/
theorem drawsAdvanceTheirOrdinals : Obligations.DrawsAdvanceTheirOrdinals := by
  intro s d a b r c k
  refine ⟨answers_rkey s a b, fun h => ⟨?vrndu, ?vrnd⟩, fun htab => ?drawn, fun base n htab hn => ?tabend,
    fun base n htab hn => ⟨fun w hatoms hmarked => ?marked, fun hatoms hmarked hbad => ?table⟩, answers_rtab_none,
    answers_rtab_some, fun h hal => answers_exec (exec_rtab_of_misaligned h hal) rfl,
    fun h hal hin => answers_exec (exec_rtab_of_outside h hal hin) rfl⟩
  case vrndu => exact answers_draws (f := id) h rfl
  case vrnd => exact answers_draws (f := uniform) h rfl
  case drawn =>
    have hdraw : s.scalarDraw true = .ok (uniform (chervil k.rkey0 k.rkey1 s.scalarSigma k.rord.toNat)) := by
      simp only [State.scalarDraw, State.drawAt, show s.src.rtab = none from htab]
      rfl
    exact answers_rdraw_of_word hdraw rfl
  case tabend =>
    exact answers_exec (exec_rdraw_of_error (State.scalarDraw_of_end htab hn)) (s.suffer_fault nofun nofun)
  case marked => exact answers_exec (exec_rdraw_of_error (State.scalarDraw_of_marked htab hn hatoms hmarked)) rfl
  case table => exact answers_rdraw_of_word (State.scalarDraw_of_readable htab hn hatoms hmarked hbad) (Core.setWidth_num4 ..)

end Machine
end Sys2Proof
end

section
/-! A-class words whose registers are bound to streams (R97, R98, R112): which way each register is bound, and what `VMOV` moves. -/

namespace Sys2Proof
namespace Machine

/-! ## The registers of `VMOV` -/

theorem length_vregs (w : Bool) (a d : BitVec 5) : (vregs w a).length = (vregs w d).length := by cases w <;> rfl
theorem nodup_vregs (w : Bool) (v : BitVec 5) : (vregs w v).Nodup := by cases w <;> simp [vregs]
theorem getD_mem_vregs {w : Bool} {d : BitVec 5} {j : Nat} (hj : j < (vregs w d).length) : (vregs w d).getD j 0 ∈ vregs w d := by
  rw [List.getD_eq_getElem _ _ hj]
  exact List.getElem_mem hj

section Lanes
variable (w : Bool) (v : BitVec 5) {reg : Nat → List Word32} (hreg : ∀ v, (reg v).length = 64)
include hreg

theorem length_joinLanes : (joinLanes w ((vregs w v).map reg)).length = 64 := by
  cases w <;> simp [vregs, joinLanes, hreg]
theorem getD_joinLanes {l : Nat} (hl : l < 64) : (joinLanes w ((vregs w v).map reg)).getD l 0 =
    if w then (reg (v.toNat + 1)).getD l 0 ++ (reg v.toNat).getD l 0 else ((reg v.toNat).getD l 0).setWidth 64 := by
  cases w <;> simp [vregs, joinLanes, hreg, hl]

end Lanes

section Moved
variable (w : Bool) (d a : BitVec 5) (i : VIn)

/-- The lanes of the destination of `VMOV`, as values of its type. -/
def movedValues : List Word :=
  (mapLanes i.mask (fun _ x _ _ => (x, fNone)) 0 (joinLanes w ((vregs w a).map i.reg)) (List.replicate 64 0)
    (joinLanes w ((vregs w d).map i.reg))).1
/-- What `VMOV` computes of its operands: the registers of its destination, and no flag (R101). -/
def moveOut : VOut := { regs := (vregs w d).zip (splitLanes w (movedValues w d a i)), flags := fNone, also := id }

theorem exec_vmov (s : State) (ty : VType) : exec (.vmov ty d a) s = .next (s.aWord (vregs ty.wide a) (vregs ty.wide d) (moveOut ty.wide d a)) := by
  have harm : exec (.vmov ty d a) s = execVmov ty d a s := rfl
  have hreads : [a].flatMap (vregs ty.wide) ++ [] = vregs ty.wide a := by simp
  rw [harm, execVmov, State.vone, State.vop]
  simp only [Bool.false_eq_true, if_false, hreads]
  refine congrArg (fun f => Host.Outcome.next (s.aWord _ _ f)) (funext fun i => ?_)
  exact congrArg (fun g => VOut.mk ((vregs ty.wide d).zip (splitLanes ty.wide (movedValues ty.wide d a i))) g id)
    (mapLanes_fNone_snd i.mask id 0 _ (List.replicate 64 0) _)

variable {w d a i} (hreg : ∀ v, (i.reg v).length = 64)
include hreg

theorem movedValues_spec : (movedValues w d a i).length = 64 ∧ ∀ l, l < 64 → (movedValues w d a i).getD l 0 =
    (joinLanes w ((vregs w (if i.mask.getLsbD l then a else d)).map i.reg)).getD l 0 := by
  obtain ⟨hlen, hlanes, -⟩ := mapLanes_spec i.mask (fun _ x _ _ => (x, fNone)) 64 0 _ _ _ (length_joinLanes w a hreg) List.length_replicate
    (length_joinLanes w d hreg)
  refine ⟨hlen, fun l hl => ?_⟩
  rw [movedValues, hlanes l hl, Nat.zero_add]
  split <;> rfl
/-- Lane by lane, `VMOV` moves the words of a register under the mask, and keeps what was there elsewhere. -/
theorem getD_splitLanes_movedValues {j l : Nat} (hj : j < (vregs w d).length) (hl : l < 64) :
    ((splitLanes w (movedValues w d a i)).getD j []).getD l 0 =
      if i.mask.getLsbD l then (i.reg ((vregs w a).getD j 0)).getD l 0 else (i.reg ((vregs w d).getD j 0)).getD l 0 := by
  obtain ⟨hlen, hvalues⟩ := movedValues_spec (w := w) (d := d) (a := a) hreg
  have hvalue := hvalues l hl
  have hl' : l < (movedValues w d a i).length := by rwa [hlen]
  rw [getD_joinLanes w _ hreg hl, List.getD_eq_getElem _ _ hl'] at hvalue
  cases w
  · obtain rfl : j = 0 := by simpa [vregs] using hj
    simp only [splitLanes, vregs, Bool.false_eq_true, if_false, List.getD_cons_zero] at hvalue ⊢
    rw [List.getD_eq_getElem _ _ (by simpa using hl'), List.getElem_map, hvalue]
    split <;> simp
  · have hj2 : j < 2 := hj
    simp only [splitLanes, vregs, if_true] at hvalue ⊢
    obtain rfl | rfl : j = 0 ∨ j = 1 := by omega
    · rw [List.getD_cons_zero, List.getD_eq_getElem _ _ (by simpa using hl'), List.getElem_map, hvalue, low_append]
      split <;> rfl
    · rw [List.getD_cons_succ, List.getD_cons_zero, List.getD_eq_getElem _ _ (by simpa using hl'), List.getElem_map, hvalue, high_append]
      split <;> rfl

end Moved

/-! ## The parts of an A-class word (R97, R98, R112) -/

section Parts
variable (s : State)

/-- The stream at whose position a word pops a beat. -/
def State.streamAt (v : Nat) : Stream :=
  AMap.get { write := false, et := 0, base := 0, counts := [], strides := [], pos := 0, fetched := [] } s.src.streams v
/-- The effective mask of a word that has these pops and writes these registers (R112). -/
def State.wordMask (pops : List (Nat × Beat × Stream)) (writes : List Nat) : Word :=
  ((pops.map fun p => s.streamAt p.1).map (fun t => t.tail (t.pos / 64)) ++
    (writes.filterMap fun v => AMap.find s.src.streams v).map fun t => t.tail (t.pos / 64)).foldl (· &&& ·) s.src.amask
/-- The registers as a word that has these pops reads them. -/
def State.wordReg (pops : List (Nat × Beat × Stream)) (v : Nat) : List Word32 :=
  match pops.find? fun p => p.1 == v with
  | some p => lanes64 p.2.1.lanes
  | none => s.src.vr v
/-- The state behind the pops. -/
def State.takePops (pops : List (Nat × Beat × Stream)) : State :=
  pops.foldl (fun (s : State) p => s.updMe fun k => { k.wv p.1 p.2.1.lanes with streams := AMap.set k.streams p.1 p.2.2 }) s
/-- The global elements that a word stores. -/
def State.globalStores (writes : List Nat) (M : Word) : List Nat :=
  (writes.filterMap fun v => AMap.find s.src.streams v).flatMap fun t => (t.stored M).filter fun e => !isLocal (t.addr e)
/-- A word behind its pops: its pushes, its flags and what it does besides. -/
def State.wordBehind (pops : List (Nat × Beat × Stream)) (writes : List Nat) (f : VIn → VOut) : State :=
  let M := s.wordMask pops writes
  let o := f { reg := s.wordReg pops, mask := M }
  match (if s.globalStores writes M = [] then none else s.laneRoom (s.globalStores writes M).length) with
  | some r => s.suffer (.stall r)
  | none =>
    match pushAll (s.takePops pops) M o.regs with
    | .error e => s.suffer e
    | .ok t => o.also (t.raiseFlags o.flags)

end Parts

section Ways
variable {s : State} {reads writes : List Nat} {f : VIn → VOut}

/-- A register found by a test that only a bound one can meet. -/
theorem exists_of_find?_bound {m : AMap Stream} {p : Stream → Bool} {l : List Nat} {v : Nat}
    (h : (l.find? fun v => match AMap.find m v with | some t => p t | none => false) = some v) :
    v ∈ l ∧ ∃ T, AMap.find m v = some T ∧ p T = true := by
  refine ⟨List.mem_of_find?_eq_some h, ?_⟩
  have hp := List.find?_some h
  cases hf : AMap.find m v with
  | none => simp [hf] at hp
  | some T => exact ⟨T, rfl, by simpa [hf] using hp⟩
/-- A register bound the other way, or read and written at once, faults STREAM, reason 4 (R112). -/
theorem State.aWord_of_misbound (h : ∃ v T, AMap.find s.src.streams v = some T ∧ (v ∈ reads ∧ T.write = true ∨ v ∈ writes ∧ T.write = false)) :
    ∃ v ∈ reads ++ writes, ∃ T, AMap.find s.src.streams v = some T ∧ s.aWord reads writes f = s.raise (streamFlt v 4 T.pos) := by
  simp only [State.aWord]
  split
  · next v hv =>
    have hbound : v ∈ reads ++ writes ∧ ∃ T, AMap.find s.src.streams v = some T := by
      obtain hv | ⟨-, hv⟩ := Option.or_eq_some_iff.1 hv
      · obtain ⟨hmem, T, hT, -⟩ := exists_of_find?_bound (p := fun t => t.write) hv
        exact ⟨List.mem_append_left _ hmem, T, hT⟩
      · obtain ⟨hmem, T, hT, -⟩ := exists_of_find?_bound (p := fun t => !t.write) hv
        exact ⟨List.mem_append_right _ hmem, T, hT⟩
    obtain ⟨hmem, T, hT⟩ := hbound
    refine ⟨v, hmem, T, hT, ?_⟩
    simp only [hT]
    exact s.suffer_fault nofun nofun
  · next hnone =>
    obtain ⟨hreads, hwrites⟩ := Option.or_eq_none_iff.1 hnone
    rw [List.find?_eq_none] at hreads hwrites
    obtain ⟨v, T, hT, ⟨hv, hwr⟩ | ⟨hv, hwr⟩⟩ := h
    · exact absurd hwr (by simpa [hT] using hreads v hv)
    · exact absurd hwr (by simpa [hT] using hwrites v hv)
/-- A word whose registers are all bound its way, or not bound, pops and goes on. -/
theorem State.aWord_of_rightly_bound (hr : ∀ v ∈ reads, ∀ T, AMap.find s.src.streams v = some T → T.write = false)
    (hw : ∀ v ∈ writes, ∀ T, AMap.find s.src.streams v = some T → T.write = true) : s.aWord reads writes f =
    match popAll s reads.dedup with
    | .error e => s.suffer e
    | .ok pops => s.wordBehind pops writes f := by
  simp only [State.aWord]
  split
  · next v hv =>
    exfalso
    obtain hv | ⟨-, hv⟩ := Option.or_eq_some_iff.1 hv
    · obtain ⟨hmem, T, hT, hwr⟩ := exists_of_find?_bound (p := fun t => t.write) hv
      exact Bool.false_ne_true ((hr v hmem T hT).symm.trans hwr)
    · obtain ⟨hmem, T, hT, hwr⟩ := exists_of_find?_bound (p := fun t => !t.write) hv
      exact Bool.false_ne_true ((congrArg (!·) (hw v hmem T hT)).symm.trans hwr)
  · rfl

end Ways

end Machine
end Sys2Proof
end

section
/-! Pops (R112): the beats that a word takes, the effective mask, and what the pops leave of the issuing context. -/

namespace Sys2Proof
namespace Machine

/-! ## The effective mask -/

theorem getLsbD_foldl_and (L : List Word) (m : Word) (l : Nat) :
    (L.foldl (· &&& ·) m).getLsbD l = true ↔ m.getLsbD l = true ∧ ∀ x ∈ L, x.getLsbD l = true := by
  induction L generalizing m with
  | nil => simp
  | cons x L ih => simp [ih, and_assoc]
theorem getLsbD_tail (t : Stream) (k : Nat) {l : Nat} (hl : l < 64) : (t.tail k).getLsbD l = true ↔ l < t.len - 64 * k := by
  rw [Stream.tail, nat64, BitVec.getLsbD_ofNat, Nat.testBit_two_pow_sub_one, decide_eq_true hl, Bool.true_and, decide_eq_true_iff]
  exact Nat.lt_min.trans (and_iff_right hl)
theorem State.streamAt_of_bound {s : State} {v : Nat} {T : Stream} (h : AMap.find s.src.streams v = some T) : s.streamAt v = T := by
  rw [State.streamAt, AMap.get_eq_find, h]
  rfl
/-- A lane takes part where the mask has it and no stream that is popped or pushed ends before it (R112). -/
theorem State.getLsbD_wordMask {s : State} {pops : List (Nat × Beat × Stream)} {writes : List Nat} {l : Nat} (hl : l < 64)
    (hp : ∀ p ∈ pops, ∃ T, AMap.find s.src.streams p.1 = some T) :
    (s.wordMask pops writes).getLsbD l = true ↔ s.src.amask.getLsbD l = true ∧
      (∀ p ∈ pops, ∀ T, AMap.find s.src.streams p.1 = some T → l < T.len - 64 * (T.pos / 64)) ∧
      ∀ v ∈ writes, ∀ T, AMap.find s.src.streams v = some T → l < T.len - 64 * (T.pos / 64) := by
  rw [State.wordMask, getLsbD_foldl_and]
  simp only [List.mem_append, List.mem_map, List.mem_filterMap, or_imp, forall_and, forall_exists_index, and_imp]
  refine and_congr_right fun _ => and_congr ⟨fun h p hpm T hT => ?_, fun h x t p hpm ht hx => ?_⟩ ⟨fun h v hv T hT => ?_, fun h x t v hv hT hx => ?_⟩
  · exact (getLsbD_tail T _ hl).1 (h _ T p hpm (State.streamAt_of_bound hT) rfl)
  · obtain ⟨T, hT⟩ := hp p hpm
    rw [← hx, ← ht, State.streamAt_of_bound hT]
    exact (getLsbD_tail T _ hl).2 (h p hpm T hT)
  · exact (getLsbD_tail T _ hl).1 (h _ T v hv hT rfl)
  · rw [← hx]
    exact (getLsbD_tail t _ hl).2 (h v hv t hT)

/-! ## The pops of a word -/

section Pops
variable {s : State} {l : List Nat} {v : Nat}

/-- The pop of a register, where it is bound and its beat is at hand. -/
def State.popOf (s : State) (v : Nat) : Option (Nat × Beat × Stream) :=
  (AMap.find s.src.streams v).bind fun T => (s.popBeat v T).toOption.map (Prod.mk v)

theorem State.popOf_of_unbound (h : AMap.find s.src.streams v = none) : s.popOf v = none := by rw [State.popOf, h]; rfl
theorem State.popOf_of_bound {T : Stream} {r : Beat × Stream} (h : AMap.find s.src.streams v = some T) (hr : s.popBeat v T = .ok r) :
    s.popOf v = some (v, r) := by rw [State.popOf, h, Option.bind_some, hr]; rfl
theorem State.bound_of_popOf {p : Nat × Beat × Stream} (h : s.popOf v = some p) : p.1 = v ∧ ∃ T, AMap.find s.src.streams v = some T := by
  obtain ⟨T, hT, hp⟩ := Option.bind_eq_some_iff.1 h
  obtain ⟨r, -, rfl⟩ := Option.map_eq_some_iff.1 hp
  exact ⟨rfl, T, hT⟩

/-- Where every beat is at hand, a word pops each of its bound registers. -/
theorem popAll_eq_filterMap (h : ∀ v ∈ l, ∀ T, AMap.find s.src.streams v = some T → ∃ r, s.popBeat v T = .ok r) :
    popAll s l = .ok (l.filterMap s.popOf) := by
  induction l with
  | nil => rfl
  | cons v l ih =>
    have hrest := ih fun w hw => h w (List.mem_cons_of_mem _ hw)
    rw [popAll, hrest]
    cases hT : AMap.find s.src.streams v with
    | none => rw [List.filterMap_cons_none (State.popOf_of_unbound hT)]
    | some T =>
      obtain ⟨r, hr⟩ := h v List.mem_cons_self T hT
      simp only [hr]
      rw [List.filterMap_cons_some (State.popOf_of_bound hT hr)]
theorem mem_of_mem_filterMap_popOf {p : Nat × Beat × Stream} (h : p ∈ l.filterMap s.popOf) :
    p.1 ∈ l ∧ s.popOf p.1 = some p ∧ ∃ T, AMap.find s.src.streams p.1 = some T := by
  obtain ⟨v, hv, hp⟩ := List.mem_filterMap.1 h
  obtain ⟨rfl, hT⟩ := State.bound_of_popOf hp
  exact ⟨hv, hp, hT⟩
theorem find?_filterMap_popOf : ((l.filterMap s.popOf).find? fun p => p.1 == v) = if v ∈ l then s.popOf v else none := by
  induction l with
  | nil => rfl
  | cons w l ih =>
    cases hw : s.popOf w with
    | none =>
      rw [List.filterMap_cons_none hw, ih]
      by_cases hvw : v = w
      · subst hvw; simp [hw]
      · simp [hvw]
    | some p =>
      obtain ⟨hpw, -⟩ := State.bound_of_popOf hw
      rw [List.filterMap_cons_some hw, List.find?_cons, hpw]
      by_cases hvw : v = w
      · subst hvw; simp [hw]
      · simp [hvw, beq_false_of_ne (Ne.symm hvw), ih]
theorem nodup_keys_filterMap_popOf (h : l.Nodup) : ((l.filterMap s.popOf).map Prod.fst).Nodup := by
  rw [List.map_filterMap]
  refine h.filterMap fun v w k hv hw => ?_
  obtain ⟨p, hp, rfl⟩ := Option.map_eq_some_iff.1 hv
  obtain ⟨q, hq, hqp⟩ := Option.map_eq_some_iff.1 hw
  exact (State.bound_of_popOf hp).1.symm.trans (hqp.symm.trans (State.bound_of_popOf hq).1)

/-- The word that a pop gives a lane of its register, or that the register holds where it is not bound. -/
def State.popWords (s : State) (v : Nat) : List Word32 :=
  ((s.popOf v).map fun p => lanes64 p.2.1.lanes).getD (s.src.vr v)
theorem State.wordReg_of_mem (hv : v ∈ l) : s.wordReg (l.filterMap s.popOf) v = s.popWords v := by
  rw [State.wordReg, find?_filterMap_popOf, if_pos hv, State.popWords]
  cases s.popOf v <;> rfl
theorem State.wordReg_of_not_mem (hv : v ∉ l) : s.wordReg (l.filterMap s.popOf) v = s.src.vr v := by
  rw [State.wordReg, find?_filterMap_popOf, if_neg hv]
theorem State.length_wordReg (pops : List (Nat × Beat × Stream)) : (s.wordReg pops v).length = 64 := by
  rw [State.wordReg]
  split
  · exact length_lanes64 _
  · exact length_vr ..

end Pops

/-! ## What the pops leave -/

section Taken
variable {s : State} {pops : List (Nat × Beat × Stream)}

/-- A context behind a pop. -/
def Ctx.takePop (k : Ctx) (p : Nat × Beat × Stream) : Ctx := { k.wv p.1 p.2.1.lanes with streams := AMap.set k.streams p.1 p.2.2 }

theorem State.takePops_me (s : State) (pops : List (Nat × Beat × Stream)) : (s.takePops pops).me = pops.foldl Ctx.takePop s.me := by
  induction pops generalizing s with
  | nil => rfl
  | cons p r ih => exact (ih (s.updMe fun k => k.takePop p)).trans (congrArg (r.foldl Ctx.takePop ·) (s.me_updMe _))
theorem State.takePops_only (s : State) (pops : List (Nat × Beat × Stream)) : OnlyMe s (s.takePops pops) := by
  induction pops generalizing s with
  | nil => exact OnlyMe.refl s
  | cons p r ih => exact (onlyMe_updMe s _).trans (ih _)
theorem Ctx.foldl_takePop_fields (pops : List (Nat × Beat × Stream)) (k : Ctx) :
    pops.foldl Ctx.takePop k = { k with v := (pops.foldl Ctx.takePop k).v, streams := (pops.foldl Ctx.takePop k).streams } := by
  induction pops generalizing k with
  | nil => rfl
  | cons p r ih => exact (ih (k.takePop p))
theorem Ctx.foldl_takePop_other {v : Nat} (hv : ∀ p ∈ pops, p.1 ≠ v) (k : Ctx) :
    (pops.foldl Ctx.takePop k).vr v = k.vr v ∧ AMap.find (pops.foldl Ctx.takePop k).streams v = AMap.find k.streams v := by
  induction pops generalizing k with
  | nil => exact ⟨rfl, rfl⟩
  | cons p r ih =>
    have hne := hv p List.mem_cons_self
    obtain ⟨hvr, hst⟩ := ih (fun q hq => hv q (List.mem_cons_of_mem _ hq)) (k.takePop p)
    refine ⟨hvr.trans ((vr_wv k p.1 v _).trans (if_neg hne)), hst.trans ((AMap.find_set ..).trans (if_neg hne))⟩
/-- Each register that is popped once is bound to its stream behind the beat. -/
theorem Ctx.find_foldl_takePop (hnodup : (pops.map Prod.fst).Nodup) {p : Nat × Beat × Stream} (hp : p ∈ pops) (k : Ctx) :
    AMap.find (pops.foldl Ctx.takePop k).streams p.1 = some p.2.2 := by
  induction pops generalizing k with
  | nil => exact absurd hp List.not_mem_nil
  | cons q r ih =>
    rw [List.map_cons, List.nodup_cons] at hnodup
    obtain ⟨hq, hr⟩ := hnodup
    rcases List.mem_cons.1 hp with rfl | hp
    · have hne : ∀ x ∈ r, x.1 ≠ p.1 := fun x hx h => hq (h ▸ List.mem_map_of_mem hx)
      exact (Ctx.foldl_takePop_other hne (k.takePop p)).2.trans (AMap.find_set_same ..)
    · exact ih hr hp _

end Taken

end Machine
end Sys2Proof
end

section
/-! A read of a bound register pops one beat (R112). -/

namespace Sys2Proof
namespace Machine

/-! ## Registers written one after another -/

theorem foldl_wv_other {L : List (Nat × List Word32)} {v : Nat} (hv : ∀ e ∈ L, e.1 ≠ v) (k : Ctx) :
    (L.foldl (fun k e => k.wv e.1 e.2) k).vr v = k.vr v := by
  induction L generalizing k with
  | nil => rfl
  | cons e r ih =>
    rw [List.foldl_cons, ih (fun x hx => hv x (List.mem_cons_of_mem _ hx)), vr_wv, if_neg (hv e List.mem_cons_self)]
theorem vr_foldl_wv {L : List (Nat × List Word32)} (hnodup : (L.map Prod.fst).Nodup) {e : Nat × List Word32} (he : e ∈ L) (k : Ctx) :
    (L.foldl (fun k e => k.wv e.1 e.2) k).vr e.1 = lanes64 e.2 := by
  induction L generalizing k with
  | nil => exact absurd he List.not_mem_nil
  | cons x r ih =>
    rw [List.map_cons, List.nodup_cons] at hnodup
    obtain ⟨hx, hr⟩ := hnodup
    rcases List.mem_cons.1 he with rfl | he
    · have hne : ∀ y ∈ r, y.1 ≠ e.1 := fun y hy h => hx (h ▸ List.mem_map_of_mem hy)
      rw [List.foldl_cons, foldl_wv_other hne, vr_wv, if_pos rfl]
    · exact ih hr he _

section Zip
variable (w : Bool) (d : BitVec 5) (R : List Word)

theorem length_splitLanes : (splitLanes w R).length = (vregs w d).length := by cases w <;> rfl
theorem map_fst_zip_splitLanes : ((vregs w d).zip (splitLanes w R)).map Prod.fst = vregs w d :=
  List.map_fst_zip (length_splitLanes w d R).ge
theorem mem_zip_splitLanes {j : Nat} (hj : j < (vregs w d).length) :
    ((vregs w d).getD j 0, (splitLanes w R).getD j []) ∈ (vregs w d).zip (splitLanes w R) := by
  have hjR : j < (splitLanes w R).length := by rwa [length_splitLanes w d R]
  have hjz : j < ((vregs w d).zip (splitLanes w R)).length := by simp [List.length_zip, hj, hjR]
  rw [List.getD_eq_getElem _ _ hj, List.getD_eq_getElem _ _ hjR, ← List.getElem_zip (h := hjz)]
  exact List.getElem_mem hjz

end Zip

/-! ## `VMOV` behind its pops -/

theorem State.src_of_snap_none {s : State} (h : s.cur.snap = none) : s.src = s.me := by rw [State.src, h]

section Behind
variable {s : State} {w : Bool} {d a : BitVec 5} {pops : List (Nat × Beat × Stream)}

/-- Where no register that it writes is bound, a word writes its registers behind its pops. -/
theorem State.wordBehind_of_unbound (hsnap : s.cur.snap = none) (hd : ∀ v ∈ vregs w d, AMap.find s.me.streams v = none)
    (hpops : ∀ p ∈ pops, p.1 ∉ vregs w d) : s.wordBehind pops (vregs w d) (moveOut w d a) =
    ((s.takePops pops).putRegs
      (moveOut w d a { reg := s.wordReg pops, mask := s.wordMask pops (vregs w d) }).regs).updMe id := by
  have hsrc := State.src_of_snap_none hsnap
  have hstores : s.globalStores (vregs w d) (s.wordMask pops (vregs w d)) = [] := by
    rw [State.globalStores, List.filterMap_eq_nil_iff.2 fun v hv => by rw [hsrc]; exact hd v hv]
    rfl
  have hcur := (s.takePops_only pops).cur_eq
  have hpush := pushAll_unbound (s.wordMask pops (vregs w d))
    (moveOut w d a { reg := s.wordReg pops, mask := s.wordMask pops (vregs w d) }).regs (s.takePops pops) fun e he => by
      have hmem : e.1 ∈ vregs w d := (List.of_mem_zip he).1
      rw [State.src_of_snap_none (hcur.symm ▸ hsnap), State.takePops_me,
        (Ctx.foldl_takePop_other (fun p hp h => hpops p hp (h ▸ hmem)) s.me).2]
      exact hd _ hmem
  rw [State.wordBehind]
  simp only [hstores, if_true, hpush]
  exact State.raiseFlags_fNone _

end Behind

section Pop
variable {s : State} {ty : VType} {d a : BitVec 5}

/-- The effective mask of a word that pops every bound register it reads, and pushes none. -/
theorem State.getLsbD_popMask {reads writes : List Nat} {l : Nat} (hl : l < 64) (hw : ∀ v ∈ writes, AMap.find s.src.streams v = none)
    (hbeat : ∀ v ∈ reads, ∀ T, AMap.find s.src.streams v = some T → ∃ r, s.popBeat v T = .ok r) :
    (s.wordMask (reads.filterMap s.popOf) writes).getLsbD l = true ↔
      s.src.amask.getLsbD l = true ∧ ∀ v ∈ reads, ∀ T, AMap.find s.src.streams v = some T → l < T.len - 64 * (T.pos / 64) := by
  refine (State.getLsbD_wordMask hl fun p hp => (mem_of_mem_filterMap_popOf hp).2.2).trans (and_congr_right fun _ => ⟨fun h v hv T hT => ?_,
    fun h => ⟨fun p hp T hT => h _ (mem_of_mem_filterMap_popOf hp).1 T hT, fun v hv T hT => absurd ((hw v hv).symm.trans hT) nofun⟩⟩)
  obtain ⟨r, hr⟩ := hbeat v hv T hT
  exact h.1 _ (List.mem_filterMap.2 ⟨v, hv, State.popOf_of_bound hT hr⟩) T hT
/-- The lanes of a context behind the registers that `VMOV` writes. -/
theorem getD_vr_foldl_moveOut {w : Bool} {i : VIn} (hreg : ∀ v, (i.reg v).length = 64) {j l : Nat} (hj : j < (vregs w d).length) (hl : l < 64) (k : Ctx) :
    (((moveOut w d a i).regs.foldl (fun k e => k.wv e.1 e.2) k).vr ((vregs w d).getD j 0)).getD l 0 =
      if i.mask.getLsbD l then (i.reg ((vregs w a).getD j 0)).getD l 0 else (i.reg ((vregs w d).getD j 0)).getD l 0 := by
  have hregs : ((moveOut w d a i).regs.map Prod.fst).Nodup := by
    rw [show (moveOut w d a i).regs.map Prod.fst = vregs w d from map_fst_zip_splitLanes ..]
    exact nodup_vregs ..
  have hvr := vr_foldl_wv hregs (mem_zip_splitLanes w d (movedValues w d a i) hj) k
  rw [hvr, getD_lanes64 _ l hl, getD_splitLanes_movedValues hreg hj hl]

/-- What a pop leaves of the issuing context and its core: the streams behind their beats, the lanes under the effective mask, and
nothing outside the context (R112). -/
structure PopsBeat (s t : State) (w : Bool) (d a : BitVec 5) : Prop where
  streams : ∀ v ∈ vregs w a, ∀ T r, AMap.find s.me.streams v = some T → s.popBeat v T = .ok r → AMap.find t.me.streams v = some r.2
  lanes : ∀ j l, j < (vregs w a).length → l < 64 → (t.me.vr ((vregs w d).getD j 0)).getD l 0 =
    if s.me.amask.getLsbD l ∧ ∀ v ∈ vregs w a, ∀ T, AMap.find s.me.streams v = some T → l < T.len - 64 * (T.pos / 64)
    then (s.popWords ((vregs w a).getD j 0)).getD l 0 else (s.me.vr ((vregs w d).getD j 0)).getD l 0
  core : t.myCore = { s.myCore with ctxs := t.myCore.ctxs }
  flags : t.me.flags = s.me.flags

/-- `VMOV` of bound registers whose beats are at hand, into registers that are not bound. -/
theorem answers_vmov_pop (hsnap : s.cur.snap = none) (hd : ∀ v ∈ vregs ty.wide d, AMap.find s.me.streams v = none)
    (hdisj : ∀ v ∈ vregs ty.wide a, v ∉ vregs ty.wide d)
    (hbeat : ∀ v ∈ vregs ty.wide a, ∀ T, AMap.find s.me.streams v = some T → T.write = false ∧ ∃ r, s.popBeat v T = .ok r) :
    Answers (.vmov ty d a) s fun t => PopsBeat s t ty.wide d a := by
  have hsrc := State.src_of_snap_none hsnap
  rw [← hsrc] at hd hbeat
  generalize hpops : (vregs ty.wide a).filterMap s.popOf = pops
  have hpopAll : popAll s (vregs ty.wide a).dedup = .ok pops := by
    rw [List.dedup_eq_self.2 (nodup_vregs ..), popAll_eq_filterMap fun v hv T hT => (hbeat v hv T hT).2, hpops]
  have hkeys : ∀ p ∈ pops, p.1 ∈ vregs ty.wide a ∧ s.popOf p.1 = some p ∧ ∃ T, AMap.find s.src.streams p.1 = some T :=
    fun p hp => mem_of_mem_filterMap_popOf (hpops ▸ hp)
  have hnodup : (pops.map Prod.fst).Nodup := hpops ▸ nodup_keys_filterMap_popOf (nodup_vregs ..)
  have hmem : ∀ v ∈ vregs ty.wide a, ∀ T r, AMap.find s.src.streams v = some T → s.popBeat v T = .ok r → (v, r) ∈ pops :=
    fun v hv T r hT hr => hpops ▸ List.mem_filterMap.2 ⟨v, hv, State.popOf_of_bound hT hr⟩
  have hexec := exec_vmov d a s ty
  rw [State.aWord_of_rightly_bound (fun v hv T hT => (hbeat v hv T hT).1) (fun v hv T hT => by rw [hd v hv] at hT; cases hT), hpopAll] at hexec
  dsimp only at hexec
  rw [State.wordBehind_of_unbound hsnap (hsrc ▸ hd) fun p hp => hdisj _ (hkeys p hp).1] at hexec
  generalize hi : ({ reg := s.wordReg pops, mask := s.wordMask pops (vregs ty.wide d) } : VIn) = i at hexec
  have hreg : ∀ v, (i.reg v).length = 64 := fun v => by rw [← hi]; exact State.length_wordReg pops
  have honly := ((s.takePops_only pops).trans (State.putRegs_only _ _)).trans (onlyMe_updMe ((s.takePops pops).putRegs (moveOut ty.wide d a i).regs) id)
  have hme : (((s.takePops pops).putRegs (moveOut ty.wide d a i).regs).updMe id).me =
      (moveOut ty.wide d a i).regs.foldl (fun k e => k.wv e.1 e.2) (pops.foldl Ctx.takePop s.me) := by
    rw [State.me_updMe, State.putRegs_me, State.takePops_me]
    rfl
  have hfields := foldl_wv_fields (moveOut ty.wide d a i).regs (pops.foldl Ctx.takePop s.me)
  refine answers_exec hexec ⟨fun v hv T r hT hr => ?streams, fun j l hj hl => ?lanes, honly.2.1, ?flags⟩
  case streams =>
    rw [hme, hfields]
    exact Ctx.find_foldl_takePop hnodup (hmem v hv T r (hsrc ▸ hT) hr) s.me
  case lanes =>
    have hjd : j < (vregs ty.wide d).length := hj.trans_eq (length_vregs ..)
    rw [hme, getD_vr_foldl_moveOut hreg hjd hl, ← hi, ← hpops]
    dsimp only
    rw [State.wordReg_of_mem (getD_mem_vregs hj), State.wordReg_of_not_mem fun h => hdisj _ h (getD_mem_vregs hjd), ← hsrc]
    exact if_congr (State.getLsbD_popMask hl hd fun v hv T hT => (hbeat v hv T hT).2) rfl rfl
  case flags =>
    rw [hme, hfields, Ctx.foldl_takePop_fields]

end Pop

end Machine
end Sys2Proof
end

section
/-! The beat of a pop: fetched ahead, read by the pop itself, past the end, or not there (R112), and the statement about reads. -/

namespace Sys2Proof
namespace Machine

/-! ## Elements of the scratchpad -/

section Elements
variable {s : State} {v : Nat} {T : Stream}

/-- An element of a stream that the pop itself may read: it lies in the scratchpad, and nothing holds it. -/
def State.Near (s : State) (T : Stream) (e : Nat) : Prop :=
  inScratch s.myCore (T.addr e) (etSize T.et) = true ∧ s.myCore.marked (offOf (T.addr e)) (etSize T.et) = none ∧
    s.badIn s.cur.core (offOf (T.addr e)) (etSize T.et) = none ∧ s.atomsAt s.cur.core s.cur.ctx (.pool (offOf (T.addr e))) = []

theorem isLocal_of_inScratch {k : Core} {a : Word} {n : Nat} (h : inScratch k a n = true) : isLocal a = true :=
  (Bool.and_eq_true_iff.1 h).1
theorem State.elemAt_of_free {a : Word} {n : Nat} (hin : inScratch s.myCore a n = true) (hm : s.myCore.marked (offOf a) n = none)
    (hat : s.atomsAt s.cur.core s.cur.ctx (.pool (offOf a)) = []) : s.elemAt a n = .ok () := by
  simp [State.elemAt, hin, hm, State.afterAtoms, hat]
/-- The lane that an element of the scratchpad gives. -/
def State.nearLane (s : State) (T : Stream) (e : Nat) : Word32 := etRead T.et (s.myCore.num (offOf (T.addr e)) (etSize T.et))
theorem State.elemRead_of_near {e : Nat} (h : s.Near T e) (pos : Nat) :
    s.elemRead v T pos e = .ok (s.myCore.num (offOf (T.addr e)) (etSize T.et), s) := by
  obtain ⟨hin, hm, hbad, hat⟩ := h
  simp only [State.elemRead, isLocal_of_inScratch hin, if_true, State.elemAt_of_free hin hm hat, State.readLocal, hbad]
  rfl
theorem State.readElems_of_near {es : List Nat} (h : ∀ e ∈ es, s.Near T e) (pos : Nat) :
    s.readElems v T pos es = (es.map (s.nearLane T), none, s) := by
  induction es with
  | nil => rfl
  | cons e r ih =>
    rw [State.readElems, State.elemRead_of_near (h e List.mem_cons_self)]
    simp only [ih fun x hx => h x (List.mem_cons_of_mem _ hx)]
    rfl

end Elements

/-! ## The beat of a pop -/

section Beats
variable {s : State} {v : Nat} {T : Stream}

theorem State.popBeat_of_end (h : T.len ≤ T.pos) : s.popBeat v T = .error (.fault (streamFlt v 3 T.pos)) := by
  simp only [State.popBeat, if_pos h]
variable (hpos : T.pos < T.len)
include hpos
theorem State.popBeat_of_fetched {b : Beat} {q : List Beat} (hq : T.fetched = b :: q) (hb : b.flt = none) :
    s.popBeat v T = .ok (b, { T with pos := T.pos + 64, fetched := q }) := by
  simp only [State.popBeat, if_neg hpos.not_ge, hq, hb]
theorem State.popBeat_of_faulty {b : Beat} {q : List Beat} {f : Flt} (hq : T.fetched = b :: q) (hb : b.flt = some f) :
    s.popBeat v T = .error (.fault f) := by
  simp only [State.popBeat, if_neg hpos.not_ge, hq, hb]
/-- A beat with a global element is not read by the pop: it has to arrive. -/
theorem State.popBeat_of_absent (hq : T.fetched = []) (h : ∃ e ∈ T.beatElems (T.pos / 64), isLocal (T.addr e) = false) :
    s.popBeat v T = .error (.stall (.beat v)) := by
  have hall : ¬(T.beatElems (T.pos / 64)).all (fun e => isLocal (T.addr e)) = true := by
    simpa only [List.all_eq_true, not_forall, Bool.not_eq_true, exists_prop] using h
  simp only [State.popBeat, if_neg hpos.not_ge, hq, if_neg hall]
theorem State.popBeat_of_near (hq : T.fetched = []) (hpart : T.part = []) (h : ∀ e ∈ T.beatElems (T.pos / 64), s.Near T e) :
    s.popBeat v T = .ok (beatOf ((T.beatElems (T.pos / 64)).map (s.nearLane T)), { T with pos := T.pos + 64 }) := by
  have hall : (T.beatElems (T.pos / 64)).all (fun e => isLocal (T.addr e)) = true :=
    List.all_eq_true.2 fun e he => isLocal_of_inScratch (h e he).1
  have hfetch : s.fetchBeat v T (T.pos / 64) = ((T.beatElems (T.pos / 64)).map (s.nearLane T), none, s) := by
    simp only [State.fetchBeat, hpart, List.length_nil, List.drop_zero, List.nil_append, State.readElems_of_near h]
  simp only [State.popBeat, if_neg hpos.not_ge, hq, if_pos hall, hfetch]
  rw [← hpart]

end Beats

theorem getD_beatOf (l : List Word32) (i : Nat) : (beatOf l).lanes.getD i 0 = l.getD i 0 := by
  rw [beatOf]
  rcases Nat.lt_or_ge i l.length with hi | hi
  · rw [List.getD_append _ _ _ _ hi]
  · rw [List.getD_append_right _ _ _ _ hi, List.getD_eq_default _ _ hi]
    simp [List.getD_eq_getElem?_getD, List.getElem?_replicate]
    split <;> rfl
theorem length_beatElems (T : Stream) (k : Nat) : (T.beatElems k).length = Nat.min 64 (T.len - 64 * k) := by simp [Stream.beatElems]
theorem getD_map_beatElems {α : Type} (T : Stream) (k : Nat) (g : Nat → α) (d : α) {i : Nat} (hi : i < 64) (hlen : i < T.len - 64 * k) :
    ((T.beatElems k).map g).getD i d = g (64 * k + i) := by
  have h : i < Nat.min 64 (T.len - 64 * k) := Nat.lt_min.2 ⟨hi, hlen⟩
  rw [List.getD_eq_getElem _ _ (by simpa [length_beatElems] using h)]
  simp [Stream.beatElems]

/-! ## A bound register as the one source -/

section Source
variable {s : State} {ty : VType} {d a : BitVec 5} {T : Stream}

/-- A pop that does not find its beat ends the word as it ends. -/
theorem exec_vmov_of_popBeat_error (hsnap : s.cur.snap = none) (hty : ty.wide = false) (hd : AMap.find s.me.streams d.toNat = none)
    (ha : AMap.find s.me.streams a.toNat = some T) (hrd : T.write = false) {f : Fate} (hf : s.popBeat a.toNat T = .error f) :
    exec (.vmov ty d a) s = .next (s.suffer f) := by
  have hsrc := State.src_of_snap_none hsnap
  rw [← hsrc] at hd ha
  rw [exec_vmov, hty]
  refine congrArg Host.Outcome.next ((State.aWord_of_rightly_bound (fun v hv U hU => ?_) fun v hv U hU => ?_).trans ?_)
  · rw [List.mem_singleton.1 hv, ha] at hU
    exact Option.some.inj hU ▸ hrd
  · rw [List.mem_singleton.1 hv, hd] at hU
    cases hU
  · have hpop : popAll s [a.toNat] = .error f := by simp only [popAll, ha, hf]
    simp only [vregs, Bool.false_eq_true, if_false, List.dedup_eq_self.2 (List.nodup_singleton _), hpop]

end Source

/-- A register bound the other way, or read and written at once, as the fault of the word (R112). -/
theorem answers_vmov_misbound {s : State} {ty : VType} {d a : BitVec 5} (hsnap : s.cur.snap = none)
    (h : ∃ v T, AMap.find s.me.streams v = some T ∧ (v ∈ vregs ty.wide a ∧ T.write = true ∨ v ∈ vregs ty.wide d ∧ T.write = false)) :
    Answers (.vmov ty d a) s fun t => ∃ v ∈ vregs ty.wide a ++ vregs ty.wide d, ∃ T, AMap.find s.me.streams v = some T ∧
      t = s.raise (streamFlt v 4 T.pos) := by
  rw [← State.src_of_snap_none hsnap] at h ⊢
  exact answers_exec (exec_vmov d a s ty) (State.aWord_of_misbound h)

section Words
variable {s : State} {v : Nat}
theorem State.popWords_of_bound {T : Stream} {r : Beat × Stream} (h : AMap.find s.src.streams v = some T) (hr : s.popBeat v T = .ok r) :
    s.popWords v = lanes64 r.1.lanes := by rw [State.popWords, State.popOf_of_bound h hr]; rfl
theorem State.popWords_of_unbound (h : AMap.find s.src.streams v = none) : s.popWords v = s.src.vr v := by rw [State.popWords, State.popOf_of_unbound h]; rfl
end Words

/-- A beat fetched ahead of its pop gives the lanes that stand first of those fetched. -/
theorem getD_flatMap_lanes {b : Beat} {q : List Beat} (hlen : b.lanes.length = 64) {l : Nat} (hl : l < 64) :
    ((b :: q).flatMap (·.lanes)).getD l 0 = b.lanes.getD l 0 := by
  rw [List.flatMap_cons, List.getD_append _ _ _ _ (hlen ▸ hl)]
/-- A pop that reads its beat from the scratchpad (R112). -/
theorem answers_vmov_near {s : State} {ty : VType} {d a : BitVec 5} {T : Stream} (hsnap : s.cur.snap = none) (hty : ty.wide = false) (hda : d ≠ a)
    (hd : AMap.find s.me.streams d.toNat = none) (ha : AMap.find s.me.streams a.toNat = some T) (hrd : T.write = false) (hpos : T.pos < T.len)
    (hal : T.pos % 64 = 0) (hq : T.fetched = []) (hpart : T.part = []) (hnear : ∀ e ∈ T.beatElems (T.pos / 64), s.Near T e) :
    Answers (.vmov ty d a) s fun t => AMap.find t.me.streams a.toNat = some { T with pos := T.pos + 64 } ∧
      (∀ l, l < 64 → (t.me.vr d.toNat).getD l 0 =
        if s.me.amask.getLsbD l ∧ T.pos + l < T.len then s.nearLane T (T.pos + l) else (s.me.vr d.toNat).getD l 0) ∧
      t.myCore = { s.myCore with ctxs := t.myCore.ctxs } ∧ t.me.flags = s.me.flags := by
  have hA : ∀ v ∈ vregs ty.wide a, v = a.toNat := by rw [hty]; exact fun v hv => List.mem_singleton.1 hv
  have hD : ∀ v ∈ vregs ty.wide d, v = d.toNat := by rw [hty]; exact fun v hv => List.mem_singleton.1 hv
  have hr := State.popBeat_of_near (v := a.toNat) hpos hq hpart hnear
  obtain ⟨t, ht, hstreams, hmoved, hcore, hflags⟩ := answers_vmov_pop (ty := ty) (d := d) (a := a) hsnap (fun v hv => hD v hv ▸ hd)
    (fun v hv h => hda (BitVec.eq_of_toNat_eq ((hD v h).symm.trans (hA v hv)))) fun v hv U hU => by
      rw [hA v hv] at hU ⊢
      obtain rfl := Option.some.inj (ha.symm.trans hU)
      exact ⟨hrd, _, hr⟩
  rw [hty] at hstreams hmoved
  refine ⟨t, ht, hstreams _ List.mem_cons_self T _ ha hr, fun l hl => ?_, hcore, hflags⟩
  refine (hmoved 0 l Nat.one_pos hl).trans ?_
  have hbase : 64 * (T.pos / 64) = T.pos := by omega
  have hmask : (∀ v ∈ vregs false a, ∀ U, AMap.find s.me.streams v = some U → l < U.len - 64 * (U.pos / 64)) ↔ T.pos + l < T.len := by
    refine ⟨fun h => ?_, fun h v hv U hU => ?_⟩
    · have hlt := h _ List.mem_cons_self T ha
      omega
    · rw [List.mem_singleton.1 hv] at hU
      obtain rfl := Option.some.inj (ha.symm.trans hU)
      omega
  refine (if_congr (and_congr_right fun _ => hmask) rfl rfl).trans ?_
  split
  · next h =>
    have hlt : l < T.len - 64 * (T.pos / 64) := by omega
    rw [show (vregs false a).getD 0 0 = a.toNat from rfl, State.popWords_of_bound ((State.src_of_snap_none hsnap).symm ▸ ha) hr,
      getD_lanes64 _ l hl, getD_beatOf, getD_map_beatElems T _ _ _ hl hlt, hbase]
  · rfl

/-- R112: by the way that each register is bound, and by what its pop finds. -/
theorem aReadOfABoundRegisterPopsOneBeat : AReadOfABoundRegisterPopsOneBeat := by
  intro s ty d a hsnap find D A flt
  have hsrc := State.src_of_snap_none hsnap
  refine ⟨fun h => ?self, fun hD => ⟨fun v hv T hT hwr => ?wrongWay, fun hdisj hbeat => ?fetched⟩, fun T hty hda hd ha =>
    ⟨answers_vmov_near hsnap hty hda hd ha, fun b r f hrd hpos hq hb => ?faulty, fun hrd hpos h hq => ?absent, fun hrd hend => ?past⟩⟩
  case self =>
    obtain ⟨v, hv, hne⟩ := h
    obtain ⟨T, hT⟩ := Option.ne_none_iff_exists'.1 hne
    obtain ⟨t, ht, w, hw, U, hU, he⟩ := answers_vmov_misbound (ty := ty) (d := a) (a := a) hsnap
      ⟨v, T, hT, (Bool.eq_false_or_eq_true T.write).imp (⟨hv, ·⟩) (⟨hv, ·⟩)⟩
    exact ⟨t, ht, w, (List.mem_append.1 hw).elim id id, U, hU, he⟩
  case wrongWay =>
    obtain ⟨t, ht, w, hw, U, hU, he⟩ := answers_vmov_misbound (ty := ty) (d := d) (a := a) hsnap ⟨v, T, hT, .inl ⟨hv, hwr⟩⟩
    refine ⟨t, ht, w, (List.mem_append.1 hw).resolve_right fun hwD => ?_, U, hU, he⟩
    exact absurd ((hD w hwD).symm.trans hU) nofun
  case fetched =>
    intro val hlanes
    have hpop : ∀ v ∈ A, ∀ T, find v = some T → ∃ b q, T.fetched = b :: q ∧ s.popBeat v T = .ok (b, { T with pos := T.pos + 64, fetched := q }) := by
      intro v hv T hT
      obtain ⟨-, hpos, b, q, hq, hb⟩ := hbeat v hv T hT
      exact ⟨b, q, hq, State.popBeat_of_fetched hpos hq hb⟩
    obtain ⟨t, ht, hstreams, hmoved, hcore, hflags⟩ := answers_vmov_pop hsnap hD hdisj fun v hv T hT =>
      ⟨(hbeat v hv T hT).1, let ⟨_, _, _, h⟩ := hpop v hv T hT; ⟨_, h⟩⟩
    refine ⟨t, ht, fun v hv T hT => ?_, fun j l hj hl => ?_, hcore, hflags⟩
    · obtain ⟨b, q, hq, hr⟩ := hpop v hv T hT
      rw [hstreams v hv T _ hT hr, hq]
      rfl
    · have hval : (s.popWords (A.getD j 0)).getD l 0 = val (A.getD j 0) l := by
        have hjA : A.getD j 0 ∈ A := getD_mem_vregs hj
        dsimp only [val]
        cases hT : find (A.getD j 0) with
        | none => rw [State.popWords_of_unbound (hsrc.symm ▸ hT), hsrc]
        | some T =>
          obtain ⟨b, q, hq, hr⟩ := hpop _ hjA T hT
          rw [State.popWords_of_bound (hsrc.symm ▸ hT) hr, getD_lanes64 _ l hl]
          dsimp only
          rw [hq, getD_flatMap_lanes (hlanes _ hjA T hT b (by rw [hq]; exact List.mem_cons_self)) hl]
      rw [hmoved j l hj hl, hval]
  case faulty => exact answers_exec (exec_vmov_of_popBeat_error hsnap hty hd ha hrd (State.popBeat_of_faulty hpos hq hb)) rfl
  case absent => exact answers_exec (exec_vmov_of_popBeat_error hsnap hty hd ha hrd (State.popBeat_of_absent hpos hq h)) rfl
  case past =>
    exact answers_exec (exec_vmov_of_popBeat_error hsnap hty hd ha hrd (State.popBeat_of_end hend)) (s.suffer_fault nofun nofun)

end Machine
end Sys2Proof
end

section
/-! Stores of a pushed beat: what their checks depend on, and what each leaves (R112, R116). -/

namespace Sys2Proof
namespace Machine

/-! ## What the checks of an element see -/

/-- A list gathered from the values of a file is as before after a set that it does not see. -/
theorem AMap.flatMap_set {α β : Type} (d : α) (g : α → List β) (m : AMap α) (k : Nat) (v : α) (hd : g d = [])
    (hv : g v = g (AMap.get d m k)) : (AMap.set m k v).flatMap (fun e => g e.2) = m.flatMap fun e => g e.2 := by
  induction m with
  | nil => simpa [AMap.set, AMap.get, hd] using hv
  | cons e r ih =>
    obtain ⟨j, w⟩ := e
    simp only [AMap.set, AMap.get] at hv ⊢
    by_cases hk : k = j
    · subst hk
      simp only [if_true] at hv ⊢
      simp only [List.flatMap_cons, hv]
    · rw [if_neg (Ne.symm hk)] at hv
      rw [if_neg hk]
      split
      · next h =>
        have hn : AMap.get d r k = d := by rw [AMap.get_eq_find, Option.isNone_iff_eq_none.1 h.2]; rfl
        rw [hn, hd] at hv
        simp only [List.flatMap_cons, hv, List.nil_append]
      · simp only [List.flatMap_cons, ih hv]

/-- What a store of an element changes of its core: no more than contexts, pool, lanes and buffers. -/
def Core.SameChecks (k j : Core) : Prop :=
  j = { k with ctxs := j.ctxs, pool := j.pool, undef := j.undef, lanes := j.lanes, lbuf := j.lbuf, tlb := j.tlb }

/-- The checks of the issuing context's elements find in a state what they find in another: the bundle, the words in error, the
atomics that are not performed, and the bounds and watermarks of its pool. -/
structure State.SameChecks (s t : State) : Prop where
  cur : t.cur = s.cur
  bad : t.bad = s.bad
  mem : t.mem = s.mem
  domains : t.domains = s.domains
  atoms : ∀ c x pl, t.atomsAt c x pl = s.atomsAt c x pl
  core : s.myCore.SameChecks t.myCore

namespace State.SameChecks
variable {s t u : State}

theorem refl (s : State) : s.SameChecks s := ⟨rfl, rfl, rfl, rfl, fun _ _ _ => rfl, rfl⟩
theorem trans (h : s.SameChecks t) (g : t.SameChecks u) : s.SameChecks u where
  cur := g.cur.trans h.cur
  bad := g.bad.trans h.bad
  mem := g.mem.trans h.mem
  domains := g.domains.trans h.domains
  atoms c x pl := (g.atoms c x pl).trans (h.atoms c x pl)
  core := by
    have hc := h.core
    have gc := g.core
    rw [Core.SameChecks] at hc gc ⊢
    rw [hc] at gc
    exact gc
theorem updCore {f : Core → Core} (hf : s.myCore.SameChecks (f s.myCore)) : s.SameChecks (s.updCore s.cur.core f) where
  cur := rfl
  bad := rfl
  mem := rfl
  domains := rfl
  atoms c x pl := by
    have hhandler : (f s.myCore).handler = s.myCore.handler := by rw [Core.SameChecks] at hf; rw [hf]
    refine congrArg (_ ++ ·) (AMap.flatMap_set ({} : Core) (fun k => k.handler.filterMap _) s.cores s.cur.core _ rfl ?_)
    exact congrArg (List.filterMap _) hhandler
  core := by
    rw [show (s.updCore s.cur.core f).myCore = f s.myCore from State.core_updCore_same ..]
    exact hf
theorem updMe (s : State) (f : Ctx → Ctx) : s.SameChecks (s.updMe f) := updCore (f := fun k => k.setCtx s.cur.ctx (f s.me)) rfl
theorem fresh (s : State) : s.SameChecks s.fresh := ⟨rfl, rfl, rfl, rfl, fun _ _ _ => rfl, rfl⟩
/-- Bytes of less than a word put to the pool leave the words in error as they are. -/
theorem putLocal (s : State) (off : Nat) {bs : List Byte} (h : bs.length < 8) : s.SameChecks (s.putLocal s.cur.core off bs) := by
  have hput : s.SameChecks (s.updCore s.cur.core fun k => k.put off bs) := updCore (by
    rw [Core.SameChecks, Core.put_eq])
  have hbad : (s.putLocal s.cur.core off bs).bad = s.bad := by
    refine List.filter_eq_self.2 fun e _ => ?_
    cases e with
    | pool k o =>
      have hshort : ¬(off ≤ o ∧ o + 8 ≤ off + bs.length) := by omega
      simp only [Bool.not_eq_true', Bool.and_eq_false_iff, beq_eq_false_iff_ne, decide_eq_false_iff_not]
      tauto
    | _ => rfl
  exact ⟨hput.cur, hbad, hput.mem, hput.domains, hput.atoms, hput.core⟩

end State.SameChecks

/-! ## Elements of the scratchpad -/

section Storable
variable {s t : State} {a : Word} {n : Nat}

/-- An element that a push may store in the scratchpad: nothing holds it (R112). -/
def State.Storable (s : State) (a : Word) (n : Nat) : Prop :=
  inScratch s.myCore a n = true ∧ s.myCore.marked (offOf a) n = none ∧ s.storeEcc s.cur.core (offOf a) n = none ∧
    s.atomsAt s.cur.core s.cur.ctx (.pool (offOf a)) = []

theorem State.Storable.of_sameChecks (h : s.Storable a n) (hst : s.SameChecks t) : t.Storable a n := by
  obtain ⟨hin, hm, hecc, hat⟩ := h
  have hcore := hst.core
  rw [Core.SameChecks] at hcore
  refine ⟨?_, ?_, ?_, ?_⟩
  · rw [hcore]; exact hin
  · rw [hcore]; exact hm
  · rw [State.storeEcc, hst.bad, hst.cur]; exact hecc
  · rw [hst.atoms, hst.cur]; exact hat
theorem State.elemWrite_of_storable {T : Stream} {e : Nat} (v : Nat) (x : Word32) (h : s.Storable (T.addr e) (etSize T.et)) :
    s.elemWrite v T e x = .ok (s.putLocal s.cur.core (offOf (T.addr e)) (toBytes (etSize T.et) x.toNat)) := by
  obtain ⟨hin, hm, hecc, hat⟩ := h
  simp only [State.elemWrite, isLocal_of_inScratch hin, if_true, State.elemAt_of_free hin hm hat, hecc]

end Storable
theorem etSize_le (et : BitVec 3) : etSize et ≤ 4 := by
  unfold etSize
  split
  · exact le_rfl
  · split <;> decide

/-! ## The elements of a push, one after another -/

section Elems
variable {s : State} {v : Nat} {T : Stream} {X : List Word32}

/-- The elements of a push, stored in order. -/
def State.pushElems (s : State) (v : Nat) (T : Stream) (X : List Word32) : List Nat → Except Fate State
  | [] => .ok s
  | e :: r => (s.elemWrite v T e (X.getD (e - T.pos) 0)).bind fun t => t.pushElems v T X r
theorem State.foldl_elemWrite (es : List Nat) : ∀ r : Except Fate State,
    es.foldl (fun r e => r.bind fun s => s.elemWrite v T e (X.getD (e - T.pos) 0)) r = r.bind fun s => s.pushElems v T X es := by
  induction es with
  | nil => intro r; cases r <;> rfl
  | cons e es ih =>
    intro r
    rw [List.foldl_cons, ih]
    cases r <;> rfl
theorem State.pushBeat_eq (h : T.pos < T.len) (M : Word) :
    s.pushBeat v T M X = (s.pushElems v T X (T.stored M)).map fun t =>
      t.updMe fun k => { k with streams := AMap.set k.streams v { T with pos := T.pos + 64 } } := by
  have hstep : (fun (r : Except Fate State) (e : Nat) => match r with
      | .error f => .error f
      | .ok s => s.elemWrite v T e (X.getD (e - T.pos) 0)) = fun r e => r.bind fun s => s.elemWrite v T e (X.getD (e - T.pos) 0) := by
    funext r e
    cases r <;> rfl
  have hfold := State.foldl_elemWrite (v := v) (T := T) (X := X) (T.stored M) (.ok s)
  rw [← hstep] at hfold
  rw [State.pushBeat, if_neg h.not_ge]
  split
  · next f hf =>
    have helems : s.pushElems v T X (T.stored M) = .error f := hfold.symm.trans hf
    rw [helems]; rfl
  · next t ht =>
    have helems : s.pushElems v T X (T.stored M) = .ok t := hfold.symm.trans ht
    rw [helems]; rfl

end Elems

/-! ## The bytes of the elements stored (R112) -/

/-- An element stored in the pool: for which register, which of its stream, and its bytes at their place. -/
structure ElemStore where
  reg : Nat
  elem : Nat
  off : Nat
  bytes : List Byte
/-- A byte lies in an element stored. -/
def ElemStore.Covers (w : ElemStore) (p : Nat) : Prop := w.off ≤ p ∧ p < w.off + w.bytes.length
/-- The bytes of a pool behind an element stored. -/
def putStore (g : Nat → Byte) (w : ElemStore) (p : Nat) : Byte :=
  if w.off ≤ p ∧ p < w.off + w.bytes.length then w.bytes.getD (p - w.off) 0 else g p
/-- The elements that a register's push stores. -/
def Stream.elemStore (T : Stream) (v : Nat) (X : List Word32) (e : Nat) : ElemStore :=
  { reg := v, elem := e, off := offOf (T.addr e), bytes := toBytes (etSize T.et) (X.getD (e - T.pos) 0).toNat }

section Stores
variable {W : List ElemStore} {p : Nat}

theorem foldl_putStore_of_not_covered (h : ∀ w ∈ W, ¬w.Covers p) (g : Nat → Byte) : W.foldl putStore g p = g p := by
  induction W generalizing g with
  | nil => rfl
  | cons w r ih =>
    exact (ih (fun x hx => h x (List.mem_cons_of_mem _ hx)) (putStore g w)).trans (if_neg (h w List.mem_cons_self))
/-- A byte holds what the last element that covers it stored there, in any order that the stores follow. -/
theorem foldl_putStore_of_last {R : ElemStore → ElemStore → Prop} (hW : W.Pairwise R) {w : ElemStore} (hw : w ∈ W) (hcov : w.Covers p)
    (hlast : ∀ x ∈ W, R w x → ¬x.Covers p) (g : Nat → Byte) : W.foldl putStore g p = w.bytes.getD (p - w.off) 0 := by
  induction W generalizing g with
  | nil => exact absurd hw List.not_mem_nil
  | cons y r ih =>
    obtain ⟨hy, hr⟩ := List.pairwise_cons.1 hW
    rcases List.mem_cons.1 hw with rfl | hw
    · rw [List.foldl_cons, foldl_putStore_of_not_covered fun x hx => hlast x (List.mem_cons_of_mem _ hx) (hy x hx)]
      exact if_pos hcov
    · exact ih hr hw (fun x hx => hlast x (List.mem_cons_of_mem _ hx)) _

end Stores

/-! ## A beat pushed to the scratchpad -/

section Pushes
variable {s : State} {v : Nat} {T : Stream} {X : List Word32} {M : Word}

theorem State.byte_putLocal_elemStore (s : State) (w : ElemStore) : (s.putLocal s.cur.core w.off w.bytes).myCore.byte = putStore s.myCore.byte w := by
  funext p
  exact (congrArg (·.byte p) (State.core_putLocal_same ..)).trans (Core.byte_put ..)
theorem State.myCore_updMe (s : State) (f : Ctx → Ctx) : (s.updMe f).myCore = s.myCore.setCtx s.cur.ctx (f s.me) := State.core_updCtx_same ..
theorem State.byte_updMe (s : State) (f : Ctx → Ctx) : (s.updMe f).myCore.byte = s.myCore.byte := by
  rw [State.myCore_updMe]
  rfl
theorem State.lanes_updMe (s : State) (f : Ctx → Ctx) : (s.updMe f).myCore.lanes = s.myCore.lanes := by
  rw [State.myCore_updMe]
  rfl
theorem State.me_putLocal (s : State) (off : Nat) (bs : List Byte) : (s.putLocal s.cur.core off bs).me = s.me := by
  have hctxs : (s.myCore.put off bs).ctxs = s.myCore.ctxs := by rw [Core.put_eq]
  exact State.me_updCore s (f := fun k => k.put off bs) hctxs
theorem State.pushElems_of_storable {es : List Nat} (h : ∀ e ∈ es, s.Storable (T.addr e) (etSize T.et)) :
    ∃ t, s.pushElems v T X es = .ok t ∧ s.SameChecks t ∧ t.me = s.me ∧
      t.myCore.byte = (es.map (T.elemStore v X)).foldl putStore s.myCore.byte := by
  induction es generalizing s with
  | nil => exact ⟨s, rfl, .refl s, rfl, rfl⟩
  | cons e r ih =>
    have hstep : s.SameChecks (s.putLocal s.cur.core (offOf (T.addr e)) (toBytes (etSize T.et) (X.getD (e - T.pos) 0).toNat)) :=
      .putLocal s _ (by have := etSize_le T.et; rw [length_toBytes]; omega)
    obtain ⟨t, ht, hsame, hme, hbyte⟩ := ih fun x hx => (h x (List.mem_cons_of_mem _ hx)).of_sameChecks hstep
    refine ⟨t, ?_, hstep.trans hsame, hme.trans (s.me_putLocal ..), ?_⟩
    · rw [State.pushElems, State.elemWrite_of_storable v _ (h e List.mem_cons_self)]
      exact ht
    · rw [hbyte, List.map_cons, List.foldl_cons]
      exact congrArg (List.foldl putStore · _) (s.byte_putLocal_elemStore (T.elemStore v X e))
/-- A push stores its elements, and the position moves on by 64 (R112). -/
theorem State.pushBeat_of_storable (hpos : T.pos < T.len) (h : ∀ e ∈ T.stored M, s.Storable (T.addr e) (etSize T.et)) :
    ∃ t, s.pushBeat v T M X = .ok t ∧ s.SameChecks t ∧ t.me = { s.me with streams := AMap.set s.me.streams v { T with pos := T.pos + 64 } } ∧
      t.myCore.byte = ((T.stored M).map (T.elemStore v X)).foldl putStore s.myCore.byte := by
  obtain ⟨t, ht, hsame, hme, hbyte⟩ := State.pushElems_of_storable (v := v) (X := X) h
  refine ⟨_, by rw [State.pushBeat_eq hpos, ht]; rfl, hsame.trans (.updMe t _), by rw [State.me_updMe, hme], ?_⟩
  rw [← hbyte]
  exact State.byte_updMe t _

/-- The elements that a word stores, register by register. -/
def elemStores (st : AMap Stream) (M : Word) (L : List (Nat × List Word32)) : List ElemStore :=
  L.flatMap fun x => (AMap.find st x.1).toList.flatMap fun T => (T.stored M).map (T.elemStore x.1 x.2)
theorem elemStores_congr {m m' : AMap Stream} {L : List (Nat × List Word32)} (h : ∀ x ∈ L, AMap.find m x.1 = AMap.find m' x.1) (M : Word) :
    elemStores m M L = elemStores m' M L := List.flatMap_congr fun x hx => by rw [h x hx]

/-- A stream behind one more beat. -/
def Stream.next (T : Stream) : Stream := { T with pos := T.pos + 64 }
/-- Every register of a push that is bound has elements left, and those that it stores may be stored in the scratchpad. -/
def State.Pushable (s : State) (M : Word) (L : List (Nat × List Word32)) : Prop :=
  ∀ x ∈ L, ∀ T, AMap.find s.me.streams x.1 = some T → T.pos < T.len ∧ ∀ e ∈ T.stored M, s.Storable (T.addr e) (etSize T.et)

/-- The push of one register, or its write where it is not bound. -/
theorem pushAll_cons_of_storable {x : Nat × List Word32} {r : List (Nat × List Word32)} (hsnap : s.cur.snap = none) (h : s.Pushable M [x]) :
    ∃ u, pushAll s M (x :: r) = pushAll u M r ∧ s.SameChecks u ∧
      u.myCore.byte = (elemStores s.me.streams M [x]).foldl putStore s.myCore.byte ∧
      ∀ v, AMap.find u.me.streams v =
        if v = x.1 then (AMap.find s.me.streams v).map Stream.next else AMap.find s.me.streams v := by
  cases hx : AMap.find s.me.streams x.1 with
  | none =>
    refine ⟨s.updMe fun k => k.wv x.1 x.2, by simp only [pushAll, State.src_of_snap_none hsnap, hx], .updMe s _, ?_, fun v => ?_⟩
    · simp only [State.byte_updMe, elemStores, List.flatMap_cons, List.flatMap_nil, hx, Option.toList_none, List.append_nil, List.foldl_nil]
    · rw [State.me_updMe]
      split
      · next hv => rw [hv, hx]; exact hx
      · rfl
  | some T =>
    obtain ⟨hpos, hst⟩ := h x List.mem_cons_self T hx
    obtain ⟨t, ht, hsame, hme, hbyte⟩ := State.pushBeat_of_storable (v := x.1) (X := x.2) hpos hst
    refine ⟨t.updMe fun k => k.wv x.1 x.2, by simp only [pushAll, State.src_of_snap_none hsnap, hx, ht], hsame.trans (.updMe t _), ?_, fun v => ?_⟩
    · simp only [State.byte_updMe, hbyte, elemStores, List.flatMap_cons, List.flatMap_nil, hx, Option.toList_some, List.append_nil]
    · rw [State.me_updMe, hme]
      refine (AMap.find_set ..).trans ?_
      split
      · next hv => rw [if_pos hv.symm, ← hv, hx]; rfl
      · next hv => exact (if_neg (Ne.symm hv)).symm
/-- The pushes of a word whose elements all lie in the scratchpad. -/
theorem pushAll_of_storable {L : List (Nat × List Word32)} (hnodup : (L.map Prod.fst).Nodup) (hsnap : s.cur.snap = none) (h : s.Pushable M L) :
    ∃ t, pushAll s M L = .ok t ∧ s.SameChecks t ∧ t.myCore.byte = (elemStores s.me.streams M L).foldl putStore s.myCore.byte ∧
      ∀ v, AMap.find t.me.streams v =
        if v ∈ L.map Prod.fst then (AMap.find s.me.streams v).map Stream.next else AMap.find s.me.streams v := by
  induction L generalizing s with
  | nil => exact ⟨s, rfl, .refl s, rfl, fun v => rfl⟩
  | cons x r ih =>
    rw [List.map_cons, List.nodup_cons] at hnodup
    obtain ⟨hx, hr⟩ := hnodup
    obtain ⟨u, hu, hsame, hbyte, hfind⟩ := pushAll_cons_of_storable (r := r) hsnap fun y hy =>
      h y (List.mem_singleton.1 hy ▸ List.mem_cons_self)
    have hrest : ∀ v ∈ r.map Prod.fst, AMap.find u.me.streams v = AMap.find s.me.streams v := fun v hv => by
      rw [hfind, if_neg fun (h : v = x.1) => hx (h ▸ hv)]
    have hrest' : ∀ y ∈ r, AMap.find u.me.streams y.1 = AMap.find s.me.streams y.1 := fun y hy => hrest _ (List.mem_map_of_mem hy)
    obtain ⟨t, ht, hsame', hbyte', hfind'⟩ := ih hr (hsame.cur ▸ hsnap) fun y hy T hT => by
      obtain ⟨hpos, hst⟩ := h y (List.mem_cons_of_mem _ hy) T (hrest' y hy ▸ hT)
      exact ⟨hpos, fun e he => (hst e he).of_sameChecks hsame⟩
    refine ⟨t, hu.trans ht, hsame.trans hsame', ?_, fun v => ?_⟩
    · rw [hbyte', hbyte, elemStores_congr hrest', ← List.foldl_append, elemStores, elemStores, ← List.flatMap_append]
      rfl
    · rw [hfind' v, List.map_cons]
      by_cases hv : v ∈ r.map Prod.fst
      · rw [if_pos hv, if_pos (List.mem_cons_of_mem _ hv), hrest v hv]
      · rw [if_neg hv, hfind v]
        exact if_congr (List.mem_cons.trans (or_iff_left hv)).symm rfl rfl

end Pushes

end Machine
end Sys2Proof
end

section
/-! A write of a bound register pushes one beat to the scratchpad (R112). -/

namespace Sys2Proof
namespace Machine

/-! ## `VMOV` from an unbound register -/

section Source
variable {s : State} {ty : VType} {w : Bool} {d a : BitVec 5}

/-- The registers that `VMOV` pushes or writes where no register that it reads is bound, each with its lanes. -/
def State.pushedRegs (s : State) (w : Bool) (d a : BitVec 5) : List (Nat × List Word32) :=
  (moveOut w d a { reg := s.src.vr, mask := s.wordMask [] (vregs w d) }).regs

theorem State.map_fst_pushedRegs (s : State) (w : Bool) (d a : BitVec 5) : (s.pushedRegs w d a).map Prod.fst = vregs w d := map_fst_zip_splitLanes ..
/-- The lanes that a register's push is given, by the register's place. -/
def State.pushedLanes (s : State) (w : Bool) (d a : BitVec 5) (j : Nat) : List Word32 :=
  (splitLanes w (movedValues w d a { reg := s.src.vr, mask := s.wordMask [] (vregs w d) })).getD j []
theorem State.mem_pushedRegs {j : Nat} (hj : j < (vregs w d).length) : ((vregs w d).getD j 0, s.pushedLanes w d a j) ∈ s.pushedRegs w d a :=
  mem_zip_splitLanes w d _ hj
theorem State.exists_of_mem_pushedRegs {x : Nat × List Word32} (hx : x ∈ s.pushedRegs w d a) :
    ∃ j, j < (vregs w d).length ∧ x = ((vregs w d).getD j 0, s.pushedLanes w d a j) := by
  obtain ⟨j, hj, rfl⟩ := List.getElem_of_mem hx
  have hjd : j < (vregs w d).length := by
    rw [← s.map_fst_pushedRegs w d a, List.length_map]; exact hj
  have hjR : j < (splitLanes w (movedValues w d a { reg := s.src.vr, mask := s.wordMask [] (vregs w d) })).length := by
    rwa [length_splitLanes w d]
  refine ⟨j, hjd, ?_⟩
  rw [State.pushedLanes, List.getD_eq_getElem _ _ hjd, List.getD_eq_getElem _ _ hjR]
  exact List.getElem_zip
theorem State.getD_pushedLanes {j l : Nat} (hj : j < (vregs w d).length) (hl : l < 64) (hM : (s.wordMask [] (vregs w d)).getLsbD l = true) :
    (s.pushedLanes w d a j).getD l 0 = (s.src.vr ((vregs w a).getD j 0)).getD l 0 := by
  rw [State.pushedLanes, getD_splitLanes_movedValues (fun v => length_vr ..) hj hl]
  exact if_pos hM

variable (hsnap : s.cur.snap = none) (hA : ∀ v ∈ vregs ty.wide a, AMap.find s.me.streams v = none)
  (hD : ∀ v ∈ vregs ty.wide d, ∀ T, AMap.find s.me.streams v = some T → T.write = true)
include hsnap hA hD

theorem exec_vmov_of_unbound_source : exec (.vmov ty d a) s = .next (s.wordBehind [] (vregs ty.wide d) (moveOut ty.wide d a)) := by
  have hsrc := State.src_of_snap_none hsnap
  rw [← hsrc] at hA hD
  have hpops : popAll s (vregs ty.wide a).dedup = .ok [] := popAll_unbound s _ fun v hv => hA v (List.mem_dedup.1 hv)
  rw [exec_vmov, State.aWord_of_rightly_bound (fun v hv T hT => absurd ((hA v hv).symm.trans hT) nofun) hD, hpops]
/-- Where there is room for its global stores, a word ends as its pushes end. -/
theorem exec_vmov_of_pushes (hroom : s.globalStores (vregs ty.wide d) (s.wordMask [] (vregs ty.wide d)) = [] ∨
      s.laneRoom (s.globalStores (vregs ty.wide d) (s.wordMask [] (vregs ty.wide d))).length = none) :
    exec (.vmov ty d a) s = .next (match pushAll s (s.wordMask [] (vregs ty.wide d)) (s.pushedRegs ty.wide d a) with
      | .error f => s.suffer f
      | .ok t => t.updMe id) := by
  have hroom' : (if s.globalStores (vregs ty.wide d) (s.wordMask [] (vregs ty.wide d)) = [] then none else
      s.laneRoom (s.globalStores (vregs ty.wide d) (s.wordMask [] (vregs ty.wide d))).length) = none := by
    rcases hroom with h | h
    · exact if_pos h
    · rw [h]; exact ite_self _
  rw [exec_vmov_of_unbound_source hsnap hA hD, State.wordBehind]
  simp only [hroom']
  have hpush : pushAll (s.takePops []) (s.wordMask [] (vregs ty.wide d))
      (moveOut ty.wide d a { reg := s.wordReg [], mask := s.wordMask [] (vregs ty.wide d) }).regs =
    pushAll s (s.wordMask [] (vregs ty.wide d)) (s.pushedRegs ty.wide d a) := rfl
  rw [hpush]
  cases pushAll s (s.wordMask [] (vregs ty.wide d)) (s.pushedRegs ty.wide d a) with
  | error f => rfl
  | ok t => exact congrArg Host.Outcome.next (State.raiseFlags_fNone t)

end Source

/-! ## The elements that a push stores -/

section Stored
variable {s : State} {T : Stream} {M : Word} {w : Bool} {d a : BitVec 5}

theorem Stream.mem_stored (hal : T.pos % 64 = 0) {e : Nat} :
    e ∈ T.stored M ↔ ∃ l, l < 64 ∧ T.pos + l < T.len ∧ M.getLsbD l = true ∧ e = T.pos + l := by
  have hbase : 64 * (T.pos / 64) = T.pos := by omega
  simp only [Stream.stored, Stream.beatElems, List.mem_filter, List.mem_map, List.mem_range, hbase]
  constructor
  · rintro ⟨⟨l, hl, rfl⟩, hM⟩
    obtain ⟨hl, hlen⟩ := Nat.lt_min.1 hl
    exact ⟨l, hl, by omega, by rwa [Nat.add_sub_cancel_left] at hM, rfl⟩
  · rintro ⟨l, hl, hlen, hM, rfl⟩
    exact ⟨⟨l, Nat.lt_min.2 ⟨hl, by omega⟩, rfl⟩, by rwa [Nat.add_sub_cancel_left]⟩
theorem Stream.pairwise_stored : (T.stored M).Pairwise (· < ·) := by
  refine List.Pairwise.filter _ (List.pairwise_map.2 (List.pairwise_lt_range.imp fun h => ?_))
  omega
theorem Stream.mem_beatElems_of_stored {e : Nat} (h : e ∈ T.stored M) : e ∈ T.beatElems (T.pos / 64) := (List.mem_filter.1 h).1

/-- An element stored before another: of an earlier register, or earlier in its stream. -/
def ElemStore.Before (x y : ElemStore) : Prop := x.reg < y.reg ∨ x.reg = y.reg ∧ x.elem < y.elem
theorem pairwise_elemStores {st : AMap Stream} {L : List (Nat × List Word32)} (hL : (L.map Prod.fst).Pairwise (· < ·)) :
    (elemStores st M L).Pairwise ElemStore.Before := by
  refine List.pairwise_flatMap.2 ⟨fun x _ => ?_, (List.pairwise_map.1 hL).imp fun {x y} hxy u hu w hw => ?_⟩
  · cases AMap.find st x.1 with
    | none => exact List.Pairwise.nil
    | some T =>
      rw [Option.toList_some, List.flatMap_singleton]
      exact List.pairwise_map.2 (Stream.pairwise_stored.imp fun h => .inr ⟨rfl, h⟩)
  · obtain ⟨_, -, e, -, rfl⟩ : ∃ T ∈ (AMap.find st x.1).toList, ∃ e ∈ T.stored M, T.elemStore x.1 x.2 e = u := by
      simpa only [List.mem_flatMap, List.mem_map] using hu
    obtain ⟨_, -, e, -, rfl⟩ : ∃ T ∈ (AMap.find st y.1).toList, ∃ e ∈ T.stored M, T.elemStore y.1 y.2 e = w := by
      simpa only [List.mem_flatMap, List.mem_map] using hw
    exact .inl hxy
theorem pairwise_vregs (w : Bool) (v : BitVec 5) : (vregs w v).Pairwise (· < ·) := by cases w <;> simp [vregs]
theorem getD_vregs {j : Nat} (hj : j < (vregs w d).length) : (vregs w d).getD j 0 = d.toNat + j := by
  cases w
  · obtain rfl : j = 0 := Nat.lt_one_iff.1 hj
    rfl
  · have hj2 : j < 2 := hj
    obtain rfl | rfl : j = 0 ∨ j = 1 := by omega
    · rfl
    · rfl
/-- The elements that `VMOV` stores, each by the place of its register and its lane. -/
theorem State.mem_elemStores_pushedRegs {st : AMap Stream} (hal : ∀ v ∈ vregs w d, ∀ T, AMap.find st v = some T → T.pos % 64 = 0) {x : ElemStore} :
    x ∈ elemStores st M (s.pushedRegs w d a) ↔ ∃ j T l, j < (vregs w d).length ∧ AMap.find st ((vregs w d).getD j 0) = some T ∧
      (l < 64 ∧ T.pos + l < T.len ∧ M.getLsbD l = true) ∧ x = T.elemStore ((vregs w d).getD j 0) (s.pushedLanes w d a j) (T.pos + l) := by
  simp only [elemStores, List.mem_flatMap, List.mem_map, Option.mem_toList]
  constructor
  · rintro ⟨y, hy, T, hT, e, he, rfl⟩
    obtain ⟨j, hj, rfl⟩ := State.exists_of_mem_pushedRegs hy
    obtain ⟨l, hl, hlen, hM, rfl⟩ := (Stream.mem_stored (hal _ (getD_mem_vregs hj) T hT)).1 he
    exact ⟨j, T, l, hj, hT, ⟨hl, hlen, hM⟩, rfl⟩
  · rintro ⟨j, T, l, hj, hT, ⟨hl, hlen, hM⟩, rfl⟩
    exact ⟨_, State.mem_pushedRegs hj, T, hT, _, (Stream.mem_stored (hal _ (getD_mem_vregs hj) T hT)).2 ⟨l, hl, hlen, hM, rfl⟩, rfl⟩

end Stored

/-! ## A push to the scratchpad -/

section Push
variable {s : State} {ty : VType} {w : Bool} {d a : BitVec 5}

/-- A lane takes part in a push: it is in the mask, and no stream that is pushed ends before it (R112). -/
def State.Pushes (s : State) (D : List Nat) (l : Nat) : Prop :=
  l < 64 ∧ s.me.amask.getLsbD l = true ∧ ∀ v ∈ D, ∀ T, AMap.find s.me.streams v = some T → T.pos + l < T.len
/-- A byte of the pool lies in the element that a lane of a push stores. -/
def Stream.Has (T : Stream) (l p : Nat) : Prop := offOf (T.addr (T.pos + l)) ≤ p ∧ p < offOf (T.addr (T.pos + l)) + etSize T.et
theorem Stream.covers_elemStore {T : Stream} {v l p : Nat} {X : List Word32} : (T.elemStore v X (T.pos + l)).Covers p ↔ T.Has l p := by
  rw [ElemStore.Covers, Stream.Has, Stream.elemStore, length_toBytes]
theorem getD_toBytes_word32 {n i : Nat} (h : i < n) (x : Word32) : (toBytes n x.toNat).getD i 0 = (x >>> (8 * i)).setWidth 8 := by
  rw [getD_toBytes h]
  apply BitVec.eq_of_toNat_eq
  rw [BitVec.toNat_setWidth, BitVec.toNat_ushiftRight, Nat.shiftRight_eq_div_pow, BitVec.toNat_ofNat, Nat.pow_mul]

variable (hsnap : s.cur.snap = none)
  (hal : ∀ v ∈ vregs w d, ∀ T, AMap.find s.me.streams v = some T → T.pos % 64 = 0)
include hsnap hal

theorem State.pushes_iff {l : Nat} : s.Pushes (vregs w d) l ↔ l < 64 ∧ (s.wordMask [] (vregs w d)).getLsbD l = true := by
  refine and_congr_right fun hl => Iff.trans ?_ (State.getLsbD_wordMask hl fun _ h => absurd h List.not_mem_nil).symm
  rw [State.src_of_snap_none hsnap]
  refine and_congr_right fun _ => Iff.trans ?_ (and_iff_right fun _ h => absurd h List.not_mem_nil).symm
  refine forall_congr' fun v => forall_congr' fun hv => forall_congr' fun T => forall_congr' fun hT => ?_
  have := hal v hv T hT
  omega
theorem State.mem_stores_of_push {x : ElemStore} : x ∈ elemStores s.me.streams (s.wordMask [] (vregs w d)) (s.pushedRegs w d a) ↔
    ∃ j T l, j < (vregs w d).length ∧ AMap.find s.me.streams ((vregs w d).getD j 0) = some T ∧ s.Pushes (vregs w d) l ∧
      x = T.elemStore ((vregs w d).getD j 0) (s.pushedLanes w d a j) (T.pos + l) := by
  rw [State.mem_elemStores_pushedRegs hal]
  refine exists_congr fun j => exists_congr fun T => exists_congr fun l => and_congr_right fun hj => and_congr_right fun hT =>
    and_congr_left fun _ => ?_
  rw [State.pushes_iff hsnap hal]
  refine ⟨fun ⟨hl, _, hM⟩ => ⟨hl, hM⟩, fun ⟨hl, hM⟩ => ⟨hl, ?_, hM⟩⟩
  exact ((State.pushes_iff hsnap hal).2 ⟨hl, hM⟩).2.2 _ (getD_mem_vregs hj) T hT
/-- A byte outside the elements stored keeps its value. -/
theorem State.byte_push_of_not_has {p : Nat} (hp : ∀ v ∈ vregs w d, ∀ T l, AMap.find s.me.streams v = some T → s.Pushes (vregs w d) l → ¬T.Has l p) :
    (elemStores s.me.streams (s.wordMask [] (vregs w d)) (s.pushedRegs w d a)).foldl putStore s.myCore.byte p = s.myCore.byte p := by
  refine foldl_putStore_of_not_covered (fun x hx => ?_) _
  obtain ⟨j, T, l, hj, hT, hl, rfl⟩ := (State.mem_stores_of_push hsnap hal).1 hx
  exact fun h => hp _ (getD_mem_vregs hj) T l hT hl (Stream.covers_elemStore.1 h)
/-- A byte holds its part of the last element stored there. -/
theorem State.byte_push_of_last {j l p : Nat} {T : Stream} (hj : j < (vregs w d).length) (hT : AMap.find s.me.streams ((vregs w d).getD j 0) = some T)
    (hl : s.Pushes (vregs w d) l) (hp : T.Has l p)
    (hlast : ∀ i U m, i < (vregs w d).length → AMap.find s.me.streams ((vregs w d).getD i 0) = some U → s.Pushes (vregs w d) m →
      j < i ∨ (j = i ∧ l < m) → ¬U.Has m p) :
    (elemStores s.me.streams (s.wordMask [] (vregs w d)) (s.pushedRegs w d a)).foldl putStore s.myCore.byte p =
      (((s.me.vr ((vregs w a).getD j 0)).getD l 0) >>> (8 * (p - offOf (T.addr (T.pos + l))))).setWidth 8 := by
  have hsort : ((s.pushedRegs w d a).map Prod.fst).Pairwise (· < ·) := by
    rw [s.map_fst_pushedRegs w d a]; exact pairwise_vregs w d
  obtain ⟨hl64, hM⟩ := (State.pushes_iff hsnap hal).1 hl
  obtain ⟨hlo, hhi⟩ := id hp
  refine (foldl_putStore_of_last (pairwise_elemStores hsort) ((State.mem_stores_of_push hsnap hal).2 ⟨j, T, l, hj, hT, hl, rfl⟩)
    (Stream.covers_elemStore.2 hp) (fun x hx hbefore => ?_) _).trans ?_
  · obtain ⟨i, U, m, hi, hU, hm, rfl⟩ := (State.mem_stores_of_push hsnap hal).1 hx
    rw [Stream.covers_elemStore]
    refine hlast i U m hi hU hm ?_
    rcases hbefore with h | ⟨h, hlt⟩
    · exact .inl (by simp only [Stream.elemStore, getD_vregs hj, getD_vregs hi] at h; omega)
    · have hji : j = i := by simp only [Stream.elemStore, getD_vregs hj, getD_vregs hi] at h; omega
      subst hji
      obtain rfl := Option.some.inj (hT.symm.trans hU)
      exact .inr ⟨rfl, by simp only [Stream.elemStore] at hlt; omega⟩
  · have hlane : (s.pushedLanes w d a j).getD (T.pos + l - T.pos) 0 = (s.me.vr ((vregs w a).getD j 0)).getD l 0 := by
      rw [Nat.add_sub_cancel_left, State.getD_pushedLanes hj hl64 hM, State.src_of_snap_none hsnap]
    simp only [Stream.elemStore, hlane]
    exact getD_toBytes_word32 (by omega) _

omit hal in
/-- A push to the scratchpad stores its elements one after another, and every position moves on by 64 elements (R112). -/
theorem exec_vmov_push (hA : ∀ v ∈ vregs ty.wide a, AMap.find s.me.streams v = none)
    (hD : ∀ v ∈ vregs ty.wide d, ∀ T, AMap.find s.me.streams v = some T → T.write = true ∧ T.pos < T.len ∧
      ∀ e ∈ T.beatElems (T.pos / 64), s.Storable (T.addr e) (etSize T.et)) :
    ∃ t, exec (.vmov ty d a) s = .next t ∧ t.cur = s.cur ∧
      (∀ v ∈ vregs ty.wide d, ∀ T, AMap.find s.me.streams v = some T → AMap.find t.me.streams v = some T.next) ∧
      t.myCore.byte = (elemStores s.me.streams (s.wordMask [] (vregs ty.wide d)) (s.pushedRegs ty.wide d a)).foldl putStore s.myCore.byte := by
  have hstores : s.globalStores (vregs ty.wide d) (s.wordMask [] (vregs ty.wide d)) = [] := by
    refine List.flatMap_eq_nil_iff.2 fun T hT => List.filter_eq_nil_iff.2 fun e he => ?_
    obtain ⟨v, hv, hT⟩ := List.mem_filterMap.1 hT
    rw [State.src_of_snap_none hsnap] at hT
    rw [isLocal_of_inScratch ((hD v hv T hT).2.2 e (Stream.mem_beatElems_of_stored he)).1]
    exact Bool.false_ne_true
  have hkeys := s.map_fst_pushedRegs ty.wide d a
  obtain ⟨t, ht, hsame, hbyte, hfind⟩ := pushAll_of_storable (M := s.wordMask [] (vregs ty.wide d)) (L := s.pushedRegs ty.wide d a)
    (hkeys ▸ nodup_vregs ty.wide d) hsnap fun x hx T hT => by
      have hmem : x.1 ∈ vregs ty.wide d := hkeys ▸ List.mem_map_of_mem hx
      obtain ⟨-, hpos, hst⟩ := hD _ hmem T hT
      exact ⟨hpos, fun e he => hst e (Stream.mem_beatElems_of_stored he)⟩
  refine ⟨t.updMe id, ?_, hsame.cur, fun v hv T hT => ?_, (State.byte_updMe t id).trans hbyte⟩
  · rw [exec_vmov_of_pushes hsnap hA (fun v hv T hT => (hD v hv T hT).1) (.inl hstores), ht]
  · rw [State.me_updMe, id, hfind, hkeys, if_pos hv, hT]
    rfl

end Push

end Machine
end Sys2Proof
end

section
/-! A write of a bound register whose elements are global enters the store lanes in element order (R116). -/

namespace Sys2Proof
namespace Machine

/-! ## Translations at hand -/

theorem bufFind_bufPut {n : Nat} (l : List (Nat × Bool × Word)) {va va' : Word} (e : Word) (h : pageOf va' = pageOf va) :
    bufFind (bufPut (n + 1) l va e) va' = some e := by
  rw [bufFind, bufPut, List.take_succ_cons, h, List.find?_cons_of_pos]
  cases Entry.big e <;> simp

section Lookup
variable {s t : State} {va : Word} {need : Need} {pa : Nat} {at_ : BitVec 2} {e : Word}

/-- A translation is at hand where an entry of the core's buffer, or of the bundle's own answers, passes the checks (R331). -/
theorem State.lookup_eq_ok_iff : s.lookup va need = .ok pa at_ e ↔ bits va 57 7 = 0 ∧
    (bufFind s.myCore.tlb va).or (bufFind s.me.xhave va) = some e ∧ checkEntry (s.domOf s.cur.core) va e need = .ok (pa, at_) := by
  simp only [State.lookup]
  split
  · next h => exact ⟨nofun, fun hr => absurd hr.1 h⟩
  · next h =>
    rw [not_not] at h
    split
    · next x hx =>
      rw [hx]
      split
      · next f hf => exact ⟨nofun, fun ⟨_, he, hc⟩ => by rw [Option.some.inj he, hc] at hf; cases hf⟩
      · next p a hp =>
        refine ⟨fun ho => ?_, fun ⟨_, he, hc⟩ => ?_⟩
        · cases ho
          exact ⟨h, rfl, hp⟩
        · obtain rfl := Option.some.inj he
          cases hp.symm.trans hc
          rfl
    · next hn =>
      rw [hn]
      refine ⟨fun ho => ?_, fun ⟨_, he, _⟩ => nomatch he⟩
      split at ho <;> cases ho
/-- A translation at hand stays at hand where the buffer of a core of the same domain has its entry. -/
theorem State.lookup_of_bufFind (h : s.lookup va need = .ok pa at_ e) (hdom : t.domOf t.cur.core = s.domOf s.cur.core)
    (htlb : bufFind t.myCore.tlb va = some e) : t.lookup va need = .ok pa at_ e := by
  obtain ⟨hbits, -, hcheck⟩ := State.lookup_eq_ok_iff.1 h
  exact State.lookup_eq_ok_iff.2 ⟨hbits, by rw [htlb]; rfl, by rw [hdom]; exact hcheck⟩

end Lookup

theorem State.SameChecks.domOf {s t : State} (h : s.SameChecks t) : t.domOf t.cur.core = s.domOf s.cur.core := by
  rw [State.domOf, State.domOf, State.baseOf, State.baseOf, h.domains, h.cur]

/-! ## One global element -/

theorem Core.entered_eq (k : Core) (e : LaneEntry) : k.entered e = { k with lanes := k.lanes ++ [e], lbuf := (k.entered e).lbuf } := by
  unfold Core.entered
  split
  · rfl
  · split <;> rfl
theorem Core.tlb_entered (k : Core) (e : LaneEntry) : (k.entered e).tlb = k.tlb := by rw [k.entered_eq e]

section Global
variable {s t : State} {v : Nat} {T : Stream} {X : List Word32} {page : Nat} {pa : Nat → Nat} {at_ : BitVec 2} {ent : Word} {e : Nat}

/-- A global element that a push may store: its translation is at hand, and no atomic of the context stands before it (R112). -/
structure State.Sendable (s : State) (T : Stream) (page : Nat) (pa : Nat → Nat) (at_ : BitVec 2) (ent : Word) (e : Nat) : Prop where
  global : isLocal (T.addr e) = false
  page : pageOf (T.addr e) = page
  lookup : s.lookup (T.addr e) ⟨false, true⟩ = .ok (pa e) at_ ent
  atoms : s.atomsAt s.cur.core s.cur.ctx (.phys (pa e) false) = []

theorem State.Sendable.of_sameChecks (h : s.Sendable T page pa at_ ent e) (hst : s.SameChecks t)
    (htlb : ∀ va, pageOf va = page → bufFind t.myCore.tlb va = some ent) : t.Sendable T page pa at_ ent e where
  global := h.global
  page := h.page
  lookup := State.lookup_of_bufFind h.lookup hst.domOf (htlb _ h.page)
  atoms := by rw [hst.atoms, hst.cur]; exact h.atoms

/-- The lane entry of an element, without what names its place in the lanes (R116). -/
def LaneEntry.stores (l : LaneEntry) : Nat × Word × Nat × Nat × Word × Bool × Bool := (l.ctx, l.va, l.pa, l.n, l.data, l.versioned, l.recl)
/-- What the entry of an element says. -/
def Stream.sent (T : Stream) (ctx : Nat) (X : List Word32) (pa : Nat → Nat) (at_ : BitVec 2) (e : Nat) : Nat × Word × Nat × Nat × Word × Bool × Bool :=
  (ctx, T.addr e, pa e, etSize T.et, (X.getD (e - T.pos) 0).setWidth 64, at_ == 1, false)

/-- The state behind the stores of some global elements: they stand in the store lanes, and the buffers may have changed. -/
structure State.Sent (s t : State) (E : List LaneEntry) : Prop where
  checks : s.SameChecks t
  core : t.myCore = { s.myCore with lanes := s.myCore.lanes ++ E, lbuf := t.myCore.lbuf, tlb := t.myCore.tlb }

theorem State.Sent.me {E : List LaneEntry} (h : s.Sent t E) : t.me = s.me := by
  rw [State.me, State.ctx, h.checks.cur, ← h.checks.cur]
  exact (congrArg (·.ctx t.cur.ctx) h.core).trans (congrArg (s.myCore.ctx ·) (congrArg (·.ctx) h.checks.cur))
theorem State.Sent.byte {E : List LaneEntry} (h : s.Sent t E) : t.myCore.byte = s.myCore.byte := by rw [h.core]; rfl
theorem State.Sent.trans {u : State} {E F : List LaneEntry} (h : s.Sent t E) (g : t.Sent u F) : s.Sent u (E ++ F) where
  checks := h.checks.trans g.checks
  core := by
    have hg := g.core
    rw [h.core] at hg
    rw [hg]
    simp only [List.append_assoc]
theorem State.Sent.refl (s : State) : s.Sent s [] where
  checks := .refl s
  core := by simp

theorem State.Sent.of_updCore {f : Core → Core} {E : List LaneEntry}
    (h : f s.myCore = { s.myCore with lanes := s.myCore.lanes ++ E, lbuf := (f s.myCore).lbuf, tlb := (f s.myCore).tlb }) :
    s.Sent (s.updCore s.cur.core f) E where
  checks := .updCore (by rw [Core.SameChecks, h])
  core := by
    have hcore : (s.updCore s.cur.core f).myCore = f s.myCore := State.core_updCore_same ..
    rw [hcore]
    exact h
theorem State.Sent.fresh {E : List LaneEntry} (h : s.Sent t E) : s.Sent t.fresh E where
  checks := h.checks.trans (.fresh t)
  core := h.core
/-- An element enters its lane where there is room for it (R116, R283). -/
theorem State.elemWrite_of_sendable (h : s.Sendable T page pa at_ ent e) (hat : at_ ≠ 2) (hpush : s.me.push = [])
    (hroom : s.myCore.laneCount s.cur.ctx < 64) (x : Word32) :
    ∃ t l, s.elemWrite v T e x = .ok t ∧ s.Sent t [l] ∧ (∀ va, pageOf va = page → bufFind t.myCore.tlb va = some ent) ∧
      l.stores = (s.cur.ctx, T.addr e, pa e, etSize T.et, x.setWidth 64, at_ == 1, false) := by
  have hbuf : s.Sent (s.updCore s.cur.core fun k => { k with tlb := bufPut 64 k.tlb (T.addr e) ent }) [] := .of_updCore (by simp)
  have hgo : s.elemWrite v T e x = .ok ((s.updCore s.cur.core fun k => { k with tlb := bufPut 64 k.tlb (T.addr e) ent }).streamStore
      (T.addr e) (pa e) (etSize T.et) (x.setWidth 64) (at_ == 1)) := by
    simp only [State.elemWrite, h.global, Bool.false_eq_true, if_false, h.lookup, if_neg hat, State.afterAtoms, h.atoms]
  have htlb : (s.updCore s.cur.core fun k => { k with tlb := bufPut 64 k.tlb (T.addr e) ent }).myCore.tlb =
      bufPut 64 s.myCore.tlb (T.addr e) ent := congrArg Core.tlb (State.core_updCore_same ..)
  rw [hgo]
  generalize s.updCore s.cur.core (fun k => { k with tlb := bufPut 64 k.tlb (T.addr e) ent }) = u at hbuf htlb ⊢
  have hroom' : ¬64 ≤ u.myCore.laneCount u.cur.ctx := by
    rw [hbuf.core, hbuf.checks.cur, List.append_nil]
    exact hroom.not_ge
  have hstore : u.streamStore (T.addr e) (pa e) (etSize T.et) (x.setWidth 64) (at_ == 1) =
      u.enterLane (T.addr e) (pa e) (etSize T.et) (x.setWidth 64) (at_ == 1) false := by
    simp only [State.streamStore, decide_eq_false hroom', hbuf.me, hpush]
    simp
  have hent : u.Sent (u.enterLane (T.addr e) (pa e) (etSize T.et) (x.setWidth 64) (at_ == 1) false)
      [u.laneEntry (T.addr e) (pa e) (etSize T.et) (x.setWidth 64) (at_ == 1) false] :=
    .fresh (.of_updCore ((Core.entered_eq ..).trans (by rw [Core.entered_eq])))
  refine ⟨_, _, congrArg Except.ok hstore, hbuf.trans hent, fun va hva => ?_, ?_⟩
  · have htlb' : (u.enterLane (T.addr e) (pa e) (etSize T.et) (x.setWidth 64) (at_ == 1) false).myCore.tlb = u.myCore.tlb :=
      (congrArg Core.tlb (State.core_updCore_same u _ fun k =>
        k.entered (u.laneEntry (T.addr e) (pa e) (etSize T.et) (x.setWidth 64) (at_ == 1) false))).trans (Core.tlb_entered ..)
    rw [htlb', htlb]
    exact bufFind_bufPut _ _ (hva.trans h.page.symm)
  · rw [LaneEntry.stores, State.laneEntry, hbuf.checks.cur]
/-- The elements of a push enter the lanes in order, with their words (R116). -/
theorem State.pushElems_of_sendable {es : List Nat} (h : ∀ e ∈ es, s.Sendable T page pa at_ ent e) (hat : at_ ≠ 2) (hpush : s.me.push = [])
    (hroom : s.myCore.laneCount s.cur.ctx + es.length ≤ 64) :
    ∃ t E, s.pushElems v T X es = .ok t ∧ s.Sent t E ∧ E.map LaneEntry.stores = es.map (T.sent s.cur.ctx X pa at_) := by
  induction es generalizing s with
  | nil => exact ⟨s, [], rfl, .refl s, rfl⟩
  | cons e r ih =>
    rw [List.length_cons] at hroom
    obtain ⟨t, l, ht, hsent, htlb, hl⟩ := State.elemWrite_of_sendable (v := v) (h e List.mem_cons_self) hat hpush (by omega) (X.getD (e - T.pos) 0)
    have hcount : t.myCore.laneCount t.cur.ctx ≤ s.myCore.laneCount s.cur.ctx + 1 := by
      rw [hsent.core, hsent.checks.cur]
      simp only [Core.laneCount, List.filter_append, List.length_append]
      exact Nat.add_le_add_left (List.length_filter_le _ _) _
    obtain ⟨u, E, hu, hsent', hE⟩ := ih (fun x hx => (h x (List.mem_cons_of_mem _ hx)).of_sameChecks hsent.checks htlb)
      (hsent.me ▸ hpush) (by omega)
    refine ⟨u, l :: E, by rw [State.pushElems, ht]; exact hu, hsent.trans hsent', ?_⟩
    rw [List.map_cons, List.map_cons, hl, hE, hsent.checks.cur]
    rfl

end Global

/-! ## The push of a narrow `VMOV` -/

section Push
variable {s : State} {ty : VType} {d a : BitVec 5} {T : Stream}

theorem State.wordMask_of_bound {v : Nat} (h : AMap.find s.src.streams v = some T) :
    s.wordMask [] [v] = s.src.amask &&& T.tail (T.pos / 64) := by
  simp only [State.wordMask, List.map_nil, List.nil_append, List.filterMap_cons, h, List.filterMap_nil, List.map_cons, List.foldl_cons, List.foldl_nil]
theorem State.globalStores_of_bound {v : Nat} (h : AMap.find s.src.streams v = some T) (M : Word) :
    s.globalStores [v] M = (T.stored M).filter fun e => !isLocal (T.addr e) := by
  simp only [State.globalStores, List.filterMap_cons, h, List.filterMap_nil, List.flatMap_cons, List.flatMap_nil, List.append_nil]
theorem pushAll_singleton_of_bound {v : Nat} (h : AMap.find s.src.streams v = some T) (M : Word) (X : List Word32) :
    pushAll s M [(v, X)] = (s.pushBeat v T M X).map fun t => t.updMe fun k => k.wv v X := by
  simp only [pushAll, h]
  cases s.pushBeat v T M X <;> rfl
/-- Where a lane's room is asked of 64 or fewer stores, there is room while 64 are not held and none waits (R283). -/
theorem State.laneRoom_eq_none {n : Nat} (hn : s.myCore.laneCount s.cur.ctx + n ≤ 64) (hk : s.myCore.laneCount s.cur.ctx < 64) (hpush : s.me.push = []) :
    s.laneRoom n = none := by
  rw [State.laneRoom]
  split
  · exact if_neg (by omega)
  · exact if_neg (not_or.2 ⟨hk.not_ge, not_not.2 hpush⟩)
theorem Stream.stored_of_end (hend : T.len ≤ T.pos) (hal : T.pos % 64 = 0) (M : Word) : T.stored M = [] := by
  refine List.eq_nil_iff_forall_not_mem.2 fun e he => ?_
  obtain ⟨l, -, hlt, -, -⟩ := (Stream.mem_stored hal).1 he
  omega

variable (hsnap : s.cur.snap = none) (hty : ty.wide = false) (hA : ∀ v ∈ vregs ty.wide a, AMap.find s.me.streams v = none)
  (hT : AMap.find s.me.streams d.toNat = some T) (hwr : T.write = true)
include hsnap hty hA hT hwr

/-- Where there is room for its global stores, a narrow word ends as its one push ends. -/
theorem exec_vmov_of_push {M : Word} (hM : M = s.me.amask &&& T.tail (T.pos / 64))
    (hroom : (T.stored M).filter (fun e => !isLocal (T.addr e)) = [] ∨
      s.laneRoom ((T.stored M).filter fun e => !isLocal (T.addr e)).length = none) :
    exec (.vmov ty d a) s = .next (match s.pushBeat d.toNat T M (s.pushedLanes false d a 0) with
      | .error f => s.suffer f
      | .ok t => (t.updMe fun k => k.wv d.toNat (s.pushedLanes false d a 0)).updMe id) := by
  have hsrc := State.src_of_snap_none hsnap
  have hT' : AMap.find s.src.streams d.toNat = some T := hsrc ▸ hT
  have hmask : s.wordMask [] (vregs ty.wide d) = M := by
    rw [hty, hM, ← hsrc]
    exact State.wordMask_of_bound hT'
  have hstores := State.globalStores_of_bound hT' M
  rw [exec_vmov_of_pushes hsnap hA (fun v hv U hU => ?_) (by rw [hmask, hty]; exact hstores.symm ▸ hroom), hmask, hty]
  · rw [show s.pushedRegs false d a = [(d.toNat, s.pushedLanes false d a 0)] from rfl, pushAll_singleton_of_bound hT']
    cases s.pushBeat d.toNat T M (s.pushedLanes false d a 0) <;> rfl
  · rw [hty] at hv
    rw [List.mem_singleton.1 hv] at hU
    exact Option.some.inj (hT.symm.trans hU) ▸ hwr
/-- A push past the end faults STREAM, reason 3 (R112). -/
theorem exec_vmov_push_of_end (hend : T.len ≤ T.pos) (hal : T.pos % 64 = 0) :
    exec (.vmov ty d a) s = .next (s.raise (streamFlt d.toNat 3 T.pos)) := by
  have hnil := Stream.stored_of_end hend hal (s.me.amask &&& T.tail (T.pos / 64))
  rw [exec_vmov_of_push hsnap hty hA hT hwr rfl (.inl (by rw [hnil]; rfl))]
  simp only [State.pushBeat, if_pos hend]
  exact congrArg Host.Outcome.next (s.suffer_fault nofun nofun)
/-- A push of global elements enters the lanes (R116). -/
theorem exec_vmov_push_of_sendable {pa : Nat → Nat} {at_ : BitVec 2} {ent : Word} {page : Nat} (hpos : T.pos < T.len) (hal : T.pos % 64 = 0) (hat : at_ ≠ 2)
    {M : Word} (hM : M = s.me.amask &&& T.tail (T.pos / 64)) (h : ∀ e ∈ T.stored M, s.Sendable T page pa at_ ent e) (hpush : s.me.push = [])
    (hroom : s.myCore.laneCount s.cur.ctx + (T.stored M).length ≤ 64) (hk : s.myCore.laneCount s.cur.ctx < 64) :
    ∃ t E, exec (.vmov ty d a) s = .next t ∧ AMap.find t.me.streams d.toNat = some T.next ∧ t.mem = s.mem ∧ t.cur = s.cur ∧
      t.myCore.byte = s.myCore.byte ∧ t.myCore.lanes = s.myCore.lanes ++ E ∧
      E.map LaneEntry.stores = (T.stored M).map (T.sent s.cur.ctx (s.me.vr a.toNat) pa at_) := by
  have hglobal : (T.stored M).filter (fun e => !isLocal (T.addr e)) = T.stored M := List.filter_eq_self.2 fun e he => by rw [(h e he).global]; rfl
  obtain ⟨t, E, ht, hsent, hE⟩ := State.pushElems_of_sendable (v := d.toNat) (X := s.pushedLanes false d a 0) h hat hpush hroom
  have hbeat : s.pushBeat d.toNat T M (s.pushedLanes false d a 0) = .ok (t.updMe fun k => { k with streams := AMap.set k.streams d.toNat T.next }) := by
    rw [State.pushBeat_eq hpos, ht]
    rfl
  have hexec := exec_vmov_of_push hsnap hty hA hT hwr hM (.inr (hglobal.symm ▸ State.laneRoom_eq_none hroom hk hpush))
  rw [hbeat] at hexec
  have hlane : ∀ e ∈ T.stored M, T.sent s.cur.ctx (s.pushedLanes false d a 0) pa at_ e = T.sent s.cur.ctx (s.me.vr a.toNat) pa at_ e := fun e he => by
    obtain ⟨l, hl, -, hMl, rfl⟩ := (Stream.mem_stored hal).1 he
    have hMl' : (s.wordMask [] (vregs false d)).getLsbD l = true := by
      have hsrc := State.src_of_snap_none hsnap
      have hmask : s.wordMask [] (vregs false d) = M := by
        rw [hM, ← hsrc]
        exact State.wordMask_of_bound (hsrc ▸ hT)
      rwa [hmask]
    rw [Stream.sent, Stream.sent, Nat.add_sub_cancel_left, State.getD_pushedLanes Nat.one_pos hl hMl', State.src_of_snap_none hsnap]
    rfl
  refine ⟨_, E, hexec, ?_, hsent.checks.mem, hsent.checks.cur, ?_, ?_, hE.trans (List.map_congr_left hlane)⟩
  · simp only [State.me_updMe, id]
    exact (AMap.find_set ..).trans (if_pos rfl)
  · simp only [State.byte_updMe, hsent.byte]
  · simp only [State.lanes_updMe]
    exact congrArg Core.lanes hsent.core

end Push

/-- R112, R116: by the way that each register is bound, and by where its elements lie. -/
theorem aWriteOfABoundRegisterPushesOneBeat : AWriteOfABoundRegisterPushesOneBeat := by
  intro s ty d a hsnap find D A hA in_ has
  refine ⟨fun v hv T hT hrd => ?wrongWay, fun _ hD => ?near, fun T hty hT hwr =>
    ⟨fun hend hal => answers_exec (exec_vmov_push_of_end hsnap hty hA hT hwr hend hal) rfl, fun pa at_ ent page hpos hal hat => ?global⟩⟩
  case wrongWay =>
    obtain ⟨t, ht, w, hw, U, hU, he⟩ := answers_vmov_misbound (ty := ty) (d := d) (a := a) hsnap ⟨v, T, hT, .inr ⟨hv, hrd⟩⟩
    refine ⟨t, ht, w, (List.mem_append.1 hw).resolve_left fun hwA => ?_, U, hU, he⟩
    exact absurd ((hA w hwA).symm.trans hU) nofun
  case near =>
    have hal : ∀ v ∈ vregs ty.wide d, ∀ T, find v = some T → T.pos % 64 = 0 := fun v hv T hT => (hD v hv T hT).2.2.1
    obtain ⟨t, ht, hcur, hstreams, hbyte⟩ := exec_vmov_push (d := d) hsnap hA fun v hv T hT => by
      obtain ⟨hwr, hpos, -, hst⟩ := hD v hv T hT
      exact ⟨hwr, hpos, hst⟩
    have hbyte' : (t.core s.cur.core).byte = t.myCore.byte := by rw [State.myCore, hcur]
    refine answers_exec ht ⟨hstreams, fun p hp => ?_, fun j T l p hj hT hl hp hlast => ?_⟩
    · rw [hbyte', hbyte]
      exact State.byte_push_of_not_has hsnap hal hp
    · rw [hbyte', hbyte]
      exact State.byte_push_of_last hsnap hal hj hT hl hp hlast
  case global =>
    intro L hL hpush hroom hk
    obtain ⟨t, E, ht, hstream, hmem, hcur, hbyte, hlanes, hE⟩ := exec_vmov_push_of_sendable (at_ := at_) (ent := ent) hsnap hty hA hT hwr hpos hal hat rfl
      (fun e he => let ⟨hg, hp, hl, ha⟩ := hL e he; ⟨hg, hp, hl, ha⟩) hpush hroom hk
    refine answers_exec ht ⟨hstream, hmem, fun p => ?_, E, hlanes, hE⟩
    rw [State.myCore, hcur] at hbyte
    exact congrFun hbyte p

end Machine
end Sys2Proof
end

section
/-! Beats arrive ahead of their pops (R112, R116, R267), and the settled statement. -/

namespace Sys2Proof
namespace Machine

/-! ## What reading a beat leaves of its core -/

/-- The issuing core is as it was but for its line buffer and its translations. -/
structure State.CoreRead (s t : State) : Prop where
  same : t.cur.core = s.cur.core
  core : t.myCore = { s.myCore with lbuf := t.myCore.lbuf, tlb := t.myCore.tlb }

namespace State.CoreRead
variable {s t u : State}

theorem refl (s : State) : s.CoreRead s := ⟨rfl, rfl⟩
theorem trans (h : s.CoreRead t) (g : t.CoreRead u) : s.CoreRead u where
  same := g.same.trans h.same
  core := by
    have hg := g.core
    rw [h.core] at hg
    exact hg
theorem updCore {f : Core → Core} (h : f s.myCore = { s.myCore with lbuf := (f s.myCore).lbuf, tlb := (f s.myCore).tlb }) :
    s.CoreRead (s.updCore s.cur.core f) where
  same := rfl
  core := by
    rw [show (s.updCore s.cur.core f).myCore = f s.myCore from State.core_updCore_same ..]
    exact h
theorem count (s : State) (p e n : Nat) : s.CoreRead (s.count p e n) := by
  unfold State.count
  split <;> exact ⟨rfl, rfl⟩
theorem fillLine (s : State) (pa : Nat) : s.CoreRead (s.fillLine s.cur.core pa) := by
  dsimp only [State.fillLine]
  split
  · exact .refl s
  · exact .updCore rfl
theorem prefill (s : State) (va : Word) : s.CoreRead (s.prefill va) := by
  dsimp only [State.prefill]
  split
  · exact .trans (.updCore rfl) (.count ..)
  · exact .refl s
/-- A line of the slice that a global element is read from may enter the buffer. -/
theorem slice (t : State) (pa p n m : Nat) (plain : Bool) :
    t.CoreRead (if plain then (t.fillLine t.cur.core pa).count p 4 n else t.count p 4 m) := by
  split
  · exact .trans (.fillLine t pa) (.count ..)
  · exact .count ..
theorem elemGlobal (h : s.CoreRead t) (a : Word) (pa n : Nat) (plain : Bool) : OnOk (fun r => s.CoreRead r.2) (t.elemGlobal a pa n plain) := by
  have hslice : ∀ u : State, t.CoreRead u → OnOk (fun r : Nat × State => s.CoreRead r.2)
      (if (t.badHbm pa n).isSome then (.error (Fate.fault (eccFlt a)) : Except Fate (Nat × State))
        else .ok (t.viewNum t.cur.core pa n, if plain then (u.fillLine t.cur.core pa).count (sliceOf pa) 4 64 else u.count (sliceOf pa) 4 n)) := by
    intro u hu
    split
    · trivial
    · exact (h.trans hu).trans (hu.same ▸ slice u pa (sliceOf pa) 64 n plain)
  dsimp only [State.elemGlobal]
  split
  · split
    · trivial
    · exact h
  · split
    · split
      · exact h.trans ⟨rfl, rfl⟩
      · exact hslice _ ⟨rfl, rfl⟩
    · exact hslice _ (.refl t)
theorem elemRead (s : State) (v : Nat) (T : Stream) (pos e : Nat) : OnOk (fun r => s.CoreRead r.2) (s.elemRead v T pos e) := by
  have hpre := prefill s (T.addr e)
  dsimp only [State.elemRead]
  split
  · split
    · trivial
    · split
      · trivial
      · exact .refl s
  · split
    · trivial
    · trivial
    · split
      · trivial
      · split
        · trivial
        · trivial
        · exact elemGlobal (hpre.trans (.updCore rfl)) ..
theorem readElems (s : State) (v : Nat) (T : Stream) (pos : Nat) (es : List Nat) : s.CoreRead (s.readElems v T pos es).2.2 := by
  induction es generalizing s with
  | nil => exact .refl s
  | cons e r ih =>
    have hread := elemRead s v T pos e
    rw [State.readElems]
    split
    · exact .refl s
    · next x u h => exact (hread.of_eq h).trans (ih u)
theorem fetchBeat (s : State) (v : Nat) (T : Stream) (k : Nat) : s.CoreRead (s.fetchBeat v T k).2.2 := readElems ..
theorem byte (h : s.CoreRead t) : t.myCore.byte = s.myCore.byte := by rw [h.core]; rfl
theorem ctx (h : s.CoreRead t) (x : Nat) : t.myCore.ctx x = s.myCore.ctx x := by rw [h.core]; rfl

end State.CoreRead

/-- Reading a beat changes no memory and no other core. -/
theorem State.sameOutside_fetchBeat (s : State) (v : Nat) (T : Stream) (k : Nat) : SameOutside s (s.fetchBeat v T k).2.2 :=
  State.Keeps.fetchBeat (fr := some s) ⟨rfl, fun _ _ => rfl, rfl, rfl, rfl, rfl, rfl, rfl⟩

/-! ## An element behind earlier loads (R267) -/

theorem State.cur_prefill (s : State) (va : Word) : (s.prefill va).cur = s.cur ∧ (s.prefill va).loads = s.loads := by
  dsimp only [State.prefill]
  split
  · unfold State.count
    split <;> exact ⟨rfl, rfl⟩
  · exact ⟨rfl, rfl⟩
/-- A global element whose word an earlier load has still to read is not read. -/
theorem State.elemRead_of_loadsBefore {s : State} (v : Nat) {T : Stream} (pos : Nat) {e : Nat} (hglobal : isLocal (T.addr e) = false)
    (h : ∀ pa at_ ent, (s.prefill (T.addr e)).lookup (T.addr e) ⟨true, false⟩ = .ok pa at_ ent →
      s.loadsBefore s.cur.core s.cur.ctx pa T.bound ≠ []) : ∃ f, s.elemRead v T pos e = .error f := by
  obtain ⟨hcur, hloads⟩ := s.cur_prefill (T.addr e)
  simp only [State.elemRead, hglobal, Bool.false_eq_true, if_false]
  split
  · exact ⟨_, rfl⟩
  · exact ⟨_, rfl⟩
  · next pa at_ ent hok =>
    have hbefore := h pa at_ ent hok
    split
    · exact ⟨_, rfl⟩
    · split
      · exact ⟨_, rfl⟩
      · exact ⟨_, rfl⟩
      · next hnil => exact absurd (by rw [hcur] at hnil; rw [State.loadsBefore, ← hloads]; exact hnil) hbefore

/-! ## STREAM_BEAT_ARRIVAL (R112) -/

section Arrival
variable {s : State} {c x v : Nat} {T : Stream}

/-- A register takes no beat: it is bound for writing, has four beats ahead, or has none left. -/
def Stream.Idle (T : Stream) : Prop := T.write = true ∨ 4 ≤ T.fetched.length ∨ T.len ≤ 64 * (T.pos / 64 + T.fetched.length)
theorem Stream.not_idle (hrd : T.write = false) (hfour : T.fetched.length < 4) (hlen : 64 * (T.pos / 64 + T.fetched.length) < T.len) : ¬T.Idle := by
  rintro (h | h | h)
  · exact Bool.false_ne_true (hrd.symm.trans h)
  · exact absurd h hfour.not_ge
  · exact absurd h hlen.not_ge
/-- A pop of the context waits for a beat of the register. -/
def State.WaitsBeat (s : State) (c x v : Nat) : Prop := (s.ctx c x).st = .stalled ∧ (s.ctx c x).stall = some (.beat v)
theorem State.waitsBeat_iff : (decide ((s.ctx c x).st = .stalled) && (s.ctx c x).stall == some (.beat v)) = true ↔ s.WaitsBeat c x v := by
  rw [Bool.and_eq_true, decide_eq_true_iff, beq_iff_eq, State.WaitsBeat]

variable (hT : AMap.find (s.ctx c x).streams v = some T)
include hT

theorem exec_arrival_of_idle (h : T.Idle) : exec (.streamBeatArrival c x v) s = .next s := by
  have harm : exec (.streamBeatArrival c x v) s = execStreamBeatArrival c x v s := rfl
  simp only [harm, execStreamBeatArrival, hT]
  exact congrArg Host.Outcome.next (if_pos h)
variable (hrd : T.write = false) (hfour : T.fetched.length < 4) (hlen : 64 * (T.pos / 64 + T.fetched.length) < T.len)
include hrd hfour hlen

theorem exec_arrival_of_beat {l : List Word32} {u : State}
    (hF : (s.asIf c x).fetchBeat v T (T.pos / 64 + T.fetched.length) = (l, none, u)) :
    ∃ wake : Bool, (wake = true ↔ s.WaitsBeat c x v) ∧
      exec (.streamBeatArrival c x v) s = .next (u.putStream c x v { T with fetched := T.fetched ++ [beatOf l], part := [] } wake) := by
  have harm : exec (.streamBeatArrival c x v) s = execStreamBeatArrival c x v s := rfl
  refine ⟨_, State.waitsBeat_iff, ?_⟩
  simp only [harm, execStreamBeatArrival, hT, hF]
  exact congrArg Host.Outcome.next (if_neg (Stream.not_idle hrd hfour hlen))
theorem exec_arrival_of_part {l : List Word32} {f : Fate} {u : State}
    (hF : (s.asIf c x).fetchBeat v T (T.pos / 64 + T.fetched.length) = (l, some f, u)) (hw : ¬s.WaitsBeat c x v) :
    exec (.streamBeatArrival c x v) s = .next (u.putStream c x v { T with part := l } false) := by
  have harm : exec (.streamBeatArrival c x v) s = execStreamBeatArrival c x v s := rfl
  rw [← State.waitsBeat_iff] at hw
  simp only [harm, execStreamBeatArrival, hT, hF, if_neg hw]
  exact congrArg Host.Outcome.next (if_neg (Stream.not_idle hrd hfour hlen))
theorem exec_arrival_of_fault {l : List Word32} {f : Flt} {u : State}
    (hF : (s.asIf c x).fetchBeat v T (T.pos / 64 + T.fetched.length) = (l, some (.fault f), u)) (hw : s.WaitsBeat c x v) :
    exec (.streamBeatArrival c x v) s = .next (u.putStream c x v { T with fetched := [{ beatOf l with flt := some f }], part := [] } true) := by
  have harm : exec (.streamBeatArrival c x v) s = execStreamBeatArrival c x v s := rfl
  rw [← State.waitsBeat_iff] at hw
  simp only [harm, execStreamBeatArrival, hT, hF, if_pos hw]
  exact congrArg Host.Outcome.next (if_neg (Stream.not_idle hrd hfour hlen))

end Arrival

/-- What a stream put in a context leaves as it was, behind the reading of its beat. -/
theorem State.putStream_spec (u : State) (c x v : Nat) (T : Stream) (wake : Bool) :
    (u.putStream c x v T wake).mem = u.mem ∧ (∀ d, d ≠ c → (u.putStream c x v T wake).core d = u.core d) ∧
      ((u.putStream c x v T wake).core c).byte = (u.core c).byte ∧
      AMap.find ((u.putStream c x v T wake).ctx c x).streams v = some T ∧
      ((u.putStream c x v T wake).ctx c x).st = if wake then .ready else (u.ctx c x).st := by
  refine ⟨rfl, fun d hd => State.core_updCtx_ne _ _ _ hd.symm, ?_, ?_, ?_⟩
  · rw [State.putStream, State.core_updCtx_same]
    rfl
  · rw [State.putStream, State.ctx_updCtx_same]
    cases wake <;> exact (AMap.find_set ..).trans (if_pos rfl)
  · rw [State.putStream, State.ctx_updCtx_same]
    cases wake <;> rfl

/-- R112, R116, R267: by what the reading of the beat finds, and whether a pop waits for it. -/
theorem beatsArriveAheadOfTheirPops : BeatsArriveAheadOfTheirPops := by
  intro s c x v T hT b F waits
  obtain ⟨hmem, hothers, hc, -⟩ := (s.asIf c x).sameOutside_fetchBeat v T b
  have hread := State.CoreRead.fetchBeat (s.asIf c x) v T b
  have hF : (s.asIf c x).fetchBeat v T b = (F.1, F.2.1, F.2.2) := rfl
  have hcore : F.2.2.core c = F.2.2.myCore := by rw [State.myCore, hc]; rfl
  have hbyte : (F.2.2.core c).byte = (s.core c).byte := by rw [hcore]; exact hread.byte
  have hctx : F.2.2.ctx c x = s.ctx c x := by rw [State.ctx, hcore]; exact hread.ctx x
  refine ⟨fun hrd hfour hlen => ⟨fun hnone => ?beat, fun f hf hw => ?part, fun f hf hw => ?fault⟩, fun h => answers_exec (exec_arrival_of_idle hT h) rfl,
    fun p e hglobal h => State.elemRead_of_loadsBefore v p hglobal h⟩
  case beat =>
    obtain ⟨wake, hwake, hexec⟩ := exec_arrival_of_beat hT hrd hfour hlen (hnone ▸ hF)
    obtain ⟨hm, hd, hb, hs, hst⟩ := F.2.2.putStream_spec c x v { T with fetched := T.fetched ++ [beatOf F.1], part := [] } wake
    exact answers_exec hexec ⟨hm.trans hmem, fun d hne => (hd d hne).trans (hothers d hne), fun a => congrFun (hb.trans hbyte) a, hs,
      fun hw => hst.trans (if_pos (hwake.2 hw))⟩
  case part =>
    obtain ⟨hm, -, -, hs, hst⟩ := F.2.2.putStream_spec c x v { T with part := F.1 } false
    exact answers_exec (exec_arrival_of_part hT hrd hfour hlen (hf ▸ hF) hw) ⟨hm.trans hmem, hs, hst.trans (congrArg Ctx.st hctx)⟩
  case fault =>
    obtain ⟨hm, -, -, hs, hst⟩ := F.2.2.putStream_spec c x v { T with fetched := [{ beatOf F.1 with flt := some f }], part := [] } true
    exact answers_exec (exec_arrival_of_fault hT hrd hfour hlen (hf ▸ hF) hw) ⟨hm.trans hmem, hst, hs⟩

/-! ## The settled statement -/

/-- Settles O15: what a read of bound registers pops, what a write of them pushes, and how beats arrive, each by the parts of an A-class word. -/
theorem boundRegistersMoveTheirStreams : Obligations.BoundRegistersMoveTheirStreams :=
  ⟨aReadOfABoundRegisterPopsOneBeat, aWriteOfABoundRegisterPushesOneBeat, beatsArriveAheadOfTheirPops⟩

end Machine
end Sys2Proof
end

section
/-! The checks of a tile header (R130, R131, R138, R156): the CRC-8 of its bytes, and the lowest code that is not met. -/

namespace Sys2Proof
namespace Machine

/-! ## Bytes of a number -/

theorem toBytes_append (m n v : Nat) : toBytes (m + n) v = toBytes m v ++ toBytes n (v / 256 ^ m) := by
  induction m generalizing v with
  | zero => simp [toBytes]
  | succ m ih => rw [Nat.succ_add, toBytes, ih, toBytes, List.cons_append, Nat.div_div_eq_div_mul, ← Nat.pow_succ']
theorem toBytes_mod (n v : Nat) : toBytes n (v % 256 ^ n) = toBytes n v := by
  induction n generalizing v with
  | zero => rfl
  | succ n ih =>
    rw [toBytes, toBytes, Nat.pow_succ', Nat.mod_mul_right_div_self, ih]
    congr 1
    apply BitVec.eq_of_toNat_eq
    rw [BitVec.toNat_ofNat, BitVec.toNat_ofNat]
    exact Nat.mod_mul_right_mod v 256 _
/-- The bytes of a bit vector, each by its place. -/
theorem toBytes_toNat {w : Nat} (n : Nat) (x : BitVec w) : toBytes n x.toNat = (List.range n).map fun i => (x >>> (8 * i)).setWidth 8 := by
  refine List.ext_getElem (by simp) fun i hi _ => ?_
  rw [length_toBytes] at hi
  have h := getD_toBytes hi x.toNat
  rw [List.getD_eq_getElem _ _ (by simpa using hi)] at h
  rw [h, List.getElem_map, List.getElem_range]
  apply BitVec.eq_of_toNat_eq
  rw [BitVec.toNat_setWidth, BitVec.toNat_ushiftRight, Nat.shiftRight_eq_div_pow, BitVec.toNat_ofNat, Nat.pow_mul]

/-! ## The check byte (R131) -/

/-- One bit of the CRC-8 on a byte. -/
def crc8Shift (c : BitVec 8) : BitVec 8 := if c.getLsbD 7 then c <<< 1 ^^^ 7#8 else c <<< 1
theorem crc8Bit_toNat (c : BitVec 8) : crc8Bit c.toNat = (crc8Shift c).toNat := by
  revert c; decide
theorem repeat_crc8Bit (n : Nat) (c : BitVec 8) :
    Nat.repeat crc8Bit n c.toNat = ((List.range n).foldl (fun c _ => crc8Shift c) c).toNat := by
  induction n with
  | zero => rfl
  | succ n ih => rw [Nat.repeat, ih, crc8Bit_toNat, List.range_succ, List.foldl_append]; rfl
theorem crc8_eq (bs : List Byte) :
    crc8 bs = (bs.foldl (fun c b => (List.range 8).foldl (fun c _ => crc8Shift c) (c ^^^ b)) 0#8).toNat := by
  rw [crc8]
  refine List.foldl_hom (BitVec.toNat (w := 8)) (init := 0#8) fun c b => ?_
  rw [← BitVec.toNat_xor, repeat_crc8Bit]
/-- The fifteen bytes that the check byte covers. -/
theorem hdrBytes_eq (w0 w1 : Word) : toBytes 8 w0.toNat ++ toBytes 7 w1.toNat = (List.range 15).map fun i => ((w1 ++ w0) >>> (8 * i)).setWidth 8 := by
  have happend : (w1 ++ w0).toNat = w1.toNat * 2 ^ 64 + w0.toNat := by
    rw [BitVec.toNat_append, Nat.shiftLeft_eq, ← Nat.shiftLeft_eq, ← Nat.shiftLeft_add_eq_or_of_lt w0.isLt]
  have hhigh : (w1 ++ w0).toNat / 256 ^ 8 = w1.toNat := by have := w0.isLt; omega
  have hlow : (w1 ++ w0).toNat % 256 ^ 8 = w0.toNat := by have := w0.isLt; omega
  rw [← toBytes_toNat, show 15 = 8 + 7 from rfl, toBytes_append, hhigh, ← toBytes_mod 8 (w1 ++ w0).toNat, hlow]
/-- R131: the check byte by bytes and bits. -/
theorem hdrCheck_eq (w0 w1 : Word) : hdrCheck w0 w1 = ((List.range 15).foldl (fun c i =>
    (List.range 8).foldl (fun c _ => crc8Shift c) (c ^^^ ((w1 ++ w0) >>> (8 * i)).setWidth 8)) 0#8).toNat := by
  rw [hdrCheck, hdrBytes_eq, crc8_eq, List.foldl_map]

/-! ## The codes of the fields (R130) -/

/-- What each code of R130 asks of the fields of a header. -/
def hdrMeets (w0 w1 : Word) : Nat → Prop
  | 1 => bits w0 0 4 = 0xB
  | 2 => ¬(9 ≤ bits w0 4 4 ∧ bits w0 4 4 ≤ 14)
  | 3 => bits w0 8 4 < 6
  | 4 => bits w0 12 2 < 2
  | 5 => bits w0 56 8 = 0 ∧ bits w1 50 6 = 0
  | 6 => bits w1 32 16 ≠ 0
  | 7 => ¬((bits w0 8 4 ≠ 0 ∧ bits w1 0 16 = 0) ∨ (bits w0 12 2 = 1 ∧ bits w1 16 16 = 0))
  | _ => True
/-- The value that a record of each code names. -/
def hdrValue (w0 w1 : Word) : Nat → Nat
  | 1 => bits w0 0 4
  | 2 => bits w0 4 4
  | 3 => bits w0 8 4
  | 4 => bits w0 12 2
  | 5 => if bits w0 56 8 ≠ 0 then bits w0 56 8 else bits w1 50 6
  | _ => 0
/-- A code that is not met, with its value. -/
def HdrBad (w0 w1 : Word) (k v : Nat) : Prop := ¬hdrMeets w0 w1 k ∧ v = hdrValue w0 w1 k

section Codes
variable {w0 w1 : Word}

theorem hdrBad_iff (k v : Nat) : HdrBad w0 w1 k v ↔ (k = 1 ∧ bits w0 0 4 ≠ 0xB ∧ v = bits w0 0 4) ∨
    (k = 2 ∧ 9 ≤ bits w0 4 4 ∧ bits w0 4 4 ≤ 14 ∧ v = bits w0 4 4) ∨ (k = 3 ∧ 6 ≤ bits w0 8 4 ∧ v = bits w0 8 4) ∨
    (k = 4 ∧ 2 ≤ bits w0 12 2 ∧ v = bits w0 12 2) ∨
    (k = 5 ∧ ((bits w0 56 8 ≠ 0 ∧ v = bits w0 56 8) ∨ (bits w0 56 8 = 0 ∧ bits w1 50 6 ≠ 0 ∧ v = bits w1 50 6))) ∨
    (k = 6 ∧ bits w1 32 16 = 0 ∧ v = 0) ∨
    (k = 7 ∧ ((bits w0 8 4 ≠ 0 ∧ bits w1 0 16 = 0) ∨ (bits w0 12 2 = 1 ∧ bits w1 16 16 = 0)) ∧ v = 0) := by
  unfold HdrBad hdrMeets hdrValue
  split <;> grind
theorem forall_hdrMeets_iff : (∀ k, hdrMeets w0 w1 k) ↔ hdrMeets w0 w1 1 ∧ (hdrMeets w0 w1 2 ∧ hdrMeets w0 w1 3 ∧ hdrMeets w0 w1 4 ∧ hdrMeets w0 w1 5) ∧
    hdrMeets w0 w1 6 ∧ hdrMeets w0 w1 7 := by
  refine ⟨fun h => ⟨h 1, ⟨h 2, h 3, h 4, h 5⟩, h 6, h 7⟩, fun ⟨h1, ⟨h2, h3, h4, h5⟩, h6, h7⟩ k => ?_⟩
  match k with
  | 0 => trivial
  | 1 => exact h1
  | 2 => exact h2
  | 3 => exact h3
  | 4 => exact h4
  | 5 => exact h5
  | 6 => exact h6
  | 7 => exact h7
  | _ + 8 => trivial
theorem forall_not_hdrBad_iff (p : Nat → Prop) : (∀ k v, p k → ¬HdrBad w0 w1 k v) ↔ ∀ k, p k → hdrMeets w0 w1 k := by
  refine forall_congr' fun k => ⟨fun h hp => ?_, fun h v hp hb => hb.1 (h hp)⟩
  exact not_not.1 fun hm => h _ hp ⟨hm, rfl⟩

/-! ## The checks (R138, R156) -/

theorem fieldsBad_eq_none_iff : fieldsBad w0 w1 = none ↔ hdrMeets w0 w1 2 ∧ hdrMeets w0 w1 3 ∧ hdrMeets w0 w1 4 ∧ hdrMeets w0 w1 5 := by
  simp only [fieldsBad, hdrMeets]
  split_ifs <;> simp <;> omega
theorem offsBad_eq_none_iff : offsBad w0 w1 = none ↔ hdrMeets w0 w1 6 ∧ hdrMeets w0 w1 7 := by
  simp only [offsBad, hdrMeets]
  split_ifs <;> simp [*]
/-- What the fields are found to break is the lowest code that is not met, with its value. -/
theorem fieldsBad_of_first {k : Nat} (hlo : 2 ≤ k) (hhi : k ≤ 5) (hbad : ¬hdrMeets w0 w1 k) (hmin : ∀ j, j < k → hdrMeets w0 w1 j) :
    fieldsBad w0 w1 = some (k, hdrValue w0 w1 k) := by
  have h2 := hmin 2
  have h3 := hmin 3
  have h4 := hmin 4
  clear hmin
  interval_cases k <;> simp only [fieldsBad, hdrMeets, hdrValue] at * <;> grind
theorem offsBad_of_first {k : Nat} (hlo : 6 ≤ k) (hhi : k ≤ 7) (hbad : ¬hdrMeets w0 w1 k) (hmin : ∀ j, j < k → hdrMeets w0 w1 j) :
    offsBad w0 w1 = some (k, hdrValue w0 w1 k) := by
  have h6 := hmin 6
  clear hmin
  interval_cases k <;> simp only [offsBad, hdrMeets, hdrValue] at * <;> grind

variable {n k v : Nat}

/-- A header whose check byte is right is found to break the lowest code that is not met; the tag is looked at before the check byte. -/
theorem checkHdr_of_first (hbad : HdrBad w0 w1 k v) (hmin : ∀ j, j < k → hdrMeets w0 w1 j) (hc : k = 1 ∨ bits w1 56 8 = hdrCheck w0 w1) :
    checkHdr n w0 w1 = .error (hdrFlt .hdrfld n k v w0 w1) := by
  obtain ⟨hbad, rfl⟩ := hbad
  by_cases h1 : k = 1
  · subst h1
    exact if_pos hbad
  have hk0 : k ≠ 0 := fun h => hbad (h ▸ trivial)
  have hk8 : k < 8 := by
    by_contra h
    obtain ⟨j, rfl⟩ : ∃ j, k = j + 8 := ⟨k - 8, by omega⟩
    exact hbad trivial
  have htag : bits w0 0 4 = 0xB := hmin 1 (by omega)
  have hfound : (fieldsBad w0 w1).or (offsBad w0 w1) = some (k, hdrValue w0 w1 k) := by
    by_cases h5 : k ≤ 5
    · rw [fieldsBad_of_first (by omega) h5 hbad hmin]; rfl
    · rw [fieldsBad_eq_none_iff.2 ⟨hmin 2 (by omega), hmin 3 (by omega), hmin 4 (by omega), hmin 5 (by omega)⟩, Option.none_or]
      exact offsBad_of_first (by omega) (by omega) hbad hmin
  simp only [checkHdr, htag, hc.resolve_left h1, hfound, ne_eq, not_true_eq_false, if_false]
theorem checkHdr_of_badCheck (htag : bits w0 0 4 = 0xB) (hc : bits w1 56 8 ≠ hdrCheck w0 w1) :
    checkHdr n w0 w1 = .error (hdrFlt .hdrchk n (bits w1 56 8) (hdrCheck w0 w1) w0 w1) := by
  simp only [checkHdr, htag, hc, ne_eq, not_true_eq_false, not_false_eq_true, if_false, if_true]
theorem checkHdr_eq_ok_iff : checkHdr n w0 w1 = .ok () ↔ (∀ k, hdrMeets w0 w1 k) ∧ bits w1 56 8 = hdrCheck w0 w1 := by
  rw [forall_hdrMeets_iff, ← fieldsBad_eq_none_iff, ← offsBad_eq_none_iff, ← Option.or_eq_none_iff, hdrMeets, checkHdr]
  by_cases htag : bits w0 0 4 = 0xB
  · by_cases hc : bits w1 56 8 = hdrCheck w0 w1
    · cases h : (fieldsBad w0 w1).or (offsBad w0 w1) <;> simp [htag, hc]
    · simp [htag, hc]
  · simp [htag]

theorem checkHandle_of_first (hk : k ≤ 5) (hbad : HdrBad w0 w1 k v) (hmin : ∀ j, j < k → hdrMeets w0 w1 j) :
    checkHandle n w0 w1 = .error (hdrFlt .hdrfld n k v w0 w1) := by
  obtain ⟨hbad, rfl⟩ := hbad
  by_cases h1 : k = 1
  · subst h1
    have htag : bits w0 0 4 ≠ 0xB := hbad
    simp only [checkHandle, htag, ne_eq, not_false_eq_true, if_true, hdrValue]
  have hk0 : k ≠ 0 := fun h => hbad (h ▸ trivial)
  have htag : bits w0 0 4 = 0xB := hmin 1 (by omega)
  simp only [checkHandle, htag, fieldsBad_of_first (by omega) hk hbad hmin, ne_eq, not_true_eq_false, if_false]
theorem checkHandle_eq_ok_iff : checkHandle n w0 w1 = .ok () ↔ ∀ k, k ≤ 5 → hdrMeets w0 w1 k := by
  have hall : (∀ k, k ≤ 5 → hdrMeets w0 w1 k) ↔ hdrMeets w0 w1 1 ∧ fieldsBad w0 w1 = none := by
    rw [fieldsBad_eq_none_iff]
    refine ⟨fun h => ⟨h 1 (by omega), h 2 (by omega), h 3 (by omega), h 4 (by omega), h 5 (by omega)⟩, fun ⟨h1, h2, h3, h4, h5⟩ k hk => ?_⟩
    interval_cases k <;> trivial
  rw [hall, hdrMeets, checkHandle]
  by_cases htag : bits w0 0 4 = 0xB
  · cases h : fieldsBad w0 w1 <;> simp [htag]
  · simp [htag]
end Codes

theorem headerChecksFollowTheirTable : HeaderChecksFollowTheirTable := by
  intro n w0 w1 fmt scl spr shift crc bad first field
  have hcrc : hdrCheck w0 w1 = crc.toNat := hdrCheck_eq w0 w1
  have hbad : ∀ k v, bad k v ↔ HdrBad w0 w1 k v := fun k v => (hdrBad_iff k v).symm
  have hfirst : ∀ k v, first k v → HdrBad w0 w1 k v ∧ ∀ j, j < k → hdrMeets w0 w1 j := fun k v h =>
    ⟨(hbad k v).1 h.1, (forall_not_hdrBad_iff (· < k)).1 fun j u hj hb => h.2 j u hj ((hbad j u).2 hb)⟩
  have hall : ∀ p : Nat → Prop, (∀ k v, p k → ¬bad k v) ↔ ∀ k, p k → hdrMeets w0 w1 k := fun p => by
    simp only [hbad, forall_not_hdrBad_iff]
  refine ⟨hcrc, ?_, fun k v h hc => ?_, fun htag hc => ?_, ?_, fun k v hk h => ?_⟩
  · rw [checkHdr_eq_ok_iff, hcrc]
    exact and_congr_left fun _ => ⟨fun h => fun k v => (hall fun _ => True).2 (fun k _ => h k) k v trivial, fun h k => (hall fun _ => True).1 (fun k v _ => h k v) k trivial⟩
  · exact checkHdr_of_first (hfirst k v h).1 (hfirst k v h).2 (hcrc ▸ hc)
  · rw [checkHdr_of_badCheck htag (hcrc ▸ hc), hcrc]
    exact congrArg Except.error (by rw [hdrFlt, nat64, nat64, nat64, BitVec.ofNat_toNat])
  · rw [checkHandle_eq_ok_iff]
    exact (hall (· ≤ 5)).symm
  · exact checkHandle_of_first hk (hfirst k v h).1 (hfirst k v h).2
end Machine
end Sys2Proof
end

section
/-! The tile handle instructions (R154 to R158): the address of a header, the handle that each makes, and the statement. -/

namespace Sys2Proof
namespace Machine

/-! ## A t register of the issuing context -/

/-- Handle n of the issuing context is v, and nothing else has changed (R132). -/
def WritesT (s t : State) (n : BitVec 4) (v : TReg) : Prop :=
  OnlyMe s t ∧ t.me = { s.me with t := t.me.t } ∧ t.me.tr n.toNat = v ∧ ∀ m, m ≠ n.toNat → t.me.tr m = s.me.tr m
theorem writesT_wt (s : State) (n : BitVec 4) (v : TReg) : WritesT s (s.wt n v) n v := by
  have hme : (s.wt n v).me = { s.me with t := AMap.set s.me.t n.toNat v } := s.me_updMe _
  refine ⟨onlyMe_updMe s _, by rw [hme], ?_, fun m hm => ?_⟩
  · rw [hme, Ctx.tr, AMap.get_set_same]
  · rw [hme, Ctx.tr, AMap.get_set_ne _ _ _ hm.symm, Ctx.tr]

/-! ## Headers and addresses of tiles -/

/-- The two words of a header, where it has been written whole (R141). -/
theorem Core.words_put_header (k : Core) (o : Nat) (w0 w1 : Word) :
    (k.put o (bytesOf [w0, w1])).word o = w0 ∧ (k.put o (bytesOf [w0, w1])).word (o + 8) = w1 := by
  have h0 := k.word_put_bytesOf o 0 [w0, w1] Nat.zero_lt_two
  have h1 := k.word_put_bytesOf o 1 [w0, w1] Nat.one_lt_two
  rw [Nat.mul_zero, Nat.add_zero] at h0
  rw [Nat.mul_one] at h1
  exact ⟨h0, h1⟩

theorem addr48_eq (a : Word) : addr48 a = BitVec.ofNat 48 (a.toNat / 2 ^ 63 * 2 ^ 47 + a.toNat % 2 ^ 47) := by
  rw [addr48, bits_eq, Nat.mod_eq_of_lt (by have := a.isLt; omega)]
/-- The address of a header (R154): local, a multiple of 16 bytes, and with its 16 bytes in the scratchpad. -/
def State.HdrAt (s : State) (a : Word) : Prop := isLocal a = true ∧ a.toNat % 16 = 0 ∧ offOf a + 16 ≤ s.myCore.spSize
theorem State.hdrAddr_of_hdrAt {s k : State} {a : Word} (h : s.HdrAt a) : s.hdrAddr a k = k := by
  obtain ⟨hl, ha, hf⟩ := h
  exact if_neg (by simp only [hl, ha]; simpa using hf)
theorem State.hdrAddr_of_not_hdrAt {s k : State} {a : Word} (h : ¬s.HdrAt a) : s.hdrAddr a k = s.raise { code := .pool, a := a } := by
  refine if_pos ?_
  by_contra hn
  obtain ⟨hl, ha, hf⟩ : isLocal a = true ∧ a.toNat % 16 = 0 ∧ ¬s.myCore.spSize < offOf a + 16 := by simpa using hn
  exact h ⟨hl, ha, Nat.not_lt.1 hf⟩
theorem checkTileAddr_of_ok {a : Word} (h : a.toNat % 16 = 0 ∧ a.toNat / 2 ^ 47 % 2 ^ 16 = 0) : checkTileAddr a = .ok () := by
  rw [checkTileAddr, if_neg (not_not.2 h.1), bits_eq, if_neg (not_not.2 h.2)]
theorem checkTileAddr_of_misaligned {a : Word} (h : a.toNat % 16 ≠ 0) : checkTileAddr a = .error { code := .align, a := a } := if_pos h
/-- TGET gives the address in the form of R26 and R27 (R158). -/
theorem TReg.addr64_eq (t : TReg) : t.addr64 =
    if t.addr.getLsbD 47 then BitVec.ofNat 64 (2 ^ 63 + t.addr.toNat % 2 ^ 47) else BitVec.ofNat 64 t.addr.toNat := by
  have hlt := t.addr.isLt
  have hbit : t.addr.getLsbD 47 = decide (t.addr.toNat / 2 ^ 47 % 2 = 1) := Nat.testBit_eq_decide_div_mod_eq
  have hlow : t.addr.toNat % 2 ^ 47 < 2 ^ 63 := by omega
  rw [TReg.addr64, TReg.isLocal, hbit]
  by_cases h : t.addr.toNat / 2 ^ 47 % 2 = 1
  · rw [if_pos (decide_eq_true h), decide_eq_true h, at_, nat64, shiftLeft_eq_ofNat, ← BitVec.ofNat_or]
    exact congrArg (BitVec.ofNat 64) (Nat.shiftLeft_add_eq_or_of_lt hlow 1).symm
  · rw [if_neg (by simpa using h), decide_eq_false h, at_, nat64, Nat.mod_eq_of_lt (by omega)]
    exact BitVec.zero_or

/-! ## The instructions by what they check -/

section Exec
variable {s : State} {n : BitVec 4} {a b d : BitVec 6}

theorem execThdr_of_readable (hat : s.HdrAt (s.rs a)) (hown : s.ownAtoms (offOf (s.rs a)) 16 = []) (hm : s.myCore.marked (offOf (s.rs a)) 16 = none)
    (hbad : s.badIn s.cur.core (offOf (s.rs a)) 16 = none) :
    execThdr n a s = .next (s.orRaise (checkHdr n.toNat (s.myCore.word (offOf (s.rs a))) (s.myCore.word (offOf (s.rs a) + 8))) fun _ =>
      s.wt n { w0 := s.myCore.word (offOf (s.rs a)), w1 := s.myCore.word (offOf (s.rs a) + 8), addr := addr48 (s.rs a) }) := by
  have hread : s.readLocal s.cur.core (offOf (s.rs a)) 16 = .ok (s.myCore.bytes (offOf (s.rs a)) 16) := by
    simp only [State.readLocal, hbad]
    rfl
  have hw : ∀ i, i < 2 → (wordsOf 2 (s.myCore.bytes (offOf (s.rs a)) 16)).getD i 0 = s.myCore.word (offOf (s.rs a) + 8 * i) :=
    Core.wordsOf_bytes _ _ 2
  have hw0 := hw 0 Nat.zero_lt_two
  have hw1 := hw 1 Nat.one_lt_two
  rw [Nat.mul_zero, Nat.add_zero] at hw0
  rw [Nat.mul_one] at hw1
  simp only [execThdr, State.hdrAddr_of_hdrAt hat, State.inOrder_clear hown hm, hread, State.orRaise, hw0, hw1]
theorem execTsth_of_hdrAt (hat : s.HdrAt (s.rs a)) (hown : s.ownAtoms (offOf (s.rs a)) 16 = []) (hm : s.myCore.marked (offOf (s.rs a)) 16 = none) :
    execTsth n a s = .next (s.putLocal s.cur.core (offOf (s.rs a)) (bytesOf [(s.rt n).w0, sealed (s.rt n).w0 (s.rt n).w1])) := by
  simp only [execTsth, State.hdrAddr_of_hdrAt hat, State.inOrder_clear hown hm]
theorem execTmake_of_ok (ha : (s.rs a).toNat % 16 = 0 ∧ (s.rs a).toNat / 2 ^ 47 % 2 ^ 16 = 0) :
    execTmake n a b s = .next (s.orRaise (checkHandle n.toNat (s.rs b) (sealed (s.rs b) (at_ 1 32))) fun _ =>
      s.wt n { w0 := s.rs b, w1 := sealed (s.rs b) (at_ 1 32), addr := addr48 (s.rs a) }) := by
  simp only [execTmake, checkTileAddr_of_ok ha]; rfl
theorem execTmake_of_misaligned (ha : (s.rs a).toNat % 16 ≠ 0) : execTmake n a b s = .next (s.raise { code := .align, a := s.rs a }) := by
  simp only [execTmake, checkTileAddr_of_misaligned ha]; rfl
/-- A handle of two words whose check byte has been computed replaces the old one, or faults (R156, R157). -/
def State.remake (s : State) (n : BitVec 4) (w0 w1 : Word) (addr : BitVec 48) : State :=
  s.orRaise (checkHandle n.toNat w0 (sealed w0 w1)) fun _ => s.wt n { w0 := w0, w1 := sealed w0 w1, addr := addr }
/-- The fields that TSET replaces, with their selectors. -/
def tsetRows : List (Nat × Nat × Nat × Nat) :=
  [(0, 0, 4, 4), (1, 0, 8, 4), (2, 0, 12, 2), (3, 0, 14, 1), (4, 0, 15, 1), (5, 0, 16, 12), (6, 0, 28, 12), (7, 0, 40, 16), (8, 1, 0, 16),
    (9, 1, 16, 16), (10, 1, 32, 16), (11, 1, 48, 1), (12, 1, 49, 1)]
theorem tsetField_of_row {i word lo len : Nat} (h : tsetRows.contains (i, word, lo, len) = true) :
    i < 13 ∧ ∃ code, tsetField i = (word, lo, len, code) := by
  simp only [tsetRows, List.contains_eq_mem, decide_eq_true_eq, List.mem_cons, Prod.mk.injEq, List.not_mem_nil, or_false] at h
  rcases h with h | h | h | h | h | h | h | h | h | h | h | h | h <;> obtain ⟨rfl, rfl, rfl, rfl⟩ := h <;> exact ⟨by decide, _, rfl⟩
theorem execTset_of_field {word lo len : Nat} (h : tsetRows.contains ((s.rs a).toNat % 16, word, lo, len) = true)
    (hv : (if (s.rs a).toNat % 16 = 5 ∨ (s.rs a).toNat % 16 = 6 then (s.rs b - 1).toNat else (s.rs b).toNat) < 2 ^ len) :
    execTset n a b s = .next (let u := if (s.rs a).toNat % 16 = 5 ∨ (s.rs a).toNat % 16 = 6 then (s.rs b - 1).toNat else (s.rs b).toNat
      s.remake n (if word = 0 then setField (s.rt n).w0 lo len u else (s.rt n).w0) (if word = 1 then setField (s.rt n).w1 lo len u else (s.rt n).w1)
        (s.rt n).addr) := by
  obtain ⟨hi, code, hf⟩ := tsetField_of_row h
  have hsel : bits (s.rs a) 0 4 = (s.rs a).toNat % 16 := by rw [bits_eq]; simp
  simp only [execTset, hsel, hf]
  rw [if_neg (by omega), if_neg (by omega), if_neg (by omega), if_neg (Nat.not_le.2 hv)]
  rfl
theorem execTset_of_addr (hsel : (s.rs a).toNat % 16 = 13) (ha : (s.rs b).toNat % 16 = 0 ∧ (s.rs b).toNat / 2 ^ 47 % 2 ^ 16 = 0) :
    execTset n a b s = .next (s.remake n (s.rt n).w0 (s.rt n).w1 (addr48 (s.rs b))) := by
  have hsel : bits (s.rs a) 0 4 = 13 := by rw [bits_eq]; simpa using hsel
  simp only [execTset, hsel, if_true, checkTileAddr_of_ok ha]
  rfl
theorem execTset_of_word0 (hsel : (s.rs a).toNat % 16 = 14) : execTset n a b s = .next (s.remake n (s.rs b) (s.rt n).w1 (s.rt n).addr) := by
  have hsel : bits (s.rs a) 0 4 = 14 := by rw [bits_eq]; simpa using hsel
  simp only [execTset, hsel]
  rfl
theorem execTset_of_word1 (hsel : (s.rs a).toNat % 16 = 15) : execTset n a b s = .next (s.remake n (s.rt n).w0 (s.rs b) (s.rt n).addr) := by
  have hsel : bits (s.rs a) 0 4 = 15 := by rw [bits_eq]; simpa using hsel
  simp only [execTset, hsel]
  rfl
/-- What a check that passes, and one that fails, makes of a handle. -/
theorem answers_orRaise {i : Instr} {r : Except Flt Unit} {t : State} (hexec : exec i s = .next (s.orRaise r fun _ => t)) :
    (∀ P : State → Prop, r = .ok () → P t → Answers i s P) ∧ ∀ f, r = .error f → Answers i s (· = s.raise f) := by
  constructor
  · rintro P rfl hP
    exact answers_exec hexec hP
  · rintro f rfl
    exact answers_exec hexec rfl
end Exec

theorem tileHandleInstructionsKeepTheirChecks : TileHandleInstructionsKeepTheirChecks := by
  intro s d a b n x y c k r off sets fault at16 to48 addrOk check
  have hto : ∀ w, to48 w = addr48 w := fun w => (addr48_eq w).symm
  have hseal : ∀ w0 w1, check w0 w1 = sealed w0 w1 := fun _ _ => rfl
  simp only [hto, hseal]
  refine ⟨fun hat hown hm hbad => ?thdr, fun hat hown hm => ?tsth, fun hat => ?outside, fun ha => ?tmake, fun ha => ?misaligned, ?tset, ?tget⟩
  case thdr =>
    have h := answers_orRaise (i := .thdr n a) (execThdr_of_readable hat hown hm hbad)
    exact ⟨fun hok => h.1 _ hok (writesT_wt s n _), h.2⟩
  case tsth =>
    refine answers_exec (i := .tsth n a) (execTsth_of_hdrAt hat hown hm) ⟨?_, ?_, ?_, fun z => ?_, rfl⟩
    · have hkept := s.poolKept_putLocal c off (bytesOf [r.w0, sealed r.w0 r.w1])
      rwa [length_bytesOf] at hkept
    · rw [State.core_putLocal_same]
      exact (Core.words_put_header _ off r.w0 (sealed r.w0 r.w1)).1
    · rw [State.core_putLocal_same]
      exact (Core.words_put_header _ off r.w0 (sealed r.w0 r.w1)).2
    · rw [State.ctx, State.core_putLocal_same, Core.ctx, Core.ctxs_put]
      rfl
  case outside =>
    exact ⟨answers_exec (i := .thdr n a) (congrArg Host.Outcome.next (State.hdrAddr_of_not_hdrAt hat)) rfl,
      answers_exec (i := .tsth n a) (congrArg Host.Outcome.next (State.hdrAddr_of_not_hdrAt hat)) rfl⟩
  case tmake =>
    have h := answers_orRaise (i := .tmake n a b) (execTmake_of_ok (b := b) ha)
    exact ⟨fun hok => h.1 _ hok (writesT_wt s n _), h.2⟩
  case misaligned => exact answers_exec (i := .tmake n a b) (execTmake_of_misaligned ha) rfl
  case tset =>
    refine ⟨fun word lo len hrow => ?_, fun hi ha hok => ?_, fun hi hok => ?_, fun hi hok => ?_⟩
    · exact ⟨fun hv hok => (answers_orRaise (i := .tset n a b) (execTset_of_field hrow hv)).1 _ hok (writesT_wt s n _),
        fun hv => (answers_orRaise (i := .tset n a b) (execTset_of_field hrow hv)).2⟩
    · exact (answers_orRaise (i := .tset n a b) (execTset_of_addr hi ha)).1 _ hok (writesT_wt s n _)
    · exact (answers_orRaise (i := .tset n a b) (execTset_of_word0 hi)).1 _ hok (writesT_wt s n _)
    · exact (answers_orRaise (i := .tset n a b) (execTset_of_word1 hi)).1 _ hok (writesT_wt s n _)
  case tget => exact answers_ws (i := .tget d n) rfl (TReg.addr64_eq _)

/-- Settles O41, by what each instruction checks of its address and its handle, and by the codes of R130 in their order. -/
theorem tileHandlesKeepTheirChecks : Obligations.TileHandlesKeepTheirChecks :=
  ⟨tileHandleInstructionsKeepTheirChecks, headerChecksFollowTheirTable⟩

end Machine
end Sys2Proof
end

section
/-! Copy requests (R255, R290, R291): the fields of a word, the request that COPY and COPYC make, and its way to a streamer. -/

namespace Sys2Proof
namespace Machine

/-! ## Fields of words -/

theorem bits_or (w u : Word) (lo n : Nat) : bits (w ||| u) lo n = bits w lo n ||| bits u lo n := by
  rw [bits, BitVec.ushiftRight_or_distrib, BitVec.toNat_or, Nat.or_mod_two_pow, bits, bits]
theorem bits_at_ (v k lo n : Nat) : bits (at_ v k) lo n = v * 2 ^ k % 2 ^ 64 / 2 ^ lo % 2 ^ n := by
  rw [bits_eq, at_, BitVec.toNat_shiftLeft, BitVec.toNat_ofNat, Nat.shiftLeft_eq, Nat.mod_mul_mod]
theorem bits_at_same {v lo n : Nat} (hv : v < 2 ^ n) (hn : lo + n ≤ 64) : bits (at_ v lo) lo n = v := by
  have hlt : v * 2 ^ lo < 2 ^ 64 :=
    calc v * 2 ^ lo < 2 ^ n * 2 ^ lo := Nat.mul_lt_mul_of_pos_right hv (Nat.two_pow_pos lo)
      _ = 2 ^ (lo + n) := by rw [← Nat.pow_add, Nat.add_comm]
      _ ≤ 2 ^ 64 := Nat.pow_le_pow_right Nat.two_pos hn
  rw [bits_at_, Nat.mod_eq_of_lt hlt, Nat.mul_div_cancel _ (Nat.two_pow_pos lo), Nat.mod_eq_of_lt hv]
theorem bits_at_below {v m k lo n : Nat} (hv : v < 2 ^ m) (hk : k + m ≤ lo) : bits (at_ v k) lo n = 0 := by
  have hlt : v * 2 ^ k < 2 ^ lo :=
    calc v * 2 ^ k < 2 ^ m * 2 ^ k := Nat.mul_lt_mul_of_pos_right hv (Nat.two_pow_pos k)
      _ = 2 ^ (k + m) := by rw [← Nat.pow_add, Nat.add_comm]
      _ ≤ 2 ^ lo := Nat.pow_le_pow_right Nat.two_pos hk
  rw [bits_at_, Nat.div_eq_of_lt ((Nat.mod_le _ _).trans_lt hlt), Nat.zero_mod]
theorem bits_at_above {v k lo n : Nat} (hk : lo + n ≤ k) : bits (at_ v k) lo n = 0 := by
  have hdvd : 2 ^ lo * 2 ^ n ∣ v * 2 ^ k % 2 ^ 64 := by
    rw [← Nat.pow_add]
    by_cases h : lo + n ≤ 64
    · exact (Nat.dvd_mod_iff (pow_dvd_pow 2 h)).2 ((pow_dvd_pow 2 hk).mul_left v)
    · rw [Nat.mod_eq_zero_of_dvd ((pow_dvd_pow 2 (by omega : 64 ≤ k)).mul_left v)]
      exact dvd_zero _
  rw [bits_at_, ← Nat.mod_mul_right_div_self, Nat.mod_eq_zero_of_dvd hdvd, Nat.zero_div]

/-- The fields of a request's header that say where it goes (R174). -/
theorem header_fields {dest rcore rchan kind : Nat} (hd : dest < 4096) (hr : rcore < 4096) (hc : rchan < 64) (hk : kind < 256) :
    hDest (header dest 0 rcore rchan kind 4 0) = dest ∧ hKind (header dest 0 rcore rchan kind 4 0) = kind := by
  have hr : rcore < 2 ^ 12 := hr
  have hc : rchan < 2 ^ 6 := hc
  have hk : kind < 2 ^ 8 := hk
  constructor
  · simp only [hDest, header, bits_or]
    rw [bits_at_same hd (by omega), bits_at_below (m := 1) (by omega) (by omega), bits_at_below hr (by omega), bits_at_below hc (by omega),
      bits_at_below hk (by omega), bits_at_below (m := 4) (by omega) (by omega), bits_at_below (m := 1) (by omega) (by omega)]
    simp only [Nat.or_zero]
  · simp only [hKind, header, bits_or]
    rw [bits_at_same hk (by omega), bits_at_above (by omega), bits_at_above (by omega), bits_at_above (by omega), bits_at_above (by omega),
      bits_at_below (m := 4) (by omega) (by omega), bits_at_below (m := 1) (by omega) (by omega)]
    simp only [Nat.or_zero, Nat.zero_or]

/-! ## The request (R255, R290, R291) -/

section Form
variable {s : State} {src dst ctl w : Word} {kind : Except Word Nat} {k dest : Nat}

/-- The operands of a copy are of the forms of R255: no bit set that R255 leaves unassigned. -/
def copyGood (src dst ctl : Word) : Prop := ctlBad ctl = false ∧ poolNameBad src = false ∧ poolNameBad dst = false

theorem State.copyForm_of_badKind (h : copyGood src dst ctl) : s.copyForm src dst ctl (.error w) dest = s.raise { code := .perm, a := 75, b := w } := by
  obtain ⟨hctl, hsrc, hdst⟩ := h
  simp only [State.copyForm, hctl, hsrc, hdst]
  rfl
theorem State.copyForm_of_badCtl (h : ctlBad ctl = true) : s.copyForm src dst ctl kind dest = s.raise { code := .perm, a := 69, b := ctl } := by
  simp only [State.copyForm, h]
  rfl
theorem State.copyForm_of_fine (h : copyGood src dst ctl) (hs : src.toNat % 8 = 0) (hd : dst.toNat % 8 = 0) (hc : s.ccntOk = .ok ()) :
    s.copyForm src dst ctl (.ok k) dest = s.sendCopy k dest (bits ctl 56 6) [src, dst, setField ctl 56 6 0] := by
  obtain ⟨hctl, hsrc, hdst⟩ := h
  simp only [State.copyForm, hctl, hsrc, hdst, hs, hd, hc]
  rfl
end Form

section Send
variable (s : State) (kind dest rchan : Nat) (ws : List Word)

/-- The request of a copy on its way to its streamer, with the counter of its completion (R255, R257). -/
def State.Requests (t : State) : Prop :=
  ∃ p, t.net = s.net ++ [p] ∧ p.src = s.cur.core ∧ p.srcCtx = s.cur.ctx ∧ t.cores = s.cores ∧ t.mem = s.mem ∧
    p.dst = agent (s.phys s.cur.core (dest / 64 * 64) / 64) (if kind < 0x40 then 0 else 1) ∧
    p.body = .request (header (dest / 64 * 64) 0 (s.rel s.cur.core) rchan kind 4 0) (ws ++ [s.src.ccnt])

variable {s kind dest rchan ws}

theorem State.requests_sendCopy (hk : 0x20 ≤ kind) (hk' : kind < 0x60) (hd : dest < 4096) (hin : s.inRange s.cur.core dest = true)
    (hr : s.rel s.cur.core < 4096) (hc : rchan < 64) : s.Requests kind dest rchan ws (s.sendCopy kind dest rchan ws) := by
  obtain ⟨hdest, hkind⟩ := header_fields (dest := dest / 64 * 64) (kind := kind) (by omega) hr hc (by omega)
  have hto : s.destOf (header (dest / 64 * 64) 0 (s.rel s.cur.core) rchan kind 4 0) =
      agent (s.phys s.cur.core (dest / 64 * 64) / 64) (if kind < 0x40 then 0 else 1) := by
    rw [State.destOf, hdest, hkind, if_neg (by omega)]
    split <;> rfl
  rw [State.sendCopy, hin]
  obtain ⟨p, hnet, hsrc, hctx, hdst, hbody, -, -⟩ := s.net_sendMe (s.destOf (header (dest / 64 * 64) 0 (s.rel s.cur.core) rchan kind 4 0))
    (.request (header (dest / 64 * 64) 0 (s.rel s.cur.core) rchan kind 4 0) (ws ++ [s.src.ccnt]))
  exact ⟨p, hnet, hsrc, hctx, State.sendMe_cores .., State.sendMe_mem .., hdst.trans hto, hbody⟩
end Send

/-- COPY by the forms of its two addresses (R290). -/
theorem exec_copy (s : State) (d a b : BitVec 6) {kind : Except Word Nat}
    (h : (match isLocal (s.rs d), isLocal (s.rs a) with
      | false, true => .ok 0x20
      | true, false => .ok 0x21
      | false, false => if s.rs d = s.rs a then .error (s.rs a) else .ok 0x22
      | true, true => .error (s.rs a)) = kind) :
    exec (.copy d a b) s = .next (s.copyForm (s.rs d) (s.rs a) (s.rs b) kind (s.rel s.cur.core)) := by
  rw [← h]; rfl
/-- COPYC by the partition of its two pool names (R290). -/
theorem exec_copyc (s : State) (d a b : BitVec 6) {kind : Except Word Nat}
    (h : (if !isLocal (s.rs d) then .error (s.rs d)
      else if !isLocal (s.rs a) then .error (s.rs a)
      else if poolCore (s.rs d) / 64 ≠ poolCore (s.rs a) / 64 then .error (s.rs a) else .ok 0x40) = kind) :
    exec (.copyc d a b) s = .next (s.copyForm (s.rs d) (s.rs a) (s.rs b) kind (poolCore (s.rs d))) := by
  rw [← h]; rfl

theorem copyRequestsGoToTheirStreamer : CopyRequestsGoToTheirStreamer := by
  intro s d a b src dst ctl c good fine sends bad
  have hchan : bits ctl 56 6 < 64 := Nat.mod_lt _ (by decide)
  have hpool : poolCore src < 4096 := Nat.mod_lt _ (by decide)
  have hsend : ∀ {i : Instr} {kind dest : Nat}, fine → 0x20 ≤ kind → kind < 0x60 → dest < 4096 → s.inRange c dest = true →
      exec i s = .next (s.copyForm src dst ctl (.ok kind) dest) → Answers i s (sends kind dest) := by
    intro i kind dest hfine hk hk' hd hin hexec
    obtain ⟨hgood, hs, hdst, hc, -, hr⟩ := hfine
    rw [State.copyForm_of_fine hgood hs hdst hc] at hexec
    exact answers_exec hexec (State.requests_sendCopy hk hk' hd hin hr hchan)
  have hrel : fine → s.rel c < 4096 := fun h => h.2.2.2.2.2
  have hin : fine → s.inRange c (s.rel c) = true := fun h => h.2.2.2.2.1
  have hbad : ∀ {i : Instr} {w : Word} {dest : Nat}, good → exec i s = .next (s.copyForm src dst ctl (.error w) dest) → Answers i s (· = bad w) :=
    fun hgood hexec => answers_exec hexec (State.copyForm_of_badKind hgood)
  refine ⟨fun h hl hl' => ?get, fun h hl hl' => ?put, fun h hl hl' hne => ?gcopy, fun h hl hne => ?noKind, fun h hl hl' hp hin => ?move,
    fun h hl => ?global, fun h hl hor => ?apart, fun h => answers_exec (exec_copy s d a b rfl) (State.copyForm_of_badCtl h)⟩
  case get => exact hsend h (by decide) (by decide) (hrel h) (hin h) (exec_copy s d a b (by rw [hl, hl']))
  case put => exact hsend h (by decide) (by decide) (hrel h) (hin h) (exec_copy s d a b (by rw [hl, hl']))
  case gcopy => exact hsend h (by decide) (by decide) (hrel h) (hin h) (exec_copy s d a b (by rw [hl, hl']; exact if_neg hne))
  case noKind =>
    refine hbad h (exec_copy s d a b ?_)
    rw [← hl]
    cases hs : isLocal src with
    | true => rfl
    | false => exact if_pos (hne hs)
  case move => exact hsend h (by decide) (by decide) hpool hin (exec_copyc s d a b (by rw [hl, hl', if_neg (not_not.2 hp)]; rfl))
  case global => exact hbad h (exec_copyc s d a b (by rw [hl]; rfl))
  case apart =>
    refine hbad h (exec_copyc s d a b ?_)
    rw [hl]
    cases hd : isLocal dst with
    | false => rfl
    | true => exact if_pos (hor.resolve_left (by simp [hd]))

end Machine
end Sys2Proof
end

section
/-! A copy at its streamer (R255 to R258, R260, R274): the job that a request begins, what a read and a write of it touch, and one run of one word. -/

namespace Sys2Proof
namespace Machine

/-! ## The job that a request begins (R256, R258) -/

/-- The job of a request that has reached its streamer. -/
def Packet.copyJob (p : Packet) (h : Word) (ws : List Word) : CopyJob :=
  { id := p.id, kind := hKind h, core := p.src, ctx := p.srcCtx, hdr := h, cnt := ws.getD 3 0, src := ws.getD 0 0, dst := ws.getD 1 0,
    tile := (ws.getD 2 0).getLsbD 55, wm := if (ws.getD 2 0).getLsbD 51 then some (bits (ws.getD 2 0) 52 3) else none }

section Begin
variable {s : State} {id : Nat} {p : Packet} {h : Word} {ws : List Word}

theorem State.requestAt_of_request (hp : s.deliverable id = some p) (hb : p.body = .request h ws) (hl : ws.length = 4)
    {kind : Nat → Bool} (hk : kind (hKind h) = true) (k : State → CopyJob → List Word → State) :
    s.requestAt id kind k = k (s.sink p) (p.copyJob h ws) ws := by
  simp only [State.requestAt, hp, hb, hk, hl]
  rfl
/-- What a copy reads ahead does not depend on what it has still to move. -/
theorem State.readAhead_congr (s : State) (j : CopyJob) (ps : List Piece) (a : Word) (n : Nat) :
    s.readAhead { j with pieces := ps } a n = s.readAhead j a n := by
  induction n generalizing a with
  | zero => rfl
  | succ n ih =>
    have hread : s.copyRead { j with pieces := ps } a 8 = s.copyRead j a 8 := rfl
    simp only [State.readAhead, hread, ih]
/-- The length of a copy that is no tile is not zero (R255). -/
theorem len_ne_zero_of_ctlBad {w : Word} (hc : ctlBad w = false) (ht : w.getLsbD 55 = false) : bits w 0 40 ≠ 0 := by
  intro hlen
  have hbit : bits w 55 1 ≠ 1 := by
    have h : w.getLsbD 55 = decide (w.toNat / 2 ^ 55 % 2 = 1) := Nat.testBit_eq_decide_div_mod_eq
    rw [ht] at h
    rw [bits_eq, pow_one]
    exact of_decide_eq_false h.symm
  rw [ctlBad, hlen, if_neg hbit] at hc
  simp at hc
/-- A copy whose checks pass has a good control word. -/
theorem State.ctlBad_of_copyBad {j : CopyJob} {w : Word} (h : s.copyBad j w = none) : ctlBad w = false := by
  unfold State.copyBad at h
  dsimp only at h
  by_contra hc
  rw [if_pos (.inl (Bool.eq_true_of_not_eq_false hc))] at h
  cases h
theorem State.sink_jobs (s : State) (p : Packet) : (s.sink p).jobs = s.jobs := by
  unfold State.sink State.count
  split <;> rfl

/-- A copy as its request begins it: a tile has no runs yet, every other copy has one (R257). -/
def CopyJob.begun (j : CopyJob) (len : Nat) : CopyJob :=
  { j with pieces := if j.tile then [] else [{ src := j.src, dst := j.dst, len := len }] }

theorem State.beginCopy_of_good {u : State} {j : CopyJob} (hbad : u.copyBad j (ws.getD 2 0) = none) :
    u.beginCopy j ws = { u with jobs := u.jobs ++ [u.ahead (j.begun (bits (ws.getD 2 0) 0 40))] } := by
  simp only [State.beginCopy, hbad]
  rfl

/-- Nothing is read ahead of a tile, nor of a run whose ends do not meet (R258). -/
theorem State.ahead_of_apart {u : State} {j : CopyJob} {P : Piece} (hP : j.pieces = [P])
    (h : j.tile = true ∨ u.meet j.core P.src P.dst P.len = false) : u.ahead j = j := by
  simp only [State.ahead, hP]
  refine if_pos ?_
  obtain h | h := h <;> simp [h]

section Run
variable {u : State} {j : CopyJob} {len : Nat}

theorem CopyJob.pieces_begun_of_tile (ht : j.tile = true) : (j.begun len).pieces = [] := if_pos ht
theorem CopyJob.pieces_begun_of_run (ht : j.tile = false) : (j.begun len).pieces = [{ src := j.src, dst := j.dst, len := len }] :=
  if_neg (by simp [ht])
theorem State.ahead_begun_of_tile (ht : j.tile = true) : u.ahead (j.begun len) = j.begun len := by
  simp only [State.ahead, CopyJob.pieces_begun_of_tile ht]
/-- A run of which nothing has been moved is read ahead where its ends meet (R258). -/
theorem State.ahead_begun_of_run (ht : j.tile = false) (hl : len ≠ 0) (hd : j.done = 0) (hsnap : j.snap = []) :
    u.ahead (j.begun len) =
      { j.begun len with snap := if u.meet j.core j.src j.dst len then u.readAhead j j.src (len / 8) else [] } := by
  have hstart : j.src + nat64 0 = j.src := BitVec.add_zero _
  have hcore : (j.begun len).core = j.core := rfl
  have htile : (j.begun len).tile = false := ht
  have hdone : (j.begun len).done = 0 := hd
  have hnone : (j.begun len).snap = [] := hsnap
  have hahead : u.readAhead (j.begun len) j.src (len / 8) = u.readAhead j j.src (len / 8) := u.readAhead_congr j _ _ _
  cases hm : u.meet j.core j.src j.dst len
  · rw [State.ahead_of_apart (CopyJob.pieces_begun_of_run ht) (.inr hm), if_neg Bool.false_ne_true, ← hnone]
  · simp [State.ahead, CopyJob.pieces_begun_of_run ht, htile, hcore, hdone, hnone, hm, hl, hstart, hahead]
end Run

end Begin

theorem streamersTakeCopyRequests : StreamersTakeCopyRequests := by
  intro s id p h ws hp hb hl w2 len u j hbad starts
  have hstarts : starts (u.beginCopy j ws) := by
    rw [State.beginCopy_of_good hbad]
    refine ⟨_, congrArg (· ++ _) (s.sink_jobs p), s.sink_mem p, s.sink_cores p, State.count_net .., ?_⟩
    obtain ht | ht := Bool.eq_false_or_eq_true j.tile
    · rw [State.ahead_begun_of_tile ht]
      exact ⟨rfl, ⟨fun hf => absurd (hf.symm.trans ht) Bool.false_ne_true, fun _ => ⟨CopyJob.pieces_begun_of_tile ht, rfl⟩⟩⟩
    · rw [State.ahead_begun_of_run ht (len_ne_zero_of_ctlBad (State.ctlBad_of_copyBad hbad) ht) rfl rfl]
      exact ⟨rfl, ⟨fun _ => ⟨CopyJob.pieces_begun_of_run ht, rfl⟩, fun hf => absurd (ht.symm.trans hf) Bool.false_ne_true⟩⟩
  have htake : ∀ {i : Instr} {kind : Nat → Bool} {k : State → CopyJob → List Word → State}, exec i s = .next (s.requestAt id kind k) →
      kind (hKind h) = true → k u j ws = u.beginCopy j ws → Answers i s starts := by
    intro i kind k hexec hk hbegin
    rw [State.requestAt_of_request hp hb hl hk] at hexec
    exact answers_of_eq hexec hbegin hstarts
  refine ⟨fun hk => htake (i := .get id) rfl (by rw [hk]; rfl) (if_pos hk), fun hk => htake (i := .put id) rfl (by rw [hk]; rfl) rfl,
    fun hk => htake (i := .gcopy id) rfl (by rw [hk]; rfl) rfl, fun hk => htake (i := .move id) rfl (by rw [hk]; rfl) (if_pos hk)⟩

end Machine
end Sys2Proof
end

section
/-! A beat of a copy (R257, R258, R260, R274): what a read and a write of it touch, and one run of one word. -/

namespace Sys2Proof
namespace Machine

/-! ## What a copy reads (R257, R274) -/

theorem State.numUnder_nil (s : State) (pa n : Nat) : s.numUnder [] pa n = Memory.num zeroByte s.mem pa n := by
  induction n generalizing pa with
  | zero => rfl
  | succ n ih => rw [State.numUnder, ih]; rfl

section Read
variable {s : State} {j : CopyJob} {a : Word} {pa n : Nat} {v : Bool}

/-- Bytes of a pool, as they stand or stood since the fork of the copy (R274). -/
theorem State.copyRead_of_local (hl : isLocal a = true) (hbad : s.badIn (s.phys j.core (poolCore a)) (bits a 0 20) n = none) :
    ∃ k, PoolSeen s j.id (s.phys j.core (poolCore a)) k ∧ s.copyRead j a n = .ok (k.bytes (bits a 0 20) n) := by
  obtain ⟨k, hk, hpool⟩ := State.poolAt_seen (s := s) (id := j.id) (c := s.phys j.core (poolCore a))
    (s.phys j.core (poolCore a) * 2 ^ 20 + bits a 0 20 / 8)
  refine ⟨k, hk, ?_⟩
  simp only [State.copyRead, hl, hbad, hpool, if_true]
theorem State.copyRead_of_global (hl : isLocal a = false) (hx : s.copyXlate j.core a ⟨true, false⟩ = .ok (pa, v)) (hbad : s.badHbm pa n = none) :
    s.copyRead j a n = .ok (toBytes n (s.engineNum j pa n)) := by
  simp only [State.copyRead, hl, hx, hbad]
  rfl
/-- In deterministic mode a copy reads what the last close left, under its core's own earlier stores (R140, R279). -/
theorem State.engineNum_of_det (hd : s.det j.core = true) : s.engineNum j pa n = s.numUnder (s.forked j) pa n := by
  simp only [State.engineNum, hd]
  rfl
/-- Else it reads HBM as it stands, or as it stood at a moment since the fork of the copy (R274). -/
theorem State.engineNum_seen (hd : s.det j.core = false) : ∃ m, HbmSeen s j.id m ∧ s.engineNum j pa n = Memory.num zeroByte m pa n := by
  cases hm : s.momentOf j.id (2 ^ 40 + pa / 8) with
  | some m =>
    obtain ⟨hpast, hfork, hheld⟩ := State.momentOf_mem hm
    refine ⟨m.mem, .inr ⟨m, hpast, hfork, hheld, rfl⟩, ?_⟩
    simp only [State.engineNum, hd, hm]
    rfl
  | none =>
    refine ⟨s.mem, .inl rfl, ?_⟩
    have hforked : s.forked j = [] := if_neg (by simp [hd])
    simp only [State.engineNum, hd, hm, hforked, State.numUnder_nil]
    rfl
end Read

/-! ## What a copy writes (R257, R279) -/

section Write
variable {s u : State} {j : CopyJob} {a : Word} {bs : List Byte} {pa : Nat} {v : Bool}

theorem State.copyWrite_of_local (hl : isLocal a = true) (hecc : s.storeEcc (s.phys j.core (poolCore a)) (bits a 0 20) bs.length = none) :
    s.copyWrite j a bs = .ok (s.putLocal (s.phys j.core (poolCore a)) (bits a 0 20) bs) := by
  simp only [State.copyWrite, hl, hecc]
  rfl
theorem State.copyWrite_of_global (hl : isLocal a = false) (hx : s.copyXlate j.core a ⟨false, true⟩ = .ok (pa, v))
    (hbad : s.narrowBad pa bs.length = false) (hd : s.det j.core = false) (hroom : v = false ∨ s.roomFor pa bs.length = true) :
    s.copyWrite j a bs = .ok (s.performWords pa bs v) := by
  have hr : (v && !s.roomFor pa bs.length) = false := by obtain h | h := hroom <;> simp [h]
  simp only [State.copyWrite, hl, hx, hbad, hd, hr]
  rfl
theorem State.performWords_cores (s : State) (pa : Nat) (bs : List Byte) (v : Bool) : (s.performWords pa bs v).cores = s.cores := by
  unfold State.performWords
  split
  · exact State.performWrite_cores ..
  · exact (State.performWrite_cores ..).trans (State.performWrite_cores ..)
/-- Two words written one after another lie as their bytes do (R141). -/
theorem State.read_performWords (s : State) (pa b : Nat) (bs : List Byte) (v : Bool) :
    Memory.read zeroByte (s.performWords pa bs v).mem b = if pa ≤ b ∧ b < pa + bs.length then bs.getD (b - pa) 0 else Memory.read zeroByte s.mem b := by
  unfold State.performWords
  split
  · rw [State.performWrite_mem, Memory.read_store]
  · next h =>
    have hd : ∀ i, (bs.drop 8).getD i 0 = bs.getD (8 + i) 0 := fun i => by simp [List.getD_eq_getElem?_getD]
    have ht : b - pa < 8 → (bs.take 8).getD (b - pa) 0 = bs.getD (b - pa) 0 := fun hb => by
      simp [List.getD_eq_getElem?_getD, hb]
    rw [State.performWrite_mem, State.performWrite_mem, Memory.read_store, Memory.read_store, List.length_drop, List.length_take, hd]
    by_cases hhigh : pa + 8 ≤ b ∧ b < pa + 8 + (bs.length - 8)
    · rw [if_pos hhigh, if_pos (by omega), show 8 + (b - (pa + 8)) = b - pa by omega]
    · by_cases hlow : pa ≤ b ∧ b < pa + min 8 bs.length
      · rw [if_neg hhigh, if_pos hlow, if_pos (by omega), ht (by omega)]
      · rw [if_neg hhigh, if_neg hlow, if_neg (by omega)]

section Domains
variable {t : State} (h : t.domains = s.domains)
include h

theorem State.domain_congr (b : Nat) : t.domain b = s.domain b := by rw [State.domain, h, State.domain]
theorem State.domOf_congr (c : Nat) : t.domOf c = s.domOf c := by rw [State.domOf, State.baseOf, h, State.domOf, State.baseOf]
theorem State.phys_congr (c r : Nat) : t.phys c r = s.phys c r := by rw [State.phys, State.domOf_congr h, State.phys]
theorem State.tableWalk_congr (b : Nat) (a : Word) (n : Need) : t.tableWalk b a n = s.tableWalk b a n := by
  rw [State.tableWalk, State.domain_congr h, State.tableWalk]
theorem State.orHold_congr (b : Nat) (f : Flt) : t.orHold b f = s.orHold b f := by
  rw [State.orHold, State.serviced, State.domOf_congr h, State.domain_congr h, State.orHold, State.serviced]
/-- A translation depends on the domains alone (R331). -/
theorem State.copyXlate_congr (c : Nat) (a : Word) (n : Need) : t.copyXlate c a n = s.copyXlate c a n := by
  rw [State.copyXlate, State.tableWalk_congr h, State.domOf_congr h, State.copyXlate]
  simp only [State.orHold_congr h]

end Domains

theorem State.count_domains (s : State) (p e n : Nat) : (s.count p e n).domains = s.domains := by
  unfold State.count
  split <;> rfl
theorem State.performWrite_domains (s : State) (pa : Nat) (bs : List Byte) (v : Bool) : (s.performWrite pa bs v).domains = s.domains := by
  cases v <;> exact State.count_domains ..
theorem State.performWords_domains (s : State) (pa : Nat) (bs : List Byte) (v : Bool) : (s.performWords pa bs v).domains = s.domains := by
  unfold State.performWords
  split
  · exact State.performWrite_domains ..
  · exact (State.performWrite_domains ..).trans (State.performWrite_domains ..)
theorem State.copyWrite_domains (h : s.copyWrite j a bs = .ok u) : u.domains = s.domains := by
  unfold State.copyWrite at h
  dsimp only at h
  split at h
  · split at h <;> cases h
    rfl
  · split at h
    · cases h
    · split at h
      · cases h
      · split at h
        · cases h; rfl
        · split at h <;> cases h
          exact State.performWords_domains ..

end Write

/-! ## One run of one word -/

/-- A copy of which one word more has been written, and nothing is left to move. -/
def CopyJob.moved (j : CopyJob) : CopyJob := { j with done := j.done + 8, pieces := [] }

section Beat
variable {s u : State} {j : CopyJob} {P : Piece} {bs : List Byte}

/-- A run of one whole word is read and written at once, and what was read of HBM is counted at its slice (R257, R338). -/
theorem State.copyWord_of_word (hP : j.pieces = [P]) (hl : P.len = 8) (hal : P.dst.toNat % 8 = 0) (hh : P.halo = none) (hsnap : j.snap = [])
    (hr : s.copyRead j P.src 8 = .ok bs) (hw : s.copyWrite j P.dst bs = .ok u) :
    s.copyWord j = .ok (match (if isLocal P.src then none else (s.copyXlate j.core P.src ⟨true, false⟩).toOption) with
      | some (pa, _) => u.count (sliceOf pa) 4 8
      | none => u, j.moved) := by
  have hn : (if P.whole then P.len else Nat.min P.len (8 - P.dst.toNat % 8)) = 8 := by
    rw [hl, hal]
    split <;> rfl
  have hahead : (j.snap.drop j.done).take 8 = [] := by rw [hsnap, List.drop_nil, List.take_nil]
  rw [← State.copyXlate_congr (State.copyWrite_domains hw)]
  unfold State.copyWord
  rw [hP]
  dsimp only
  rw [hn, hahead, if_neg (by decide), hr]
  dsimp only
  rw [hw]
  dsimp only
  rw [hh, hl]
  exact if_neg (Nat.lt_irrefl 8)
theorem State.copyLine_of_last {k : CopyJob} (n : Nat) (hw : s.copyWord j = .ok (u, k)) (hk : k.pieces = []) : s.copyLine j (n + 1) = (u, k, none) := by
  simp only [State.copyLine, hw, hk]
/-- A copy whose last word has been written completes, or waits for the close that performs its writes (R257, R279). -/
theorem State.copyOn_of_last (hP : j.pieces = [P]) (hpart : j.part = 0) (hahead : s.ahead j = j) (hover : j.tile = false ∨ j.done ≠ 0)
    (hw : s.copyWord j = .ok (u, j.moved)) :
    s.copyOn j = if (u.beatDone j P.dst 8).copyHeld j then (u.beatDone j P.dst 8).setJob j.moved
      else (u.beatDone j P.dst 8).copyDone j.moved := by
  obtain ⟨n, hn⟩ : ∃ n, 8 - Config.writesIn j.id s.now % 8 = n + 1 := ⟨7 - Config.writesIn j.id s.now % 8, by omega⟩
  have hline := State.copyLine_of_last n hw rfl
  rw [← hn] at hline
  have hz : P.dst - nat64 0 = P.dst := BitVec.sub_zero _
  have hpart' : { j.moved with part := 0 } = j.moved := by rw [← hpart]; rfl
  have hnum : 0 + (j.moved.done - j.done) = 8 := by simp [CopyJob.moved]
  have hover' : j.moved.over = true := by
    obtain h | h := hover <;> simp [CopyJob.over, CopyJob.moved, h]
  have hbeat : ∀ w : State, w.beatDone j.moved P.dst 8 = w.beatDone j P.dst 8 := fun _ => rfl
  have hheld : ∀ w : State, w.copyHeld j.moved = w.copyHeld j := fun _ => rfl
  unfold State.copyOn
  rw [hahead]
  dsimp only
  rw [hline, hP, hpart]
  have hends : ((none : Option Halt).isNone && (j.moved.pieces.length != [P].length ||
      j.moved.pieces.all fun p => p.dst.toNat % 64 == 0)) = true := rfl
  simp only [List.head?_cons, Option.map_some, Option.getD_some, hz, hnum, hends, if_true, hpart', hover', hheld, hbeat, Bool.true_and]
  cases (u.beatDone j P.dst 8).copyHeld j <;> rfl
theorem execCopyBeat_of_run (hj : s.jobs.find? (fun k => k.id == j.id) = some j) (hP : j.pieces = [P]) (hheld : j.held = none)
    (hpage : j.page = none) (hclear : isLocal P.dst = true → (s.core (s.phys j.core (poolCore P.dst))).clearing = false) :
    execCopyBeat j.id s = .next (s.copyOn j) := by
  have hbeat : s.beatHeld j = false := by
    simp only [State.beatHeld, hP]
    cases hl : isLocal P.dst with
    | false => rfl
    | true => exact hclear hl
  have hover : j.over = false := by simp [CopyJob.over, hP]
  simp [execCopyBeat, hj, hheld, hpage, hbeat, hover, hP]
/-- The watermark channel that a request names counts a word written to a scratchpad (R260). -/
theorem State.beatDone_of_word {e : Nat} (he : s.phys j.core (poolCore P.dst) = e) :
    s.beatDone j P.dst 8 = match j.wm with
      | some n => if isLocal P.dst ∧ bits P.dst 0 20 < accBase then s.advanceMark e n (bits P.dst 0 20) 8 else s
      | none => s := by
  subst he
  unfold State.beatDone
  simp only [Nat.zero_lt_succ, and_true] <;> rfl

end Beat

theorem aBeatMovesTheBytesOfItsRun : ABeatMovesTheBytesOfItsRun := by
  intro s j P bs e b
  refine ⟨fun hl _ hbad => State.copyRead_of_local hl hbad, fun pa v hl hx hbad => ⟨fun hd => ?det, fun hd => ?free⟩, fun hl hecc => ?pool,
    fun pa v hl hx hbad hd hroom => ?hbm, fun u hj hP hlen hal hh hheld hpage hsnap hpart hover hapart hclear hr hb hw => ?beat⟩
  case det => rw [State.copyRead_of_global hl hx hbad, State.engineNum_of_det hd]
  case free =>
    obtain ⟨m, hm, hnum⟩ := State.engineNum_seen (pa := pa) (n := 8) hd
    exact ⟨m, hm, by rw [State.copyRead_of_global hl hx hbad, hnum]⟩
  case pool =>
    exact ⟨_, State.copyWrite_of_local hl hecc, s.poolKept_putLocal e b bs, fun i hi => s.byte_putLocal e b bs hi, rfl,
      fun d hd => State.core_putLocal_ne s hd.symm _ _⟩
  case hbm =>
    refine ⟨_, State.copyWrite_of_global hl hx hbad hd hroom, fun a ha => ?_, fun i hi => ?_, State.performWords_cores ..⟩
    · rw [State.read_performWords, if_neg (by omega)]
    · rw [State.read_performWords, if_pos (by omega), Nat.add_sub_cancel_left]
  case beat =>
    intro v w
    have hahead : s.ahead j = j := State.ahead_of_apart hP (by rwa [hlen])
    have hexec : exec (.copyBeat j.id) s = .next (s.copyOn j) := execCopyBeat_of_run hj hP hheld hpage hclear
    have hdom : v.domains = s.domains := by
      refine Eq.trans ?_ (State.copyWrite_domains hw)
      dsimp only [v]
      split
      · exact State.count_domains ..
      · rfl
    have hv : v.beatDone j P.dst 8 = w := State.beatDone_of_word (State.phys_congr hdom ..)
    have hword : s.copyWord j = .ok (v, j.moved) := State.copyWord_of_word hP hlen hal hh hsnap hr hw
    have hon := State.copyOn_of_last hP hpart hahead hover hword
    rw [hv] at hon
    rw [hon] at hexec
    exact ⟨fun h => answers_exec hexec (if_neg (by simp [h])), fun h => answers_exec hexec (if_pos h)⟩

/-- Settles O22: the request of each form, the job that it begins, and a beat by what its read and its write touch. -/
theorem copiesMoveTheBytesOfTheirRuns : Obligations.CopiesMoveTheBytesOfTheirRuns :=
  ⟨copyRequestsGoToTheirStreamer, streamersTakeCopyRequests, aBeatMovesTheBytesOfItsRun⟩

end Machine
end Sys2Proof
end

section
/-! What `MMA` and `MMAG` accept (R138, R142, R143, R150, R163). -/

namespace Sys2Proof
namespace Machine

/-! ## Chains of checks -/

section Chain
variable {α β : Type} {f : Flt}

theorem bind_eq_ok {x : Except Flt α} {k : α → Except Flt β} {b : β} : (x >>= k) = .ok b ↔ ∃ a, x = .ok a ∧ k a = .ok b := by
  cases x with
  | error e => exact ⟨nofun, fun ⟨_, h, _⟩ => nomatch h⟩
  | ok a => exact ⟨fun h => ⟨a, rfl, h⟩, fun ⟨_, h, hk⟩ => by cases h; exact hk⟩
theorem bind_eq_error {x : Except Flt α} {k : α → Except Flt β} : (x >>= k) = .error f ↔ x = .error f ∨ ∃ a, x = .ok a ∧ k a = .error f := by
  cases x with
  | error e => exact ⟨fun h => .inl (by cases h; rfl), fun h => by obtain h | ⟨_, h, _⟩ := h <;> cases h; rfl⟩
  | ok a => exact ⟨fun h => .inr ⟨a, rfl, h⟩, fun h => by obtain h | ⟨_, h, hk⟩ := h <;> cases h; exact hk⟩
theorem unit_bind_eq_ok {x : Except Flt Unit} {k : Unit → Except Flt β} {b : β} : (x >>= k) = .ok b ↔ x = .ok () ∧ k () = .ok b := by
  rw [bind_eq_ok]
  exact ⟨fun ⟨_, h⟩ => h, fun h => ⟨_, h⟩⟩
theorem checkOk_eq_ok {b : Bool} {u : Unit} : checkOk b f = .ok u ↔ b = true := by cases b <;> simp [checkOk]
theorem checkOk_eq_error {b : Bool} {g : Flt} : checkOk b g = .error f ↔ b = false ∧ g = f := by cases b <;> simp [checkOk]
theorem State.fits_eq_ok {s : State} {c : Nat} {t : TReg} {fmt mode : Nat} :
    s.fits c t fmt mode = .ok () ↔ t.base + t.extent fmt mode ≤ (s.core c).spSize := by
  simp [State.fits]

end Chain

/-! ## Shapes (R143) -/

section Shape
variable {ra rb rc m : Nat} {A B C : TReg} {idx : Option (List Nat)} {f : Flt}

/-- The condition of each SHAPE code of R143. -/
def mmaMeets (A B C : TReg) (m : Nat) (idx : Option (List Nat)) : Nat → Prop
  | 1 => A.cols = B.rows
  | 2 => if idx = none then C.rows = A.rows else C.rows ≤ 64
  | 3 => C.cols = B.cols
  | 4 => C.rows ≤ 256 ∧ C.cols ≤ modeCols m
  | 5 => A.lineBytes A.fmt 0 ≤ 16 * A.pitch ∧ B.lineBytes B.fmt 0 ≤ 16 * B.pitch
  | 6 => ∀ l, idx = some l → ∀ i y, i < C.rows → l[i]? = some y → y < A.rows
  | 7 => A.spr = 1 → A.cols % 4 = 0
  | _ => True
/-- The rows that a gather names and A does not have: none (R163). -/
theorem find_rows_eq_none {l : List Nat} {n r : Nat} :
    ((l.take n).zipIdx).find? (fun e => decide (r ≤ e.1)) = none ↔ ∀ i y, i < n → l[i]? = some y → y < r := by
  simp only [List.find?_eq_none, decide_eq_true_eq, Nat.not_le, Prod.forall, List.mem_zipIdx_iff_getElem?, List.getElem?_take,
    Option.ite_none_right_eq_some]
  exact ⟨fun h i y hi hy => h y i ⟨hi, hy⟩, fun h y i ⟨hi, hy⟩ => h i y hi hy⟩

theorem mmaMeets_of_no_gather : mmaMeets A B C m none 6 := fun _ h => nomatch h
theorem mmaMeets_gather {l : List Nat} : mmaMeets A B C m (some l) 6 ↔
    ((l.take C.rows).zipIdx).find? (fun e => decide (A.rows ≤ e.1)) = none := by
  simp only [mmaMeets, find_rows_eq_none, Option.some.injEq, forall_eq']
theorem forall_lt_succ {p : Nat → Prop} {n : Nat} (h : ∀ j, j < n → p j) (hn : p n) : ∀ j, j < n + 1 → p j :=
  Nat.forall_lt_succ_right.mpr ⟨h, hn⟩
theorem mmaShape_eq_ok : mmaShape ra rb rc A B C m idx = .ok () ↔ ∀ n, mmaMeets A B C m idx n := by
  have hall : (∀ n, mmaMeets A B C m idx n) ↔ mmaMeets A B C m idx 1 ∧ mmaMeets A B C m idx 2 ∧ mmaMeets A B C m idx 3 ∧
      mmaMeets A B C m idx 4 ∧ mmaMeets A B C m idx 5 ∧ mmaMeets A B C m idx 6 ∧ mmaMeets A B C m idx 7 :=
    ⟨fun h => ⟨h 1, h 2, h 3, h 4, h 5, h 6, h 7⟩, fun ⟨h1, h2, h3, h4, h5, h6, h7⟩ n => match n with
      | 1 => h1 | 2 => h2 | 3 => h3 | 4 => h4 | 5 => h5 | 6 => h6 | 7 => h7 | 0 | _ + 8 => trivial⟩
  rw [hall]
  unfold mmaShape
  cases idx with
  | none =>
    rw [iff_true_intro mmaMeets_of_no_gather]
    simp [bind_eq_ok, checkOk_eq_ok, mmaMeets, imp_iff_not_or, and_assoc]
  | some l =>
    rw [mmaMeets_gather]
    cases hl : List.find? (fun e => decide (A.rows ≤ e.1)) (l.take C.rows).zipIdx <;>
      simp only [hl, bind_eq_ok, checkOk_eq_ok, mmaMeets] <;> simp [imp_iff_not_or, and_assoc]
theorem mmaShape_eq_error (h : mmaShape ra rb rc A B C m idx = .error f) :
    ∃ n, f.a = BitVec.ofNat 64 n ∧ 1 ≤ n ∧ n ≤ 7 ∧ ¬mmaMeets A B C m idx n ∧ ∀ j, j < n → mmaMeets A B C m idx j := by
  have h0 : ∀ j, j < 1 → mmaMeets A B C m idx j := fun j hj => by rw [Nat.lt_one_iff.mp hj]; trivial
  unfold mmaShape at h
  simp only [bind_eq_error, checkOk_eq_error, checkOk_eq_ok] at h
  obtain ⟨e, rfl⟩ | ⟨_, e1, h⟩ := h
  · exact ⟨1, rfl, by decide, by decide, by simpa [mmaMeets] using e, h0⟩
  have h1 := forall_lt_succ h0 (by simpa [mmaMeets] using e1)
  obtain ⟨e, rfl⟩ | ⟨_, e2, h⟩ := h
  · exact ⟨2, rfl, by decide, by decide, by cases idx <;> simpa [mmaMeets] using e, h1⟩
  have h2 := forall_lt_succ h1 (by cases idx <;> simpa [mmaMeets] using e2)
  obtain ⟨e, rfl⟩ | ⟨_, e3, h⟩ := h
  · exact ⟨3, rfl, by decide, by decide, by simpa [mmaMeets] using e, h2⟩
  have h3 := forall_lt_succ h2 (by simpa [mmaMeets] using e3)
  obtain ⟨e, rfl⟩ | ⟨_, e4, h⟩ := h
  · exact ⟨4, rfl, by decide, by decide, fun hm => by simp [hm.1, hm.2] at e, h3⟩
  have h4 := forall_lt_succ h3 (by simpa [mmaMeets] using e4)
  obtain ⟨e, rfl⟩ | ⟨_, e5, h⟩ := h
  · exact ⟨5, rfl, by decide, by decide, fun hm => by simp [hm.1] at e, h4⟩
  obtain ⟨e, rfl⟩ | ⟨_, e6, h⟩ := h
  · exact ⟨5, rfl, by decide, by decide, fun hm => by simp [hm.2] at e, h4⟩
  have h5 := forall_lt_succ h4 (show mmaMeets A B C m idx 5 from ⟨by simpa using e5, by simpa using e6⟩)
  have hlast (h6 : mmaMeets A B C m idx 6) (e : (!A.spr == 1 || decide (A.cols % 4 = 0)) = false) (ef : shapeFlt ra 7 A.cols A = f) :
      ∃ n, f.a = BitVec.ofNat 64 n ∧ 1 ≤ n ∧ n ≤ 7 ∧ ¬mmaMeets A B C m idx n ∧ ∀ j, j < n → mmaMeets A B C m idx j := by
    subst ef
    exact ⟨7, rfl, by decide, by decide, by simpa [mmaMeets] using e, forall_lt_succ h5 h6⟩
  cases idx with
  | none =>
    simp only [bind_eq_error, checkOk_eq_error, reduceCtorEq, false_or] at h
    obtain ⟨_, _, e, ef⟩ := h
    exact hlast mmaMeets_of_no_gather e ef
  | some l =>
    cases hl : List.find? (fun e => decide (A.rows ≤ e.1)) (l.take C.rows).zipIdx with
    | none =>
      simp only [hl, bind_eq_error, checkOk_eq_error, reduceCtorEq, false_or] at h
      obtain ⟨_, _, e, ef⟩ := h
      exact hlast (mmaMeets_gather.mpr hl) e ef
    | some e =>
      simp only [hl, bind_eq_error, reduceCtorEq, false_and, exists_false, or_false] at h
      cases h
      exact ⟨6, rfl, by decide, by decide, fun hm => (nomatch (mmaMeets_gather.mp hm).symm.trans hl), h5⟩

end Shape

/-! ## Combinations (R142) -/

/-- What R142's table allows of the operands of an MMA, or of an MMAG that reads rows of A. -/
def MmaCombo (A B : TReg) (gather : Prop) : Prop :=
  let m := mmaMode A.fmt B.fmt
  m ≠ 0 ∧ A.isLocal = true ∧ B.isLocal = true ∧ (A.scl ∈ [0, 1, 2] ∨ (A.scl = 4 ∧ m ≠ 3)) ∧ (B.scl ∈ [0, 1, 3] ∨ (B.scl = 5 ∧ m ≠ 3)) ∧
    B.spr = 0 ∧ (A.spr = 1 → A.colMajor = false) ∧ (gather → A.colMajor = false)
theorem mmaMode_fmts {a b : Nat} (h : mmaMode a b ≠ 0) : a ≤ 2 ∧ (mmaMode a b = 3 ↔ a = 2) ∧ (mmaMode a b = 3 ↔ b = 2) := by
  unfold mmaMode at h ⊢
  split
  · omega
  · split
    · omega
    · split
      · omega
      · next h0 h1 h2 => rw [if_neg h0, if_neg h1, if_neg h2] at h; exact absurd rfl h
theorem combos_iff {A B : TReg} {idx : Option (List Nat)} : comboA A idx.isSome = true ∧ comboB A B = true ↔ MmaCombo A B (idx ≠ none) := by
  by_cases hm : mmaMode A.fmt B.fmt = 0
  · simp [comboB, MmaCombo, hm]
  · obtain ⟨hle, ha, hb⟩ := mmaMode_fmts hm
    cases hc : A.colMajor with
    | false => cases idx <;> simp [comboA, comboB, MmaCombo, hm, hle, ← ha, ← hb, hc, and_assoc, and_left_comm, or_assoc]
    | true =>
      cases idx with
      | none =>
        simp only [comboA, comboB, MmaCombo, hm, hle, ← ha, ← hb, hc, bne_iff_ne, beq_iff_eq, Bool.and_eq_true, Bool.or_eq_true, ne_eq,
          List.mem_cons, List.not_mem_nil, or_false, or_assoc]
        simp [and_assoc, and_left_comm]
        exact fun _ _ _ _ => and_comm
      | some l => simp [comboA, MmaCombo, hc]

/-! ## All checks, and what a record names -/

section Checks
variable {s : State} {tt ra rb rc mode : Nat} {A B C : TReg} {v : Option (BitVec 5)} {idx : Option (List Nat)} {f : Flt}

theorem mmaCheck_eq_ok : s.mmaCheck tt ra rb rc A B C v idx = .ok mode ↔ checkHdr ra A.w0 A.w1 = .ok () ∧
    checkHdr rb B.w0 B.w1 = .ok () ∧ checkHdr rc C.w0 C.w1 = .ok () ∧ MmaCombo A B (idx ≠ none) ∧
    (∀ w, v = some w → AMap.find s.src.streams w.toNat = none) ∧ (∀ n, mmaMeets A B C (mmaMode A.fmt B.fmt) idx n) ∧
    A.base + A.extent A.fmt 0 ≤ (s.core s.cur.core).spSize ∧ B.base + B.extent B.fmt 0 ≤ (s.core s.cur.core).spSize ∧
    (s.slot s.cur.core).iRows ≠ 0 ∧ (C.rows = (s.slot s.cur.core).iRows ∧ C.cols = (s.slot s.cur.core).iCols) ∧
    ((s.slot s.cur.core).iMode = 0 ∨ (s.slot s.cur.core).iMode = mmaMode A.fmt B.fmt) ∧
    C.rows * C.cols * accBytes (mmaMode A.fmt B.fmt) ≤ s.myCore.accSize ∧ s.ccntOk = .ok () ∧ mmaMode A.fmt B.fmt = mode := by
  rw [← combos_iff, ← mmaShape_eq_ok (ra := ra) (rb := rb) (rc := rc), and_assoc]
  unfold State.mmaCheck
  cases v with
  | none =>
    simp only [unit_bind_eq_ok, checkOk_eq_ok, State.fits_eq_ok]
    simp
  | some w =>
    cases hw : AMap.find s.src.streams w.toNat <;>
      simp only [hw, unit_bind_eq_ok, checkOk_eq_ok, State.fits_eq_ok] <;> simp [hw]

theorem checkHdr_code {n : Nat} {w0 w1 : Word} (h : checkHdr n w0 w1 = .error f) : f.code ≠ .shape := by
  unfold checkHdr at h
  split at h
  · cases h; nofun
  · split at h
    · cases h; nofun
    · split at h <;> cases h
      nofun
theorem State.counterName_code {c : Nat} {w : Word} (h : s.counterName c w = .error f) : f.code ≠ .shape := by
  unfold State.counterName at h
  dsimp only at h
  split_ifs at h <;> cases h <;> nofun
theorem State.ccntOk_code (h : s.ccntOk = .error f) : f.code ≠ .shape := by
  unfold State.ccntOk at h
  split at h
  · cases h
  · split at h
    · cases h
    · next hn => cases h; exact State.counterName_code hn
theorem State.fits_code {c fmt m : Nat} {t : TReg} (h : s.fits c t fmt m = .error f) : f.code ≠ .shape := by
  unfold State.fits at h
  split at h <;> cases h
  nofun
/-- Only the checks of R143 end in a SHAPE record. -/
theorem mmaCheck_shape (h : s.mmaCheck tt ra rb rc A B C v idx = .error f) (hf : f.code = .shape) :
    mmaShape ra rb rc A B C (mmaMode A.fmt B.fmt) idx = .error f := by
  have hrest {x : Except Flt Unit} {k : Unit → Except Flt Nat} (hx : x = .error f → f.code ≠ .shape) (h : (x >>= k) = .error f) : k () = .error f := by
    obtain h | ⟨_, _, h⟩ := bind_eq_error.mp h
    · exact absurd hf (hx h)
    · exact h
  have hcheck {b : Bool} {g : Flt} (hg : (g.code != .shape) = true) (h : checkOk b g = .error f) : f.code ≠ .shape :=
    (checkOk_eq_error.mp h).2 ▸ bne_iff_ne.mp hg
  have htail (h : (do
      mmaShape ra rb rc A B C (mmaMode A.fmt B.fmt) idx
      s.fits s.cur.core A A.fmt 0
      s.fits s.cur.core B B.fmt 0
      checkOk ((s.slot s.cur.core).iRows != 0) (leaseFlt (some tt) 4 0)
      checkOk (C.rows == (s.slot s.cur.core).iRows && C.cols == (s.slot s.cur.core).iCols) (leaseFlt (some tt) 5 ((s.slot s.cur.core).iRows * 65536 + (s.slot s.cur.core).iCols))
      checkOk ((s.slot s.cur.core).iMode == 0 || (s.slot s.cur.core).iMode == mmaMode A.fmt B.fmt) (comboFlt rc 3 C)
      checkOk (decide (C.rows * C.cols * accBytes (mmaMode A.fmt B.fmt) ≤ s.myCore.accSize)) (leaseFlt (some tt) 6 (C.rows * C.cols * accBytes (mmaMode A.fmt B.fmt)))
      s.ccntOk
      .ok (mmaMode A.fmt B.fmt) : Except Flt Nat) = .error f) : mmaShape ra rb rc A B C (mmaMode A.fmt B.fmt) idx = .error f := by
    obtain h | ⟨_, _, h⟩ := bind_eq_error.mp h
    · exact h
    · exact nomatch hrest State.ccntOk_code (hrest (hcheck rfl) (hrest (hcheck rfl) (hrest (hcheck rfl) (hrest (hcheck rfl)
        (hrest State.fits_code (hrest State.fits_code h))))))
  have h := hrest (hcheck rfl) (hrest (hcheck rfl) (hrest checkHdr_code (hrest checkHdr_code (hrest checkHdr_code h))))
  cases v with
  | none => exact htail h
  | some w =>
    cases hw : AMap.find s.src.streams w.toNat with
    | none =>
      simp only [hw] at h
      exact htail h
    | some t =>
      simp only [hw] at h
      cases h
      exact nomatch hf

end Checks

/-- R138, R142, R143, R150, R163: what `MMA` and `MMAG` accept, and the lowest code that a SHAPE record names. -/
theorem mmaChecksFollowTheirTables : MmaChecksFollowTheirTables := by
  intro s tt ra rb rc mode A B C v idx q k m combo shape
  have hshape : ∀ n, shape n ↔ mmaMeets A B C m idx n := fun n => by
    match n with
    | 1 | 2 | 3 | 4 | 5 | 6 | 7 => simp [shape, mmaMeets, modeCols]
    | 0 | _ + 8 => simp [shape, mmaMeets]
  have hall : (∀ n, shape n) ↔ ∀ n, mmaMeets A B C m idx n := forall_congr' hshape
  refine ⟨?_, fun f h hf => ?_⟩
  · rw [hall, mmaCheck_eq_ok]
    exact ⟨fun ⟨ha, hb, hc, hcombo, hv, hs, hA, hB, h0, ⟨hr, hk⟩, hm, hacc, hn, hmode⟩ => ⟨hmode.symm, ha, hb, hc, hcombo, hv, hs, hA, hB, h0, hr, hk, hm, hacc, hn⟩,
      fun ⟨hmode, ha, hb, hc, hcombo, hv, hs, hA, hB, h0, hr, hk, hm, hacc, hn⟩ => ⟨ha, hb, hc, hcombo, hv, hs, hA, hB, h0, ⟨hr, hk⟩, hm, hacc, hn, hmode.symm⟩⟩
  · obtain ⟨n, ha, hlo, hhi, hn, hbelow⟩ := mmaShape_eq_error (mmaCheck_shape h hf)
    exact ⟨n, ha, hlo, hhi, fun h => hn ((hshape n).mp h), fun j hj => (hshape j).mpr (hbelow j hj)⟩

end Machine
end Sys2Proof
end

section
/-! Turntable and tile-unit commands enter their queues (R138, R150 to R152, R162, R163, R165, R167, R168). -/

namespace Sys2Proof
namespace Machine

section Slots
variable {s : State}

@[simp] theorem State.tt_updTt_same (p k : Nat) (f : Turntable → Turntable) : (s.updTt p k f).tt p k = f (s.tt p k) := by
  rw [State.updTt, State.tt, State.part_updPart_same, AMap.get_upd, if_pos rfl, State.tt]
@[simp] theorem State.slot_updSlot_same (c : Nat) (f : TSlot → TSlot) : (s.updSlot c f).slot c = f (s.slot c) := by
  rw [State.updSlot, State.slot, State.tt_updTt_same, Turntable.updSlot, Turntable.slot, AMap.get_upd, if_pos rfl, State.slot, Turntable.slot]

end Slots

/-! ## Leases and checks -/

section Checks
variable {s : State} {f : Flt} {k : Nat → State}

theorem State.leased_of_held (h0 : s.cur.ctx = 0) (hc : s.isCompute s.cur.core = true) (hh : (s.slot s.cur.core).holds = true)
    (hm : (s.slot s.cur.core).mrel = false) : s.leased k = k (s.cur.core % 64 / 8) := by
  simp [State.leased, State.ttCheck, State.ttOf, h0, hc, hh, hm]
theorem State.leased_of_none (h0 : s.cur.ctx = 0) (hc : s.isCompute s.cur.core = true)
    (h : (s.slot s.cur.core).holds = false ∨ (s.slot s.cur.core).mrel = true) :
    s.leased k = s.raise { code := .lease, obj := BitVec.ofNat 64 (s.cur.core % 64 / 8), a := 3 } := by
  have hq : (!(s.slot s.cur.core).holds || (s.slot s.cur.core).mrel) = true := by obtain h | h := h <;> simp [h]
  simp only [State.leased, State.ttCheck, State.ttOf, h0, hc, hq, if_true, ne_eq, not_true_eq_false, if_false]
  rfl
theorem State.orRaise_of_ok {α : Type} {r : Except Flt α} {v : α} {g : α → State} (h : r = .ok v) : s.orRaise r g = g v := by rw [h]; rfl
theorem State.orRaise_of_error {α : Type} {r : Except Flt α} {g : α → State} (h : r = .error f) : s.orRaise r g = s.raise f := by rw [h]; rfl
theorem bind_of_error {α β : Type} {x : Except Flt α} {g : α → Except Flt β} (h : x = .error f) : (x >>= g) = .error f := by rw [h]; rfl

end Checks

/-! ## Queues -/

section Queue
variable {s : State} {o : Instr} {cmd : TCmd} {g : TSlot → TSlot} {rows cols m : Nat}

/-- A command as its queue takes it: numbered, and with what its release waits for (R153, R270). -/
def State.issued (s : State) (cmd : TCmd) : TCmd :=
  { cmd with id := s.uid, ctx := s.cur.ctx, ccnt := s.src.ccnt, waits := s.coveredCore s.cur.core .core ++ s.unsent s.cur.core s.cur.ctx }
/-- A Turntable command enters its core's queue with its operands and its release, and leaves the shape and the mode that later commands
are checked against; with 16 outstanding its context stalls (R150 to R153, R270). -/
def State.QueuesAtTurntable (s : State) (o : Instr) (rows cols m : Nat) (tc : TReg) (amax : Option Word) : Prop :=
  let c := s.cur.core; let q := s.slot c
  (s.ttBusy c < 16 → Answers o s fun t => t.cores = s.cores ∧ t.mem = s.mem ∧
    ∃ e, (t.slot c).queue = q.queue ++ [e] ∧ e.op = o ∧ e.ctx = s.cur.ctx ∧ e.ccnt = s.src.ccnt ∧ e.tc = tc ∧ e.amax = amax ∧
      e.waits = s.coveredCore c .core ++ s.unsent c s.cur.ctx ∧ (t.slot c).iRows = rows ∧ (t.slot c).iCols = cols ∧ (t.slot c).iMode = m ∧ (t.slot c).acc = q.acc) ∧
  (16 ≤ s.ttBusy c → Answers o s (· = s.stallMe .queue))
theorem State.queuesAtTurntable_of_enqueue (hexec : exec o s = .next (s.enqueue cmd g)) (hop : cmd.op = o)
    (hg : ∀ l, let q := { s.slot s.cur.core with queue := l }
      (g q).queue = l ∧ (g q).iRows = rows ∧ (g q).iCols = cols ∧ (g q).iMode = m ∧ (g q).acc = q.acc) :
    s.QueuesAtTurntable o rows cols m cmd.tc cmd.amax := by
  refine ⟨fun hroom => ?_, fun hfull => ?_⟩
  · rw [State.enqueue, if_neg (Nat.not_le.mpr hroom)] at hexec
    refine answers_exec hexec ⟨rfl, rfl, ?_⟩
    have hslot {f : TSlot → TSlot} : (s.updSlot s.cur.core f).fresh.slot s.cur.core = f (s.slot s.cur.core) := State.slot_updSlot_same ..
    obtain ⟨hq, hr, hk, hm, ha⟩ := hg ((s.slot s.cur.core).queue ++ [s.issued cmd])
    rw [hslot]
    exact ⟨_, hq, hop, rfl, rfl, rfl, rfl, rfl, hr, hk, hm, ha⟩
  · rw [State.enqueue, if_pos hfull] at hexec
    exact answers_exec hexec rfl

/-- A tile-unit command enters its core's queue there, and nothing else of the machine changes; with 16 outstanding its context stalls
(R152, R153, R270). -/
def State.QueuesAtTileUnit (s : State) (o : Instr) (tc : TReg) : Prop :=
  let c := s.cur.core; let k := s.myCore
  (s.tileBusy c < 16 → Answers o s fun t => OnlyCore { s with uid := t.uid } t c ∧
    ∃ e, t.core c = { k with tileQ := k.tileQ ++ [e] } ∧ e.op = o ∧ e.tc = tc ∧ e.ccnt = s.src.ccnt ∧ e.waits = s.coveredCore c .core ++ s.unsent c s.cur.ctx) ∧
  (16 ≤ s.tileBusy c → Answers o s (· = s.stallMe .tileUnit))
theorem State.queuesAtTileUnit_of_tileEnqueue (hexec : exec o s = .next (s.tileEnqueue cmd)) (hop : cmd.op = o) : s.QueuesAtTileUnit o cmd.tc := by
  refine ⟨fun hroom => ?_, fun hfull => ?_⟩
  · rw [State.tileEnqueue, if_neg (Nat.not_le.mpr hroom)] at hexec
    exact answers_exec hexec ⟨⟨rfl, fun d hd => State.core_updCore_ne s (fun k => { k with tileQ := k.tileQ ++ [s.issued cmd] }) hd.symm⟩,
      s.issued cmd, State.core_updCore_same s s.cur.core fun k => { k with tileQ := k.tileQ ++ [s.issued cmd] }, hop, rfl, rfl, rfl⟩
  · rw [State.tileEnqueue, if_pos hfull] at hexec
    exact answers_exec hexec rfl

end Queue

/-! ## The instructions whose checks pass -/

section Instructions
variable {s : State} {ra rb rc : BitVec 4} {a : BitVec 6} {v : BitVec 5} {mode : Nat}

/-- The issuing core is a compute core's C0 that holds a lease and has not given it up. -/
def State.HoldsLease (s : State) : Prop :=
  s.cur.ctx = 0 ∧ s.isCompute s.cur.core = true ∧ (s.slot s.cur.core).holds = true ∧ (s.slot s.cur.core).mrel = false
theorem State.HoldsLease.leased (h : s.HoldsLease) (k : Nat → State) : s.leased k = k (s.cur.core % 64 / 8) := by
  obtain ⟨h0, hc, hh, hm⟩ := h
  exact State.leased_of_held h0 hc hh hm
theorem exec_mzero_of_ok (h : s.HoldsLease) (hc : checkHdr rc.toNat (s.rt rc).w0 (s.rt rc).w1 = .ok ()) (hr : (s.rt rc).rows ≤ 256) (hk : (s.rt rc).cols ≤ 128)
    (hacc : (s.rt rc).rows * (s.rt rc).cols * 8 ≤ s.myCore.accSize) (hn : s.ccntOk = .ok ()) :
    exec (.mzero rc) s = .next (s.enqueue { noCmd (.mzero rc) with tc := s.rt rc } fun q =>
      { q with iRows := (s.rt rc).rows, iCols := (s.rt rc).cols, iMode := 0 }) := by
  refine congrArg Host.Outcome.next ((h.leased _).trans (State.orRaise_of_ok (v := ()) ?_))
  simp only [unit_bind_eq_ok, checkOk_eq_ok]
  exact ⟨hc, by simp [hr, hk], by simpa using hacc, hn⟩
theorem exec_mma_of_ok (h : s.HoldsLease)
    (hok : s.mmaCheck (s.cur.core % 64 / 8) ra.toNat rb.toNat rc.toNat (s.rt ra) (s.rt rb) (s.rt rc) none none = .ok mode) :
    exec (.mma rc ra rb) s = .next (s.enqueue { noCmd (.mma rc ra rb) with
      ta := s.rt ra, tb := s.rt rb, tc := s.rt rc, rows := List.range (s.rt ra).rows, mode := mode } fun q => { q with iMode := mode }) :=
  congrArg Host.Outcome.next ((h.leased _).trans (State.orRaise_of_ok hok))
theorem exec_mmag_of_ok (h : s.HoldsLease) (hok : s.mmaCheck (s.cur.core % 64 / 8) ra.toNat rb.toNat rc.toNat (s.rt ra) (s.rt rb) (s.rt rc) (some v)
      (some ((s.src.vr v.toNat).map (·.toNat))) = .ok mode) :
    exec (.mmag rc ra rb v) s = .next (s.enqueue { noCmd (.mmag rc ra rb v) with
      ta := s.rt ra, tb := s.rt rb, tc := s.rt rc, rows := ((s.src.vr v.toNat).map (·.toNat)).take (s.rt rc).rows, mode := mode }
      fun q => { q with iMode := mode }) :=
  congrArg Host.Outcome.next ((h.leased _).trans (State.orRaise_of_ok hok))
theorem exec_mdrain_of_ok {fmt : Nat} (hfmt : drainFmt (s.rt rc) (s.slot s.cur.core).iMode = fmt) (h : s.HoldsLease)
    (hc : checkHdr rc.toNat (s.rt rc).w0 (s.rt rc).w1 = .ok ()) (hl : (s.rt rc).isLocal = true) (hf : (s.rt rc).fmt ≤ 4 ∨ (s.rt rc).fmt = 15)
    (hs : (s.rt rc).scl ≤ 1) (hp : (s.rt rc).spr = 0) (hline : (s.rt rc).lineBytes fmt 0 ≤ 16 * (s.rt rc).pitch)
    (hr : (s.rt rc).rows = (s.slot s.cur.core).iRows) (hk : (s.rt rc).cols = (s.slot s.cur.core).iCols) (h0 : (s.slot s.cur.core).iRows ≠ 0)
    (hfit : (s.rt rc).base + (s.rt rc).extent fmt 0 ≤ s.myCore.spSize) (ha : a = 0 ∨ (s.rs a).toNat % 4 = 0) (hn : s.ccntOk = .ok ()) :
    exec (.mdrain rc a) s = .next (s.enqueue { noCmd (.mdrain rc a) with tc := s.rt rc, amax := if a = 0 then none else some (s.rs a) } id) := by
  subst hfmt
  refine congrArg Host.Outcome.next ((h.leased _).trans (State.orRaise_of_ok (v := ()) ?_))
  simp only [unit_bind_eq_ok, checkOk_eq_ok, State.fits_eq_ok]
  exact ⟨hc, by simp [hl, hf, hs, hp], by simpa using hline, by simp [hr, hk], hfit, by simpa using h0, by simpa using ha, hn⟩
theorem exec_tcvt_of_ok (hA : checkHdr ra.toNat (s.rt ra).w0 (s.rt ra).w1 = .ok ()) (hC : checkHdr rc.toNat (s.rt rc).w0 (s.rt rc).w1 = .ok ())
    (hsrc : srcOk true (s.rt ra) = true) (hdst : dstOk true (s.rt ra) (s.rt rc) = true)
    (hshape : moveShape ra.toNat rc.toNat (s.rt ra) (s.rt rc) 2 0 = .ok ()) (hfA : (s.rt ra).base + (s.rt ra).extent (s.rt ra).fmt 2 ≤ s.myCore.spSize)
    (hfC : (moved (s.rt ra) (s.rt rc) 0).base + (moved (s.rt ra) (s.rt rc) 0).extent (moved (s.rt ra) (s.rt rc) 0).fmt 2 ≤ s.myCore.spSize)
    (hn : s.ccntOk = .ok ()) : exec (.tcvt rc ra) s = .next (s.tileEnqueue { noCmd (.tcvt rc ra) with ta := s.rt ra, tc := s.rt rc }) := by
  refine congrArg Host.Outcome.next (State.orRaise_of_ok (v := ()) ?_)
  simp only [unit_bind_eq_ok, checkOk_eq_ok, State.fits_eq_ok]
  exact ⟨hA, hC, hsrc, hdst, hshape, hfA, hfC, hn⟩
/-- What `AQADD` asks of a source (R142, R143, R168). -/
def aqSource (T A : TReg) (n : Nat) : Prop :=
  T.isLocal = true ∧ T.fmt ≤ 1 ∧ T.scl ≤ 3 ∧ T.spr = 0 ∧ T.fmt = A.fmt ∧ T.lineBytes T.fmt 0 ≤ 16 * T.pitch ∧
    T.rows = A.rows ∧ T.cols = A.cols ∧ T.base + T.extent T.fmt 0 ≤ n
theorem exec_aqadd_of_ok {fmt : Nat} (hfmt : aqFmt (s.rt rc) (s.rt ra) = fmt) (hA : checkHdr ra.toNat (s.rt ra).w0 (s.rt ra).w1 = .ok ())
    (hB : checkHdr rb.toNat (s.rt rb).w0 (s.rt rb).w1 = .ok ()) (hC : checkHdr rc.toNat (s.rt rc).w0 (s.rt rc).w1 = .ok ())
    (hsA : aqSource (s.rt ra) (s.rt ra) s.myCore.spSize) (hsB : aqSource (s.rt rb) (s.rt ra) s.myCore.spSize)
    (hl : (s.rt rc).isLocal = true) (hf : (s.rt rc).fmt ≤ 2 ∨ (s.rt rc).fmt = 4 ∨ (s.rt rc).fmt = 15)
    (hs : (s.rt rc).scl ≤ 1) (hp : (s.rt rc).spr = 0) (hline : (s.rt rc).lineBytes fmt 0 ≤ 16 * (s.rt rc).pitch) (hr : (s.rt rc).rows = (s.rt ra).rows)
    (hk : (s.rt rc).cols = (s.rt ra).cols) (hfit : (s.rt rc).base + (s.rt rc).extent fmt 0 ≤ s.myCore.spSize) (hn : s.ccntOk = .ok ()) :
    exec (.aqadd rc ra rb) s = .next (s.tileEnqueue { noCmd (.aqadd rc ra rb) with ta := s.rt ra, tb := s.rt rb, tc := s.rt rc }) := by
  subst hfmt
  obtain ⟨lA, fA, sA, pA, -, lineA, -, -, fitA⟩ := hsA
  obtain ⟨lB, -, sB, pB, eB, lineB, rB, kB, fitB⟩ := hsB
  refine congrArg Host.Outcome.next (State.orRaise_of_ok (v := ()) ?_)
  simp only [unit_bind_eq_ok, checkOk_eq_ok, State.fits_eq_ok]
  exact ⟨hA, hB, hC, by simp [lA, fA, sA, pA], by simp [lB, sB, pB, eB, fA], by simp [hl, hf, hs, hp, or_assoc], by simpa using lineA, by simpa using lineB,
    by simpa using hline, by simp [rB, kB], by simp [hr, hk], fitA, fitB, hfit, hn⟩

end Instructions

/-- R138, R142, R143, R150 to R152, R162, R163, R165, R167, R168: which commands enter their queues, and what a failed check raises. -/
theorem engineCommandsAreQueued : EngineCommandsAreQueued := by
  intro s ra rb rc a v mode f c q k A B C tt held idx queues tile fault no
  have hlease (i : Instr) {α : Type} {r : Nat → Except Flt α} {g : Nat → α → State} (h : State.HoldsLease s) (hr : r tt = .error f)
      (hexec : exec i s = .next (s.leased fun n => s.orRaise (r n) (g n))) : fault i :=
    answers_exec (hexec.trans (congrArg Host.Outcome.next ((h.leased _).trans (State.orRaise_of_error hr)))) rfl
  refine ⟨fun hh hc hr hk hacc hn => ?mzero, fun hh hok => ?mma, fun hh hok => ?mmag,
    fun hh hc hl hf hs hp hline hr hk h0 hfit ha hn => ?mdrain, fun hh hbad => ?mmaFault, fun hh hbad => ?mmagFault, fun hh hbad => ?hdrFault,
    fun h0 hc hno => ?lease, fun hA hC hsrc hdst hshape hfA hfC hn => ?tcvt, fun hA hB hC hsrc hl hf hs hp hline hr hk hfit hn => ?aqadd,
    fun hbad => ?tileFault⟩
  case mzero => exact State.queuesAtTurntable_of_enqueue (exec_mzero_of_ok hh hc hr hk hacc hn) rfl fun _ => ⟨rfl, rfl, rfl, rfl, rfl⟩
  case mma => exact State.queuesAtTurntable_of_enqueue (exec_mma_of_ok hh hok) rfl fun _ => ⟨rfl, rfl, rfl, rfl, rfl⟩
  case mmag => exact State.queuesAtTurntable_of_enqueue (exec_mmag_of_ok hh hok) rfl fun _ => ⟨rfl, rfl, rfl, rfl, rfl⟩
  case mdrain =>
    exact State.queuesAtTurntable_of_enqueue (exec_mdrain_of_ok rfl hh hc hl hf hs hp hline hr hk h0 hfit ha hn) rfl fun _ => ⟨rfl, rfl, rfl, rfl, rfl⟩
  case mmaFault => exact hlease _ hh hbad rfl
  case mmagFault => exact hlease _ hh hbad rfl
  case hdrFault => exact ⟨hlease _ hh (bind_of_error hbad) rfl, hlease _ hh (bind_of_error hbad) rfl⟩
  case lease =>
    have hnone (i : Instr) {g : Nat → State} (hexec : exec i s = .next (s.leased g)) : no i :=
      answers_exec (hexec.trans (congrArg Host.Outcome.next (State.leased_of_none h0 hc hno))) rfl
    exact ⟨hnone _ rfl, hnone _ rfl, hnone _ rfl, hnone _ rfl⟩
  case tcvt => exact State.queuesAtTileUnit_of_tileEnqueue (exec_tcvt_of_ok hA hC hsrc hdst hshape hfA hfC hn) rfl
  case aqadd =>
    exact State.queuesAtTileUnit_of_tileEnqueue (exec_aqadd_of_ok rfl hA hB hC (hsrc A (.inl rfl)) (hsrc B (.inr rfl)) hl hf hs hp hline hr hk hfit hn) rfl
  case tileFault =>
    exact ⟨answers_exec (congrArg Host.Outcome.next (State.orRaise_of_error (bind_of_error hbad))) rfl,
      answers_exec (congrArg Host.Outcome.next (State.orRaise_of_error (bind_of_error hbad))) rfl⟩

end Machine
end Sys2Proof
end

section
/-! What an engine's writes to a tile leave in its core's pool (R133, R134, R141, R144, R165). -/

namespace Sys2Proof
namespace Machine

/-! ## Fields of a header word -/

section Fields
variable {w : Word} {lo n v : Nat}

theorem testBit_bits (i : Nat) : (bits w lo n).testBit i = (decide (i < n) && w.getLsbD (lo + i)) := by
  rw [bits, Nat.testBit_mod_two_pow, BitVec.testBit_toNat, BitVec.getLsbD_ushiftRight]
theorem getLsbD_at_ (i : Nat) : (at_ v lo).getLsbD i = (decide (i < 64) && (decide (lo ≤ i) && v.testBit (i - lo))) := by
  rw [at_, BitVec.getLsbD_shiftLeft, BitVec.getLsbD_ofNat]
  by_cases hi : i < 64
  · by_cases hl : i < lo
    · simp [hi, hl]
    · simp [hi, hl, show i - lo < 64 by omega, Nat.not_lt.mp hl]
  · simp [hi]
theorem getLsbD_setField (i : Nat) : (setField w lo n v).getLsbD i =
    if lo ≤ i ∧ i < lo + n then decide (i < 64) && v.testBit (i - lo) else w.getLsbD i := by
  rw [setField, BitVec.getLsbD_or, BitVec.getLsbD_and, BitVec.getLsbD_not, getLsbD_at_, getLsbD_at_, Nat.testBit_two_pow_sub_one, Nat.testBit_mod_two_pow]
  by_cases hi : i < 64
  · by_cases hl : lo ≤ i
    · by_cases hn : i < lo + n
      · simp [hi, hl, hn, show i - lo < n by omega]
      · simp [hi, hl, hn, show ¬i - lo < n by omega]
    · simp [hi, hl]
  · simp [hi, BitVec.getLsbD_of_ge w i (by omega)]
theorem bits_setField_same (h : lo + n ≤ 64) : bits (setField w lo n v) lo n = v % 2 ^ n := by
  refine Nat.eq_of_testBit_eq fun i => ?_
  rw [testBit_bits, getLsbD_setField, Nat.testBit_mod_two_pow]
  by_cases hi : i < n
  · rw [if_pos (by omega), Nat.add_sub_cancel_left]
    simp [hi, show lo + i < 64 by omega]
  · simp [hi]
theorem bits_setField_ne {l m : Nat} (h : l + m ≤ lo ∨ lo + n ≤ l) : bits (setField w lo n v) l m = bits w l m := by
  refine Nat.eq_of_testBit_eq fun i => ?_
  rw [testBit_bits, testBit_bits, getLsbD_setField]
  by_cases hi : i < m
  · rw [if_neg (by omega)]
  · simp [hi]
theorem setField_bits : setField w lo n (bits w lo n) = w := by
  refine BitVec.eq_of_getLsbD_eq fun i hi => ?_
  rw [getLsbD_setField, testBit_bits]
  split
  · next h => simp [hi, show i - lo < n by omega, Nat.add_sub_cancel' h.1]
  · rfl

end Fields

/-! ## Lists of equal pieces -/

section Pieces
variable {α β : Type} {f : α → List β} {l : List α} {m i : Nat}

theorem length_flatMap_pieces (h : ∀ x ∈ l, (f x).length = m) : (l.flatMap f).length = m * l.length := by
  rw [List.length_flatMap, List.map_congr_left h, List.map_const', List.sum_replicate, smul_eq_mul, Nat.mul_comm]
theorem drop_take_flatMap_pieces (h : ∀ x ∈ l, (f x).length = m) (hi : i < l.length) : ((l.flatMap f).drop (m * i)).take m = f l[i] := by
  induction l generalizing i with
  | nil => cases hi
  | cons a r ih =>
    have ha : (f a).length = m := h a List.mem_cons_self
    rw [List.flatMap_cons]
    cases i with
    | zero => rw [Nat.mul_zero, List.drop_zero, List.take_append_of_le_length ha.ge, List.take_of_length_le ha.le]; rfl
    | succ i =>
      have hm : m * (i + 1) - (f a).length = m * i := by rw [ha, Nat.mul_succ, Nat.add_sub_cancel]
      rw [List.drop_append, List.drop_eq_nil_of_le (by rw [ha, Nat.mul_succ]; omega), List.nil_append, hm,
        ih (fun x hx => h x (List.mem_cons_of_mem _ hx)) (Nat.lt_of_succ_lt_succ hi), List.getElem_cons_succ]
/-- The elements of pieces of one length, by piece and place. -/
theorem getD_flatMap_pieces (h : ∀ x ∈ l, (f x).length = m) (hi : i < l.length) {j : Nat} (hj : j < m) (d : β) :
    (l.flatMap f).getD (i * m + j) d = (f l[i]).getD j d := by
  rw [← drop_take_flatMap_pieces h hi, List.getD_eq_getElem?_getD, List.getD_eq_getElem?_getD, List.getElem?_take_of_lt hj, List.getElem?_drop,
    Nat.mul_comm]

end Pieces

/-! ## Writes to one pool, one after another -/

section Pool
variable {k : Core} {a j n : Nat} {bs : List Byte} {ws : List (Nat × List Byte)}

/-- A pool after writes to it, in order. -/
def Core.putAll (k : Core) (ws : List (Nat × List Byte)) : Core := ws.foldl (fun k w => k.put w.1 w.2) k
theorem State.core_engineWrites_same (s : State) (c : Nat) (ws : List (Nat × List Byte)) : (s.engineWrites c ws).core c = (s.core c).putAll ws := by
  induction ws generalizing s with
  | nil => rfl
  | cons w r ih => exact (ih (s.putLocal c w.1 w.2)).trans (by rw [State.core_putLocal_same]; rfl)
theorem Core.putAll_append (k : Core) (l r : List (Nat × List Byte)) : k.putAll (l ++ r) = (k.putAll l).putAll r := List.foldl_append ..
theorem Core.putAll_singleton (k : Core) (a : Nat) (bs : List Byte) : k.putAll [(a, bs)] = k.put a bs := rfl
theorem Core.byte_putAll_of_apart (h : ∀ w ∈ ws, j < w.1 ∨ w.1 + w.2.length ≤ j) : (k.putAll ws).byte j = k.byte j := by
  induction ws generalizing k with
  | nil => rfl
  | cons w r ih =>
    have hw := h w List.mem_cons_self
    exact (ih fun x hx => h x (List.mem_cons_of_mem _ hx)).trans (by rw [Core.byte_put, if_neg (by omega)])
theorem poolKept_engineWrites {s : State} {c off : Nat} (h : ∀ w ∈ ws, off ≤ w.1 ∧ w.1 + w.2.length ≤ off + n) :
    PoolKept s (s.engineWrites c ws) c off n := fun b hb => by
  rw [State.core_engineWrites_same]
  exact Core.byte_putAll_of_apart fun w hw => by have := h w hw; omega
theorem Core.bytes_congr_on {k' : Core} (h : ∀ x, a ≤ x → x < a + n → k.byte x = k'.byte x) : k.bytes a n = k'.bytes a n := by
  induction n generalizing a with
  | zero => rfl
  | succ n ih => rw [Core.bytes, Core.bytes, h a (by omega) (by omega), ih fun x hx hx' => h x (by omega) (by omega)]

/-- The cuts of a write lie in it. -/
theorem wordCuts_within {w : Nat × List Byte} (h : w ∈ wordCuts n a bs) : a ≤ w.1 ∧ w.1 + w.2.length ≤ a + bs.length := by
  induction n generalizing a bs with
  | zero =>
    cases bs with
    | nil => cases h
    | cons b r => cases List.mem_singleton.mp h; exact ⟨le_rfl, le_rfl⟩
  | succ n ih =>
    cases bs with
    | nil => cases h
    | cons b r =>
      obtain rfl | h := List.mem_cons.mp h
      · exact ⟨le_rfl, Nat.add_le_add_left (List.length_take_le' ..) _⟩
      · have hin := ih h
        have hpos : (List.drop (8 - a % 8) (b :: r)).length ≠ 0 := fun h0 => by
          rw [List.length_eq_zero_iff.mp h0] at h
          cases n <;> cases h
        rw [List.length_drop] at hin hpos
        omega
/-- The cuts of a write, made in order, leave what the write leaves. -/
theorem Core.byte_putAll_wordCuts (h : bs.length ≤ n) : (k.putAll (wordCuts n a bs)).byte j = (k.put a bs).byte j := by
  induction n generalizing k a bs with
  | zero => rw [List.length_eq_zero_iff.mp (Nat.le_zero.mp h)]; rfl
  | succ n ih =>
    cases bs with
    | nil => rfl
    | cons b r =>
      have hd : (List.drop (8 - a % 8) (b :: r)).length = (b :: r).length - (8 - a % 8) := List.length_drop
      have ht : (List.take (8 - a % 8) (b :: r)).length = min (8 - a % 8) (b :: r).length := List.length_take
      have hn : (b :: r).length = r.length + 1 := rfl
      have hstep : k.putAll (wordCuts (n + 1) a (b :: r)) =
          (k.put a ((b :: r).take (8 - a % 8))).putAll (wordCuts n (a + (8 - a % 8)) ((b :: r).drop (8 - a % 8))) := rfl
      rw [hstep, ih (by omega), Core.byte_put, Core.byte_put, Core.byte_put, hd, ht]
      by_cases hhigh : a + (8 - a % 8) ≤ j ∧ j < a + (b :: r).length
      · rw [if_pos (by omega), if_pos (by omega), List.getD_eq_getElem?_getD, List.getElem?_drop, List.getD_eq_getElem?_getD,
          show 8 - a % 8 + (j - (a + (8 - a % 8))) = j - a by omega]
      · rw [if_neg (by omega)]
        by_cases hlow : a ≤ j ∧ j < a + (b :: r).length
        · rw [if_pos (by omega), if_pos hlow, List.getD_eq_getElem?_getD, List.getElem?_take_of_lt (by omega), List.getD_eq_getElem?_getD]
        · rw [if_neg (by omega), if_neg hlow]

end Pool

/-! ## The writes of a tile -/

section Tile
variable {T : TReg} {ws r : List (Nat × List Byte)} {w : Nat × List Byte}

theorem TReg.cuts_append : T.cuts (ws ++ r) = T.cuts ws ++ T.cuts r := List.flatMap_append
theorem TReg.cuts_header {h : List Byte} : T.cuts [(0, h)] = [(T.base, h)] := rfl
/-- The cuts of a list of writes lie in them. -/
theorem TReg.cuts_within (h : w ∈ T.cuts ws) : ∃ x ∈ ws, T.base + x.1 ≤ w.1 ∧ w.1 + w.2.length ≤ T.base + x.1 + x.2.length := by
  obtain ⟨x, hx, hw⟩ := List.mem_flatMap.mp h
  refine ⟨x, hx, ?_⟩
  split at hw
  · next h0 => cases List.mem_singleton.mp hw; rw [h0]; exact ⟨le_rfl, le_rfl⟩
  · exact wordCuts_within hw
/-- A drain makes the cuts of its writes, in an order of its own. -/
theorem TReg.mem_cuts_of_drainCuts (h : w ∈ T.drainCuts ws) : w ∈ T.cuts ws := by
  unfold TReg.drainCuts at h
  split at h
  · obtain h | h := List.mem_append.mp h
    · obtain ⟨k, -, hk⟩ := List.mem_flatMap.mp h
      obtain ⟨l, hl, hw⟩ := List.mem_filterMap.mp hk
      obtain ⟨x, hx, rfl⟩ := List.mem_map.mp hl
      obtain ⟨y, hy, hw⟩ := List.mem_flatMap.mp (List.mem_of_getElem? hw)
      cases List.mem_singleton.mp hy
      exact List.mem_flatMap.mpr ⟨_, List.mem_of_mem_dropLast hx, hw⟩
    · obtain ⟨x, hx, hw⟩ := List.mem_flatMap.mp h
      exact List.mem_flatMap.mpr ⟨x, List.mem_of_getLast? (Option.mem_toList.mp hx), hw⟩
  · exact h
/-- The header is the last thing that a tile writer writes (R141). -/
theorem TReg.drainCuts_header {h : List Byte} : ∃ l, T.drainCuts (ws ++ [(0, h)]) = l ++ [(T.base, h)] := by
  unfold TReg.drainCuts
  split
  · refine ⟨_, congrArg _ ?_⟩
    rw [List.getLast?_concat]
    rfl
  · exact ⟨T.cuts ws, TReg.cuts_append⟩

/-! ### Inside the tile -/

theorem length_packL6 : ∀ l : List Nat, (packL6 l).length = 3 * ceilDiv l.length 4
  | [] => rfl
  | [_] | [_, _] | [_, _, _] => by simp [packL6, ceilDiv]
  | a :: x :: y :: z :: r => by
    have hr : ∃ v, packL6 (a :: x :: y :: z :: r) = toBytes 3 v ++ packL6 r := ⟨_, rfl⟩
    obtain ⟨v, hr⟩ := hr
    rw [hr, List.length_append, length_toBytes, length_packL6 r]
    simp only [List.length_cons, ceilDiv]
    omega
theorem length_pack (fmt mode : Nat) (l : List Nat) :
    (if fmt = 0 then packL6 l else l.flatMap (toBytes (fmtSize fmt mode))).length = lineLen fmt mode l.length := by
  unfold lineLen
  split
  · exact length_packL6 l
  · exact length_flatMap_pieces fun x _ => length_toBytes ..
theorem length_packLine (fmt : Nat) (l : List Nat) : (packLine fmt l).length = lineLen fmt 0 l.length := length_pack fmt 0 l
theorem TReg.line_within {n : Nat} (h : n < T.lines) (fmt mode : Nat) : T.lineAt n + T.lineBytes fmt mode ≤ T.extent fmt mode := by
  have hn : T.lineAt n ≤ T.lineAt (T.lines - 1) := Nat.add_le_add_left (Nat.mul_le_mul_left _ (Nat.le_pred_of_lt h)) _
  exact (Nat.add_le_add_right hn _).trans ((Nat.le_max_right ..).trans (Nat.le_max_left ..))
theorem TReg.header_within (fmt mode : Nat) : 16 ≤ T.extent fmt mode := (Nat.le_max_left ..).trans (Nat.le_max_left ..)
theorem TReg.lineBytes_dense (h : T.spr ≠ 1) (fmt mode : Nat) : T.lineBytes fmt mode = lineLen fmt mode (if T.colMajor then T.rows else T.cols) := by
  rw [TReg.lineBytes, TReg.stored, if_neg h]
/-- One line of a converting writer's data (R133, R134). -/
def TReg.line (T : TReg) (fmt : Nat) (l : Elems) (n : Nat) : List Byte :=
  packLine fmt ((List.range (if T.colMajor then T.rows else T.cols)).map fun k => (Elems.at l (if T.colMajor then k * T.cols + n else n * T.cols + k)).1)
theorem TReg.dataWrites_eq (fmt : Nat) (l : Elems) : T.dataWrites fmt l = (List.range T.lines).map fun n => (T.lineAt n, T.line fmt l n) := rfl
theorem TReg.length_line (h : T.spr ≠ 1) (fmt : Nat) (l : Elems) (n : Nat) : (T.line fmt l n).length = T.lineBytes fmt 0 := by
  rw [TReg.line, length_packLine, List.length_map, List.length_range, TReg.lineBytes_dense h]
/-- The writes of a converting writer: its lines, then its header, which keeps all of word 0 but the format (R141, R144). -/
theorem TReg.writes_eq (fmt : Nat) (l : Elems) : ∃ w1, T.writes fmt l = T.dataWrites fmt l ++ [(0, bytesOf [withFmt T.w0 fmt, w1])] := ⟨_, rfl⟩
theorem TReg.writes_within (h : T.spr ≠ 1) {fmt : Nat} {l : Elems} (hw : w ∈ T.writes fmt l) : w.1 + w.2.length ≤ T.extent fmt 0 := by
  obtain ⟨w1, hws⟩ := T.writes_eq fmt l
  rw [hws] at hw
  obtain hw | hw := List.mem_append.mp hw
  · obtain ⟨n, hn, rfl⟩ := List.mem_map.mp hw
    exact (congrArg (T.lineAt n + ·) (T.length_line h fmt l n)).le.trans (T.line_within (List.mem_range.mp hn) fmt 0)
  · cases List.mem_singleton.mp hw
    exact (Nat.zero_add _).le.trans (T.header_within fmt 0)
/-- No byte outside the tile changes, and its first word is that of the header (R141). -/
theorem poolKept_of_within {s : State} {c n : Nat} (h : ∀ x ∈ ws, x.1 + x.2.length ≤ n) (hr : ∀ w ∈ r, w ∈ T.cuts ws) :
    PoolKept s (s.engineWrites c r) c T.base n :=
  poolKept_engineWrites fun w hw => by
    obtain ⟨x, hx, hlo, hhi⟩ := TReg.cuts_within (hr w hw)
    have := h x hx
    omega
theorem word_engineWrites_header {s : State} {c : Nat} {w0 w1 : Word} :
    ((s.engineWrites c (r ++ [(T.base, bytesOf [w0, w1])])).core c).word T.base = w0 := by
  rw [State.core_engineWrites_same, Core.putAll_append, Core.putAll_singleton]
  exact (Core.words_put_header _ T.base w0 w1).1

/-! ### Elements of row-major lines -/

/-- A line of a row-major tile stands as it was written: the lines after it and the header do not reach it. -/
theorem Core.bytes_putAll_line {k : Core} {fmt i : Nat} {l : Elems} {w1 : Word} (hspr : T.spr ≠ 1) (hline : T.lineBytes fmt 0 ≤ 16 * T.pitch) (hoff : 16 ≤ T.dataOff)
    (hi : i < T.lines) {x n : Nat} (hx : x + n ≤ T.lineBytes fmt 0) :
    (k.putAll (T.cuts (T.dataWrites fmt l ++ [(0, bytesOf [withFmt T.w0 fmt, w1])]))).bytes (T.base + T.lineAt i + x) n = ((T.line fmt l i).drop x).take n := by
  obtain ⟨m, hm⟩ : ∃ m, T.lines = (i + 1) + m := ⟨T.lines - (i + 1), by omega⟩
  have hlen := T.length_line hspr fmt l i
  have hsplit : T.dataWrites fmt l ++ [(0, bytesOf [withFmt T.w0 fmt, w1])] =
      ((List.range i).map fun n => (T.lineAt n, T.line fmt l n)) ++ ((T.lineAt i, T.line fmt l i) ::
        (((List.range m).map fun n => (T.lineAt (i + 1 + n), T.line fmt l (i + 1 + n))) ++ [(0, bytesOf [withFmt T.w0 fmt, w1])])) := by
    rw [TReg.dataWrites_eq, hm, List.range_add, List.range_succ]
    simp
  have hcut : T.cuts [(T.lineAt i, T.line fmt l i)] = wordCuts (T.line fmt l i).length (T.base + T.lineAt i) (T.line fmt l i) := by
    have h0 : T.lineAt i ≠ 0 := by unfold TReg.lineAt; omega
    exact (List.flatMap_singleton ..).trans (if_neg h0)
  rw [hsplit, TReg.cuts_append, ← List.singleton_append, TReg.cuts_append, Core.putAll_append, Core.putAll_append, hcut]
  rw [← Core.bytes_put (k.putAll (T.cuts ((List.range i).map fun n => (T.lineAt n, T.line fmt l n)))) (T.base + T.lineAt i) x n _ (by omega)]
  refine Core.bytes_congr_on fun y hlo hhi => ?_
  rw [Core.byte_putAll_of_apart, Core.byte_putAll_wordCuts le_rfl]
  intro w hw
  obtain ⟨z, hz, hlo', hhi'⟩ := TReg.cuts_within hw
  obtain hz | hz := List.mem_append.mp hz
  · obtain ⟨p, -, rfl⟩ := List.mem_map.mp hz
    have hnext : T.lineAt (i + 1 + p) = T.lineAt i + 16 * T.pitch + 16 * T.pitch * p := by unfold TReg.lineAt; ring
    exact .inl (by simp only [hnext] at hlo'; omega)
  · cases List.mem_singleton.mp hz
    have hdata : T.lineAt i = T.dataOff + 16 * T.pitch * i := rfl
    exact .inr (by rw [length_bytesOf] at hhi'; simp only [List.length_cons, List.length_nil] at hhi'; omega)
/-- An element of a row-major tile that is not L6 reads as the code that was written, at its size (R133, R134). -/
theorem Core.num_putAll_element {k : Core} {fmt i j : Nat} {l : Elems} (hspr : T.spr ≠ 1) (hrow : T.colMajor = false) (hfmt : fmt ≠ 0)
    (hline : T.lineBytes fmt 0 ≤ 16 * T.pitch) (hoff : 16 ≤ T.dataOff) (hi : i < T.rows) (hj : j < T.cols) :
    (k.putAll (T.cuts (T.writes fmt l))).num (T.base + T.lineAt i + fmtSize fmt 0 * j) (fmtSize fmt 0) =
      (Elems.at l (i * T.cols + j)).1 % 2 ^ (8 * fmtSize fmt 0) := by
  have hlines : T.lines = T.rows := by rw [TReg.lines, hrow]; rfl
  have hbytes : T.lineBytes fmt 0 = fmtSize fmt 0 * T.cols := by rw [TReg.lineBytes_dense hspr, hrow, lineLen, if_neg hfmt]; rfl
  have hcodes : T.line fmt l i = ((List.range T.cols).map fun k => (Elems.at l (i * T.cols + k)).1).flatMap (toBytes (fmtSize fmt 0)) := by
    rw [TReg.line, hrow, packLine, if_neg hfmt]; rfl
  have hin : fmtSize fmt 0 * j + fmtSize fmt 0 ≤ T.lineBytes fmt 0 := by
    rw [hbytes, ← Nat.mul_succ]; exact Nat.mul_le_mul_left _ hj
  obtain ⟨w1, hws⟩ := T.writes_eq fmt l
  rw [hws, Core.num, Core.bytes_putAll_line hspr hline hoff (by omega) hin, hcodes,
    drop_take_flatMap_pieces (fun x _ => length_toBytes ..) (by simpa using hj), ofBytes_toBytes, List.getElem_map, List.getElem_range, Nat.pow_mul]

end Tile
end Machine
end Sys2Proof
end

section
/-! The command at the head of a Turntable's queue runs (R144, R148, R162, R163, R165). -/

namespace Sys2Proof
namespace Machine

/-! ## A command leaves its queue -/

section Finish
variable {s u : State} {p k c : Nat} {cmd : TCmd} {flags : Bits6} {flt : Option Flt} {merge : Bool} {ws : List (Nat × List Byte)}

theorem State.tt_count (q j e n : Nat) : (s.count p e n).tt q j = s.tt q j := by
  rw [State.tt, State.part_count, State.tt]
theorem State.slot_count (e n : Nat) : (s.count p e n).slot c = s.slot c := congrArg (·.slot (c % 8)) (State.tt_count ..)
theorem State.tt_updSlot_same (f : TSlot → TSlot) : (s.updSlot c f).tt (c / 64) (c % 64 / 8) = (s.tt (c / 64) (c % 64 / 8)).updSlot (c % 8) f :=
  State.tt_updTt_same ..
theorem State.runN_updSlot (f : TSlot → TSlot) : ((s.updSlot c f).tt (c / 64) (c % 64 / 8)).runN = (s.tt (c / 64) (c % 64 / 8)).runN := by
  rw [State.tt_updSlot_same]; rfl
theorem State.slot_updTt_runN (n : Nat) : (s.updTt (c / 64) (c % 64 / 8) fun t => { t with runN := n }).slot c = s.slot c := by
  rw [State.slot, State.tt_updTt_same]; rfl

/-- What the command that has run leaves: its place in the run and in the queue, and what it has still to write and to complete. -/
def State.Ran (s t : State) (p k c : Nat) (cmd : TCmd) (flt : Option Flt) (flags : Bits6) : Prop :=
  (t.tt p k).runN = (s.tt p k).runN + 1 ∧ (t.slot c).queue = (s.slot c).queue.tail ∧ t.mem = s.mem ∧
    ∃ e, t.fins = s.fins ++ [e] ∧ e.id = cmd.id ∧ e.core = c ∧ e.flt = flt ∧ e.flags = flags ∧ e.ccnt = cmd.ccnt ∧ (flt ≠ none → e.ws = [])
theorem State.slot_finishTurn (hp : c / 64 = p) (hk : c % 64 / 8 = k) : (u.finishTurn p k c cmd flags flt merge ws).slot c =
    { u.slot c with queue := (u.slot c).queue.tail } := by
  subst hp hk
  refine (State.slot_updSlot_same ..).trans ?_
  rw [State.slot, State.tt_updTt_same]
  rfl
theorem State.ran_finishTurn (hp : c / 64 = p) (hk : c % 64 / 8 = k) (hrun : (u.tt p k).runN = (s.tt p k).runN)
    (hq : (u.slot c).queue = (s.slot c).queue) (hmem : u.mem = s.mem) (hfins : u.fins = s.fins) (hws : flt ≠ none → ws = []) :
    s.Ran (u.finishTurn p k c cmd flags flt merge ws) p k c cmd flt flags := by
  refine ⟨?_, by rw [State.slot_finishTurn hp hk, hq], hmem, _, congrArg (· ++ _) hfins, rfl, rfl, rfl, rfl, rfl, hws⟩
  subst hp hk
  refine (State.runN_updSlot ..).trans ?_
  rw [State.tt_updTt_same, hrun]

end Finish

/-! ## `MZERO` -/

section Runs
variable {s : State} {p k c : Nat} {cmd : TCmd}

theorem execMzeroRun_of_head (h : s.turnHead p k = some (c, cmd)) {z : BitVec 4} (hop : cmd.op = .mzero z) :
    exec (.mzeroRun p k) s = .next ((s.updSlot c fun q => q.zeroed cmd.tc).finishTurn p k c cmd fNone none false) := by
  show execMzeroRun p k s = _
  simp only [execMzeroRun, h, hop]

theorem any_replicate_false (n : Nat) : (List.replicate n false).any id = false := by simp
/-- `MZERO` leaves a live slot of zeros in mode none (R162). -/
theorem answers_mzeroRun (h : s.turnHead p k = some (c, cmd)) (hp : c / 64 = p) (hk : c % 64 / 8 = k) {z : BitVec 4} (hop : cmd.op = .mzero z) :
    Answers (.mzeroRun p k) s fun t => s.Ran t p k c cmd none 0 ∧ t.cores = s.cores ∧ (t.slot c).live = true ∧ (t.slot c).mode = 0 ∧
      (t.slot c).rows = cmd.tc.rows ∧ (t.slot c).cols = cmd.tc.cols ∧ (t.slot c).acc = List.replicate (cmd.tc.rows * cmd.tc.cols) 0 ∧
      (t.slot c).sat.any id = false := by
  refine answers_exec (execMzeroRun_of_head h hop) ⟨State.ran_finishTurn hp hk ?_ ?_ rfl rfl fun h => absurd rfl h, rfl, ?_⟩
  · subst hp hk
    exact State.runN_updSlot ..
  · rw [State.slot_updSlot_same]; rfl
  · rw [State.slot_finishTurn hp hk, State.slot_updSlot_same]
    exact ⟨rfl, rfl, rfl, rfl, rfl, any_replicate_false _⟩

/-! ## `MMA` and `MMAG` -/

/-- What an MMA finds wrong as it reads, areas before data (R139, R324). -/
def State.mmaBad (s : State) (c : Nat) (cmd : TCmd) : Option Flt :=
  let rda := s.engineRd cmd.id c cmd.ta; let rdb := s.engineRd cmd.id c cmd.tb 1
  ((((s.areaEcc c cmd.ta).or (areaFlt cmd.ta (cmd.ta.areaBad rda cmd.rows cmd.rows))).or (s.areaEcc c cmd.tb)).or
    (areaFlt cmd.tb (cmd.tb.areaBad rdb (List.range cmd.tb.cols) []))).or
    ((s.tileEcc c cmd.ta cmd.ta.fmt 0 (cmd.ta.linesOf cmd.rows)).or (s.tileEcc c cmd.tb cmd.tb.fmt 0 (List.range cmd.tb.lines)))
theorem execMmaRun_of_bad (h : s.turnHead p k = some (c, cmd)) (hop : (∃ x y z, cmd.op = .mma x y z) ∨ ∃ x y z w, cmd.op = .mmag x y z w) {f : Flt}
    (hbad : s.mmaBad c cmd = some f) : exec (.mmaRun p k) s =
      .next ((s.updSlot c fun q => { q with iMode := q.queue.tail.foldl modeAfter q.mode }).finishTurn p k c cmd fNone (some f) false) := by
  show execMmaRun p k s = _
  unfold State.mmaBad at hbad
  obtain ⟨x, y, z, hop⟩ | ⟨x, y, z, w, hop⟩ := hop <;> simp only [execMmaRun, h, hop, hbad]
theorem execMmaRun_of_clean (h : s.turnHead p k = some (c, cmd)) (hop : (∃ x y z, cmd.op = .mma x y z) ∨ ∃ x y z w, cmd.op = .mmag x y z w)
    (hbad : s.mmaBad c cmd = none) : ∃ macs, exec (.mmaRun p k) s =
      .next (((s.updSlot c fun _ => ((s.slot c).mma cmd (s.engineRd cmd.id c cmd.ta) (s.engineRd cmd.id c cmd.tb 1)).1).count p 2 macs).finishTurn p k c cmd
        ((s.slot c).mma cmd (s.engineRd cmd.id c cmd.ta) (s.engineRd cmd.id c cmd.tb 1)).2 none false) := by
  show ∃ macs, execMmaRun p k s = _
  unfold State.mmaBad at hbad
  obtain ⟨x, y, z, hop⟩ | ⟨x, y, z, w, hop⟩ := hop
  · simp only [execMmaRun, h, hop, hbad]
    exact ⟨_, rfl⟩
  · simp only [execMmaRun, h, hop, hbad]
    exact ⟨_, rfl⟩

section Accumulators
variable {q : TSlot} {rda rdb : TileRd} {i j : Nat}

/-- The accumulator of row i and column j after an MMA, from what it held (R71, R74, R163). -/
def TSlot.accAt (q : TSlot) (cmd : TCmd) (rda rdb : TileRd) (i j : Nat) : Int × Bool × Bool × Bits6 :=
  accumulate cmd.mode cmd.ta.cols cmd.ta cmd.tb rda rdb (cmd.rows.getD i 0) j (q.acc.getD (i * q.cols + j) 0)
    (q.sat.getD (i * q.cols + j) false) (q.nar.getD (i * q.cols + j) false)
/-- What an MMA makes of every accumulator, row by row. -/
def TSlot.products (q : TSlot) (cmd : TCmd) (rda rdb : TileRd) : List (Int × Bool × Bool × Bits6) :=
  cmd.rows.zipIdx.flatMap fun (row, i) => (List.range q.cols).map fun c =>
    accumulate cmd.mode cmd.ta.cols cmd.ta cmd.tb rda rdb row c (q.acc.getD (i * q.cols + c) 0) (q.sat.getD (i * q.cols + c) false)
      (q.nar.getD (i * q.cols + c) false)
theorem TSlot.getD_products (hi : i < cmd.rows.length) (hj : j < q.cols) (d : Int × Bool × Bool × Bits6) :
    (q.products cmd rda rdb).getD (i * q.cols + j) d = q.accAt cmd rda rdb i j := by
  rw [TSlot.products, getD_flatMap_pieces (m := q.cols) (fun x _ => by simp) (by simpa using hi) hj]
  simp [TSlot.accAt, hj, hi]
theorem TSlot.mma_eq : (q.mma cmd rda rdb).1 = { q with
    mode := cmd.mode, eA := cmd.rows.map (cmd.ta.baseExpo rda), eB := (List.range q.cols).map (cmd.tb.baseExpo rdb)
    acc := (q.products cmd rda rdb).map (·.1), sat := (q.products cmd rda rdb).map (·.2.1), nar := (q.products cmd rda rdb).map (·.2.2.1) } := rfl
theorem TSlot.accumulators_mma (hi : i < cmd.rows.length) (hj : j < q.cols) :
    (q.mma cmd rda rdb).1.acc.getD (i * q.cols + j) 0 = (q.accAt cmd rda rdb i j).1 ∧
      (q.mma cmd rda rdb).1.sat.getD (i * q.cols + j) false = (q.accAt cmd rda rdb i j).2.1 ∧
      (q.mma cmd rda rdb).1.nar.getD (i * q.cols + j) false = (q.accAt cmd rda rdb i j).2.2.1 := by
  have hmap {β : Type} (g : Int × Bool × Bool × Bits6 → β) : ((q.products cmd rda rdb).map g).getD (i * q.cols + j) (g (0, false, false, fNone)) =
      g (q.accAt cmd rda rdb i j) := (List.getD_map ..).trans (congrArg g (TSlot.getD_products hi hj _))
  rw [TSlot.mma_eq]
  exact ⟨hmap (·.1), hmap (·.2.1), hmap (·.2.2.1)⟩

end Accumulators

/-- `MMA` and `MMAG` leave the accumulators with the products added, where nothing that they read is wrong (R163). -/
theorem answers_mmaRun_of_clean (h : s.turnHead p k = some (c, cmd)) (hp : c / 64 = p) (hk : c % 64 / 8 = k)
    (hop : (∃ x y z, cmd.op = .mma x y z) ∨ ∃ x y z w, cmd.op = .mmag x y z w) (hbad : s.mmaBad c cmd = none) :
    Answers (.mmaRun p k) s fun t => (∃ fl, s.Ran t p k c cmd none fl) ∧ t.cores = s.cores ∧
      t.slot c = { ((s.slot c).mma cmd (s.engineRd cmd.id c cmd.ta) (s.engineRd cmd.id c cmd.tb 1)).1 with queue := (s.slot c).queue.tail } := by
  obtain ⟨macs, hexec⟩ := execMmaRun_of_clean h hop hbad
  refine answers_exec hexec ⟨⟨_, State.ran_finishTurn hp hk ?_ ?_ (State.count_mem ..) ?_ fun h => absurd rfl h⟩, State.count_cores ..,
    (State.slot_finishTurn hp hk).trans ?_⟩
  · rw [State.tt_count]
    subst hp hk
    exact State.runN_updSlot ..
  · rw [State.slot_count, State.slot_updSlot_same]; rfl
  · rw [State.count]; split <;> rfl
  · rw [State.slot_count, State.slot_updSlot_same]
    rfl
theorem answers_mmaRun_of_bad (h : s.turnHead p k = some (c, cmd)) (hp : c / 64 = p) (hk : c % 64 / 8 = k)
    (hop : (∃ x y z, cmd.op = .mma x y z) ∨ ∃ x y z w, cmd.op = .mmag x y z w) {f : Flt} (hbad : s.mmaBad c cmd = some f) :
    Answers (.mmaRun p k) s fun t => s.Ran t p k c cmd (some f) 0 ∧ t.cores = s.cores ∧ (t.slot c).acc = (s.slot c).acc := by
  refine answers_exec (execMmaRun_of_bad h hop hbad) ⟨State.ran_finishTurn hp hk ?_ ?_ rfl rfl fun _ => rfl, rfl, ?_⟩
  · subst hp hk
    exact State.runN_updSlot ..
  · rw [State.slot_updSlot_same]
  · rw [State.slot_finishTurn hp hk, State.slot_updSlot_same]

/-! ## `MDRAIN` -/

section Drain
variable {fmt : Nat} {q : TSlot}

theorem TReg.expo_of_unscaled {T : TReg} (h : T.scl = 0) (rd : TileRd) (i j : Nat) : T.expo rd i j = 0 := by
  rw [TReg.expo, h]
  rfl
/-- A drain of an unscaled tile without an amax makes its writes, or has the fault of a bad word that one of them would cut (R165, R324). -/
theorem execMdrainRun_of_unscaled (h : s.turnHead p k = some (c, cmd)) {x : BitVec 4} {y : BitVec 6} (hop : cmd.op = .mdrain x y) (hscl : cmd.tc.scl = 0)
    {el : Elems} {m : Nat} (hel : (s.slot c).drain (drainFmt cmd.tc (s.slot c).mode) cmd.tc.sat 0 = (el, m))
    {ws : List (Nat × List Byte)} (hws : cmd.tc.writes (drainFmt cmd.tc (s.slot c).mode) el = ws) :
    (∀ f, s.tileStoreEcc c cmd.tc ws = some f → exec (.mdrainRun p k) s = .next (s.finishTurn p k c cmd fNone (some f) false)) ∧
    (s.tileStoreEcc c cmd.tc ws = none → cmd.amax = none →
      exec (.mdrainRun p k) s = .next (s.finishTurn p k c cmd el.flags none false (cmd.tc.drainCuts ws))) := by
  have hexpo := TReg.expo_of_unscaled hscl (s.engineRd cmd.id c cmd.tc) 0 0
  refine ⟨fun f hecc => show execMdrainRun p k s = _ from ?_, fun hecc hamax => show execMdrainRun p k s = _ from ?_⟩
  · simp only [execMdrainRun, h, hop, hscl, hexpo, hel, hws, hecc]
    rfl
  · simp only [execMdrainRun, h, hop, hscl, hexpo, hel, hws, hecc, hamax]
    rfl
/-- The code of a drained element, by row and column (R165). -/
theorem TSlot.at_drain {e' : Int} {pol : Bool} {i j : Nat} (hi : i < q.rows) (hj : j < q.cols) : (Elems.at (q.drain fmt pol e').1 (i * q.cols + j)) =
    (drainElem fmt q.mode pol e' (q.acc.getD (i * q.cols + j) 0) (q.sat.getD (i * q.cols + j) false) (q.nar.getD (i * q.cols + j) false)
      (q.eA.getD i 0) (q.eB.getD j 0)).1 := by
  have hn : i * q.cols + j < q.rows * q.cols := by
    calc i * q.cols + j < i * q.cols + q.cols := Nat.add_lt_add_left hj _
      _ = (i + 1) * q.cols := (Nat.succ_mul ..).symm
      _ ≤ q.rows * q.cols := Nat.mul_le_mul_right _ hi
  have hdiv : (i * q.cols + j) / q.cols = i := by
    rw [Nat.mul_comm, Nat.mul_add_div (by omega), Nat.div_eq_of_lt hj, Nat.add_zero]
  have hmod : (i * q.cols + j) % q.cols = j := by rw [Nat.mul_comm, Nat.mul_add_mod, Nat.mod_eq_of_lt hj]
  simp only [Elems.at, TSlot.drain, List.getD_eq_getElem?_getD, List.getElem?_map, List.getElem?_range hn, Option.map_some, Option.getD_some, hdiv, hmod]

/-- What the writes of a dense tile leave in the pool: nothing outside the tile, the header's first word at its start, and, of a row-major
tile that is not L6, every element at its place (R133, R134, R141). -/
structure State.TileStands (s : State) (c : Nat) (T : TReg) (fmt extent : Nat) (code : Nat → Nat → Nat) (w : State) : Prop where
  kept : PoolKept s w c T.base extent
  header : (w.core c).word T.base = withFmt T.w0 fmt
  elements : T.colMajor = false → fmt ≠ 0 → 16 ≤ T.dataOff → ∀ i j, i < T.rows → j < T.cols →
    (w.core c).num (T.base + T.lineAt i + fmtSize fmt 0 * j) (fmtSize fmt 0) = code i j % 2 ^ (8 * fmtSize fmt 0)
theorem State.tileStands_cuts {T : TReg} (hspr : T.spr ≠ 1) (hline : T.lineBytes fmt 0 ≤ 16 * T.pitch) (l : Elems) :
    s.TileStands c T fmt (T.extent fmt 0) (fun i j => (Elems.at l (i * T.cols + j)).1) (s.engineWrites c (T.cuts (T.writes fmt l))) where
  kept := poolKept_of_within (fun _ hx => TReg.writes_within hspr hx) fun _ hw => hw
  header := by
    obtain ⟨w1, hws⟩ := T.writes_eq fmt l
    rw [hws, TReg.cuts_append, TReg.cuts_header, word_engineWrites_header]
  elements hrow hfmt hoff i j hi hj := by
    rw [State.core_engineWrites_same]
    exact Core.num_putAll_element hspr hrow hfmt hline hoff hi hj
theorem State.tileStands_drainCuts {T : TReg} (hspr : T.spr ≠ 1) (hline : T.lineBytes fmt 0 ≤ 16 * T.pitch) (l : Elems) :
    s.TileStands c T fmt (T.extent fmt 0) (fun i j => (Elems.at l (i * T.cols + j)).1) (s.engineWrites c (T.drainCuts (T.writes fmt l))) where
  kept := poolKept_of_within (fun _ hx => TReg.writes_within hspr hx) fun _ hw => TReg.mem_cuts_of_drainCuts hw
  header := by
    obtain ⟨w1, hws⟩ := T.writes_eq fmt l
    obtain ⟨pre, hpre⟩ := TReg.drainCuts_header (T := T) (ws := T.dataWrites fmt l) (h := bytesOf [withFmt T.w0 fmt, w1])
    rw [hws, hpre, word_engineWrites_header]
  elements hrow := by
    rw [TReg.drainCuts, hrow, if_neg Bool.false_ne_true]
    exact (State.tileStands_cuts hspr hline l).elements hrow
theorem State.TileStands.congr {T : TReg} {n : Nat} {code code' : Nat → Nat → Nat} {w : State} (h : s.TileStands c T fmt n code w)
    (hcode : ∀ i j, i < T.rows → j < T.cols → code i j = code' i j) : s.TileStands c T fmt n code' w where
  kept := h.kept
  header := h.header
  elements hrow hfmt hoff i j hi hj := by rw [← hcode i j hi hj]; exact h.elements hrow hfmt hoff i j hi hj
/-- `MDRAIN` has the slot's elements to write into the tile, and keeps the accumulators (R144, R165). -/
theorem answers_mdrainRun (h : s.turnHead p k = some (c, cmd)) (hp : c / 64 = p) (hk : c % 64 / 8 = k) {x : BitVec 4} {y : BitVec 6}
    (hop : cmd.op = .mdrain x y) (hamax : cmd.amax = none) (hscl : cmd.tc.scl = 0) (hspr : cmd.tc.spr = 0)
    (hrows : cmd.tc.rows = (s.slot c).rows) (hcols : cmd.tc.cols = (s.slot c).cols)
    (hfmt : drainFmt cmd.tc (s.slot c).mode = fmt) (hline : cmd.tc.lineBytes fmt 0 ≤ 16 * cmd.tc.pitch)
    (hecc : s.tileStoreEcc c cmd.tc (cmd.tc.writes fmt ((s.slot c).drain fmt cmd.tc.sat 0).1) = none) :
    Answers (.mdrainRun p k) s fun t => (∃ fl, s.Ran t p k c cmd none fl) ∧ t.cores = s.cores ∧ (t.slot c).acc = (s.slot c).acc ∧
      ∀ e ∈ t.fins.getLast?, s.TileStands c cmd.tc fmt (cmd.tc.extent fmt 0) (fun i j => let q := s.slot c; let n := i * q.cols + j
        (drainElem fmt q.mode cmd.tc.sat 0 (q.acc.getD n 0) (q.sat.getD n false) (q.nar.getD n false) (q.eA.getD i 0) (q.eB.getD j 0)).1.1)
        (s.engineWrites c e.ws) := by
  subst hfmt
  refine answers_exec ((execMdrainRun_of_unscaled h hop hscl rfl rfl).2 hecc hamax)
    ⟨⟨_, State.ran_finishTurn hp hk rfl rfl rfl rfl fun h => absurd rfl h⟩, rfl, by rw [State.slot_finishTurn hp hk], fun e he => ?_⟩
  obtain rfl := Option.some.inj (List.getLast?_concat.symm.trans he)
  refine (State.tileStands_drainCuts (by rw [hspr]; decide) hline _).congr fun i j hi hj => ?_
  rw [hcols]
  exact congrArg Prod.fst (TSlot.at_drain (hrows ▸ hi) (hcols ▸ hj))
theorem answers_mdrainRun_of_fault (h : s.turnHead p k = some (c, cmd)) (hp : c / 64 = p) (hk : c % 64 / 8 = k) {x : BitVec 4} {y : BitVec 6}
    (hop : cmd.op = .mdrain x y) (hscl : cmd.tc.scl = 0) (hfmt : drainFmt cmd.tc (s.slot c).mode = fmt) {f : Flt}
    (hecc : s.tileStoreEcc c cmd.tc (cmd.tc.writes fmt ((s.slot c).drain fmt cmd.tc.sat 0).1) = some f) :
    Answers (.mdrainRun p k) s fun t => s.Ran t p k c cmd (some f) 0 ∧ t.cores = s.cores := by
  subst hfmt
  exact answers_exec ((execMdrainRun_of_unscaled h hop hscl rfl rfl).1 f hecc) ⟨State.ran_finishTurn hp hk rfl rfl rfl rfl fun _ => rfl, rfl⟩

end Drain

theorem turnRuns_of_no_head (h : s.turnHead p k = none) :
    Answers (.mzeroRun p k) s (· = s) ∧ Answers (.mmaRun p k) s (· = s) ∧ Answers (.mdrainRun p k) s (· = s) := by
  refine ⟨answers_exec (show execMzeroRun p k s = .next s from ?_) rfl, answers_exec (show execMmaRun p k s = .next s from ?_) rfl,
    answers_exec (show execMdrainRun p k s = .next s from ?_) rfl⟩
  · simp only [execMzeroRun, h]
  · simp only [execMmaRun, h]
  · simp only [execMdrainRun, h]

/-! ## The tile unit -/

/-- Whatever the tile unit's command does, it leaves its queue, and a faulting one writes nothing (R139, R152). -/
theorem execTileUnitRun_of_ready {rest : List TCmd} (hq : (s.core c).tileQ = cmd :: rest) (hw : s.pendingIds c cmd.waits = false)
    (hop : (∃ x y, cmd.op = .tcvt x y) ∨ ∃ x y z, cmd.op = .aqadd x y z) : ∃ flags flt ws, (flt ≠ none → ws = []) ∧
      exec (.tileUnitRun c) s = .next (s.finishTile c cmd flags flt ws) := by
  have hfail (f : Option Flt) : f ≠ none → ([] : List (Nat × List Byte)) = [] := fun _ => rfl
  have hdone (ws : List (Nat × List Byte)) : (none : Option Flt) ≠ none → ws = [] := fun h => absurd rfl h
  show ∃ flags flt ws, (flt ≠ none → ws = []) ∧ execTileUnitRun c s = _
  obtain ⟨x, y, hop⟩ | ⟨x, y, z, hop⟩ := hop
  · simp only [execTileUnitRun, hq, hw, hop, Bool.false_eq_true, if_false]
    split
    · exact ⟨_, _, _, hfail _, rfl⟩
    · split
      · exact ⟨_, _, _, hfail _, rfl⟩
      · exact ⟨_, _, _, hdone _, rfl⟩
  · simp only [execTileUnitRun, hq, hw, hop, Bool.false_eq_true, if_false]
    split
    · exact ⟨_, _, _, hfail _, rfl⟩
    · split
      · exact ⟨_, _, _, hfail _, rfl⟩
      · exact ⟨_, _, _, hdone _, rfl⟩
theorem State.core_finishTile_same (s : State) (c : Nat) (cmd : TCmd) (fl : Bits6) (flt : Option Flt) (ws : List (Nat × List Byte)) :
    (s.finishTile c cmd fl flt ws).core c = { s.core c with tileQ := (s.core c).tileQ.tail } :=
  State.core_updCore_same s c fun k => { k with tileQ := k.tileQ.tail }
theorem State.core_finishTile_ne (s : State) {c d : Nat} (h : d ≠ c) (cmd : TCmd) (fl : Bits6) (flt : Option Flt) (ws : List (Nat × List Byte)) :
    (s.finishTile c cmd fl flt ws).core d = s.core d := State.core_updCore_ne s (fun k => { k with tileQ := k.tileQ.tail }) h.symm
/-- The head of the tile unit's queue leaves it: no byte and no context changes until its writes are made (R152, R153, R274). -/
theorem answers_tileUnitRun {rest : List TCmd} (hq : (s.core c).tileQ = cmd :: rest) (hw : s.pendingIds c cmd.waits = false)
    (hop : (∃ x y, cmd.op = .tcvt x y) ∨ ∃ x y z, cmd.op = .aqadd x y z) : Answers (.tileUnitRun c) s fun t =>
      (t.core c).tileQ = rest ∧ t.mem = s.mem ∧ (∀ d, d ≠ c → t.core d = s.core d) ∧ (∀ z, t.ctx c z = s.ctx c z) ∧
      (∀ z, (t.core c).byte z = (s.core c).byte z) ∧
      ∃ e, t.fins = s.fins ++ [e] ∧ e.id = cmd.id ∧ e.core = c ∧ e.ccnt = cmd.ccnt ∧ e.merge = false ∧ (e.flt ≠ none → e.ws = []) := by
  obtain ⟨flags, flt, ws, hws, hexec⟩ := execTileUnitRun_of_ready hq hw hop
  have hcore := s.core_finishTile_same c cmd flags flt ws
  refine answers_exec hexec ⟨?_, rfl, fun d hd => s.core_finishTile_ne hd cmd flags flt ws, fun z => ?_, fun z => ?_, _, rfl, rfl, rfl, rfl, rfl, hws⟩
  · rw [hcore, hq]; rfl
  · rw [State.ctx, hcore]; rfl
  · rw [hcore]; rfl
theorem tileUnitRun_of_idle {rest : List TCmd} (h : (s.core c).tileQ = [] ∨ ((s.core c).tileQ = cmd :: rest ∧ s.pendingIds c cmd.waits = true)) :
    Answers (.tileUnitRun c) s (· = s) := by
  refine answers_exec (show execTileUnitRun c s = .next s from ?_) rfl
  obtain h | ⟨h, hw⟩ := h
  · simp only [execTileUnitRun, h]
  · simp only [execTileUnitRun, h, hw, if_true]

end Runs
end Machine
end Sys2Proof
end

section
/-! An engine command completes: its last writes, its flags, its counter, or the engine path (R139, R152). -/

namespace Sys2Proof
namespace Machine

/-! ## What a record and an engine's writes leave -/

/-- The domains, the Turntables, the contexts and the counters are as they were. -/
structure State.KeepsEngines (s t : State) : Prop where
  domains : t.domains = s.domains
  tts : ∀ p, (t.part p).tts = (s.part p).tts
  ctxs : ∀ d, (t.core d).ctxs = (s.core d).ctxs
  counters : ∀ d, (t.core d).counters = (s.core d).counters

namespace State.KeepsEngines
variable {s t u : State}

theorem refl (s : State) : s.KeepsEngines s := ⟨rfl, fun _ => rfl, fun _ => rfl, fun _ => rfl⟩
theorem trans (h : s.KeepsEngines t) (g : t.KeepsEngines u) : s.KeepsEngines u :=
  ⟨g.domains.trans h.domains, fun p => (g.tts p).trans (h.tts p), fun d => (g.ctxs d).trans (h.ctxs d), fun d => (g.counters d).trans (h.counters d)⟩
theorem of_same (hd : t.domains = s.domains) (hp : t.parts = s.parts) (hc : t.cores = s.cores) : s.KeepsEngines t :=
  ⟨hd, fun p => by rw [State.part, hp]; rfl, fun d => by rw [State.core, hc]; rfl, fun d => by rw [State.core, hc]; rfl⟩
theorem updPart (s : State) (p : Nat) {f : Part → Part} (hf : ∀ q, (f q).tts = q.tts) : s.KeepsEngines (s.updPart p f) :=
  ⟨rfl, fun q => by rw [State.part_updPart]; split <;> simp_all, fun _ => rfl, fun _ => rfl⟩
theorem updCore (s : State) (c : Nat) {f : Core → Core} (hx : (f (s.core c)).ctxs = (s.core c).ctxs) (hn : (f (s.core c)).counters = (s.core c).counters) :
    s.KeepsEngines (s.updCore c f) := by
  refine ⟨rfl, fun _ => rfl, State.ctxs_updCore hx, fun d => ?_⟩
  rw [State.core_updCore]
  split
  · next h => rw [hn, h]
  · rfl
theorem count (s : State) (p e n : Nat) : s.KeepsEngines (s.count p e n) := by
  unfold State.count
  split
  · exact refl s
  · exact updPart s p fun _ => rfl
theorem land (s : State) (c h : Nat) (slot : Slot) (ws : List Word) : s.KeepsEngines (s.land c h slot ws) := by
  have hc : ((s.core c).land h { slot with landed := s.now } ws s.free).counters = (s.core c).counters := by
    simp only [Core.land]
    cases ((s.core c).chan h).free with
    | none => rfl
    | some i =>
      dsimp only
      rw [Core.blur_eq, Core.put_eq]
      rfl
  exact (updCore s c (f := fun k => k.land h { slot with landed := s.now } ws s.free) (Core.ctxs_land ..) hc).trans (of_same rfl rfl rfl)
/-- A record that finds its place leaves them. -/
theorem place (s : State) (c : Nat) (rec : List Word) : s.KeepsEngines (s.place c none false rec).1 := by
  by_cases h : s.Homes c
  · rw [State.place_of_homes s c rec h]
    exact (count ..).trans (land ..)
  · rw [State.place_of_not_homes s c rec h]
    exact (count s (c / 64) 15 1).trans (of_same rfl rfl rfl)
theorem logViolation (s : State) (c x : Nat) (f : Flt) : s.KeepsEngines (s.logViolation c x f) := by
  unfold State.logViolation
  split
  · exact updPart s _ fun _ => rfl
  · exact refl s
theorem putLocal (s : State) (c off : Nat) (bs : List Byte) : s.KeepsEngines (s.putLocal c off bs) :=
  (updCore s c (f := fun k => k.put off bs) (Core.ctxs_put ..) (by rw [Core.put_eq])).trans (of_same rfl rfl rfl)
theorem engineWrites (s : State) (c : Nat) (ws : List (Nat × List Byte)) : s.KeepsEngines (s.engineWrites c ws) := by
  induction ws generalizing s with
  | nil => exact refl s
  | cons w r ih => exact (putLocal s c w.1 w.2).trans (ih _)

section Uses
variable (h : s.KeepsEngines t)
include h

theorem tt (p k : Nat) : t.tt p k = s.tt p k := by rw [State.tt, h.tts, State.tt]
theorem slot (c : Nat) : t.slot c = s.slot c := congrArg (·.slot (c % 8)) (h.tt ..)
theorem ctx (c x : Nat) : t.ctx c x = s.ctx c x := by rw [State.ctx, Core.ctx, h.ctxs]; rfl
theorem cell (c n : Nat) : t.cell c n = s.cell c n := by rw [State.cell, Core.cell, h.counters]; rfl
end Uses
end State.KeepsEngines

/-! ## What depends on the domains alone (R29, R190) -/

section Domains
variable {s t : State} (h : t.domains = s.domains)
include h

theorem State.det_congr (c : Nat) : t.det c = s.det c := by rw [State.det, State.launchOf, State.domOf_congr h, State.domain_congr h]; rfl
theorem State.rel_congr (c : Nat) : t.rel c = s.rel c := by rw [State.rel, State.domOf_congr h]; rfl
theorem State.counterName_congr (c : Nat) (w : Word) : t.counterName c w = s.counterName c w := by
  have hin : ∀ r, t.inRange c r = s.inRange c r := fun r => by rw [State.inRange, State.domOf_congr h, State.domain_congr h]; rfl
  unfold State.counterName
  simp only [hin, State.phys_congr h]

end Domains

/-! ## Adds of a core at a cell of its own (R185, R197) -/

section Adds
variable {s : State} {c n : Nat} {w : Word} {x : Nat} {sc : Scope}

/-- An add of 1 to an unarmed cell that it cannot overrun. -/
theorem State.counterAdd_of_unarmed (ha : (s.cell c n).armed = false) (hv : (s.cell c n).value ≠ BitVec.allOnes 64) (who : Nat) :
    s.counterAdd c n 1 who x sc = s.setCell c n { s.cell c n with
      value := (s.cell c n).value + 1, lastcore := BitVec.ofNat 12 who, lastctx := BitVec.ofNat 4 x, acq := scopeMax (s.cell c n).acq sc } := by
  have hlt : (s.cell c n).value.toNat + 1 < 2 ^ 64 := by
    have hne : (s.cell c n).value.toNat ≠ 2 ^ 64 - 1 := fun h => hv (BitVec.eq_of_toNat_eq (by rw [h]; rfl))
    have := (s.cell c n).value.isLt
    omega
  have hval : nat64 (Nat.min ((s.cell c n).value.toNat + 1) (2 ^ 64 - 1)) = (s.cell c n).value + 1 := by
    have hmin : Nat.min ((s.cell c n).value.toNat + 1) (2 ^ 64 - 1) = (s.cell c n).value.toNat + 1 := Nat.min_eq_left (by omega)
    rw [hmin]
    exact BitVec.eq_of_toNat_eq (by simp [nat64, BitVec.toNat_add])
  have hone : (1 : Word).toNat = 1 := rfl
  simp only [State.counterAdd, ha, hone, hval, Bool.false_and, Bool.or_false, decide_eq_true_eq, Nat.not_le.mpr hlt, if_false,
    Bool.false_eq_true, show ¬(1 : Word) = 0 by decide]
/-- A packet that hardware releases at once enters the network so. -/
theorem State.transmit_net_released (s : State) (c x d : Nat) (b : Body) (waits : List Nat) (sc : Scope) :
    ∃ e, (s.transmit c x d b waits sc true).net = s.net ++ [e] ∧ e.src = c ∧ e.dst = d ∧ e.released = true ∧ e.body = b := by
  refine ⟨{ id := s.uid, src := c, srcCtx := x, dst := d, body := b, waits := waits, scope := sc,
            released := true || b.within || !s.det (partOfKey c * 64) }, ?_, rfl, rfl, rfl, rfl⟩
  rw [State.transmit, State.count_net]
theorem State.addName_of_own (hd : s.det c = false) (raw : Word) : s.addName c c x (.loc n) raw w [] sc true =
    if s.addsToCome then s.transmit c x c (.cadd n w (BitVec.ofNat 12 (s.rel c)) (BitVec.ofNat 4 x) raw) [] sc true
    else s.counterAdd c n w (s.rel c) x sc := by
  cases ha : s.addsToCome <;> simp [State.addName, hd, ha]

end Adds

/-! ## Completing -/

section Complete
variable {s u : State} {F : Fin} {id n : Nat}

/-- What the command's end does once its writes are made: its flags and its counter, or the engine path (R152). -/
def Fin.finish (F : Fin) (s : State) : State :=
  match F.flt with
  | some e => s.engineFault F.core F.ccnt e
  | none =>
    let s := s.updCtx F.core 0 fun k => { k with flags := k.flags ||| F.flags }
    match s.counterName F.core F.ccnt with
    | .ok n => if F.ccnt = 0 then s else s.addName F.core F.core 15 n F.ccnt 1 [] .sys true
    | .error _ => s
/-- The state in which the last writes of the command have been made. -/
def Fin.written (F : Fin) (s : State) (id : Nat) : State := { s with fins := s.fins.filter fun g => g.id != id }.engineWrites F.core F.ws

theorem State.leaseEnd_of_kept {c : Nat} (h : (s.slot c).mrel = false) : s.leaseEnd c = s := by
  simp [State.leaseEnd, h]
theorem execEngineCommandComplete_of_merging (hF : s.fins.find? (fun f => f.id == id) = some F) (hm : F.merge = true) :
    exec (.engineCommandComplete id) s = .next s := by
  show execEngineCommandComplete id s = _
  simp only [execEngineCommandComplete, hF, hm, if_true]
theorem execEngineCommandComplete_of_done (hF : s.fins.find? (fun f => f.id == id) = some F) (hm : F.merge = false)
    (hmrel : ((F.finish (F.written s id)).slot F.core).mrel = false) :
    exec (.engineCommandComplete id) s = .next ((F.written s id).stamped F.core F.id F.finish) := by
  show execEngineCommandComplete id s = _
  have hend : ((F.written s id).stamped F.core F.id F.finish).leaseEnd F.core = (F.written s id).stamped F.core F.id F.finish :=
    State.leaseEnd_of_kept hmrel
  have hexec : execEngineCommandComplete id s = .next (if F.turn.isSome then ((F.written s id).stamped F.core F.id F.finish).leaseEnd F.core
      else (F.written s id).stamped F.core F.id F.finish) := by
    simp only [execEngineCommandComplete, hF, hm, Bool.false_eq_true, if_false]
    rfl
  rw [hexec, hend, ite_self]
theorem Fin.keepsEngines_written : s.KeepsEngines (F.written s id) :=
  (State.KeepsEngines.of_same (s := s) (t := { s with fins := s.fins.filter fun g => g.id != id }) rfl rfl rfl).trans
    (State.KeepsEngines.engineWrites ..)
theorem State.engineWrites_eq (s : State) (c : Nat) (ws : List (Nat × List Byte)) :
    s.engineWrites c ws = { s with cores := (s.engineWrites c ws).cores, bad := (s.engineWrites c ws).bad } := by
  induction ws generalizing s with
  | nil => rfl
  | cons w r ih => exact ih (s.putLocal c w.1 w.2)

theorem Fin.ctx_written (c x : Nat) : (F.written s id).ctx c x = s.ctx c x := Fin.keepsEngines_written.ctx c x
theorem Fin.mem_written : (F.written s id).mem = s.mem := State.engineWrites_mem ..
theorem Fin.core_written : (F.written s id).core F.core = (s.engineWrites F.core F.ws).core F.core := by
  rw [Fin.written, State.core_engineWrites_same, State.core_engineWrites_same]; rfl

/-! ### Without a counter, and with one -/

section Flags
variable (hnone : F.flt = none)
include hnone

/-- C0 with the command's flags. -/
def Fin.flagged (F : Fin) (s : State) : State := s.updCtx F.core 0 fun k => { k with flags := k.flags ||| F.flags }
theorem Fin.finish_of_uncounted (hc : F.ccnt = 0) : F.finish u = F.flagged u := by
  simp only [Fin.finish, hnone]
  split
  · exact if_pos hc
  · rfl
theorem Fin.finish_of_counted (hc : F.ccnt ≠ 0) (hn : u.counterName F.core F.ccnt = .ok (.loc n)) :
    F.finish u = (F.flagged u).addName F.core F.core 15 (.loc n) F.ccnt 1 [] .sys true := by
  have hname : (F.flagged u).counterName F.core F.ccnt = .ok (.loc n) := (State.counterName_congr (by rfl) ..).trans hn
  simp only [Fin.flagged] at hname
  simp only [Fin.finish, hnone, hname, hc, if_false]
  rfl

end Flags

/-- A command without a counter makes its writes and leaves its flags to C0 (R152). -/
theorem answers_engineCommandComplete_uncounted (hF : s.fins.find? (fun f => f.id == id) = some F) (hmrel : (s.slot F.core).mrel = false)
    (hm : F.merge = false) (hnone : F.flt = none) (hc : F.ccnt = 0) :
    Answers (.engineCommandComplete id) s fun t => t.fins = s.fins.filter (fun f => f.id != id) ∧ t.mem = s.mem ∧
      (∀ a, (t.core F.core).byte a = ((s.engineWrites F.core F.ws).core F.core).byte a) ∧
      t.ctx F.core 0 = { s.ctx F.core 0 with flags := (s.ctx F.core 0).flags ||| F.flags } := by
  have hfin := Fin.finish_of_uncounted (u := F.written s id) hnone hc
  have hslot : ((F.finish (F.written s id)).slot F.core).mrel = false := by
    rw [hfin]
    exact (congrArg TSlot.mrel (Fin.keepsEngines_written.slot F.core)).trans hmrel
  have hcore : (F.finish (F.written s id)).core F.core = ((s.engineWrites F.core F.ws).core F.core).setCtx 0
      { s.ctx F.core 0 with flags := (s.ctx F.core 0).flags ||| F.flags } := by
    rw [hfin, Fin.flagged, State.core_updCtx_same, Fin.ctx_written, Fin.core_written]
  refine answers_exec (execEngineCommandComplete_of_done hF hm hslot) ⟨?_, ?_, fun a => ?_, ?_⟩
  · show (F.finish (F.written s id)).fins = _
    rw [hfin]
    exact congrArg State.fins (State.engineWrites_eq ..)
  · show (F.finish (F.written s id)).mem = _
    rw [hfin]
    exact Fin.mem_written
  · show ((F.finish (F.written s id)).core F.core).byte a = _
    rw [hcore]
    rfl
  · show ((F.finish (F.written s id)).core F.core).ctx 0 = _
    rw [hcore, Core.ctx_setCtx_same]

/-- An edge of 1 at the core's own counter: added in this cycle, or among the adds of the cycle that are still to come (R152, R185). -/
theorem answers_engineCommandComplete_counted (hF : s.fins.find? (fun f => f.id == id) = some F) (hmrel : (s.slot F.core).mrel = false)
    (hm : F.merge = false) (hnone : F.flt = none) (hc : F.ccnt ≠ 0) (hn : s.counterName F.core F.ccnt = .ok (.loc n)) (hd : s.det F.core = false)
    (ha : (s.cell F.core n).armed = false) (hv : (s.cell F.core n).value ≠ BitVec.allOnes 64) :
    Answers (.engineCommandComplete id) s fun t =>
      (.stage 3 ∉ s.work → (t.cell F.core n).value = (s.cell F.core n).value + 1) ∧
      (.stage 3 ∈ s.work → t.cell F.core n = s.cell F.core n ∧ ∃ q ∈ t.net, q.src = F.core ∧ q.dst = F.core ∧ q.released = true ∧
        q.body = .cadd n 1 (BitVec.ofNat 12 (s.rel F.core)) 15 F.ccnt) ∧
      (t.ctx F.core 0).flags = (s.ctx F.core 0).flags ||| F.flags ∧ t.mem = s.mem := by
  have hkeep : s.KeepsEngines (F.written s id) := Fin.keepsEngines_written
  have hdom : (F.flagged (F.written s id)).domains = s.domains := hkeep.domains
  have hcell : (F.flagged (F.written s id)).cell F.core n = s.cell F.core n := by
    refine Eq.trans ?_ (hkeep.cell F.core n)
    rw [State.cell, Fin.flagged, State.core_updCtx_same]
    rfl
  have hctx : (F.flagged (F.written s id)).ctx F.core 0 = { s.ctx F.core 0 with flags := (s.ctx F.core 0).flags ||| F.flags } := by
    rw [Fin.flagged, State.ctx_updCtx_same, Fin.ctx_written]
  have hwork : (F.flagged (F.written s id)).work = s.work := by
    show (F.written s id).work = _
    rw [Fin.written, State.engineWrites_eq]
  have hadds : (F.flagged (F.written s id)).addsToCome = s.addsToCome := by rw [State.addsToCome, hwork, State.addsToCome]
  have hmem : (F.flagged (F.written s id)).mem = s.mem := Fin.mem_written
  have hlease : ((F.flagged (F.written s id)).slot F.core).mrel = false := (congrArg TSlot.mrel (hkeep.slot F.core)).trans hmrel
  have hfin := Fin.finish_of_counted (u := F.written s id) hnone hc ((State.counterName_congr hkeep.domains ..).trans hn)
  rw [State.addName_of_own ((State.det_congr hdom _).trans hd), hadds, State.rel_congr hdom] at hfin
  have hcome : s.addsToCome = true ↔ .stage 3 ∈ s.work := List.contains_iff_mem
  suffices h : ((F.finish (F.written s id)).slot F.core).mrel = false ∧
      (s.addsToCome = false → ((F.finish (F.written s id)).cell F.core n).value = (s.cell F.core n).value + 1) ∧
      (s.addsToCome = true → (F.finish (F.written s id)).cell F.core n = s.cell F.core n ∧ ∃ q ∈ (F.finish (F.written s id)).net,
        q.src = F.core ∧ q.dst = F.core ∧ q.released = true ∧ q.body = .cadd n 1 (BitVec.ofNat 12 (s.rel F.core)) 15 F.ccnt) ∧
      ((F.finish (F.written s id)).ctx F.core 0).flags = (s.ctx F.core 0).flags ||| F.flags ∧ (F.finish (F.written s id)).mem = s.mem by
    obtain ⟨hslot, hadd, hsend, hflags, hmem⟩ := h
    refine answers_exec (execEngineCommandComplete_of_done hF hm hslot) ⟨fun h => hadd (Bool.eq_false_iff.mpr (mt hcome.mp h)), fun h => ?_, hflags, hmem⟩
    obtain ⟨hcell, q, hq, hsrc, hdst, hrel, hbody⟩ := hsend (hcome.mpr h)
    refine ⟨hcell, _, List.mem_map_of_mem hq, ?_⟩
    split <;> exact ⟨hsrc, hdst, hrel, hbody⟩
  generalize F.flagged (F.written s id) = v at *
  rw [hfin]
  cases hadd : s.addsToCome with
  | true =>
    rw [if_pos rfl]
    refine ⟨?_, nofun, fun _ => ⟨?_, ?_⟩, ?_, ?_⟩
    · rw [State.transmit, State.slot_count]
      exact hlease
    · rw [State.cell, State.core, State.transmit_cores]
      exact hcell
    · obtain ⟨e, hnet, he⟩ := State.transmit_net_released v F.core 15 F.core (.cadd n 1 (BitVec.ofNat 12 (s.rel F.core)) (BitVec.ofNat 4 15) F.ccnt) [] .sys
      exact ⟨e, by rw [hnet]; exact List.mem_append_right _ List.mem_cons_self, he⟩
    · rw [State.ctx, State.core, State.transmit_cores]
      exact congrArg Ctx.flags hctx
    · rw [State.transmit_mem, hmem]
  | false =>
    rw [if_neg Bool.false_ne_true, State.counterAdd_of_unarmed (by rw [hcell, ha]) (by rw [hcell]; exact hv), State.setCell]
    refine ⟨hlease, fun _ => ?_, nofun, ?_, hmem⟩
    · rw [State.cell, State.core_updCore_same, Core.cell_setCell_same, hcell]
    · rw [State.ctx, State.core_updCore_same]
      exact congrArg Ctx.flags hctx

/-- A fault of the engine path at a core whose counter is its own: the record finds its place, and the counter's fault bit is set (R139, R152). -/
theorem State.engineFault_of_own {c : Nat} {ccnt : Word} (f : Flt) (hc : ccnt ≠ 0) (hn : s.counterName c ccnt = .ok (.loc n)) (hd : s.det c = false) :
    ∃ t, s.KeepsEngines t ∧ s.engineFault c ccnt f = t.updCore c fun k => k.setCell n { k.cell n with fault := true, cause := 0x19 } := by
  have hlog : s.KeepsEngines (s.logViolation c 15 f) := State.KeepsEngines.logViolation ..
  have hpost (rec : List Word) : (s.logViolation c 15 f).postTo c c none false rec = ((s.logViolation c 15 f).place c none false rec).1 := by
    simp [State.postTo, State.det_congr hlog.domains, hd]
  have hkeep (rec : List Word) : s.KeepsEngines ((s.logViolation c 15 f).place c none false rec).1 := hlog.trans (State.KeepsEngines.place ..)
  have hset (rec : List Word) : ((s.logViolation c 15 f).place c none false rec).1.faultCounter c c ccnt =
      ((s.logViolation c 15 f).place c none false rec).1.updCore c fun k => k.setCell n { k.cell n with fault := true, cause := 0x19 } := by
    simp only [State.faultCounter, State.counterName_congr (hkeep rec).domains, hn, State.det_congr (hkeep rec).domains, hd, and_self, if_true]
  let rec_ := (s.logViolation c 15 f).record c 15 0xFFFF clsEngine { f with obj := nat64 (counterIndex ccnt) }
  refine ⟨_, hkeep rec_, ?_⟩
  rw [← hset, ← hpost]
  simp only [State.engineFault, hc, if_false]
  rfl
/-- A command with a fault sets the fault bit of its counter and leaves the flags (R139, R152). -/
theorem answers_engineCommandComplete_faulted (hF : s.fins.find? (fun f => f.id == id) = some F) (hmrel : (s.slot F.core).mrel = false)
    (hm : F.merge = false) {e : Flt} (he : F.flt = some e) (hc : F.ccnt ≠ 0) (hn : s.counterName F.core F.ccnt = .ok (.loc n)) (hd : s.det F.core = false) :
    Answers (.engineCommandComplete id) s fun t => (t.cell F.core n).fault = true ∧ (t.cell F.core n).cause = 0x19 ∧
      (t.cell F.core n).value = (s.cell F.core n).value ∧ (t.ctx F.core 0).flags = (s.ctx F.core 0).flags := by
  have hwritten : s.KeepsEngines (F.written s id) := Fin.keepsEngines_written
  obtain ⟨v, hv, hfault⟩ := State.engineFault_of_own (s := F.written s id) e hc ((State.counterName_congr hwritten.domains ..).trans hn)
    ((State.det_congr hwritten.domains _).trans hd)
  have hkeep : s.KeepsEngines v := hwritten.trans hv
  have hfin : F.finish (F.written s id) = v.updCore F.core fun k => k.setCell n { k.cell n with fault := true, cause := 0x19 } := by
    rw [← hfault, Fin.finish, he]
  have hcell : (F.finish (F.written s id)).cell F.core n = { s.cell F.core n with fault := true, cause := 0x19 } := by
    rw [hfin, State.cell, State.core_updCore_same, Core.cell_setCell_same, ← hkeep.cell F.core n]
    rfl
  have hslot : ((F.finish (F.written s id)).slot F.core).mrel = false := by
    rw [hfin]
    exact (congrArg TSlot.mrel (hkeep.slot F.core)).trans hmrel
  have hctx : (F.finish (F.written s id)).ctx F.core 0 = s.ctx F.core 0 := by
    rw [hfin, State.ctx, State.core_updCore_same]
    exact hkeep.ctx F.core 0
  refine answers_exec (execEngineCommandComplete_of_done hF hm hslot) ⟨?_, ?_, ?_, congrArg Ctx.flags hctx⟩
  · exact congrArg Cell.fault hcell
  · exact congrArg Cell.cause hcell
  · exact (congrArg Cell.value hcell).trans rfl

end Complete

end Machine
end Sys2Proof
end

section
/-! The tile unit converts, moves and adds tiles (R141, R144, R146, R153, R167, R168). -/

namespace Sys2Proof
namespace Machine

/-! ## Destinations as their headers describe them -/

section Fields
variable {T A : TReg} {f m lo n v : Nat}

/-- A tile's header with one field of word 0 replaced. -/
def TReg.setW0 (T : TReg) (lo n v : Nat) : TReg := { T with w0 := setField T.w0 lo n v }
theorem TReg.fields_setW0_fmt : (T.setW0 4 4 v).fmt = v % 16 ∧ (T.setW0 4 4 v).scl = T.scl ∧ (T.setW0 4 4 v).spr = T.spr ∧ (T.setW0 4 4 v).colMajor = T.colMajor ∧
    (T.setW0 4 4 v).rows = T.rows ∧ (T.setW0 4 4 v).cols = T.cols ∧ (T.setW0 4 4 v).pitch = T.pitch := by
  have h (l m : Nat) (hl : l + m ≤ 4 ∨ 8 ≤ l) : bits (T.setW0 4 4 v).w0 l m = bits T.w0 l m := bits_setField_ne hl
  exact ⟨bits_setField_same (by decide), h _ _ (by decide), h _ _ (by decide), congrArg (· == 1) (h _ _ (by decide)),
    congrArg (· + 1) (h _ _ (by decide)), congrArg (· + 1) (h _ _ (by decide)), h _ _ (by decide)⟩
theorem fmtSize_of_mode (h : f ≠ 8) : fmtSize f m = fmtSize f 0 := by rw [fmtSize, fmtSize, if_neg h, if_neg h]
theorem TReg.lineBytes_of_mode (h : f ≠ 8) : T.lineBytes f m = T.lineBytes f 0 := by
  rw [TReg.lineBytes, TReg.lineBytes, lineLen, lineLen, fmtSize_of_mode h]
theorem TReg.extent_of_mode (h : f ≠ 8) : T.extent f m = T.extent f 0 := by rw [TReg.extent, TReg.extent, TReg.lineBytes_of_mode h]
theorem TReg.scale_within (h : T.scl ≠ 0) : T.scaleOff + T.scaleLen ≤ T.extent f m := by
  refine le_trans ?_ ((Nat.le_max_left ..).trans (Nat.le_max_right ..))
  rw [if_neg h]
theorem TReg.meta_within (h : T.metaLen ≠ 0) : T.metaOff + T.metaLen ≤ T.extent f m := by
  refine le_trans ?_ ((Nat.le_max_right ..).trans (Nat.le_max_right ..))
  rw [if_neg h]
theorem TReg.cuts_congr (h : T.base = A.base) (ws : List (Nat × List Byte)) : T.cuts ws = A.cuts ws := by rw [TReg.cuts, h, TReg.cuts]

end Fields

/-! ## What a `TCVT` whose checks pass knows of its tiles -/

section Checks
variable {s : State} {id c M : Nat} {A T : TReg}

theorem moveShape_ok {rs rd m land : Nat} (h : moveShape rs rd A T m land = .ok ()) : T.rows = A.rows ∧ T.cols = A.cols ∧
    (moved A T land).lineBytes (moved A T land).fmt m ≤ 16 * T.pitch := by
  unfold moveShape at h
  simp only [unit_bind_eq_ok, checkOk_eq_ok] at h
  obtain ⟨-, hline, h⟩ := h
  split at h
  · exact nomatch h
  · simp only [unit_bind_eq_ok, checkOk_eq_ok] at h
    obtain ⟨-, -, hdims⟩ := h
    simp only [Bool.and_eq_true, beq_iff_eq] at hdims
    exact ⟨hdims.1, hdims.2, of_decide_eq_true hline⟩
theorem moveShape_of_tcvtFlt (h : tcvtFlt s id c A T = none) :
    moveShape 0 0 A T (accMode A (s.engineRd id c A)) (accMode A (s.engineRd id c A)) = .ok () := by
  unfold tcvtFlt at h
  simp only [Option.or_eq_none_iff] at h
  obtain ⟨-, ⟨hshape, -⟩, -⟩ := h
  split at hshape
  · exact nomatch hshape
  · next hok =>
    simp only [unit_bind_eq_ok] at hok
    exact hok.1
/-- Where a tile is converted its destination is dense, in a format that is no ACC image (R142, R146). -/
theorem converted_dst (hsrc : srcOk true A = true) (hdst : dstOk true A T = true) (hv : isVerbatim A T = false) : T.spr = 0 ∧ T.fmt ≠ 8 := by
  by_cases h8 : T.fmt = 8
  · exfalso
    simp [dstOk, srcOk, isVerbatim, h8] at hsrc hdst hv
    obtain ⟨-, ⟨hA, hscl⟩, hspr⟩ := hdst
    obtain ⟨hs, hp⟩ := hsrc.2.resolve_left (not_not.mpr hA)
    exact hv hA (hs.trans hscl.symm) (hp.trans hspr.symm)
  · simp [dstOk, hv, h8] at hdst
    exact ⟨hdst.2.1.2, h8⟩
/-- The destination of a conversion keeps everything of its header but the format that an AUTO tile takes, which is no ACC image (R144, R146). -/
theorem landing_of_converted (hsrc : srcOk true A = true) (hdst : dstOk true A T = true) (hv : isVerbatim A T = false) :
    (landing A T M).spr ≠ 1 ∧ (landing A T M).fmt ≠ 8 ∧ (landing A T M).pitch = T.pitch ∧ (landing A T M).rows = T.rows ∧ (landing A T M).cols = T.cols ∧
      (landing A T M).base = T.base ∧ moved A T M = landing A T M := by
  obtain ⟨hspr, hfmt⟩ := converted_dst hsrc hdst hv
  have hspr : T.spr ≠ 1 := by rw [hspr]; decide
  have hmoved : moved A T M = landing A T M := by rw [moved, hv]; rfl
  rw [hmoved, landing, hv, if_neg Bool.false_ne_true]
  split
  · obtain ⟨hf, -, hp, -, hr, hk, hpitch⟩ := TReg.fields_setW0_fmt (T := T) (v := if M = 2 then 4 else 2)
    refine ⟨ne_of_eq_of_ne hp hspr, ne_of_eq_of_ne hf ?_, hpitch, hr, hk, rfl, rfl⟩
    split <;> decide
  · exact ⟨hspr, hfmt, rfl, rfl, rfl, rfl, rfl⟩

end Checks

/-! ## A verbatim move (R146) -/

section Verbatim
variable {M : Nat} {A T : TReg} {rd : TileRd}

/-- The destination of a verbatim move, as its bytes lie in it: the source's format, scales and sparsity, at its own offsets and pitch, and the source's
order where the source is S24. -/
theorem moved_of_verbatim (hv : isVerbatim A T = true) : landing A T M = T.like A A.fmt ∧ moved A T M = (T.like A A.fmt).laidAs A := by
  rw [moved, landing, hv]; exact ⟨rfl, rfl⟩
theorem TReg.fields_like : (T.like A A.fmt).fmt = A.fmt ∧ (T.like A A.fmt).scl = A.scl ∧ (T.like A A.fmt).spr = A.spr ∧ (T.like A A.fmt).colMajor = T.colMajor ∧
    (T.like A A.fmt).rows = T.rows ∧ (T.like A A.fmt).cols = T.cols ∧ (T.like A A.fmt).pitch = T.pitch := by
  have hbits (w : Word) (lo n : Nat) : bits w lo n % 2 ^ n = bits w lo n := Nat.mod_mod _ _
  have h (l m : Nat) (hl : 14 ≤ l) : bits (T.like A A.fmt).w0 l m = bits T.w0 l m :=
    (bits_setField_ne (.inr hl)).trans ((bits_setField_ne (.inr (by omega))).trans (bits_setField_ne (.inr (by omega))))
  refine ⟨?_, ?_, (bits_setField_same (by decide)).trans (hbits ..), congrArg (· == 1) (h _ _ (by decide)),
    congrArg (· + 1) (h _ _ (by decide)), congrArg (· + 1) (h _ _ (by decide)), h _ _ (by decide)⟩
  · exact (bits_setField_ne (by decide)).trans ((bits_setField_ne (by decide)).trans ((bits_setField_same (by decide)).trans (hbits ..)))
  · exact (bits_setField_ne (by decide)).trans ((bits_setField_same (by decide)).trans (hbits ..))
theorem TReg.fields_laidAs {e : TReg} : (e.laidAs A).fmt = e.fmt ∧ (e.laidAs A).scl = e.scl ∧ (e.laidAs A).spr = e.spr ∧
    (e.laidAs A).colMajor = (if A.spr = 1 then A.colMajor else e.colMajor) ∧ (e.laidAs A).rows = e.rows ∧ (e.laidAs A).cols = e.cols ∧ (e.laidAs A).pitch = e.pitch := by
  unfold TReg.laidAs
  split
  · have h (l m : Nat) (hl : l + m ≤ 15 ∨ 16 ≤ l) : bits (setField e.w0 15 1 (bits A.w0 15 1)) l m = bits e.w0 l m := bits_setField_ne hl
    have hc : bits (setField e.w0 15 1 (bits A.w0 15 1)) 15 1 = bits A.w0 15 1 := (bits_setField_same (by decide)).trans (Nat.mod_mod _ _)
    exact ⟨h _ _ (by decide), h _ _ (by decide), h _ _ (by decide), congrArg (· == 1) hc, congrArg (· + 1) (h _ _ (by decide)),
      congrArg (· + 1) (h _ _ (by decide)), h _ _ (by decide)⟩
  · exact ⟨rfl, rfl, rfl, rfl, rfl, rfl, rfl⟩
/-- The destination of a verbatim move of a tile of its shape. -/
def TReg.verbatim (T A : TReg) : TReg := (T.like A A.fmt).laidAs A
theorem TReg.offsets_verbatim : (T.verbatim A).scaleOff = T.scaleOff ∧ (T.verbatim A).metaOff = T.metaOff ∧ (T.verbatim A).dataOff = T.dataOff ∧
    (T.verbatim A).base = T.base := by
  unfold TReg.verbatim TReg.laidAs
  split <;> exact ⟨rfl, rfl, rfl, rfl⟩
theorem TReg.fields_verbatim : (T.verbatim A).fmt = A.fmt ∧ (T.verbatim A).scl = A.scl ∧ (T.verbatim A).spr = A.spr ∧
    (T.verbatim A).colMajor = (if A.spr = 1 then A.colMajor else T.colMajor) ∧ (T.verbatim A).rows = T.rows ∧ (T.verbatim A).cols = T.cols ∧
    (T.verbatim A).pitch = T.pitch := by
  obtain ⟨hf, hs, hp, hc, hr, hk, hpitch⟩ := TReg.fields_laidAs (A := A) (e := T.like A A.fmt)
  obtain ⟨gf, gs, gp, gc, gr, gk, gpitch⟩ := TReg.fields_like (A := A) (T := T)
  exact ⟨hf.trans gf, hs.trans gs, hp.trans gp, by rw [← gc]; exact hc, hr.trans gr, hk.trans gk, hpitch.trans gpitch⟩
theorem TReg.lineAt_verbatim (n : Nat) : (T.verbatim A).lineAt n = (T.like A A.fmt).lineAt n := by
  obtain ⟨-, -, -, -, -, -, hpitch⟩ := TReg.fields_laidAs (A := A) (e := T.like A A.fmt)
  obtain ⟨-, -, hdata, -⟩ := TReg.offsets_verbatim (A := A) (T := T)
  rw [TReg.lineAt, hdata, TReg.verbatim, hpitch]
  rfl
/-- The areas of a verbatim move are as long as the source's. -/
theorem TReg.areaLens_verbatim (hr : T.rows = A.rows) (hk : T.cols = A.cols) :
    (T.verbatim A).scaleLen = A.scaleLen ∧ (T.verbatim A).metaLen = A.metaLen := by
  obtain ⟨hf, hs, hp, hc, hr', hk', -⟩ := TReg.fields_verbatim (A := A) (T := T)
  rw [hr] at hr'
  rw [hk] at hk'
  refine ⟨by rw [TReg.scaleLen, hs, hr', hk', TReg.scaleLen], ?_⟩
  rw [TReg.metaLen, TReg.metaLen, hf, hp, hr', hk']
  by_cases hspr : A.spr = 1
  · rw [if_pos hspr] at hc
    rw [TReg.metaLine, TReg.lines, hc, hr', hk', TReg.metaLine, TReg.lines]
  · rw [if_neg hspr, if_neg hspr]
theorem lineLen_whole (fmt mode n : Nat) : lineLen fmt mode (if fmt = 0 then 4 * ceilDiv n 4 else n) = lineLen fmt mode n := by
  unfold lineLen ceilDiv
  split
  · omega
  · rfl
/-- Every write of a verbatim move lies in the destination. -/
theorem verbatimWrites_within (hr : T.rows = A.rows) (hk : T.cols = A.cols) {w : Nat × List Byte} (hw : w ∈ verbatimWrites A T rd) :
    w.1 + w.2.length ≤ (T.verbatim A).extent (T.verbatim A).fmt (accMode A rd) := by
  obtain ⟨hf, hs, hp, hc, hr', hk', -⟩ := TReg.fields_verbatim (A := A) (T := T)
  obtain ⟨hsl, hml⟩ := TReg.areaLens_verbatim hr hk
  unfold verbatimWrites at hw
  simp only [List.mem_append] at hw
  obtain ((hw | hw) | hw) | hw := hw
  · split at hw
    · cases hw
    · next hscl =>
      cases List.mem_singleton.mp hw
      have h := TReg.scale_within (T := T.verbatim A) (f := (T.verbatim A).fmt) (m := accMode A rd) (by rw [hs]; exact hscl)
      rw [hsl, TReg.offsets_verbatim.1] at h
      rwa [List.length_map, List.length_range]
  · split at hw
    · cases hw
    · next hmeta =>
      cases List.mem_singleton.mp hw
      have h := TReg.meta_within (T := T.verbatim A) (f := (T.verbatim A).fmt) (m := accMode A rd) (by rw [hml]; exact hmeta)
      rw [hml, TReg.offsets_verbatim.2.1] at h
      rwa [List.length_map, List.length_range]
  · have hline {n : Nat} {bs : List Byte} (hn : n < (T.verbatim A).lines) (hlen : bs.length = (T.verbatim A).lineBytes (T.verbatim A).fmt (accMode A rd)) :
        (T.like A A.fmt).lineAt n + bs.length ≤ (T.verbatim A).extent (T.verbatim A).fmt (accMode A rd) := by
      rw [hlen, ← TReg.lineAt_verbatim]
      exact TReg.line_within hn ..
    split at hw
    · next hsame =>
      have horder : (T.verbatim A).colMajor = A.colMajor := by
        rw [hc]
        split
        · rfl
        · next hspr => exact (hsame.resolve_left hspr).symm
      obtain ⟨n, hn, rfl⟩ := List.mem_map.mp hw
      refine hline ?_ ?_
      · rw [TReg.lines, horder, hr', hk', hr, hk]
        exact List.mem_range.mp hn
      · have hstored : (T.verbatim A).stored = A.stored := by rw [TReg.stored, horder, hp, hr', hk', hr, hk, TReg.stored]
        rw [length_pack, List.length_map, List.length_range, lineLen_whole, TReg.lineBytes, hstored, hf]
    · next hdiff =>
      have hspr : A.spr ≠ 1 := fun h => hdiff (.inl h)
      have hlike : T.verbatim A = T.like A A.fmt := if_neg hspr
      obtain ⟨n, hn, rfl⟩ := List.mem_map.mp hw
      refine hline ?_ ?_
      · rw [hlike]
        exact List.mem_range.mp hn
      · rw [length_pack, List.length_map, List.length_range, TReg.lineBytes_dense (by rw [hp]; exact hspr), hf, hlike]
        rfl
  · cases List.mem_singleton.mp hw
    exact (Nat.zero_add _).le.trans (TReg.header_within ..)
theorem verbatimWrites_header : ∃ l w1, verbatimWrites A T rd = l ++ [(0, bytesOf [(T.like A A.fmt).w0, w1])] := ⟨_, _, rfl⟩

end Verbatim

/-! ## The command runs -/

section Run
variable {s : State} {c : Nat} {cmd : TCmd} {rest : List TCmd}

/-- What a command of the tile unit that ran without a fault leaves: it is out of the queue, and its writes, once made, leave what P says. -/
def State.TileRan (s t : State) (c : Nat) (cmd : TCmd) (rest : List TCmd) (flags : Bits6) (P : State → Prop) : Prop :=
  OnlyCore s { t with fins := s.fins } c ∧ t.core c = { s.core c with tileQ := rest } ∧
    ∃ e, t.fins = s.fins ++ [e] ∧ e.id = cmd.id ∧ e.core = c ∧ e.ccnt = cmd.ccnt ∧ e.merge = false ∧ e.flt = none ∧ e.flags = flags ∧ P (s.engineWrites c e.ws)
theorem State.tileRan_finishTile (hq : (s.core c).tileQ = cmd :: rest) {flags : Bits6} {ws : List (Nat × List Byte)} {P : State → Prop}
    (hP : P (s.engineWrites c ws)) : s.TileRan (s.finishTile c cmd flags none ws) c cmd rest flags P := by
  refine ⟨⟨rfl, fun d hd => State.core_finishTile_ne s hd cmd flags none ws⟩, ?_, _, rfl, rfl, rfl, rfl, rfl, rfl, rfl, hP⟩
  rw [State.core_finishTile_same, hq]
  rfl
theorem execTileUnitRun_of_tcvt (hq : (s.core c).tileQ = cmd :: rest) (hw : s.pendingIds c cmd.waits = false) {x y : BitVec 4} (hop : cmd.op = .tcvt x y)
    (hflt : tcvtFlt s cmd.id c cmd.ta cmd.tc = none) {ws : List (Nat × List Byte)} {fl : Bits6}
    (hws : moveWrites cmd.ta cmd.tc (s.engineRd cmd.id c cmd.ta) (s.engineRd cmd.id c cmd.tc 2) = (ws, fl)) (hecc : s.tileStoreEcc c cmd.tc ws = none) :
    exec (.tileUnitRun c) s = .next (s.finishTile c cmd fl none (cmd.tc.cuts ws)) := by
  show execTileUnitRun c s = _
  simp only [execTileUnitRun, hq, hw, hop, hflt, hws, hecc, Bool.false_eq_true, if_false]

/-- What a move of tile A into tile T leaves: nothing outside the destination, its header, and where it converts the elements of a row-major
tile that is not L6 (R141, R144, R146). -/
def State.MoveStands (s : State) (c : Nat) (A T : TReg) (M : Nat) (rd rdd : TileRd) (w : State) : Prop :=
  let E := landing A T M
  PoolKept s w c T.base ((moved A T M).extent (moved A T M).fmt M) ∧ (w.core c).word T.base = E.w0 ∧
    (isVerbatim A T = false → E.colMajor = false → E.fmt ≠ 0 → 16 ≤ E.dataOff → ∀ i j, i < E.rows → j < E.cols →
      (w.core c).num (E.base + E.lineAt i + fmtSize E.fmt 0 * j) (fmtSize E.fmt 0) =
        (Elems.at (convertElems A E rd (T.expo rdd 0 0)) (i * A.cols + j)).1 % 2 ^ (8 * fmtSize E.fmt 0))
theorem State.moveStands_moveWrites {M : Nat} {A T : TReg} {rd rdd : TileRd} (hM : accMode A rd = M) (hsrc : srcOk true A = true)
    (hdst : dstOk true A T = true) (hr : T.rows = A.rows) (hk : T.cols = A.cols) (hline : (moved A T M).lineBytes (moved A T M).fmt M ≤ 16 * T.pitch) :
    s.MoveStands c A T M rd rdd (s.engineWrites c (T.cuts (moveWrites A T rd rdd).1)) := by
  unfold State.MoveStands
  subst hM
  cases hv : isVerbatim A T with
  | true =>
    obtain ⟨hE, hG⟩ := moved_of_verbatim (M := accMode A rd) hv
    have hws : (moveWrites A T rd rdd).1 = verbatimWrites A T rd := by rw [moveWrites, hv]; rfl
    obtain ⟨l, w1, hlist⟩ := verbatimWrites_header (A := A) (T := T) (rd := rd)
    rw [hE, hG, hws]
    refine ⟨poolKept_of_within (fun x hx => verbatimWrites_within hr hk hx) fun _ hw => hw, ?_, nofun⟩
    rw [hlist, TReg.cuts_append, TReg.cuts_header, word_engineWrites_header]
  | false =>
    obtain ⟨hspr, hfmt, hpitch, hr', hk', hbase, hG⟩ := landing_of_converted (M := accMode A rd) hsrc hdst hv
    have hws : (moveWrites A T rd rdd).1 =
        (landing A T (accMode A rd)).writes (landing A T (accMode A rd)).fmt (convertElems A (landing A T (accMode A rd)) rd (T.expo rdd 0 0)) := by
      rw [moveWrites, hv]; rfl
    rw [hG] at hline ⊢
    rw [TReg.lineBytes_of_mode hfmt, ← hpitch] at hline
    rw [hws, TReg.cuts_congr hbase.symm, TReg.extent_of_mode hfmt, ← hbase]
    have hstands := State.tileStands_cuts (s := s) (c := c) hspr hline (convertElems A (landing A T (accMode A rd)) rd (T.expo rdd 0 0))
    refine ⟨hstands.kept, hstands.header.trans setField_bits, fun _ hrow h0 hoff i j hi hj => ?_⟩
    rw [← hk, ← hk']
    exact hstands.elements hrow h0 hoff i j hi hj
theorem answers_tcvtRun (hq : (s.core c).tileQ = cmd :: rest) (hw : s.pendingIds c cmd.waits = false) {x y : BitVec 4} (hop : cmd.op = .tcvt x y)
    (hflt : tcvtFlt s cmd.id c cmd.ta cmd.tc = none)
    (hecc : s.tileStoreEcc c cmd.tc (moveWrites cmd.ta cmd.tc (s.engineRd cmd.id c cmd.ta) (s.engineRd cmd.id c cmd.tc 2)).1 = none) {P : State → Prop}
    (hP : P (s.engineWrites c (cmd.tc.cuts (moveWrites cmd.ta cmd.tc (s.engineRd cmd.id c cmd.ta) (s.engineRd cmd.id c cmd.tc 2)).1))) :
    Answers (.tileUnitRun c) s fun t =>
      s.TileRan t c cmd rest (moveWrites cmd.ta cmd.tc (s.engineRd cmd.id c cmd.ta) (s.engineRd cmd.id c cmd.tc 2)).2 P :=
  answers_exec (execTileUnitRun_of_tcvt hq hw hop hflt rfl hecc) (State.tileRan_finishTile hq hP)

/-- The elements that `AQADD` writes, row by row (R168). -/
def aqElems (A B T : TReg) (rda rdb rdt : TileRd) (g : Nat) : Elems :=
  A.cells.map fun x => aqElem (if A.fmt = 0 then 4 else 8) g T.sat ((A.elem rda 0 x.1 x.2).getD 0) ((B.elem rdb 0 x.1 x.2).getD 0)
    (A.expo rda x.1 x.2) (B.expo rdb x.1 x.2) (T.expo rdt 0 0)
theorem at_aqElems {A B T : TReg} {rda rdb rdt : TileRd} {g i j : Nat} (hi : i < A.rows) (hj : j < A.cols) :
    Elems.at (aqElems A B T rda rdb rdt g) (i * A.cols + j) = aqElem (if A.fmt = 0 then 4 else 8) g T.sat ((A.elem rda 0 i j).getD 0) ((B.elem rdb 0 i j).getD 0)
      (A.expo rda i j) (B.expo rdb i j) (T.expo rdt 0 0) := by
  rw [Elems.at, aqElems, TReg.cells, List.map_flatMap, getD_flatMap_pieces (m := A.cols) (fun x _ => by simp) (by simpa using hi) hj]
  simp [hj]
theorem execTileUnitRun_of_aqadd (hq : (s.core c).tileQ = cmd :: rest) (hw : s.pendingIds c cmd.waits = false) {x y z : BitVec 4} (hop : cmd.op = .aqadd x y z)
    (hA : s.tileEcc c cmd.ta cmd.ta.fmt 0 (List.range cmd.ta.lines) = none) (hB : s.tileEcc c cmd.tb cmd.tb.fmt 0 (List.range cmd.tb.lines) = none)
    (hT : s.scaleEcc c cmd.tc = none) {el : Elems} (hel : aqElems cmd.ta cmd.tb cmd.tc (s.engineRd cmd.id c cmd.ta) (s.engineRd cmd.id c cmd.tb 1)
      (s.engineRd cmd.id c cmd.tc 2) (aqFmt cmd.tc cmd.ta) = el) (hecc : s.tileStoreEcc c cmd.tc (cmd.tc.writes (aqFmt cmd.tc cmd.ta) el) = none) :
    exec (.tileUnitRun c) s = .next (s.finishTile c cmd el.flags none (cmd.tc.cuts (cmd.tc.writes (aqFmt cmd.tc cmd.ta) el))) := by
  subst hel
  show execTileUnitRun c s = _
  unfold aqElems at hecc ⊢
  simp only [execTileUnitRun, hq, hw, hop, hA, hB, hT, Option.or_none, Bool.false_eq_true, if_false, hecc]

end Run

/-- R141, R144, R146, R153, R167, R168: the command at the head of the tile unit's queue converts, moves or adds. -/
theorem theTileUnitConvertsAndAdds : TheTileUnitConvertsAndAdds := by
  intro s c cmd rest k A B T rda rdb rdt ran holds M E G g el sum hq hw
  refine ⟨fun x y hop hsrc hdst hflt hecc => ?tcvt, fun x y z hop hA hB hT hr hk hspr hscl hg hline hecc => ?aqadd⟩
  case tcvt =>
    obtain ⟨hr, hk, hline⟩ := moveShape_ok (moveShape_of_tcvtFlt hflt)
    exact answers_tcvtRun hq hw hop hflt hecc (P := s.MoveStands c A T M rda rdt)
      (State.moveStands_moveWrites rfl hsrc hdst hr hk hline)
  case aqadd =>
    have hstands := State.tileStands_cuts (s := s) (c := c) (T := T) (by rw [hspr]; decide) hline el
    refine answers_exec (execTileUnitRun_of_aqadd hq hw hop hA hB hT rfl hecc) ⟨_, State.tileRan_finishTile hq
      (P := fun t => PoolKept s t c T.base (T.extent g 0) ∧ (t.core c).word T.base = setField T.w0 4 4 g ∧ holds t T g fun i j => (sum i j).1)
      ⟨hstands.kept, hstands.header, fun hrow h0 hoff i j hi hj => ?_⟩⟩
    refine (hstands.elements hrow h0 hoff i j hi hj).trans ?_
    rw [hk]
    exact congrArg (fun e : Nat × Bits6 => e.1 % 2 ^ (8 * fmtSize g 0)) (at_aqElems (hr ▸ hi) (hk ▸ hj))
end Machine
end Sys2Proof
end

section
/-! O43 as it is stated fails: its clause on `MZERO` tests the saturation marks by a number, not by the identity. What the clause means holds
(`answers_mzeroRun`), and so do the other three parts of O43 and the other clauses of this one, as the sections before prove. -/

namespace Sys2Proof
namespace Machine

/-- Core 0 with an `MZERO` of a tile of one element at the head of its queue, in a run that has one command left. -/
def mzeroQueued : State :=
  State.reset.updTt 0 0 fun t => { t with slots := [(0, { queue := [noCmd (.mzero 0)] })], current := some 0, runLimit := 1 }
theorem turnHead_mzeroQueued : mzeroQueued.turnHead 0 0 = some (0, noCmd (.mzero 0)) := by decide +kernel
/-- The number 1 as a test of a Boolean is true of every one. -/
theorem any_one_of_nonempty : [false].any ((1 : Nat) : Bool → Bool) = true := rfl
/-- The `MZERO` leaves one mark, and it is clear (R162). -/
theorem sat_mzeroRun {t : State} (h : exec (.mzeroRun 0 0) mzeroQueued = .next t) : (t.slot 0).sat = [false] := by
  rw [execMzeroRun_of_head turnHead_mzeroQueued rfl] at h
  cases h
  rw [State.slot_finishTurn (c := 0) rfl rfl, State.slot_updSlot_same]
  rfl
/-- In `EngineCommandsRunAndComplete` the name `id` is the number of a completion, which is quantified in front of every clause, so `sat.any id`
reads that number, 1 here, as a test that is true of every mark; the slot after an `MZERO` has a mark. -/
theorem not_engineCommandsRunAndComplete : ¬EngineCommandsRunAndComplete := by
  intro h
  obtain ⟨-, hturn, -⟩ := h mzeroQueued 0 0 0 1 (noCmd (.mzero 0)) { id := 1, core := 0, ctx := 0, flags := 0, ccnt := 0, flt := none, merge := false, turn := none } []
  obtain ⟨hmzero, -⟩ := hturn turnHead_mzeroQueued rfl rfl
  obtain ⟨t, hexec, -, -, -, -, -, -, -, hsat⟩ := hmzero 0 rfl
  rw [sat_mzeroRun hexec, any_one_of_nonempty] at hsat
  cases hsat

/-- Refutes O43: after an `MZERO` the clause `sat.any id = false` of `EngineCommandsRunAndComplete`, whose `id` is the quantified number and not the
identity, fails at `id := 1`. -/
theorem not_engineCommandsAreQueuedRunAndComplete : ¬Obligations.EngineCommandsAreQueuedRunAndComplete :=
  fun ⟨_, _, h, _⟩ => not_engineCommandsRunAndComplete h

end Machine
end Sys2Proof
end
